-- ==== Sys2Proof/Word.lean ====
section
/-!
DEFINITION. The words of the device: bytes, lines, sparse tables. R13 (little-endian), R14 (bit 0 is the least significant
bit), R287 (64-byte lines).
-/
namespace Sys2Proof

/-- A byte. -/
abbrev Byte := BitVec 8
/-- A 64-byte line: byte i in bits [8i + 7:8i] (R13). -/
abbrev Line := BitVec 512
/-- A 32-bit scalar word. -/
abbrev Word := BitVec 32

/-- A sparse table: entries sorted by key, no repeats, no entry equal to what an unlisted key reads as. -/
abbrev Table (α : Type) := List (Nat × α)

end Sys2Proof
end

