-- ==== Sys2Proof/Machine/Types.lean ====
section
/-!
DEFINITION. The plain data that commands carry and the state holds: instruction fields (Table 04.2), requesters, homes, packets,
messages, descriptors. Each type names the table of spec/ it writes down.
-/
namespace Sys2Proof.Machine

/-! ### Core instructions (04) -/

inductive Alu where | add | sub | and | or | xor
  deriving DecidableEq, Repr
inductive Shift where | shl | shr | sra
  deriving DecidableEq, Repr
inductive MinMax where | min | max | minu | maxu
  deriving DecidableEq, Repr
inductive Logic where | and | or | xor
  deriving DecidableEq, Repr
inductive Rel where | eq | ne | lt | ltu
  deriving DecidableEq, Repr
inductive PLogic where | and | or | xor | andn
  deriving DecidableEq, Repr
inductive VArith where | add | sub | mul
  deriving DecidableEq, Repr
inductive VFunc where | rcp | rsq | exp2 | log2
  deriving DecidableEq, Repr
inductive VRel where | eq | lt | le
  deriving DecidableEq, Repr

/-- Format SR (Table 04.2). -/
structure FSR where
  (sd sa sb : BitVec 5) (p : BitVec 3 := 0)
  deriving DecidableEq, Repr
/-- Format SI. -/
structure FSI where
  (sd sa : BitVec 5) (imm : BitVec 16)
  deriving DecidableEq, Repr
/-- Format SC. -/
structure FSC where
  (pd : BitVec 3) (sa sb : BitVec 5) (imm : BitVec 13)
  deriving DecidableEq, Repr
/-- Format SP. -/
structure FSP where
  (pd pa pb : BitVec 3)
  deriving DecidableEq, Repr
/-- Format SB. -/
structure FSB where
  (p : BitVec 3) (pneg rep : Bool) (pair : BitVec 5) (off : BitVec 16)
  deriving DecidableEq, Repr
/-- Format VR. -/
structure FVR where
  (vd va vb vc : BitVec 5) (ty : BitVec 2) (sr : Bool)
  deriving DecidableEq, Repr
/-- Format VC. -/
structure FVC where
  (vd va : BitVec 5) (src dst : BitVec 4) (part : BitVec 2) (sr : Bool) (ss : BitVec 4)
  deriving DecidableEq, Repr
/-- Format VT. -/
structure FVT where
  (v : BitVec 5) (t row fmt : BitVec 4)
  deriving DecidableEq, Repr
/-- Format VS. -/
structure FVS where
  (v s lane : BitVec 5) (ty : BitVec 2)
  deriving DecidableEq, Repr
/-- Format VP. -/
structure FVP where
  (pd : BitVec 3) (va : BitVec 5) (ty : BitVec 2)
  deriving DecidableEq, Repr
/-- Format MM. -/
structure FMM where
  (ta : BitVec 4) (twg : BitVec 2) (amask : BitVec 4) (ksel : BitVec 3)
  deriving DecidableEq, Repr
/-- Format MD. -/
structure FMD where
  (dest acc : BitVec 2) (td fmt : BitVec 4) (sr bs clr : Bool) (soff : BitVec 5)
  deriving DecidableEq, Repr
/-- Format AM. -/
structure FAM where
  (ab : BitVec 4) (sz : BitVec 3) (inc : Bool) (off : BitVec 16)
  deriving DecidableEq, Repr
/-- Format AT. -/
structure FAT where
  (td ab as ac fmt : BitVec 4) (bsh : BitVec 2) (nr : BitVec 4)
  deriving DecidableEq, Repr
/-- Format AR. -/
structure FAR where
  (ad as at_ : BitVec 4)
  deriving DecidableEq, Repr
/-- Format AI. -/
structure FAI where
  (ad as : BitVec 4) (imm : BitVec 18)
  deriving DecidableEq, Repr
/-- Format AB. -/
structure FAB where
  (aa ab : BitVec 4) (cond : BitVec 2) (off : BitVec 16)
  deriving DecidableEq, Repr
/-- Format AX. -/
structure FAX where
  (ab aop : BitVec 4) (ty : BitVec 2) (ret : Bool) (off : BitVec 12)
  deriving DecidableEq, Repr
/-- Format SF. -/
structure FSF where
  (kind : BitVec 2) (flag : BitVec 12) (reg dst : BitVec 5)
  deriving DecidableEq, Repr
/-- Format SX. -/
structure FSX where
  (hint : Bool) (pair : BitVec 5) (off : BitVec 16)
  deriving DecidableEq, Repr

/-- Scalar slot (Table 04.3). -/
inductive ScalarOp where
  | alu (op : Alu) (f : FSR) | shift (op : Shift) (f : FSR) | mul (f : FSR) | minmax (op : MinMax) (f : FSR)
  | addi (f : FSI) | logi (op : Logic) (f : FSI) | shifti (op : Shift) (f : FSI) | lui (f : FSI)
  | cmp (op : Rel) (f : FSC) | cmpi (op : Rel) (f : FSC) | plog (op : PLogic) (f : FSP) | pnot (f : FSP)
  | sel (f : FSR) | lqs (f : FSR) | sqs (f : FSR) | srseed (f : FSR) | getid (f : FSI)
  | bc (f : FSB) | jmp (f : FSB)
  deriving DecidableEq, Repr

/-- Vector slot (Table 04.9). -/
inductive VectorOp where
  | arith (op : VArith) (f : FVR) | fma (f : FVR) | fms (f : FVR) | minmax (mx : Bool) (f : FVR)
  | absneg (neg : Bool) (f : FVR) | sqrt (f : FVR) | func (op : VFunc) (f : FVR) | bitw (op : Logic) (f : FVR)
  | shift (op : Shift) (f : FVR) | cmp (op : VRel) (f : FVR) | sel (f : FVR) | redsum (f : FVR) | redmax (f : FVR)
  | any (f : FVP) | cvt (f : FVC) | cvtbs (f : FVC) | cvtbd (f : FVC) | cvtbb (f : FVC)
  | lqv (f : FVR) | sqv (f : FVR) | bcast (f : FVS) | movs (f : FVS) | vtr (f : FVT) | vtw (f : FVT)
  deriving DecidableEq, Repr

/-- Matrix slot (Table 04.11). -/
inductive MatrixOp where
  | mmul (f : FMM) | mdrain (f : FMD) | mzero (mask : BitVec 8) | mswap | trel (mask : BitVec 16)
  deriving DecidableEq, Repr

/-- Access slot (Table 04.13). -/
inductive AccessOp where
  | ld (f : FAM) | st (f : FAM) | pf (f : FAM) | mload (f : FAT) | mloadt (f : FAT) | amo (f : FAX)
  | addsub (sub : Bool) (f : FAR) | addai (f : FAI) | shla (f : FAI) | mulai (f : FAI) | lia (f : FAI)
  | bra (f : FAB) | jmpa (f : FAB)
  deriving DecidableEq, Repr

/-- Sync slot (Table 04.15). -/
inductive SyncOp where
  | set (f : FSF) | clr (f : FSF) | waitc (f : FSF) | test (f : FSF) | brx (f : FSX) | stop (id : BitVec 16) | end_
  deriving DecidableEq, Repr

/-- A decoded bundle (Table 04.1): the guard and one operation for each slot present. -/
structure Bundle where
  gen : Bool := false
  gpred : BitVec 3 := 0
  gneg : Bool := false
  scalar : Option ScalarOp := none
  vector : Option VectorOp := none
  matrix : Option MatrixOp := none
  access : Option AccessOp := none
  sync : Option SyncOp := none
  deriving DecidableEq, Repr

/-- Fault causes of Table 04.17, in code order. -/
inductive Cause where
  | slotStream | length | opcode | field | writeConflict | twoBranch | regAlign | numFormat | operandPair | flagKind
  | fetchBounds | address | wgbOffset | shape | page | absentCore | flagOver | flagUnder
  deriving DecidableEq, Repr

/-- Status codes of Table 14.7a. -/
inductive Status where
  | ok | partial_ | frozenSkip | poisonSkip | range | alias_ | format | shape | absent | page | flagOver | flagUnder | stall
  | dataDropped | auth | powerRefused
  deriving DecidableEq, Repr

/-- Why an engine is held at its bundle: the waits of R506 and the holds counted in Tables 03.6 and 05.7. -/
inductive Hold where
  | none | waitc | lq | sq | pair | tile (t : Nat) | brxDepth | uncommitted | lqFull | slotsFull | sqHazard | mqFull | bankList
  | report | tokens | stores | sqFull | fetch
  deriving DecidableEq, Repr

/-- The run state of an engine (R97, R189, R191, R197, R135, R508). -/
inductive EngState where
  | idle | running | stopped (id : BitVec 16) | ended | faulted | pageFault | stalled
  deriving DecidableEq, Repr

/-! ### Memory and placement (07, 08) -/

/-- A home (R284): a slot of a core's local store, a half of a home way of a slice, or a stack position. -/
inductive Home where
  | unmapped | ls (core slot : Nat) | carafe (slice way half : Nat) | stack (s : Nat)
  deriving DecidableEq, Repr

/-- Affinity (Table 08.3). -/
inductive Affinity where | spread | quadrant (q : Nat) | cores (first count : Nat)
  deriving DecidableEq, Repr

/-- A directory entry (Table 08.1). -/
structure DirEntry where
  home : Home := .unmapped
  mig : Bool := false
  target : Home := .unmapped
  tiers : BitVec 3 := 0
  aff : Affinity := .spread
  na : Bool := false
  cmp : Bool := false
  w4 : Bool := false
  pin : Bool := false
  fixer : Bool := false
  rows : BitVec 24 := 0
  mov : Bool := false
  q : Vector (BitVec 4) 4 := Vector.replicate 4 0
  deriving DecidableEq, Repr

/-- Who asks the directory: a core, or the cache that the mover and the CXL.mem window share (R342). -/
inductive Requester where | core (c : Nat) | mover
  deriving DecidableEq, Repr

/-- A translation cache entry (R342). -/
structure TcEntry where
  (block : Nat) (home : Home) (na : Bool)
  deriving DecidableEq, Repr

/-- The access kinds a slice serves (R309, R310). -/
inductive AccKind where | read | write | atomic | runAhead | mover (write : Bool)
  deriving DecidableEq, Repr

/-- What the check code finds on a line (R289, R290). -/
inductive ErrClass where | clean | correctable | uncorrectable
  deriving DecidableEq, Repr

/-- What a channel read is and finds: whether it is a core's or the mover's, which waits at the channel and holds a bank place (R299), and what
the check code says of its line (R289). -/
structure ChanRead where
  placed : Bool
  err : ErrClass
  deriving DecidableEq, Repr

/-- Whether a channel write is one of the channel's queue, which holds a bank place (R299), and the bytes of its line that it writes (R287). -/
structure ChanWrite where
  placed : Bool
  mask : BitVec 64
  deriving DecidableEq, Repr

/-- What training finds of a port's lanes: how many lock, which are inverted, and whether their order is reversed (R519, R658). -/
structure LaneFinding where
  width : Nat
  polarity : BitVec 8
  reversed : Bool
  deriving DecidableEq, Repr

inductive ChState where | inService | draining | mappedOut
  deriving DecidableEq, Repr

/-- Who takes bank places (R294, R299); a transfer of the mover is a read or a write of its line at the channel. -/
inductive BankUser where | core (c : Nat) | mover (write : Bool) | writeBack
  deriving DecidableEq, Repr

/-- One bank's credits (R294 to R298): requests accepted, grants on their way, and refusals not yet granted, oldest first. -/
structure Bank where
  accepted : Nat := 0
  granted : List BankUser := []
  refused : List BankUser := []
  deriving DecidableEq, Repr

/-- One channel (R288, R291, R300): `wq` write bursts in its queue of 64 or waiting before it, `rq` reads that wait, whether it serves a batch of writes, the direction it was last driven in,
its banks, the open row of each (a row holds one 2 KiB chunk), and the bank refreshed last. -/
structure Chan where
  st : ChState := .inService
  wq : Nat := 0
  rq : Nat := 0
  batch : Bool := false
  dirW : Bool := false
  banks : Table Bank := []
  openRow : Table Nat := []
  refreshed : Nat := 0
  shareOut : Bool := false
  deriving DecidableEq, Repr

/-- A line of a cache partition set, most recently used first (R309). -/
structure CLine where
  (line : Nat) (dirty : Bool)
  deriving DecidableEq, Repr

/-- Why a move was asked for. -/
inductive MoveCause where | cmd (ring slot : Nat) | planner | drain
  deriving DecidableEq, Repr

/-- A write or atomic held at its home during COPY: the request keeps its slot and its data (R357). -/
structure HeldWrite where
  (core req : Nat)
  deriving DecidableEq, Repr

/-- A home with, in a stack, the channel and the block index q that its home table gives (R288, R340). -/
structure Place where
  (home : Home) (ch q : Nat)
  deriving DecidableEq, Repr

/-- A move in progress (R356): `copy` true in COPY, false in FORWARD, where it is the tombstone at `src`. `invals` are the
invalidations not acknowledged yet, `acks` the acknowledgements on their way. -/
structure Move where
  (block : Nat) (src dst : Place) (cause : MoveCause) (copy : Bool) (held : List HeldWrite) (invals acks : List Requester)
  deriving DecidableEq, Repr

/-- A move that waits for a place (R363); `unmap` leaves no home (R362), `tier` is the tier its command chose (R348), `quad` the planner's
quadrant (R364), `stack` the stack of a Fixer group's shard (R436). -/
structure WaitMove where
  (block : Nat) (cause : MoveCause) (unmap : Bool) (tier quad : Option Nat) (stack : Option Nat := none)
  deriving DecidableEq, Repr

/-- A directory request on the C-net (R343). -/
structure DirReq where
  (who : Requester) (block : Nat) (demand : Bool)
  deriving DecidableEq, Repr

/-- What the agent answers (R343). -/
inductive DirAnswer where | unmapped | migrating | entry (home : Home) (na : Bool)
  deriving DecidableEq, Repr

/-! ### Flags (11) -/

/-- Flag operations; `write` is OP 2 of FLAG_SET (R498). -/
inductive FOp where | set | clr | write (v : Bool)
  deriving DecidableEq, Repr

/-- A local flag: a core flag or a chip flag (Table 11.1). -/
inductive FlagRef where | core (c i : Nat) | chip (i : Nat)
  deriving DecidableEq, Repr

/-- Who issues a flag operation, in the order of R479. -/
inductive FIssuer where
  | engine (c : Nat) (x : Bool) | ring (r slot : Nat) | remote (src seq : Nat) | tstrip
  deriving DecidableEq, Repr

/-- A posted operation on its way to a local holder (R484); `addr` is the issuing bundle; `late` that it was held through C3 (R477). -/
structure FlagMsg where
  (who : FIssuer) (flag : FlagRef) (op : FOp) (addr : Nat) (late : Bool := false)
  deriving DecidableEq, Repr

/-- A WAITC at its holder (R478, R480). -/
structure Waiter where
  (who : FIssuer) (flag : FlagRef)
  deriving DecidableEq, Repr

/-- A remote operation issued here and not acknowledged (R500 to R503): its path, whether it has been sent, whether firmware resends
it after its route failed, and the route it went on, as its port and hops; `tried` that it has been sent at some time, `fwTx` over the firmware path (R515). -/
structure RemoteOp where
  (dst seq : Nat) (sel : Word) (op : FOp) (who : FIssuer) (addr : Nat) (fw sent resend : Bool) (port : Nat := 0) (hops : List Nat := []) (tried fwTx : Bool := false)
  deriving DecidableEq, Repr

/-! ### Fabric (12) and messages (15) -/

/-- Window messages (Table 12.8, R553 to R563, R578). -/
inductive WinMsg where
  | ready (slot inst rank : Nat) (crc : Word) | close (slot inst reason : Nat) (set : List Nat)
  | done (slot inst rank : Nat) | mismatch (slot inst : Nat) | hold (slot inst : Nat) (awaited : List Nat)
  | extend (slot inst rank req : Nat)
  deriving DecidableEq, Repr

/-- One REPORT (R665), with whether each of its two signatures verifies. -/
structure Report where
  (serial : BitVec 128) (pos devnum iodies : Nat) (up : BitVec 32) (nonce : BitVec 256) (epoch : Nat)
  (partnerNonces : List (Nat × BitVec 256)) (kind : Bool) (ecdsaOk lmsOk : Bool)
  deriving DecidableEq, Repr

/-- A roster record (Table 15.5). -/
structure RosterRec where
  (pos number state ports : Nat) (up : BitVec 32)
  deriving DecidableEq, Repr

/-- A roster (R668). -/
structure Roster where
  (epoch coord : Nat) (recs : List RosterRec) (signer : BitVec 128) (kind : Bool) (ecdsaOk lmsOk : Bool)
  deriving DecidableEq, Repr

/-- Firmware messages of bring-up (15). -/
inductive CtrlMsg where
  | claim (k dev : Nat) | gather (nonce : BitVec 256) (epoch : Nat) | report (r : Report) | roster (r : Roster)
  | readyNote (dev : Nat) | linkNote (dev : Nat) (up : BitVec 32)
  deriving DecidableEq, Repr

/-- The identity of a segment (R544). -/
structure SegKey where
  (src segid block : Nat)
  deriving DecidableEq, Repr

/-- Packet bodies (Table 12.8). -/
inductive Payload where
  | null
  | flagOp (sel : Word) (op : FOp) | flagAck (st : Status)
  | ctrl (m : CtrlMsg)
  | segAck (k : SegKey) (dropped : Nat) | segAbort (k : SegKey) (lines : List Nat)
  | window (m : WinMsg)
  | redData (slot inst seg chunk off : Nat) (total : Option Nat) (isResult : Bool) (bits : List (BitVec 32)) (scales poison : List Nat)
  | write (group segid : Nat) (mask pmask : BitVec 16) (last : Option Nat) (lines : List Line)
  | readReq (group : Nat) (mask : BitVec 16) (tag : Nat)
  | readData (group tag : Nat) (mask pmask : BitVec 16) (lines : List Line)
  deriving DecidableEq, Repr

/-- A packet (Table 12.7). `bad` is true when the TYPE or a reserved field is not as Table 12.7 and 12.8 have it (R533). -/
structure Packet where
  (vc : BitVec 2) (hops hidx dst src : Nat) (route : List Nat) (tseq : Nat) (len : Nat) (body : Payload) (bad : Bool := false)
  deriving DecidableEq, Repr

/-- Bytes `off` to `off + n - 1` of a packet, its header first; a NULL packet and the padding after it are one part (R522). -/
structure Part where
  (pkt : Packet) (off n : Nat)
  deriving DecidableEq, Repr

/-- A sub-flit (Table 12.4): its virtual channel and the parts of packets in its payload, in order (R522). -/
structure SubFlit where
  (idle : Bool) (vc : BitVec 2) (parts : List Part)
  deriving DecidableEq, Repr

/-- A flit (Tables 12.2, 12.3). -/
structure Flit where
  (seq ack : BitVec 12) (ctrl nak : Bool) (crvc : BitVec 2) (crcnt : BitVec 4) (subs : List SubFlit)
  deriving DecidableEq, Repr

/-- What the receiver finds (R518, R524): symbol errors of codewords, as lane, number of the codeword on the lane and errors (none listed:
no error), and whether the CRC of the bytes that arrived matches. -/
structure RxCheck where
  (words : List (Nat × Nat × Nat)) (crcOk : Bool)
  deriving DecidableEq, Repr

inductive PortState where | down | training | up | recovery
  deriving DecidableEq, Repr

/-- The partner an identity frame names (R658). -/
inductive Partner where
  | none | t1 (serial : BitVec 128) (pos : Nat) | switch (plane leaf port : Nat) | other
  deriving DecidableEq, Repr

/-- A flit in the retry buffer with its resend count (R525). -/
structure RetryFlit where
  (f : Flit) (resends : Nat)
  deriving DecidableEq, Repr

/-- An identity frame's own fields: serial number, position and nonce (R658). -/
structure IdFrame where
  (serial : BitVec 128) (pos : Nat) (nonce : BitVec 256)
  deriving DecidableEq, Repr

/-- A fabric port (R516 to R531, Table 12.16). `owed` are credits to return, `withheld` those kept back (R531), `queue` packets with the
bytes of each left to send, `resend` how many flits at the end of the retry buffer are to be resent, `last` the flit sent last, `sinceCtrl` flits
sent since the last 128th (R523). `polarity` and `reversed` are what training has found and the port corrects (R519); `rxFlits` counts flits
received since the lanes locked, `rxWords` the codewords decoded that a flit to come may have bytes in (R518); `frame` is the identity frame that this side has sent (R658); `rxHeld` are the packets in its
receive buffers and the sub-flits of each, `rxPart` the sub-flits of packets still arriving (R528). -/
structure Port where
  st : PortState := .down
  width : Nat := 0
  laneFail : BitVec 8 := 0
  partner : Partner := .none
  recorded : Partner := .none
  partnerDev : Nat := 0
  partnerSw : Bool := false
  heldDown : Bool := false
  locked : Bool := false
  myNonce : BitVec 256 := 0
  frame : Option IdFrame := none
  peerNonce : BitVec 256 := 0
  txSeq : BitVec 12 := 0
  rxSeq : BitVec 12 := 0
  nakSent : Bool := false
  nakDue : Bool := false
  retry : List RetryFlit := []
  resend : Nat := 0
  credits : Vector Nat 4 := #v[64, 256, 4096, 4096]
  owed : Vector Nat 4 := Vector.replicate 4 0
  withheld : Vector Nat 4 := Vector.replicate 4 0
  queue : Vector (List (Packet × Nat)) 4 := Vector.replicate 4 []
  last : Option Flit := none
  sinceCtrl : Nat := 0
  sinceVc1 : Nat := 8
  rr2 : Nat := 0
  rr3 : Nat := 0
  polarity : BitVec 8 := 0
  reversed : Bool := false
  rxFlits : Nat := 0
  rxWords : List (Nat × Nat × Nat) := []
  rxHeld : List (Packet × Nat) := []
  rxPart : Vector Nat 4 := Vector.replicate 4 0
  deriving DecidableEq, Repr

/-! ### Commands (14) -/

/-- Where a command stands: held at its wait selector, ready to do its work, at work, or done with a status and INFO. -/
inductive CmdPhase where | held | ready | busy (n : Nat) | done (st : Status) (info : BitVec 64)
  deriving DecidableEq, Repr

/-- A command in progress (R629), with the step number at its logging point (R329); `lost` and `pois` say that data it moves was lost in
transit or poisoned; `map` is the work map of a LAUNCH. -/
structure Cmd where
  (ring slot : Nat) (desc : Line) (phase : CmdPhase) (order : Nat) (logged : Bool) (replayed : Bool) (step : Nat := 0)
  (lost pois : Bool := false) (map : List Nat := [])
  deriving DecidableEq, Repr

inductive RingState where | disabled | running | draining | error
  deriving DecidableEq, Repr

/-- A command ring (Tables 14.8, 14.9). -/
structure Ring where
  st : RingState := .disabled
  err : Nat := 0
  ci : Nat := 0
  cg : Bool := false
  cplPi : Nat := 0
  phase : Bool := false
  descBase : Nat := 0
  cplBase : Nat := 0
  dbAddr : Nat := 0
  w3 : BitVec 64 := 0
  dbHeld : Bool := false
  todo : Nat := 0
  /-- CLK_A cycles for which the ring has been waiting (R506, Table 11.5) -/
  waited : Nat := 0
  fetch : Nat := 0
  restart : Bool := false
  deriving DecidableEq, Repr

/-- A WGB view (Table 06.3). -/
structure WgbView where
  (cores : List Nat) (tile rowsM1 colsM1 : Nat) (orient : Bool) (mode : Nat) (sr pin : Bool) (mult : Word) (partial_ : Nat)
  (reserved : Bool)
  deriving DecidableEq, Repr

/-! ### Tensors and moves (09) -/

/-- A tensor descriptor (Tables 09.1, 09.2); sizes and strides have six entries, 1 and 0 from RANK on (R381). -/
structure TD where
  (addr saddr fmt rank bsh space dev : Nat) (sizes : List Nat) (strides sstr : List Int)
  deriving DecidableEq, Repr

/-- One element that a command copies: destination index, source and source index. -/
structure Copy where
  (di : List Nat) (src : TD) (si : List Nat)
  deriving DecidableEq, Repr

/-- Free stack places that a command which passed its checks holds until it completes (R773): the blocks it will map. -/
structure RoomKeep where
  (ring slot : Nat) (blocks : List Nat)
  deriving DecidableEq, Repr

/-- A slice that goes narrow if its block is homed in a stack when it moves (R416): its address, whether it is written, whether it has fewer
than 64 bytes, and the aligned 8-byte units of its scales. -/
structure Narrow where
  (addr : Nat) (write small : Bool) (scales : List Nat)
  deriving DecidableEq, Repr

/-- A mover command that passed its checks (R378): its slices that may go narrow (R416), its extents in the device range (R419), the bytes of
lists and indices it read, and those of its structures that lie in host memory. -/
structure MoveJob where
  (ring slot : Nat) (dst : TD) (copies : List Copy) (pads : List (List Nat)) (red lossy sr : Bool) (padBits padScale : Nat)
  (narrow : List Narrow) (exts : List (Nat × Nat)) (lists hostLists : Nat)
  deriving DecidableEq, Repr

/-- What a command keeps of what it read as it started (R378, R437, R469): a descriptor or record by its pointer, its group's schedule words, or
its indices, 32 bits each. -/
inductive SnapKey where | desc (ptr : Nat) | sched | idx
  deriving DecidableEq, Repr
structure Snap where
  (ring slot : Nat) (key : SnapKey) (raw : Nat)
  deriving DecidableEq, Repr

/-! ### Remote data (12) -/

/-- Who owns a segment: a command, or the run of a collective slot. -/
inductive SegOwner where | cmd (ring slot : Nat) | red (slot : Nat)
  deriving DecidableEq, Repr

/-- A segment sent and not acknowledged (R544 to R546): its line map within the block, its packets, and the port they went out on; none while no
route is usable. -/
structure OutSeg where
  (key : SegKey) (dst : Nat) (owner : SegOwner) (vc : BitVec 2) (lines : List Nat) (bodies : List (Payload × Nat)) (aborted : Bool)
  (port : Option Nat := none)
  deriving DecidableEq, Repr

/-- A segment being received (R544): lines received, lines that could not be mapped, and the END count. -/
structure InSeg where
  (key : SegKey) (got dropped : List Nat) (total : Option Nat)
  deriving DecidableEq, Repr

/-- A remote read of one group of 16 lines (R547), with the lines that have come back; `lost` are those given up. -/
structure ReadOut where
  (dev group tag : Nat) (mask : BitVec 16) (ring slot : Nat) (sent : Bool) (got : List (Nat × Line × Bool)) (lost : List Nat := [])
  deriving DecidableEq, Repr

/-! ### Collectives (12) -/

/-- Elements of a chunk received: a contribution as FP32 values, or a result as element codes with its block scales. `poison` lists
poisoned element positions of the chunk. -/
structure RedPart where
  (inst src chunk off : Nat) (result : Bool) (bits : List (BitVec 32)) (scales poison : List Nat)
  deriving DecidableEq, Repr

/-- CLOSE: the instance, the reason and the contribution set (R554). -/
structure CloseMsg where
  (inst reason : Nat) (set : List Nat)
  deriving DecidableEq, Repr

/-- A RUN in progress (R553 to R558). `contrib` is the drained view, as FP32 values and poisoned positions; `handled` that its contribution
has been sent or handled as late; `folded` the deferrals folded into it; `awaited` the map of the last HOLD received. -/
structure RedRun where
  (ring slot inst : Nat) (src : Option TD) (contrib : Option (List (BitVec 32) × List Nat)) (handled : Bool) (folded : Nat)
  (awaited : List Nat := [])
  deriving DecidableEq, Repr

/-- Window states (Table 12.13); CLOSED passes within the step that sends CLOSE. -/
inductive WinState where | hold | idle | open_
  deriving DecidableEq, Repr

/-- A collective slot (R549 to R564). `exp` is the INSTANCE expected next; `close` the last CLOSE received; `gone` the contributions given
up (R582), `given` the result chunks given up; of the current instance, `lostLines` are the lines zeroed for loss, `poisonBlocks` the first
elements of the result blocks poisoned, `lost` that data was lost in another way, and `extSent` the instances whose EXTEND has gone. The rest is the leader's window:
its state and instance, the ranks whose READY it has kept or counted, those whose DONE of the instance before it has (`early` of this one), the grant of
extensions, every CLOSE sent, and the instance before which instances are replayed (R601). -/
structure Slot where
  defined : Bool := false
  failed : Bool := false
  record : BitVec 512 := 0
  members : List Nat := []
  dst : Option TD := none
  exp : Nat := 0
  lateValid : Bool := false
  deferrals : Nat := 0
  run : Option RedRun := none
  close : Option CloseMsg := none
  recv : List RedPart := []
  summed : Option Nat := none
  gone : List Nat := []
  given : List Nat := []
  lostLines : Nat := 0
  poisonBlocks : List Nat := []
  lost : Bool := false
  extSent : List Nat := []
  win : WinState := .idle
  winInst : Nat := 0
  ready : List Nat := []
  doneFrom : List Nat := []
  early : List Nat := []
  grant : Nat := 0
  due : Bool := false
  closes : List CloseMsg := []
  replayTo : Nat := 0
  deriving DecidableEq, Repr

/-! ### Steps, log and replay (13) -/

/-- The snapshot of a segment header (R574). -/
structure Snapshot where
  (step : Nat) (tg : Table Nat) (slots : Table (Nat × Bool)) (mean var samples : Nat) (cf : BitVec 4096) (flags : Table (BitVec 256))
  deriving DecidableEq, Repr

/-- A segment of the command log (R573 to R576): the commands with the ring each started on. -/
structure LogSeg where
  (step : Nat) (cmds : List (Line × Nat)) (overflow noreplay : Bool) (snap : Snapshot)
  deriving DecidableEq, Repr

/-- A REPLAY in progress (R600): the commands still to start with their ring and logged position, the first status other than OK with its
position, and how many have started. -/
structure ReplaySt where
  (ring slot last : Nat) (todo : List (Line × Nat × Nat)) (bad : Option (Status × Nat)) (started : Nat)
  deriving DecidableEq, Repr

/-- A Contact sheet being written (R593 to R596): its SEQ and BYTES, its header lines, which go to the buddy last, and whether a line was
carried poisoned. -/
structure SheetJob where
  (ring slot seq bytes : Nat) (hdr : List (Nat × Line × Bool)) (pois : Bool)
  deriving DecidableEq, Repr

/-! ### Resilience (13), security (16), power (17), module (18) -/

/-- A firmware image: what the checks of R681 find of it (header well formed and block inside the slot, each signature), SVN and BUILD, and its
bytes (Table 16.2), none for the image of manufacture (log 59). -/
structure Image where
  (hdrOk ecdsaOk lmsOk : Bool) (svn build : Nat) (bytes : List Nat := [])
  deriving DecidableEq, Repr

/-- The keys of an identity (R686): the ECDSA private key, and seed and identifier of the HSS key, 32 and 16 bytes. -/
structure IdKeys where
  (ecdsa : Nat) (hss : List Nat)
  deriving DecidableEq, Repr

/-- An LMS public key: identifier and root, 16 and 32 bytes in order. -/
structure LmsKey where
  (id root : List Nat)
  deriving DecidableEq, Repr
/-- The public keys of an authority (R678): the P-384 point and the LMS key. -/
structure AuthKey where
  (x y : Nat) (lms : LmsKey)
  deriving DecidableEq, Repr

/-- A system table entry (Table 15.4). -/
structure SysEntry where
  (serial : BitVec 128) (pos devnum : Nat) (spare : Bool)
  deriving DecidableEq, Repr

/-- A system table (Table 15.3). `wellFormed` says VERSION, TCRC and the reserved fields are as R654 asks. -/
structure SysTab where
  (wellFormed : Bool) (topo : Nat) (auto_ reachLr : Bool) (d u s : Nat) (cands : List (Option Nat)) (electMs gatherMs : Nat)
  (entries : List SysEntry)
  deriving DecidableEq, Repr

/-- One HSS journal (R689 to R691): its entries that are not erased, by position, each as the number of its 16 bytes; the half in use, and how
many of its positions are taken; the next index when a valid entry exists; and how many further stores will fail. -/
structure Journal where
  next : Option Nat := none
  used : Nat := 0
  badStores : Nat := 0
  half : Bool := false
  cells : List (Nat × Nat) := []
  deriving DecidableEq, Repr

/-- What P2 finds (R651): channels that fail link training (32 × stack + channel), array rows and columns that fail (core, array, column,
index), and cores whose local store fails. -/
structure SelfTest where
  (chans : List Nat) (lines : List (Nat × Nat × Bool × Nat)) (stores : List Nat)
  deriving DecidableEq, Repr

/-- A block's answer to the power controller (R719, R722). -/
inductive PwrAnswer where | ack | delay (n : Nat) | refuse (reason : Nat)
  deriving DecidableEq, Repr

/-- Wake events (R728). -/
inductive WakeEv where | doorbell | cxlMem | flagOp | packet | heldWork
  deriving DecidableEq, Repr

/-- Why the rails are removed (R716). -/
inductive OffCause where | undervoltage | over110 | over105
  deriving DecidableEq, Repr

/-- The measurements (Table 16.6). -/
structure Meas where
  (rom image : List Nat) (slot svn fuses : Nat) (debugOpened eraseStarted kind : Bool) (grade nStacks iodies top : Nat) (serial : BitVec 128)
  (part : List Nat)
  deriving DecidableEq, Repr

/-- Capabilities and algorithms of the responder (Table 16.5). -/
inductive SpdmCap where | cert | chal | measSigned | keyEx | encrypt | mac
  deriving DecidableEq, Repr
inductive SpdmAlg where | ecdsaP384 | sha384 | dheSecp384r1 | aes256Gcm | measSha384
  deriving DecidableEq, Repr

/-- An SPDM request that names a certificate slot: its nonce, or whether signed measurements are asked. -/
structure SlotNonce where
  (slot : Nat) (nonce : BitVec 256)
  deriving DecidableEq, Repr
structure SlotSigned where
  (slot : Nat) (signed : Bool)
  deriving DecidableEq, Repr
structure SlotOffset where
  (slot offset : Nat)
  deriving DecidableEq, Repr

/-- The two signatures of a response (R695): the index and the bytes of the HSS signature, and the ECDSA signature. -/
structure SignPair where
  (index : Nat) (hss ecdsa : List Nat)
  deriving DecidableEq, Repr

/-- SPDM responses (Tables 16.5 to 16.7). `kind` is the KIND of the identity in use, `sig` the ECDSA signature; `vendor` carries the PCI-SIG
identifier, the vendor ID and the payload from byte 0 on. -/
inductive SpdmResp where
  | error | version (versions : List Nat) | capabilities (l : List SpdmCap) | algorithms (l : List SpdmAlg)
  | digests (kind : Bool) (digest : List Nat) | certificate (kind : Bool) (bytes : List Nat) (remainder : Nat)
  | challengeAuth (nonce : BitVec 256) (kind : Bool) (sig : List Nat) (m : Meas)
  | measurements (sig : Option (List Nat)) (kind : Bool) (m : Meas)
  | keyExchangeRsp (nonce : BitVec 256) (kind : Bool) (sig : List Nat) (m : Meas)
  | finishRsp | endSessionAck | vendor (body vid : Nat) (payload : List Nat) | ideAck
  deriving DecidableEq, Repr

/-- Responses the device gives outside: the last one given. -/
inductive Resp where
  | none
  | hdm (addr : Nat) (data : Line) (poison : Bool)
  | smbus (bytes : List Nat)
  | tap (bits : Nat) (value : Nat)
  | boundary (extest : Bool) (bits : Nat)
  | zdp (value : Nat)
  | cfg (retry : Bool) (data : Word)
  | unsupported
  | spdm (r : SpdmResp)
  | atsDone (tag : Nat)
  deriving DecidableEq, Repr

/-- An IDE_KM message (R697). -/
inductive IdeMsg where | program (cxl : Bool) (key : BitVec 256) | go (cxl : Bool) | stop (cxl : Bool)
  deriving DecidableEq, Repr

/-- The ZDP targets (Table 16.9). -/
inductive ZdpTarget where | mgmt | ringCp (r : Nat) | core (c : Nat) | range
  deriving DecidableEq, Repr

/-- The debug operations on a target (Table 16.9): halt, step, breakpoint, read, write, resume. -/
inductive ZdpOp where | halt | step | breakpoint | read | write | resume
  deriving DecidableEq, Repr

/-- What an ADDRESS of ZDP_CMD names in its target (Table 16.9); the spec gives no encoding of it (log 60). -/
inductive ZdpAddr where
  | unit | line (l : Nat) | s (i : BitVec 5) | p | a (i : BitVec 4) | v (i : BitVec 5) | tile (t row : Nat) | tileState (t : Nat)
  | flag (i : Nat) | register (n : Nat) | bar0 (off : Nat) | nor (addr : Nat) | ring
  deriving DecidableEq, Repr

/-- What an atomic comes from: a core's AMO request, or a masked add of a mover reduction (R401). -/
inductive AtomSrc where
  | core (c req : Nat)
  | mover (line : Nat) (ty : BitVec 2) (mask : BitVec 32) (data : Line)
  deriving DecidableEq, Repr

end Sys2Proof.Machine
end

