-- ==== Sys2Proof/Syntax.lean ====
section
/-!
DEFINITION. The commands of the block: one constructor for each row of spec/opcode_table.json. `c` is a logical core, `x` true for the
execute engine, `ring` and `slot` name a command in progress by its ring and slot index. A core-instruction row is the issue of a
bundle that holds that one slot, without a guard, at the engine's program counter; BUNDLE_ISSUE fetches whole bundles from the
program store. Event rows carry as operands the facts that the model cannot know: what arrived, what a sensor or a check code says.
-/
namespace Sys2Proof

open Sys2Proof.Machine

/-- The commands. Each docstring gives the row's mnemonic and its rule. -/
inductive Instr where
  /-- BUNDLE_ISSUE (R155) -/
  | bundleIssue (c : Nat) (x : Bool)
  /-- ADD_SUB_AND_OR_XOR (R159) -/
  | addSubAndOrXor (c : Nat) (op : Alu) (f : FSR)
  /-- SHL_SHR_SRA (R159) -/
  | shlShrSra (c : Nat) (op : Shift) (f : FSR)
  /-- MUL (R159) -/
  | mul (c : Nat) (f : FSR)
  /-- MIN_MAX_MINU_MAXU (R159) -/
  | minMaxMinuMaxu (c : Nat) (op : MinMax) (f : FSR)
  /-- ADDI (R159) -/
  | addi (c : Nat) (f : FSI)
  /-- ANDI_ORI_XORI (R157) -/
  | andiOriXori (c : Nat) (op : Logic) (f : FSI)
  /-- SHLI_SHRI_SRAI (R159) -/
  | shliShriSrai (c : Nat) (op : Shift) (f : FSI)
  /-- LUI (R159) -/
  | lui (c : Nat) (f : FSI)
  /-- CMPEQ_CMPNE_CMPLT_CMPLTU (R159) -/
  | cmpReg (c : Nat) (op : Rel) (f : FSC)
  /-- CMPEQI_CMPNEI_CMPLTI_CMPLTUI (R159) -/
  | cmpImm (c : Nat) (op : Rel) (f : FSC)
  /-- PAND_POR_PXOR_PANDN (R159) -/
  | plogic (c : Nat) (op : PLogic) (f : FSP)
  /-- PNOT (R159) -/
  | pnot (c : Nat) (f : FSP)
  /-- SEL (R159) -/
  | sel (c : Nat) (f : FSR)
  /-- LQS (R102) -/
  | lqs (c : Nat) (f : FSR)
  /-- SQS (R107) -/
  | sqs (c : Nat) (f : FSR)
  /-- SRSEED (R161) -/
  | srseed (c : Nat) (f : FSR)
  /-- GETID (R159) -/
  | getid (c : Nat) (f : FSI)
  /-- BC (R160) -/
  | bc (c : Nat) (f : FSB)
  /-- JMP (R160) -/
  | jmp (c : Nat) (f : FSB)
  /-- VADD_VSUB_VMUL (R92) -/
  | vaddVsubVmul (c : Nat) (op : VArith) (f : FVR)
  /-- VFMA (R92) -/
  | vfma (c : Nat) (f : FVR)
  /-- VFMS (R159) -/
  | vfms (c : Nat) (f : FVR)
  /-- VMIN_VMAX (R159) -/
  | vminVmax (c : Nat) (mx : Bool) (f : FVR)
  /-- VABS_VNEG (R159) -/
  | vabsVneg (c : Nat) (neg : Bool) (f : FVR)
  /-- VSQRT (R159) -/
  | vsqrt (c : Nat) (f : FVR)
  /-- VRCP_VRSQ_VEXP2_VLOG2 (R164) -/
  | vfunc (c : Nat) (op : VFunc) (f : FVR)
  /-- VAND_VOR_VXOR (R159) -/
  | vlogic (c : Nat) (op : Logic) (f : FVR)
  /-- VSHL_VSHR_VSRA (R159) -/
  | vshift (c : Nat) (op : Shift) (f : FVR)
  /-- VCMPEQ_VCMPLT_VCMPLE (R163) -/
  | vcmp (c : Nat) (op : VRel) (f : FVR)
  /-- VSEL (R163) -/
  | vsel (c : Nat) (f : FVR)
  /-- VREDSUM (R165) -/
  | vredsum (c : Nat) (f : FVR)
  /-- VREDMAX (R165) -/
  | vredmax (c : Nat) (f : FVR)
  /-- VANY (R163) -/
  | vany (c : Nat) (f : FVP)
  /-- VCVT (R167) -/
  | vcvt (c : Nat) (f : FVC)
  /-- VCVTBS (R169) -/
  | vcvtbs (c : Nat) (f : FVC)
  /-- VCVTBD (R169) -/
  | vcvtbd (c : Nat) (f : FVC)
  /-- VCVTBB (R169) -/
  | vcvtbb (c : Nat) (f : FVC)
  /-- LQV (R102) -/
  | lqv (c : Nat) (f : FVR)
  /-- SQV (R107) -/
  | sqv (c : Nat) (f : FVR)
  /-- VBCAST (R159) -/
  | vbcast (c : Nat) (f : FVS)
  /-- VMOVS (R162) -/
  | vmovs (c : Nat) (f : FVS)
  /-- VTR (R213) -/
  | vtr (c : Nat) (f : FVT)
  /-- VTW (R214) -/
  | vtw (c : Nat) (f : FVT)
  /-- MMUL (R172) -/
  | mmul (c : Nat) (f : FMM)
  /-- MDRAIN (R174) -/
  | mdrain (c : Nat) (f : FMD)
  /-- MZERO (R179) -/
  | mzero (c : Nat) (mask : BitVec 8)
  /-- MSWAP (R179) -/
  | mswap (c : Nat)
  /-- TREL (R179) -/
  | trel (c : Nat) (mask : BitVec 16)
  /-- LD (R181) -/
  | ld (c : Nat) (f : FAM)
  /-- ST (R181) -/
  | st (c : Nat) (f : FAM)
  /-- PF (R181) -/
  | pf (c : Nat) (f : FAM)
  /-- MLOAD (R182) -/
  | mload (c : Nat) (f : FAT)
  /-- MLOADT (R222) -/
  | mloadt (c : Nat) (f : FAT)
  /-- AMO (R184) -/
  | amo (c : Nat) (f : FAX)
  /-- ADDA_SUBA (R180) -/
  | addaSuba (c : Nat) (sub : Bool) (f : FAR)
  /-- ADDAI (R180) -/
  | addai (c : Nat) (f : FAI)
  /-- SHLA (R180) -/
  | shla (c : Nat) (f : FAI)
  /-- MULAI (R180) -/
  | mulai (c : Nat) (f : FAI)
  /-- LIA (R180) -/
  | lia (c : Nat) (f : FAI)
  /-- BRA (R100) -/
  | bra (c : Nat) (f : FAB)
  /-- JMPA (R180) -/
  | jmpa (c : Nat) (f : FAB)
  /-- SET (R478) -/
  | set (c : Nat) (x : Bool) (f : FSF)
  /-- CLR (R478) -/
  | clr (c : Nat) (x : Bool) (f : FSF)
  /-- WAITC (R478) -/
  | waitc (c : Nat) (x : Bool) (f : FSF)
  /-- TEST (R188) -/
  | test (c : Nat) (x : Bool) (f : FSF)
  /-- BRX (R119) -/
  | brx (c : Nat) (f : FSX)
  /-- STOP (R191) -/
  | stop (c : Nat) (x : Bool) (id : BitVec 16)
  /-- END (R189) -/
  | endStream (c : Nat) (x : Bool)
  /-- LQ_LINE_ARRIVAL (R103) -/
  | lqLineArrival (c req : Nat)
  /-- WRITE_ACK_RETURN (R116) -/
  | writeAckReturn (c req : Nat)
  /-- BRX_RESOLUTION (R111) -/
  | brxResolution (c : Nat)
  /-- ORPHAN_RESPONSE_DROP (R129) -/
  | orphanResponseDrop (c req : Nat)
  /-- DIRECTORY_LOOKUP (R343) -/
  | directoryLookup (stack : Nat)
  /-- TRANSLATION_ANSWER (R344) -/
  | translationAnswer (who : Requester)
  /-- FLAG_ACK_RETURN (R484) -/
  | flagAckReturn (c : Nat)
  /-- CORE_RUN_COMPLETE (R189) -/
  | coreRunComplete (c : Nat)
  /-- CORE_STOPPED (R191) -/
  | coreStopped (c : Nat)
  /-- CORE_RESUME (R193) -/
  | coreResume (c : Nat)
  /-- TILE_LINE_ARRIVAL (R219) -/
  | tileLineArrival (c req : Nat)
  /-- MMUL_COLLECTION_START (R233) -/
  | mmulCollectionStart (c : Nat)
  /-- MMUL_COMPUTE_START (R233) -/
  | mmulComputeStart (c : Nat)
  /-- MMUL_COMPLETE (R234) -/
  | mmulComplete (c : Nat)
  /-- MDRAIN_START (R232) -/
  | mdrainStart (c id : Nat)
  /-- MDRAIN_COMPLETE (R235) -/
  | mdrainComplete (c id : Nat)
  /-- MZERO_EXECUTE (R234) -/
  | mzeroExecute (c : Nat)
  /-- MSWAP_EXECUTE (R234) -/
  | mswapExecute (c : Nat)
  /-- TREL_EXECUTE (R179) -/
  | trelExecute (c : Nat)
  /-- BANK_REFUSAL (R295) -/
  | bankRefusal (c req : Nat)
  /-- BANK_GRANT (R297) -/
  | bankGrant (c bank : Nat)
  /-- CHANNEL_READ (R289) -/
  | channelRead (stack ch line : Nat) (r : ChanRead)
  /-- CHANNEL_WRITE (R287) -/
  | channelWrite (stack ch line : Nat) (data : Line) (w : ChanWrite)
  /-- CHANNEL_TURNAROUND (R291) -/
  | channelTurnaround (stack ch : Nat)
  /-- BANK_REFRESH (R292) -/
  | bankRefresh (stack ch bank : Nat)
  /-- INTERFACE_CALIBRATION (R292) -/
  | interfaceCalibration (stack ch : Nat)
  /-- CHANNEL_DRAINING (R301) -/
  | channelDraining (stack ch : Nat) (byFirmware : Bool)
  /-- CHANNEL_MAPPED_OUT (R302) -/
  | channelMappedOut (stack ch : Nat)
  /-- CARAFE_ACCESS (R309) -/
  | carafeAccess (who : Requester) (line : Nat) (kind : AccKind) (err : ErrClass)
  /-- ATOMIC_PERFORM (R315) -/
  | atomicPerform (src : AtomSrc)
  /-- NARROW_ACCESS (R321) -/
  | narrowAccess (stack addr size : Nat) (data : Option (BitVec 512))
  /-- PLACE_MAP (R347) -/
  | placeMap (ring slot : Nat)
  /-- PLACE_ATTR (R351) -/
  | placeAttr (ring slot : Nat)
  /-- PLACE_UNMAP (R362) -/
  | placeUnmap (ring slot : Nat)
  /-- PIN_SET (R354) -/
  | pinSet (ring slot : Nat)
  /-- PIN_CLEAR (R354) -/
  | pinClear (ring slot : Nat)
  /-- MIGRATION_START (R363) -/
  | migrationStart
  /-- MIGRATION_COMMIT (R356) -/
  | migrationCommit (block : Nat)
  /-- INVALIDATION (R359) -/
  | invalidation (who : Requester) (block : Nat)
  /-- INVALIDATION_ACK (R356) -/
  | invalidationAck (who : Requester) (block : Nat)
  /-- FORWARD_RECEIVED (R358) -/
  | forwardReceived (c req : Nat)
  /-- PLANNER_EPOCH (R364) -/
  | plannerEpoch
  /-- MOVE (R394) -/
  | move (ring slot : Nat)
  /-- GATHER (R406) -/
  | gather (ring slot : Nat)
  /-- SCATTER (R407) -/
  | scatter (ring slot : Nat)
  /-- WGB_DRAIN (R269) -/
  | wgbDrain (ring slot : Nat)
  /-- UPDATE_STEP (R447) -/
  | updateStep (ring slot : Nat)
  /-- UPDATE_DEFINE (R440) -/
  | updateDefine (ring slot : Nat)
  /-- UPDATE_MODIFY (R443) -/
  | updateModify (ring slot : Nat)
  /-- UPDATE_RELEASE (R444) -/
  | updateRelease (ring slot : Nat)
  /-- FLAG_OP_APPLY (R478) -/
  | flagOpApply (flag : FlagRef)
  /-- FLAG_SET_SET (R497) -/
  | flagSetSet (ring slot : Nat)
  /-- FLAG_SET_CLR (R497) -/
  | flagSetClr (ring slot : Nat)
  /-- FLAG_SET_WRITE (R498) -/
  | flagSetWrite (ring slot : Nat)
  /-- FLAG_WAIT (R499) -/
  | flagWait (ring slot : Nat)
  /-- FLAG_OP (R502) -/
  | flagOp (src seq : Nat) (sel : Word) (op : FOp)
  /-- FLAG_ACK (R484) -/
  | flagAck (src seq : Nat) (st : Status)
  /-- REMOTE_FLAG_HOLD_EXPIRY (R503) -/
  | remoteFlagHoldExpiry (dst seq : Nat)
  /-- SHUTTER_PATH_CHANGE (R501) -/
  | shutterPathChange (fabric : Bool)
  /-- STALL (R508) -/
  | stall (domain : Nat)
  /-- FLIT_RECEIVE (R524) -/
  | flitReceive (port : Nat) (flit : Flit) (check : RxCheck)
  /-- CONTROL_FLIT (R523) -/
  | controlFlit (port : Nat)
  /-- RECOVERY (R526) -/
  | recovery (port : Nat)
  /-- RECOVERY_COMPLETE (R526) -/
  | recoveryComplete (port : Nat)
  /-- RECOVERY_TIMEOUT (R526) -/
  | recoveryTimeout (port : Nat)
  /-- LANE_FAILURE (R520) -/
  | laneFailure (port lane : Nat)
  /-- WRITE (R544) -/
  | write (p : Packet)
  /-- READ_REQ (R547) -/
  | readReq (p : Packet)
  /-- READ_DATA (R547) -/
  | readData (p : Packet)
  /-- SEG_ACK (R544) -/
  | segAck (p : Packet)
  /-- SEG_ABORT (R545) -/
  | segAbort (p : Packet)
  /-- SEG_TIMEOUT (R545) -/
  | segTimeout (k : SegKey) (dst : Nat)
  /-- SEG_ABORT_TIMEOUT (R546) -/
  | segAbortTimeout (k : SegKey) (dst : Nat)
  /-- READ_TIMEOUT (R547) -/
  | readTimeout (group tag : Nat)
  /-- RED_DATA (R555) -/
  | redData (p : Packet)
  /-- REDUCE_RUN (R553) -/
  | reduceRun (ring slot : Nat)
  /-- REDUCE_DEFINE (R550) -/
  | reduceDefine (ring slot : Nat)
  /-- REDUCE_RELEASE (R551) -/
  | reduceRelease (ring slot : Nat)
  /-- READY (R561) -/
  | ready (p : Packet)
  /-- MISMATCH (R553) -/
  | mismatch (p : Packet)
  /-- CLOSE (R554) -/
  | close (p : Packet)
  /-- DONE (R561) -/
  | done (p : Packet)
  /-- HOLD (R563) -/
  | hold (p : Packet)
  /-- EXTEND (R579) -/
  | extend (p : Packet)
  /-- WINDOW_DEADLINE (R561) -/
  | windowDeadline (slot : Nat)
  /-- HOLD_RESEND (R563) -/
  | holdResend (slot : Nat)
  /-- EXTEND_SEND (R578) -/
  | extendSend (ring slot : Nat)
  /-- OWNER_SUM (R555) -/
  | ownerSum (slot : Nat)
  /-- RUN_COMPLETE (R558) -/
  | runComplete (ring slot : Nat)
  /-- CONTRIBUTION_TIMEOUT (R582) -/
  | contributionTimeout (slot : Nat)
  /-- CLOSE_TIMEOUT (R583) -/
  | closeTimeout (slot : Nat)
  /-- REPLAY_READY_TIMEOUT (R601) -/
  | replayReadyTimeout (slot : Nat)
  /-- STEP_BEGIN_OPEN (R570) -/
  | stepBeginOpen (ring slot : Nat)
  /-- STEP_BEGIN_RESOLVE (R590) -/
  | stepBeginResolve (ring slot : Nat)
  /-- CHECKPOINT (R593) -/
  | checkpoint (ring slot : Nat)
  /-- RESTORE (R598) -/
  | restore (ring slot : Nat)
  /-- REPLAY (R600) -/
  | replay (ring slot : Nat)
  /-- DOORBELL_SNOOP (R623) -/
  | doorbellSnoop (line : Nat)
  /-- DOORBELL_READ (R622) -/
  | doorbellRead (ring : Nat) (value : Option (BitVec 64))
  /-- DESCRIPTOR_READ (R629) -/
  | descriptorRead (ring : Nat) (desc : Option Line)
  /-- COMMAND_COMPLETE (R626) -/
  | commandComplete (ring slot : Nat)
  /-- NOP (R633) -/
  | nop (ring slot : Nat)
  /-- FENCE (R631) -/
  | fence (ring slot : Nat)
  /-- LOAD_PROGRAM (R634) -/
  | loadProgram (ring slot : Nat)
  /-- LAUNCH (R635) -/
  | launch (ring slot : Nat)
  /-- LAUNCH_CORES_START (R635) -/
  | launchCoresStart (ring slot : Nat)
  /-- LAUNCH_COMPLETE (R636) -/
  | launchComplete (ring slot : Nat)
  /-- QUERY_COUNTERS (R638) -/
  | queryCounters (ring slot : Nat)
  /-- POWER_D0 (R717) -/
  | powerD0 (ring slot : Nat)
  /-- POWER_ENTER (R720) -/
  | powerEnter (ring slot : Nat)
  /-- POWER_ANSWER (R722) -/
  | powerAnswer (block : Nat) (ans : PwrAnswer)
  /-- ENTRY_LIMIT_TIMEOUT (R724) -/
  | entryLimitTimeout
  /-- POWER_STATE_REACHED (R725) -/
  | powerStateReached
  /-- WAKE (R728) -/
  | wake (ev : WakeEv)
  /-- EXIT_COMPLETE (R730) -/
  | exitComplete
  /-- GOVERNOR_SAMPLE (R732) -/
  | governorSample (watts tj : Nat)
  /-- GOVERNOR_ADJUST (R732) -/
  | governorAdjust
  /-- FAST_CLAMP (R732) -/
  | fastClamp
  /-- TOKEN_REFILL (R733) -/
  | tokenRefill
  /-- POWER_OFF_TRIP (R716) -/
  | powerOffTrip (cause : OffCause)
  /-- HDM_READ (R618) -/
  | hdmRead (addr : Nat) (cacheable : Bool)
  /-- HDM_WRITE (R618) -/
  | hdmWrite (addr : Nat) (data : Line) (mask : BitVec 64)
  /-- BISNP_RESPONSE (R619) -/
  | bisnpResponse (line : Nat) (dirty : Option Line)
  /-- HOST_ACCESS_REFUSED (R632) -/
  | hostAccessRefused (ring slot : Nat)
  /-- FUNCTION_LEVEL_RESET (R614) -/
  | functionLevelReset
  /-- PERST (R644) -/
  | perst
  /-- RING_ENABLE (R622) -/
  | ringEnable (ring : Nat) (w3 : BitVec 64)
  /-- RING_DISABLE (R628) -/
  | ringDisable (ring : Nat)
  /-- RING_DRAINED (R628) -/
  | ringDrained (ring : Nat)
  /-- POWER_ON (R644) -/
  | powerOn
  /-- MODULE_RESET (R747) -/
  | moduleReset
  /-- RAIL_POWER_GOOD (R646) -/
  | railPowerGood
  /-- RAIL_TIMEOUT (R647) -/
  | railTimeout
  /-- LOCAL_READY (R651) -/
  | localReady (t : SelfTest)
  /-- SYSTAB_GO (R653) -/
  | systabGo
  /-- PORT_ENABLE (R566) -/
  | portEnable (port : Nat)
  /-- IDENTITY_FRAME (R658) -/
  | identityFrame (port : Nat) (who : Partner) (nonce : BitVec 256)
  /-- PORT_TRAIN_TIMEOUT (R659) -/
  | portTrainTimeout (port : Nat)
  /-- CLAIM_TIMER (R662) -/
  | claimTimer
  /-- CLAIM (R663) -/
  | claim (p : Packet)
  /-- NO_COORD_TIMEOUT (R664) -/
  | noCoordTimeout
  /-- REPORT (R667) -/
  | report (r : Report)
  /-- GATHER_LIMIT (R667) -/
  | gatherLimit
  /-- ROSTER (R668) -/
  | roster (r : Roster)
  /-- READY_NOTE (R670) -/
  | readyNote (dev : Nat)
  /-- CTRL_RESEND (R661) -/
  | ctrlResend
  /-- LINK_NOTE (R671) -/
  | linkNote (dev : Nat) (up : BitVec 32)
  /-- LINK_NOTE_TIMEOUT (R672) -/
  | linkNoteTimeout
  /-- GET_VERSION (R693) -/
  | getVersion
  /-- GET_CAPABILITIES (R693) -/
  | getCapabilities
  /-- NEGOTIATE_ALGORITHMS (R693) -/
  | negotiateAlgorithms
  /-- GET_DIGESTS (R693) -/
  | getDigests
  /-- GET_CERTIFICATE (R693) -/
  | getCertificate (part : SlotOffset) (len : Nat)
  /-- CHALLENGE (R695) -/
  | challenge (q : SlotNonce)
  /-- GET_MEASUREMENTS (R694) -/
  | getMeasurements (q : SlotSigned)
  /-- KEY_EXCHANGE (R695) -/
  | keyExchange (q : SlotNonce)
  /-- FINISH (R693) -/
  | finish
  /-- END_SESSION (R693) -/
  | endSession
  /-- GET_COSIG (R696) -/
  | getCosig
  /-- GET_IDREC (R696) -/
  | getIdrec (offset len : Nat)
  /-- IDE_KM (R697) -/
  | ideKm (m : IdeMsg)
  /-- JOURNAL_HALF_ERASE (R691) -/
  | journalHalfErase (identity : Bool)
  /-- FW_UPDATE_WRITE (R683) -/
  | fwUpdateWrite (hdrBack ecdsaBack lmsBack : Bool)
  /-- FW_UPDATE_COMMIT (R685) -/
  | fwUpdateCommit
  /-- EXTEST (R699) -/
  | extest
  /-- SAMPLE_PRELOAD (R699) -/
  | samplePreload
  /-- IDCODE (R699) -/
  | idcode
  /-- BYPASS (R699) -/
  | bypass
  /-- ZDP_STATUS (R699) -/
  | zdpStatus
  /-- ZDP_NONCE (R702) -/
  | zdpNonce
  /-- ZDP_TOKEN (R702) -/
  | zdpToken (t : BitVec 15456)
  /-- ZDP_CMD (R700) -/
  | zdpCmd (op : ZdpOp) (t : ZdpTarget) (addr : ZdpAddr) (data : Line)
  /-- SMBUS_PART_NUMBER (R753) -/
  | smbusPartNumber
  /-- SMBUS_SERIAL (R753) -/
  | smbusSerial
  /-- SMBUS_TOP_STATE (R753) -/
  | smbusTopState
  /-- SMBUS_POWER (R753) -/
  | smbusPower
  /-- SMBUS_THERMAL (R753) -/
  | smbusThermal (volts : Nat)
  /-- TSTRIP_CONFIG_WRITE (R586) -/
  | tstripConfigWrite (v : BitVec 64)
  /-- W1C_WRITE (R765) -/
  | w1cWrite (off : Nat) (v : BitVec 64)
  /-- REGISTER_WRITE (R762) -/
  | registerWrite (off size : Nat) (v : BitVec 64)
  /-- BAR0_UNSUPPORTED_ACCESS (R616) -/
  | bar0UnsupportedAccess (off size : Nat) (write : Bool)
  /-- LANE_LOCK (R658) -/
  | laneLock (port : Nat) (lanes : LaneFinding) (nonce : BitVec 256)
  /-- FLIT_TRANSMIT (R529) -/
  | flitTransmit (port : Nat)
  /-- COORDINATOR_GATHER (R665) -/
  | coordinatorGather (p : Packet)
  /-- RESET_N_RELEASE (R747) -/
  | resetNRelease
  /-- PERST_RELEASE (R650) -/
  | perstRelease
  /-- CONFIGURATION_REQUEST (R650) -/
  | configurationRequest (fn reg : Nat)
  /-- ATS_INVALIDATION (R611) -/
  | atsInvalidation (tag : Nat) (pages : List Nat)
  deriving DecidableEq, Repr

end Sys2Proof
end

