-- ==== Sys2Proof/Decode.lean ====
section
/-!
DEFINITION. The commands that words spell by the table's bits. No row of the table gives bits, so no word spells one; the bundle
encoding of 04, which is data in a program store, is read by BUNDLE_ISSUE (Sys2Proof/Machine/Bundle.lean).
-/
namespace Sys2Proof

def decodeTableWord (_nbits _w : Nat) : Option Instr := none

end Sys2Proof
end

