-- ==== Sys2Proof/Machine/Num.lean ====
section
/-!
DEFINITION. Number formats and arithmetic (02): exact values, one rounding, range limits, block scales, and the events each operation
counts. An exact value is a dyadic number, so that products and sums are exact before the one rounding (R83, R86, R92).
-/
namespace Sys2Proof.Machine

/-- An exact value: NaN, an infinity, or (−1)^neg × m × 2^e (R51). -/
inductive Exact where
  | nan | inf (neg : Bool) | fin (neg : Bool) (m : Nat) (e : Int)
  deriving DecidableEq, Repr

/-- The numeric events of Table 02.8, counted per element (R96). -/
structure Ev where
  (sat ovf nanLost invalid : Nat := 0)
  deriving DecidableEq, Repr

/-- Events of two operations together (R96). -/
def evAdd (a b : Ev) : Ev := ⟨a.sat + b.sat, a.ovf + b.ovf, a.nanLost + b.nanLost, a.invalid + b.invalid⟩

/-- A floating layout of Table 02.2; `maxCode` is the encoding of the largest finite magnitude, `nanCode` the canonical NaN (R61). -/
structure FFmt where
  (eb mb : Nat) (bias : Int) (hasInf : Bool) (nanCode : Option Nat) (maxCode : Nat)
  deriving DecidableEq, Repr

/-- Table 02.2, by format code. -/
def ffmt : Nat → Option FFmt
  | 0 => some ⟨8, 23, 127, true, some 0x7FC00000, 0x7F7FFFFF⟩
  | 1 => some ⟨5, 10, 15, true, some 0x7E00, 0x7BFF⟩
  | 2 => some ⟨8, 7, 127, true, some 0x7FC0, 0x7F7F⟩
  | 3 => some ⟨4, 3, 7, false, some 0x7F, 0x7E⟩
  | 4 => some ⟨5, 2, 15, true, some 0x7E, 0x7B⟩
  | 5 => some ⟨3, 2, 3, false, none, 0x1F⟩
  | 6 => some ⟨2, 3, 1, false, none, 0x1F⟩
  | 7 => some ⟨2, 1, 1, false, none, 0x7⟩
  | _ => none

/-- Width in bits of a format code (Table 02.1); 0 for a reserved code (R48). -/
def fmtBits : Nat → Nat
  | 0 => 32 | 1 => 16 | 2 => 16 | 3 => 8 | 4 => 8 | 5 => 6 | 6 => 6 | 7 => 4 | 8 => 8 | 9 => 32 | 10 => 8 | _ => 0

/-- The value of a floating encoding (R51, R52). -/
def decodeF (f : FFmt) (bits : Nat) : Exact :=
  let w := f.eb + f.mb
  let neg := bits / 2 ^ w % 2 == 1
  let mag := bits % 2 ^ w
  if mag ≤ f.maxCode then
    if mag / 2 ^ f.mb = 0 then .fin neg mag (1 - f.bias - f.mb)
    else .fin neg (mag % 2 ^ f.mb + 2 ^ f.mb) ((mag / 2 ^ f.mb : Nat) - f.bias - f.mb)
  else if f.hasInf && mag == f.maxCode + 1 then .inf neg else .nan

/-- The value of a two's-complement integer of `w` bits (R53). -/
def decodeI (w bits : Nat) : Exact :=
  let b := bits % 2 ^ w
  if b < 2 ^ (w - 1) then .fin false b 0 else .fin true (2 ^ w - b) 0

/-- The value of an element encoding of any format code 0x0 to 0x9 (R51 to R53) (log 36). -/
def decodeNum (code bits : Nat) : Exact :=
  match ffmt code with
  | some f => decodeF f bits
  | none => if code = 8 then decodeI 8 bits else if code = 9 then decodeI 32 bits else .nan

/-- Multiplies an exact value by 2^k. -/
def nscale (k : Int) : Exact → Exact
  | .fin n m e => .fin n m (e + k)
  | x => x

def nneg : Exact → Exact
  | .nan => .nan
  | .inf n => .inf (!n)
  | .fin n m e => .fin (!n) m e

def nabs : Exact → Exact
  | .nan => .nan
  | .inf _ => .inf false
  | .fin _ m e => .fin false m e

def nzero : Exact := .fin false 0 0
def none1 : Exact := .fin false 1 0

/-- The signed integer numerator of a finite value at the exponent `e0` ≤ e. -/
def nint (e0 : Int) (neg : Bool) (m : Nat) (e : Int) : Int :=
  let k : Int := (m * 2 ^ (e - e0).toNat : Nat)
  if neg then -k else k

/-- The exact sum, and whether it is NaN from operands that are not (R62). A zero sum of values of different signs is +0. -/
def nadd : Exact → Exact → Exact × Bool
  | .nan, _ => (.nan, false)
  | _, .nan => (.nan, false)
  | .inf a, .inf b => if a = b then (.inf a, false) else (.nan, true)
  | .inf a, .fin .. => (.inf a, false)
  | .fin .., .inf b => (.inf b, false)
  | .fin na ma ea, .fin nb mb eb =>
    let e0 := if ea ≤ eb then ea else eb
    let z := nint e0 na ma ea + nint e0 nb mb eb
    if z = 0 then (.fin (na && nb) 0 e0, false) else (.fin (decide (z < 0)) z.natAbs e0, false)

/-- The exact product, and whether it is NaN from operands that are not (0 × ∞, R62). -/
def nmul : Exact → Exact → Exact × Bool
  | .nan, _ => (.nan, false)
  | _, .nan => (.nan, false)
  | .inf a, .inf b => (.inf (a != b), false)
  | .inf a, .fin b m _ => if m = 0 then (.nan, true) else (.inf (a != b), false)
  | .fin a m _, .inf b => if m = 0 then (.nan, true) else (.inf (a != b), false)
  | .fin a ma ea, .fin b mb eb => (.fin (a != b) (ma * mb) (ea + eb), false)

/-- Bits kept by a quotient or a root beyond the operands: far below any rounding place of 02, so one rounding of the result
with its last bit sticky equals one rounding of the exact value. -/
def divBits : Nat := 64

/-- The quotient with a sticky last bit (IEEE 754 for zero and infinite operands), and the invalid mark. -/
def ndiv : Exact → Exact → Exact × Bool
  | .nan, _ => (.nan, false)
  | _, .nan => (.nan, false)
  | .inf _, .inf _ => (.nan, true)
  | .inf a, .fin b _ _ => (.inf (a != b), false)
  | .fin a _ _, .inf b => (.fin (a != b) 0 0, false)
  | .fin a ma ea, .fin b mb eb =>
    if mb = 0 then (if ma = 0 then (.nan, true) else (.inf (a != b), false))
    else
      let k := divBits + Nat.log2 mb
      let n := ma * 2 ^ k
      let q := n / mb
      (.fin (a != b) (2 * q + if n % mb = 0 then 0 else 1) (ea - eb - k - 1), false)

/-- The largest r with r² ≤ n, found bit by bit from bit `k`. -/
def isqrtGo (n : Nat) : Nat → Nat → Nat
  | 0, r => if (r + 1) * (r + 1) ≤ n then r + 1 else r
  | k + 1, r => isqrtGo n k (if (r + 2 ^ (k + 1)) * (r + 2 ^ (k + 1)) ≤ n then r + 2 ^ (k + 1) else r)

def isqrt (n : Nat) : Nat := isqrtGo n (Nat.log2 n / 2) 0

/-- The square root with a sticky last bit; −0 gives −0, a negative value NaN (R62). -/
def nsqrt : Exact → Exact × Bool
  | .nan => (.nan, false)
  | .inf false => (.inf false, false)
  | .inf true => (.nan, true)
  | .fin n m e =>
    if m = 0 then (.fin n 0 e, false)
    else if n then (.nan, true)
    else
      let odd : Nat := (e % 2).toNat
      let v := m * 2 ^ odd * 2 ^ (2 * divBits)
      let r := isqrt v
      (.fin false (2 * r + if r * r = v then 0 else 1) ((e - odd) / 2 - divBits - 1), false)

/-- a < b for values that are not NaN; false when one is (R163). −0 and +0 are equal. -/
def nlt : Exact → Exact → Bool
  | .nan, _ => false
  | _, .nan => false
  | .inf a, .inf b => a && !b
  | .inf a, .fin .. => a
  | .fin .., .inf b => !b
  | .fin na ma ea, .fin nb mb eb =>
    let e0 := if ea ≤ eb then ea else eb
    decide (nint e0 na ma ea < nint e0 nb mb eb)

def neq : Exact → Exact → Bool
  | .nan, _ => false
  | _, .nan => false
  | .inf a, .inf b => a == b
  | .fin na ma ea, .fin nb mb eb =>
    let e0 := if ea ≤ eb then ea else eb
    decide (nint e0 na ma ea = nint e0 nb mb eb)
  | _, _ => false

def nle (a b : Exact) : Bool := nlt a b || neq a b

/-- Rounds m × 2^−sh to an integer: RNE (R63), or SR with the 16 random bits `r` (R65). -/
def roundShift (r : Option Nat) (m sh : Nat) : Nat :=
  let kept := m / 2 ^ sh
  let rem := m % 2 ^ sh
  match r with
  | none => if 2 * rem > 2 ^ sh || (2 * rem == 2 ^ sh && kept % 2 == 1) then kept + 1 else kept
  | some r => if rem * 65536 / 2 ^ sh + r ≥ 65536 then kept + 1 else kept

/-- Rounds m × 2^e to an integer magnitude. -/
def roundInt (r : Option Nat) (m : Nat) (e : Int) : Nat :=
  if 0 ≤ e then m * 2 ^ e.toNat else roundShift r m (-e).toNat

/-- The magnitude encoding of m × 2^e rounded to the precision of `f`, before the range limit (R65). -/
def roundMag (f : FFmt) (r : Option Nat) (m : Nat) (e : Int) : Nat :=
  let qmin : Int := 1 - f.bias - f.mb
  let q := max ((Nat.log2 m : Int) + e - f.mb) qmin
  (q - qmin).toNat * 2 ^ f.mb + (if q ≤ e then m * 2 ^ (e - q).toNat else roundShift r m (q - e).toNat)

/-- Rounds a value into a floating format with its range limit (R60, R70 to R72, R74). -/
def roundF (f : FFmt) (r : Option Nat) (x : Exact) : Nat × Ev :=
  let top := 2 ^ (f.eb + f.mb)
  let sgn (n : Bool) : Nat := if n then top else 0
  match x with
  | .nan =>
    match f.nanCode with
    | some c => (c, {})
    | none => (0, { nanLost := 1 })
  | .inf n => if f.hasInf then (sgn n + f.maxCode + 1, {}) else (sgn n + f.maxCode, { sat := 1 })
  | .fin n m e =>
    if m = 0 then (sgn n, {})
    else
      let g := roundMag f r m e
      if g ≤ f.maxCode then (sgn n + g, {})
      else if f.hasInf then (sgn n + f.maxCode + 1, { ovf := 1 })
      else (sgn n + f.maxCode, { sat := 1 })

/-- Rounds a value into an integer of `w` bits with its range limit (R73, R74). -/
def roundI (w : Nat) (r : Option Nat) (x : Exact) : Nat × Ev :=
  match x with
  | .nan => (0, { nanLost := 1 })
  | .inf n => (if n then 2 ^ (w - 1) else 2 ^ (w - 1) - 1, { sat := 1 })
  | .fin n m e =>
    let k := roundInt r m e
    if n then
      if k ≤ 2 ^ (w - 1) then ((2 ^ w - k) % 2 ^ w, {}) else (2 ^ (w - 1), { sat := 1 })
    else if k < 2 ^ (w - 1) then (k, {}) else (2 ^ (w - 1) - 1, { sat := 1 })

/-- One conversion of an exact value to a format code 0x0 to 0x9, with one rounding (R83). -/
def roundNum (code : Nat) (r : Option Nat) (x : Exact) : Nat × Ev :=
  match ffmt code with
  | some f => roundF f r x
  | none => if code = 8 then roundI 8 r x else roundI 32 r x

/-- The FP32 result of an operation: RNE, with the invalid event (R62, R63, R70). -/
def fp32 (x : Exact × Bool) : Nat × Ev :=
  let y := roundNum 0 none x.1
  (y.1, { y.2 with invalid := if x.2 then 1 else 0 })

/-! ### Stochastic rounding -/

/-- R66. -/
def srBits (seed stream pos : Nat) : Nat :=
  let z : BitVec 64 := BitVec.ofNat 64 seed ^^^ (BitVec.ofNat 64 stream <<< 48) ^^^ BitVec.ofNat 64 pos
  let z := (z ^^^ (z >>> 30)) * 0xBF58476D1CE4E5B9#64
  let z := (z ^^^ (z >>> 27)) * 0x94D049BB133111EB#64
  let z := z ^^^ (z >>> 31)
  z.toNat % 65536

/-- Stream IDs of Table 02.3. -/
def streamVec (c : Nat) : Nat := 4 * c
def streamDrain (c : Nat) : Nat := 4 * c + 1
def streamWgb (c : Nat) : Nat := 4 * c + 2

/-! ### Block scaling -/

/-- Table 02.4: Et, and Mx as m × 2^e. -/
def blockTarget : Nat → Int × Nat × Int
  | 1 => (0, 2, 0) | 2 => (0, 2, 0) | 3 => (8, 448, 0) | 4 => (15, 57344, 0) | 5 => (4, 28, 0)
  | 6 => (2, 15, -1) | 7 => (2, 6, 0) | _ => (0, 127, -6)

/-- The larger of two finite magnitudes. -/
def magMax (a b : Nat × Int) : Nat × Int :=
  if nlt (.fin false a.1 a.2) (.fin false b.1 b.2) then b else a

/-- The largest finite magnitude of a block. -/
def blockAmax : List Exact → Nat × Int
  | [] => (0, 0)
  | .fin _ m e :: t => magMax (m, e) (blockAmax t)
  | _ :: t => blockAmax t

def hasNan : List Exact → Bool
  | [] => false
  | .nan :: _ => true
  | _ :: t => hasNan t

/-- R80: the E8M0 scale of a block. Its clamp to X = 127 can leave the maximum of an INT8 block above Mx, where R81 lets nothing saturate: R80
is kept, and such an element saturates in `convBlock` and counts under R75 (log 90). -/
def blockScale (code : Nat) (xs : List Exact) : Nat :=
  if hasNan xs then 0xFF
  else
    let a := blockAmax xs
    if a.1 = 0 then 0x7F
    else
      let t := blockTarget code
      let x0 := (Nat.log2 a.1 : Int) + a.2 - t.1
      let x1 := if nlt (.fin false t.2.1 t.2.2) (.fin false a.1 (a.2 - x0)) then x0 + 1 else x0
      (max (-127) (min 127 x1) + 127).toNat

/-- The value of an element under a block scale; INT8 carries 2^−6 (R77, R78). -/
def scaled (code scale : Nat) (x : Exact) : Exact :=
  if scale = 0xFF then .nan else nscale ((scale : Int) - 127 - if code = 8 then 6 else 0) x

/-- Converts a block without scales; element i takes the random bits of position `pos + i` (R69). -/
def convPlain (code : Nat) (rnd : Nat → Option Nat) : Nat → List Exact → List Nat × Ev
  | _, [] => ([], {})
  | i, x :: t =>
    let y := roundNum code (rnd i) x
    let r := convPlain code rnd (i + 1) t
    (y.1 :: r.1, evAdd y.2 r.2)

/-- Converts a block into a block-scaled destination: its scale and its elements (R80, R74, log 90). -/
def convBlock (code : Nat) (rnd : Nat → Option Nat) (i : Nat) (xs : List Exact) : Nat × List Nat × Ev :=
  let sc := blockScale code xs
  if sc = 0xFF then (sc, xs.map (fun _ => 0), {})
  else
    let k : Int := 127 - sc + if code = 8 then 6 else 0
    let r := convPlain code rnd i (xs.map (nscale k))
    (sc, r.1, r.2)

/-! ### Packing (R13, R55, R56): elements of `w` bits lie one after another from bit 0 -/

/-- The number whose `w`-bit digits are the list, the first the lowest. -/
def packBits (w : Nat) : List Nat → Nat
  | [] => 0
  | x :: t => x % 2 ^ w + 2 ^ w * packBits w t

/-- The first `n` digits of `w` bits. -/
def unpackBits (w : Nat) : Nat → Nat → List Nat
  | 0, _ => []
  | n + 1, v => v % 2 ^ w :: unpackBits w n (v / 2 ^ w)

/-! ### Integers -/

/-- Two's-complement value of `w` bits. -/
def sgnOf (w b : Nat) : Int := if b % 2 ^ w < 2 ^ (w - 1) then (b % 2 ^ w : Nat) else ((b % 2 ^ w : Nat) : Int) - (2 ^ w : Nat)

/-- The low `w` bits of an integer. -/
def wrapOf (w : Nat) (x : Int) : Nat := (x % (2 ^ w : Nat)).toNat

/-- R16: a counter stays at its greatest value. -/
def satInc (v n : Nat) : Nat := min (v + n) (2 ^ 64 - 1)

end Sys2Proof.Machine
end

