-- ==== Sys2Proof/Machine/CoreState.lean ====
section
/-!
DEFINITION. The state of one logical core (03 to 06): engines, queues, registers, tiles, accumulators, the weight-gradient buffer.
Register files are sparse tables by register number; an unlisted register reads zero (R203; before the first LAUNCH log 2).
-/
namespace Sys2Proof.Machine

/-- One engine and its stream (R97, R191, R199, R506). `hold` says why the engine is held at its bundle and `held` for how many CLK_A
cycles; `grant` that the WAITC of its bundle has completed at its holder (R480); `frec` is its STS_CORE_FAULT word (Table 20.3), `last` the
address of the bundle issued last, `short` that the bundle lacks a token for its vector slot (R733, R737). -/
structure Engine where
  st : EngState := .idle
  pc : Nat := 0
  base : Nat := 0
  size : Nat := 0
  hold : Hold := .none
  held : Nat := 0
  grant : Bool := false
  frec : BitVec 64 := 0
  last : Nat := 0
  short : Bool := false
  deriving DecidableEq, Repr

inductive LqState where | waiting | data | dropped
  deriving DecidableEq, Repr

/-- An LQ entry (R101 to R105). `level` is the number of the youngest BRX unresolved at its issue (R124). -/
structure Lq where
  (id level pc addr bytes : Nat) (st : LqState := .waiting) (data : Line := 0) (poison : Bool := false) (amo : Bool := false)
  deriving DecidableEq, Repr

/-- An atomic waiting in the SQ: AOP, TY, RET and the LQ entry that takes the old value (R184). -/
structure AmoInfo where
  (aop : BitVec 4) (ty : BitVec 2) (ret : Option Nat)
  deriving DecidableEq, Repr

/-- An SQ entry (R106 to R108). `sent` says its request has been made. -/
structure Sq where
  (id level pc addr bytes : Nat) (amo : Option AmoInfo := none) (data : Option Line := none) (poison : Bool := false) (sent : Bool := false)
  deriving DecidableEq, Repr

/-- An unresolved BRX (R119 to R122): its pair, bundle address, the two paths, the prediction, the checkpoint of a0 to a15, and the
bundles issued under it as the youngest. -/
structure Brx where
  (id pair addr fall tgt : Nat) (pred : Bool) (ckpt : Table (BitVec 48)) (bundles : Nat)
  deriving DecidableEq, Repr

/-- What a request serves (R118). -/
inductive ReqKind where
  | lq (entry : Nat) | tile (t row : Nat) | scale (t : Nat) | pf | store (sq : Nat) | atomic (sq : Nat)
  deriving DecidableEq, Repr

/-- Where a request stands: waiting for its translation, translated and waiting for a slot or a list entry, on the D-net, in the bank-wait
list of a bank, performed and not acknowledged, held at its home during COPY (R357), or stopped by a page fault. Only `flight`, `performed`
and `heldAt` hold a slot (R116, R117). -/
inductive ReqPhase where | translating | waitSlot | flight | bankWait (bank : Nat) | performed | heldAt | faulted
  deriving DecidableEq, Repr

/-- A memory request of the AE (R116). `ra` marks a run-ahead access (R123); `home` is the home its translation named,
`pc` the address of its bundle, `placed` that it holds a place of its bank (R294, R297), `fwd` that a tombstone has forwarded it and it has not
been sent again yet (R358). -/
structure Req where
  (id : Nat) (kind : ReqKind) (addr level pc : Nat) (ra : Bool) (phase : ReqPhase) (orphan : Bool := false) (home : Home := .unmapped)
  (placed : Bool := false) (fwd : Bool := false)
  deriving DecidableEq, Repr

inductive TState where | empty | loading | writing | draining | full
  deriving DecidableEq, Repr

/-- The addresses of a tile load in progress, for the lines not yet issued (R183); `stopped` the block whose page fault has stopped it (R237). -/
structure TileLoad where
  (ab as ac nr pc : Nat) (stopped : Option Nat := none)
  deriving DecidableEq, Repr

/-- A tile register with its state record (Table 05.2). -/
structure Tile where
  st : TState := .empty
  fmt : Nat := 0
  bsh : Nat := 0
  trans : Bool := false
  mask : BitVec 16 := 0
  scaleOk : Bool := false
  poison : Bool := false
  spec : Bool := false
  level : Nat := 0
  rows : Table Line := []
  scale : Line := 0
  load : Option TileLoad := none
  deriving DecidableEq, Repr

/-- An accumulator tile (R173, R243): 16 rows of 32 cells of 32 bits. -/
structure Acc where
  holding : Bool := false
  int : Bool := false
  poison : Bool := false
  rows : Table (BitVec 1024) := []
  deriving DecidableEq, Repr

/-- Where a matrix instruction stands (R232 to R235). -/
inductive MPhase where | queued | collecting | computing | started
  deriving DecidableEq, Repr

/-- A matrix instruction issued and not complete (R232), with what it took at issue: the WGB byte offset (R176), the seed and position
of its rounding (R161, R174), the first of its SQ fills (R178), and how much of it is done in `filled`: the SQ fills made, the rows of a drain to a
tile or the WGB that have reached it, or the rows that the collectors of an MMUL have read; `left` counts the compute cycles of an MMUL that are
still to come (R229), or the cycles until the first row of a drain can reach its destination (R235); `reads` are the tiles that the collectors
of an MMUL read, those that a latch gives apart (R231). -/
structure MOp where
  (id : Nat) (op : MatrixOp) (phase : MPhase) (soff : Nat := 0) (seed : Nat := 0) (pos : Nat := 0) (ticket : Nat := 0) (filled : Nat := 0)
  (left : Nat := 0) (reads : List Nat := [])
  deriving DecidableEq, Repr

/-- A flag operation posted by an engine that waits for the stores and drains it orders after (R114, R264). -/
structure Posted where
  (x : Bool) (sel : Word) (op : FOp) (addr : Nat) (sq mop : List Nat)
  deriving DecidableEq, Repr

/-- The LAUNCH that occupies a core (R504, R603, R635); `complete` when the core's run is complete (R189, R198). -/
structure Run where
  (ring slot tile : Nat) (domain : Option Nat) (poisonSeen : Bool) (complete : Bool := false)
  deriving DecidableEq, Repr

/-- A fault of an uncommitted A-stream bundle, held until it commits (R196). -/
structure HeldFault where
  (cause : Cause) (addr slot level : Nat)
  deriving DecidableEq, Repr

/-- One logical core. -/
structure Core where
  ae : Engine := {}
  xe : Engine := {}
  a : Table (BitVec 48) := []
  sr : Table Word := []
  pr : BitVec 8 := 0
  v : Table Line := []
  lq : List Lq := []
  sq : List Sq := []
  lqNext : Nat := 0
  sqNext : Nat := 0
  fillNext : Nat := 0
  brx : List Brx := []
  brxHead : Nat := 0
  predictor : Table (Option (BitVec 2)) := []
  reqs : List Req := []
  reqNext : Nat := 0
  heldFault : Option HeldFault := none
  tc : List TcEntry := []
  flags : BitVec 256 := 0
  posted : List Posted := []
  unacked : Nat := 0
  seed : BitVec 64 := 0
  posVec : BitVec 48 := 0
  posDrain : BitVec 48 := 0
  posWgb : BitVec 48 := 0
  tiles : Table Tile := []
  acc : Table Acc := []
  mops : List MOp := []
  mopNext : Nat := 0
  coll : Table (List Nat) := []
  wgb : Table (BitVec 1024) := []
  wgbDirty : BitVec 96 := 0
  wgbPoison : BitVec 96 := 0
  wgbLock : BitVec 96 := 0
  store : Table Byte := []
  /-- where a STOP that LOAD_PROGRAM inserted at a store address stood in the image as loaded (R705); an unlisted address stands for itself -/
  stopSrc : Table Nat := []
  run : Option Run := none
  runahead : BitVec 32 := 0x310
  tokens : Nat := 64
  /-- a report that is set one CLK_A cycle after its branch: the flag, and the branch's bundle (R112) -/
  rep : Option (Nat × Nat) := none
  /-- the other engine was at a committed bundle in the cycle of a fault, so that its own fault is recorded beside it (R199) -/
  twin : Bool := false
  /-- a demand page fault waits for this block (R135, R345) -/
  faultBlock : Option Nat := none
  /-- the blocks of the page faults that are not resolved, one entry for each fault (R376) -/
  faults : List Nat := []
  /-- the core has reported that it is stopped (R191) -/
  stopReported : Bool := false
  deriving DecidableEq, Repr

end Sys2Proof.Machine
end

