-- ==== Sys2Proof/Machine/Table.lean ====
section
/-!
DEFINITION. Reading and writing a sparse table in canonical form. What an unlisted key reads as is a function of the key, so
that a table of registers can read as their reset values.
-/
namespace Sys2Proof.Machine

/-- The entry at key `k`; an unlisted key reads as `d k`. -/
def tget {α : Type} (d : Nat → α) : Table α → Nat → α
  | [], k => d k
  | (j, x) :: t, k => if j = k then x else tget d t k

/-- Unlists key `k`: it reads as the default. -/
def tdel {α : Type} (t : Table α) (k : Nat) : Table α := t.filter (fun e => e.1 != k)

/-- Lists `v` at the key `k`, which is not listed, before the first greater key. -/
def tins {α : Type} : Table α → Nat → α → Table α
  | [], k, v => [(k, v)]
  | (j, x) :: t, k, v => if k < j then (k, v) :: (j, x) :: t else (j, x) :: tins t k v

/-- Writes `v` at key `k`, keeping the canonical form: keys rise, and the value an unlisted key reads as is not listed. -/
def tset {α : Type} [DecidableEq α] (d : Nat → α) (t : Table α) (k : Nat) (v : α) : Table α :=
  if v = d k then tdel t k else tins (tdel t k) k v

/-- Every key is at least `lo`, keys rise strictly, no entry reads as the default. -/
def twfFrom {α : Type} [DecidableEq α] (d : Nat → α) : Nat → Table α → Bool
  | _, [] => true
  | lo, (j, x) :: t => decide (lo ≤ j) && decide (x ≠ d j) && twfFrom d (j + 1) t

/-- The canonical form of a table. -/
def twf {α : Type} [DecidableEq α] (d : Nat → α) (t : Table α) : Bool := twfFrom d 0 t

/-- Removes every entry whose key satisfies `p`: those keys read as the default again. -/
def tclear {α : Type} (t : Table α) (p : Nat → Bool) : Table α := t.filter (fun e => !p e.1)

end Sys2Proof.Machine
end

