-- ==== Sys2Proof/Machine/State.lean ====
section
/-!
DEFINITION. The state of the device as plain data, in groups by chapter, and the state right after reset. Sparse tables hold what
differs from their reset value; INVENTORY.md lists every piece of state with its rule and its reset value.
-/
namespace Sys2Proof.Machine

/-- Reasons a step stops with a fault. -/
inductive Fault where
  /-- raised by a row whose lists do not have the lengths its row carries (WellFormed); safe: no such command exists -/
  | illFormed
  deriving DecidableEq, Repr

/-- Reasons a step has no meaning. -/
inductive Refusal where
  /-- raised by Dispatch for a row not modelled; safe: nothing is claimed of it -/
  | notModelled (mnemonic : String)
  deriving DecidableEq, Repr

/-- Memory, placement and migration (07, 08). `mem` is the device range, byte by byte; an unlisted byte reads 0. -/
structure MemSys where
  mem : List Host.Cell := []
  poison : Table Bool := []
  dir : Table DirEntry := []
  homeTab : Table (Nat × Nat) := []
  chans : Table Chan := []
  carafe : Table (List CLine) := []
  homeWays : Nat := 8
  snoop : List Nat := []
  bisnp : List Nat := []
  mtc : List TcEntry := []
  dirReq : List DirReq := []
  dirAns : List (DirReq × DirAnswer) := []
  moves : List Move := []
  waitMoves : List WaitMove := []
  jobs : List MoveJob := []
  mergeBuf : Table (List Nat) := []
  stored : Table Line := []
  mtcWait : List Nat := []
  epochCfg : Word := 0x8020C00A
  interlocks : List (Nat × Nat) := []
  snaps : List Snap := []
  halfC : Bool := false
  rasLog : List Nat := []
  keeps : List RoomKeep := []
  deriving DecidableEq, Repr

/-- An acknowledgement on its way to an engine (R484): the engine, the issuing bundle's address and the error found. -/
structure FlagAckMsg where
  (core : Nat) (x : Bool) (addr : Nat) (err : Option Cause)
  deriving DecidableEq, Repr

/-- The Shutter (11). `path` is the remote path in use, true for the fabric (R501); `txSeq` and `rxSeq` hold the next number of each
pair, `rxAck` the status code given to source × 65536 + number (R502). -/
structure Shutter where
  cf : BitVec 4096 := 0
  waiters : List Waiter := []
  flagQ : List FlagMsg := []
  acks : List FlagAckMsg := []
  txSeq : Table Nat := []
  rxSeq : Table Nat := []
  rxAck : Table Nat := []
  remote : List RemoteOp := []
  path : Bool := false
  domCount : Table Nat := []
  domLast : Table Nat := []
  err : BitVec 64 := 0
  deriving DecidableEq, Repr

/-- Commands, rings, registers and counters (14, 20). `regs` holds 32-bit words by BAR0 offset / 4; `msgs` the MSI-X messages sent, address
and data. -/
structure Cmds where
  rings : Table Ring := []
  cmds : List Cmd := []
  cmdNext : Nat := 0
  regs : Table Word := []
  counters : Table Nat := []
  event : BitVec 6 := 0
  msixPend : BitVec 64 := 0
  msgs : List (Nat × Word) := []
  deriving DecidableEq, Repr

/-- A part's facts that outlive a reset: the part-number fields (R1 to R4), cores absent after self-test (R365, R370), channels in the
repair record (32 × stack + channel, R300), core sites not graded (R369), the
contacts TOP_ID1 and TOP_ID0, 1 for open (Table 18.5), the top of the part number in OTP (R9), and the public keys
in the boot ROM, of the firmware and of the debug authority (R678, log 89). -/
structure Fit where
  grade : Nat := 544
  nStacks : Nat := 8
  iodies : Nat := 4
  absent : List Nat := []
  repair : List Nat := []
  badSites : List Nat := []
  topId : BitVec 2 := 0
  partTop : Nat := 2
  fwKey : AuthKey := ⟨0, 0, ⟨List.replicate 16 0, List.replicate 32 0⟩⟩
  dbgKey : AuthKey := ⟨0, 0, ⟨List.replicate 16 0, List.replicate 32 0⟩⟩
  deriving DecidableEq, Repr

/-- A Fixer group (R429, R430, R472). -/
structure GroupSt where
  defined : Bool := false
  record : BitVec 2048 := 0
  t : BitVec 64 := 0
  lastLr : Word := 0
  deriving DecidableEq, Repr

/-- The Fixer (10). -/
structure FixerSt where
  groups : Table GroupSt := []
  deriving DecidableEq, Repr

/-- The fabric (12). `inbox` holds packets accepted by the device and not acted on yet, `held` those of them that arrived in an
idle state, in order (R548), `fwOut` what goes over the firmware path, `fwHeld` what waits while the
management processor is halted (R701);
`segNext` numbers segments and reads. -/
structure Fabric where
  ports : Table Port := []
  inbox : List Packet := []
  held : List Packet := []
  fwOut : List Packet := []
  fwHeld : List Packet := []
  segNext : Nat := 0
  outSegs : List OutSeg := []
  inSegs : List InSeg := []
  reads : List ReadOut := []
  slots : Table Slot := []
  deriving DecidableEq, Repr

/-- Long-run training support (13). `step` is the open step, `expect` the STEP that OPEN must carry, none before the first OPEN; `cfg` is
CFG_TSTRIP as read at the last OPEN; `nf` is STEP_NF, `loss` the posted loss, `checked` says the step's check has run; `verdict`, `vstep`,
`spike`, `nfc`, `lastLoss` are those of the last check, `mean`, `var`, `samples` the statistics; `held` a step waits for RESOLVE,
`discarded` the steps discarded; `logWait` log lines and `postWait` posts that wait until the host
gives their lines back; `segs` is the command log by step modulo 8, `sheetSeq` the SEQ of the last sheet, `sheet`
the one being written. -/
structure Training where
  step : Nat := 0
  expect : Option Nat := none
  cfg : BitVec 64 := 0
  nf : Table Nat := []
  loss : Option Nat := none
  checked : Bool := false
  verdict : Nat := 0
  vstep : Nat := 0
  spike : Bool := false
  nfc : Nat := 0
  held : Bool := false
  discarded : List Nat := []
  mean : Nat := 0
  var : Nat := 0
  samples : Nat := 0
  lastLoss : Nat := 0
  segs : List LogSeg := []
  logWait : List (Nat × Line) := []
  postWait : Nat := 0
  replay : Option ReplaySt := none
  rStatus : Nat := 0
  rReason : Nat := 0
  rFailedAt : Nat := 0
  sheetSeq : Nat := 0
  sheet : Option SheetJob := none
  deriving DecidableEq, Repr

/-- Bring-up (15). `rails` counts the steps of Table 15.2 done, 6 when all are; `state`, `reason`, `phase` are those of STS_BRINGUP;
`claimK` is the index of the CLAIM followed; `acting` that the device acts as coordinator, `gathering` that its gather runs; `admitted` the
reports a coordinator has accepted, `issued` the last roster it has sent; `reported` the coordinator and epoch a
REPORT was signed for; `localDone` says that P2 has ended (R651), `cfgReady` configuration requests are answered (R650). -/
structure Bringup where
  rails : Nat := 0
  railFault : Nat := 0
  aResult : Nat := 0
  bResult : Nat := 0
  booted : Bool := false
  fwRunning : Bool := false
  state : Nat := 0
  reason : Nat := 0
  phase : Nat := 0
  portFail : BitVec 32 := 0
  coord : Nat := 0
  claimK : Option Nat := none
  acting : Bool := false
  nonce : BitVec 256 := 0
  gatherEpoch : Nat := 0
  gathering : Bool := false
  issued : Option Roster := none
  epoch : Nat := 0
  table : Option SysTab := none
  admitted : List Report := []
  reported : List (Nat × Nat) := []
  roster : Option Roster := none
  unacked : List (Nat × CtrlMsg × Nat) := []
  inReset : Bool := false
  perst : Bool := false
  cfgReady : Bool := false
  localDone : Bool := false
  deriving DecidableEq, Repr

/-- Security and debug, in volatile memory (16). `nonce` is the unlock nonce; `session` that a KEY_EXCHANGE has begun a session, `secured` that
it is finished; `cosig` the co-signature held; `keys` the IDE
keys: active and pending of CXL.io, active and pending of CXL.cachemem; `prodKeys` and `dbgKeys` are the keys of the identities; `seq` counts
stop records. `ir` and `boundary` are the instruction register and the boundary-scan register of the TAP, `zdpResult` what the last ZDP_CMD
read, `zdpWait` the command that waits for its line, and `dbgRegs` the registers written through the port. -/
structure Security where
  zdpOpen : Bool := false
  zdpHalted : List ZdpTarget := []
  breakpoints : List ZdpTarget := []
  lastStatus : Nat := 0
  nonce : BitVec 256 := 0
  session : Bool := false
  secured : Bool := false
  cosig : Option (List Nat) := none
  keys : Vector (Option (BitVec 256)) 4 := Vector.replicate 4 none
  prodKeys : Option IdKeys := none
  dbgKeys : Option IdKeys := none
  fwState : Nat := 0
  fwStatus : Nat := 0
  seq : Nat := 0
  ir : BitVec 8 := 0x02
  boundary : Nat := 0
  zdpResult : Nat := 0
  zdpWait : Option (ZdpOp × ZdpAddr × Line) := none
  dbgRegs : Table Nat := []
  deriving DecidableEq, Repr

/-- OTP and SPI NOR (16), which no reset changes: the firmware slots, the preference byte, fuses, journals, the system-table partition, and
the spare rows and columns in use, as STS_MU_SPARES shows them (R248). -/
structure Nv where
  slotA : Option Image := some ⟨true, true, true, 0, 0, []⟩
  slotB : Option Image := none
  pref : Byte := 0
  svn : Nat := 0
  eraseStarted : Bool := false
  debugOpened : Bool := false
  prodSeed : BitVec 256 := 0
  dbgSeed : BitVec 256 := 0
  prod : Journal := { next := some 1, used := 1, cells := [(0, 0xE108E6F900000000FFFFFFFF00000000)] }
  dbgJournal : Journal := {}
  table : Option SysTab := none
  serial : BitVec 128 := 0
  spares : Table (BitVec 64) := []
  deriving DecidableEq, Repr

/-- Power (17). `st` is STATE of STS_POWER, `target` the state of the entry in progress and `prev` the state it
started from; `asked` are the blocks of tier `tier` that
have not answered ACK, `delays` those that have answered DELAY, newest first; `next` is the state that an exit goes on to, `cmd` the
POWER in progress; `samples` the last 100 samples of input power, newest first; `overN` the consecutive samples over the clamp. -/
structure Power where
  off : Bool := false
  st : Nat := 0
  prev : Nat := 0
  target : Nat := 0
  tier : Nat := 0
  asked : List Nat := []
  committed : Bool := false
  delays : List Nat := []
  wake : Bool := false
  next : Nat := 0
  cmd : Option (Nat × Nat) := none
  quota : Nat := 64
  samples : List Nat := []
  inputW : Nat := 0
  tj : Nat := 0
  overN : Nat := 0
  lastReason : Nat := 0
  lastRefuser : Nat := 0
  lastState : Nat := 0
  top : Nat := 0
  topUnknown : Bool := true
  deriving DecidableEq, Repr

/-- Host memory as the device meets it through CXL (R615, R632, R775): bytes, poisoned lines, and the ranges the host refuses; with ATS enabled, the
host's translation of the pages of the addresses it gives, and the translations that the device keeps (log 62). -/
structure HostMem where
  mem : Table Byte := []
  poison : Table Bool := []
  refused : List (Nat × Nat) := []
  ats : Bool := false
  trans : Table Nat := []
  atc : List (Nat × Nat) := []
  deriving DecidableEq, Repr

/-- The device. `pending` is the queue of commands that wait, first in first out; `freeIx` counts the free values drawn (log 6);
`resp` is the last response given outside. -/
structure State where
  pending : List Instr := []
  fit : Fit := {}
  cores : Table Core := []
  m : MemSys := {}
  sh : Shutter := {}
  cm : Cmds := {}
  fx : FixerSt := {}
  fb : Fabric := {}
  tr : Training := {}
  bu : Bringup := {}
  sec : Security := {}
  nv : Nv := {}
  pw : Power := {}
  host : HostMem := {}
  freeIx : Nat := 0
  resp : Resp := .none
  deriving DecidableEq, Repr

/-- The device right after reset (R341, R475, R262, Table 15.1). -/
def State.reset : State := {}

end Sys2Proof.Machine
end

