-- ==== Sys2Proof/Machine/Ops.lean ====
section
/-!
DEFINITION. Named operations over the state: cores and their register files, bytes and lines of the device range, registers of BAR0,
counters. Every read and write of them goes through here.
-/
namespace Sys2Proof.Machine

/-! ### Cores -/

/-- The core as no LAUNCH has touched it. -/
def coreDefault (_ : Nat) : Core := {}

def coreOf (s : State) (c : Nat) : Core := tget coreDefault s.cores c
def setCore (s : State) (c : Nat) (k : Core) : State := { s with cores := tset coreDefault s.cores c k }
def updCore (s : State) (c : Nat) (f : Core → Core) : State := setCore s c (f (coreOf s c))

/-- A logical core that the part has and whose site works (R3, R365). -/
def present (s : State) (c : Nat) : Bool := decide (c < s.fit.grade) && !s.fit.absent.contains c

/-! ### Register files (Table 01.2) -/

def zeroA (_ : Nat) : BitVec 48 := 0
def zeroW (_ : Nat) : Word := 0
def zeroL (_ : Nat) : Line := 0

def getA (k : Core) (i : BitVec 4) : BitVec 48 := tget zeroA k.a i.toNat
def setA (k : Core) (i : BitVec 4) (v : BitVec 48) : Core := { k with a := tset zeroA k.a i.toNat v }
def getS (k : Core) (i : BitVec 5) : Word := tget zeroW k.sr i.toNat
def setS (k : Core) (i : BitVec 5) (v : Word) : Core := { k with sr := tset zeroW k.sr i.toNat v }
def getP (k : Core) (i : BitVec 3) : Bool := k.pr.getLsbD i.toNat
/-- Sets bit `i` of a vector to `b`. -/
def putBit {n : Nat} (x : BitVec n) (i : Nat) (b : Bool) : BitVec n :=
  if b then x ||| BitVec.twoPow n i else x &&& ~~~ BitVec.twoPow n i
def setP (k : Core) (i : BitVec 3) (b : Bool) : Core := { k with pr := putBit k.pr i.toNat b }
def getV (k : Core) (i : Nat) : Line := tget zeroL k.v i
def setV (k : Core) (i : Nat) (v : Line) : Core := { k with v := tset zeroL k.v i v }

def tileDefault (_ : Nat) : Tile := {}
def tileOf (k : Core) (t : Nat) : Tile := tget tileDefault k.tiles t
def setTile (k : Core) (t : Nat) (x : Tile) : Core := { k with tiles := tset tileDefault k.tiles t x }
def accDefault (_ : Nat) : Acc := {}
def accOf (k : Core) (i : Nat) : Acc := tget accDefault k.acc i
def setAcc (k : Core) (i : Nat) (x : Acc) : Core := { k with acc := tset accDefault k.acc i x }
def zeroRow (_ : Nat) : BitVec 1024 := 0
def flagOf (k : Core) (i : Nat) : Bool := k.flags.getLsbD i
def setFlag (k : Core) (i : Nat) (b : Bool) : Core := { k with flags := putBit k.flags i b }

/-! ### Bytes and lines (R13, R287) -/

def zeroB (_ : Nat) : Byte := 0
def noMark (_ : Nat) : Bool := false

/-- `n` bytes from address `a`, little-endian. -/
def readN (m : Table Byte) (a : Nat) : Nat → Nat
  | 0 => 0
  | n + 1 => (tget zeroB m a).toNat + 256 * readN m (a + 1) n

/-- Writes the low `n` bytes of `v` from address `a`, little-endian. -/
def writeN (m : Table Byte) (a : Nat) : Nat → Nat → Table Byte
  | 0, _ => m
  | n + 1, v => writeN (tset zeroB m a (BitVec.ofNat 8 v)) (a + 1) n (v / 256)

/-- Writes those of the low `n` bytes of `v` whose mask bit is set. -/
def writeMasked (m : Table Byte) (a : Nat) : Nat → Nat → Nat → Table Byte
  | 0, _, _ => m
  | n + 1, mask, v =>
    writeMasked (if mask % 2 = 1 then tset zeroB m a (BitVec.ofNat 8 v) else m) (a + 1) n (mask / 2) (v / 256)

def lineOf (addr : Nat) : Nat := addr / 64
def blockOf (addr : Nat) : Nat := addr / 65536
def blockOfLine (l : Nat) : Nat := l / 1024

/-- The contents of a line; a poisoned line reads as zeros (R290). -/
def readLine (s : State) (l : Nat) : Line :=
  if tget noMark s.m.poison l then 0 else BitVec.ofNat 512 (readN s.m.mem (64 * l) 64)

def poisoned (s : State) (l : Nat) : Bool := tget noMark s.m.poison l

/-- Writes all 64 bytes of a line, which clears its poison (R290). -/
def writeLine (s : State) (l : Nat) (v : Line) : State :=
  { s with m := { s.m with mem := writeN s.m.mem (64 * l) 64 v.toNat, poison := tset noMark s.m.poison l false } }

/-- A line marked poisoned: delivered as zeros until 64 bytes replace it (R290). -/
def poisonLine (s : State) (l : Nat) : State :=
  { s with m := { s.m with mem := writeN s.m.mem (64 * l) 64 0, poison := tset noMark s.m.poison l true } }

/-- A write of fewer bytes merges into its line and leaves a poisoned line poisoned (R287, R290). -/
def writeBytes (s : State) (a n v : Nat) : State :=
  if n = 64 && a % 64 == 0 then writeLine s (a / 64) (BitVec.ofNat 512 v)
  else if poisoned s (a / 64) then s
  else { s with m := { s.m with mem := writeN s.m.mem a n v } }

/-- Writes the bytes of a line that a mask names. -/
def writeLineMasked (s : State) (l : Nat) (mask : BitVec 64) (v : Line) : State :=
  if mask = BitVec.allOnes 64 then writeLine s l v
  else if poisoned s l then s
  else { s with m := { s.m with mem := writeMasked s.m.mem (64 * l) 64 mask.toNat v.toNat } }

/-- Writes 64 bytes of a line with poison (R243). -/
def writeLineP (s : State) (l : Nat) (v : Line) (p : Bool) : State := if p then poisonLine s l else writeLine s l v

/-- Bytes of the device range, poisoned lines as zeros. -/
def readBytes (s : State) (a n : Nat) : Nat :=
  match n with
  | 0 => 0
  | n + 1 =>
    (if poisoned s (a / 64) then 0 else (tget zeroB s.m.mem a).toNat) + 256 * readBytes s (a + 1) n

/-- The canonical form of the device range. -/
def Memory.wf (m : MemSys) : Bool := twf zeroB m.mem

/-! ### Registers of BAR0 (R760), as 32-bit words by offset / 4 -/

/-- Reset words of the CFG_ registers whose reset is not 0, by offset / 4 (Table 20.1 and the field maps it names); the vector control
word of an MSI-X entry resets to masked, as PCIe has it (R770, log 5). -/
def regDefault (w : Nat) : Word :=
  let o := 4 * w
  if o = 0x40 then 0x3200                    -- CFG_POWER: ENTRY_LIMIT
  else if o = 0x44 then 0x708                -- CFG_POWER: CAP_W
  else if o = 0x74 then 0x4000               -- CFG_STOP_CTL: DUMP_SLOTS
  else if o = 0x100 then 0x310               -- CFG_CORE_RUNAHEAD
  else if o = 0x104 then 8                   -- CFG_CARAFE_PART
  else if o = 0x108 then 0x10                -- CFG_MEM_MAPOUT
  else if o = 0x10C then 0x8020C00A          -- CFG_EASEL
  else if o = 0x124 then 0xA00               -- CFG_SHUTTER
  else if o = 0x130 then 0x0A141100          -- CFG_BXL: RECOVERY_LIMIT, SEG_TIMEOUT, weights
  else if o = 0x134 then 8                   -- CFG_BXL: RETRY_LIMIT
  else if o = 0x144 then 0x26450             -- CFG_TSTRIP: HOLD_MASK, WARM_STEPS, ALPHA_SHIFT
  else if 0x1000 ≤ o ∧ o < 0x1400 ∧ o % 16 = 12 then 1
  else if 0x2100 ≤ o ∧ o < 0x2180 then 0xC   -- CFG_BXL_PORT: X4_OK, REACH
  else if 0x4000 ≤ o ∧ o < 0x6000 ∧ o % 32 = 24 then 4  -- CFG_RING: LOG2N
  else 0

def reg32 (s : State) (off : Nat) : Word := tget regDefault s.cm.regs (off / 4)
def reg64 (s : State) (off : Nat) : BitVec 64 := reg32 s (off + 4) ++ reg32 s off
def setReg32 (s : State) (off : Nat) (v : Word) : State :=
  { s with cm := { s.cm with regs := tset regDefault s.cm.regs (off / 4) v } }
def setReg64 (s : State) (off : Nat) (v : BitVec 64) : State :=
  setReg32 (setReg32 s off (v.setWidth 32)) (off + 4) ((v >>> 32).setWidth 32)

/-! ### Counters (R16, R771) -/

def zeroN (_ : Nat) : Nat := 0
def counter (s : State) (ix : Nat) : Nat := tget zeroN s.cm.counters ix
/-- Adds `n` to the counter of index `ix`. -/
def bump (s : State) (ix n : Nat) : State :=
  { s with cm := { s.cm with counters := tset zeroN s.cm.counters ix (satInc (counter s ix) n) } }

/-- Index of a counter of logical core `c` (Table 20.4). -/
def cCore (c off : Nat) : Nat := 0x2000 + 64 * c + off
def cSlice (i off : Nat) : Nat := 0x800 + 16 * i + off
def cChan (stack ch off : Nat) : Nat := 0x1000 + 8 * (32 * stack + ch) + off
def cStack (p off : Nat) : Nat := 0x100 + 16 * p + off
def cPort (p off : Nat) : Nat := 0x200 + 16 * p + off
def cRing (r off : Nat) : Nat := 0x400 + 4 * r + off
def cDomain (d : Nat) : Nat := 0x80 + d

def bumpIf (b : Bool) (s : State) (ix n : Nat) : State := if b then bump s ix n else s

/-- Counts the numeric events of a core (Table 02.8). -/
def bumpEv (s : State) (base : Nat) (e : Ev) : State :=
  bumpIf (e.invalid != 0) (bumpIf (e.nanLost != 0) (bumpIf (e.ovf != 0) (bumpIf (e.sat != 0) s base e.sat)
    (base + 1) e.ovf) (base + 2) e.nanLost) (base + 3) e.invalid

/-- Draws the next free value index (log 6). -/
def nextFree (s : State) : State := { s with freeIx := s.freeIx + 1 }

/-! ### Homes (R284, R288) -/

def dirDefault (_ : Nat) : DirEntry := {}
def dirOf (s : State) (b : Nat) : DirEntry := tget dirDefault s.m.dir b
def setDir (s : State) (b : Nat) (e : DirEntry) : State := { s with m := { s.m with dir := tset dirDefault s.m.dir b e } }
def mapped (s : State) (b : Nat) : Bool := (dirOf s b).home != .unmapped
def moveOf (s : State) (b : Nat) : Option Move := s.m.moves.find? (fun v => v.block == b)

def chanDefault (_ : Nat) : Chan := {}
def chanOf (s : State) (stack ch : Nat) : Chan := tget chanDefault s.m.chans (32 * stack + ch)
def setChan (s : State) (stack ch : Nat) (x : Chan) : State :=
  { s with m := { s.m with chans := tset chanDefault s.m.chans (32 * stack + ch) x } }

/-- The bank index of a line of a stack-homed block with block index `q` (R288) (log 27). -/
def bankIndex (q line : Nat) : Nat := (line % 1024 / 32 + 32 * q) % 48

/-- Channel and block index of a stack-homed block (R340). -/
def noPlace (_ : Nat) : Nat × Nat := (0, 0)
def homeAt (s : State) (b : Nat) : Nat × Nat := tget noPlace s.m.homeTab b
def placeOf (s : State) (b : Nat) : Place := ⟨(dirOf s b).home, (homeAt s b).1, (homeAt s b).2⟩
/-- The home of a block becomes a place (or none). -/
def setPlace (s : State) (b : Nat) (p : Place) : State :=
  let t := match p.home with
    | .stack _ => tset noPlace s.m.homeTab b (p.ch, p.q)
    | _ => tset noPlace s.m.homeTab b (0, 0)
  let s1 : State := { s with m := { s.m with homeTab := t } }
  setDir s1 b { dirOf s1 b with home := p.home }

/-- Slices of the position of stack p (Table 01.3). -/
def slicesOf (p : Nat) : List Nat := [6 * p, 6 * p + 1, 6 * p + 2, 6 * p + 3, 6 * p + 4, 6 * p + 5]

/-- The partner position (R306). -/
def partner (p : Nat) : Nat := if p < 4 then p + 4 else p - 4

/-- The cache slice of a line of a block homed in stack p (R307). -/
def cacheSlice (s : State) (p line : Nat) : Nat :=
  let l := if partner p < s.fit.nStacks then slicesOf p else slicesOf p ++ slicesOf (partner p)
  let j := (line % 512 ^^^ line / 512 % 512) % l.length
  l.getD j 0

/-- The sets of a slice's cache partition (R305). -/
def noSet (_ : Nat) : List CLine := []
def setIx (slice line : Nat) : Nat := slice * 2048 + line % 2048
def setOf (s : State) (slice line : Nat) : List CLine := tget noSet s.m.carafe (setIx slice line)

/-- The line of a stack-homed block lies in its cache slice (R308). -/
def cached (s : State) (line : Nat) : Bool :=
  match (dirOf s (blockOfLine line)).home with
  | .stack p => (setOf s (cacheSlice s p line) line).any (fun e => e.line == line)
  | _ => false

end Sys2Proof.Machine
end

