-- ==== Sys2Proof/Config.lean ====
section
/-!
DEFINITION. Free values: results the spec leaves open. Each is a constant without a body, so nothing can be proved of its value
(log 10). All are functions of the operands alone, so that they are the same on every device (R164).
-/
namespace Sys2Proof

/-- The FP32 encoding VRCP and VRSQ choose for an FP32 input, used where it lies within 1 ulp (R164). -/
opaque Config.reciprocal : Nat → Nat
opaque Config.reciprocalRoot : Nat → Nat
/-- The FP32 encodings VEXP2 and VLOG2 choose for a finite FP32 input that is no special case, used where they lie within 1 ulp (R164). -/
opaque Config.exp2 : Nat → Nat
opaque Config.log2 : Nat → Nat
/-- The FP32 value of cos(π f) for an FP32 f in a schedule, used where it lies within 1 ulp (R467). -/
opaque Config.cosPi : Nat → Nat
/-- The FP32 value of WARM_START^(1 − x) for FP32 encodings of WARM_START and x (R467). -/
opaque Config.warmPower : Nat → Nat → Nat
/-- The stack position that homes a block of another device (R328, R404): this device cannot know it. -/
opaque Config.remoteStack : Nat → Nat → Nat
/-- Whether a line whose write was in flight, or a line not ordered before a refusal, had been written when the refusal was seen (R632). -/
opaque Config.writtenBefore : Nat → Nat → Bool
/-- A row of an EMPTY tile, whose contents are not defined (R210), by draw number, tile and row. -/
opaque Config.emptyTile : Nat → Nat → Nat → Line
/-- Bank operations of an arriving tile line that other users of the banks have delayed (R217), by draw number: no row says when the line reached the
landing buffer (log 11). -/
opaque Config.bankDelays : Nat → Nat
/-- A byte of a packet body whose layout the spec does not give (Table 12.8), and the padding of a sub-flit (R522). -/
opaque Config.bodyByte : Machine.Payload → Nat → BitVec 8
opaque Config.padByte : BitVec 8
/-- A byte of the module's identity record, by identity: what the identity authority signed at manufacture, and the codes of grade and top
(Table 16.4). -/
opaque Config.identityByte : Bool → Nat → BitVec 8
/-- Salt and info of the derivation of a key, by identity and key (R686). -/
opaque Config.keySalt : List Nat
opaque Config.keyInfo : Bool → Nat → List Nat
/-- The random numbers of a pair of signatures, by draw number (R679): 384 bits for ECDSA, 256 for each LM-OTS signature. -/
opaque Config.signRandom : Nat → BitVec 896
/-- The SPDM 1.3 message that a response signs, its prefix and the hash of the transcript, by draw number (R695). -/
opaque Config.spdmMessage : Nat → BitVec 1184
/-- The digests of the boot ROM and of the image that slot A holds from manufacture (Table 16.6). -/
opaque Config.romDigest : BitVec 384
opaque Config.factoryDigest : BitVec 384
/-- The certificate chain of an identity (Table 16.5): its length and its bytes. -/
opaque Config.chainLength : Bool → Nat
opaque Config.chainByte : Bool → Nat → BitVec 8
/-- A byte of the SPI NOR that nothing here gives (Table 16.3), by address. -/
opaque Config.norByte : Nat → BitVec 8
/-- The boundary-scan register as the pins are, by draw number (R699). -/
opaque Config.pins : Nat → Nat
/-- A line of the header of a log segment (R574), whose layout the spec does not give, by draw number and line. -/
opaque Config.logHeader : Nat → Nat → Line
/-- Random numbers drawn by the device: nonces and keys (R658, R665, R702), by draw number. -/
opaque Config.nonce : Nat → BitVec 256
/-- A word of the configuration space of function 0 (R611): its contents beyond what the spec names. -/
opaque Config.configWord : Nat → BitVec 32

/-- Bits of a configuration word that advertise a feature of Table 14.2 (R612); the structures are PCIe's and CXL's (log 10). -/
opaque Config.unsupportedBits : Nat → BitVec 32
/-- Silicon revision and JEDEC code of IDCODE (Table 16.8). -/
opaque Config.siliconRevision : BitVec 4
opaque Config.jedecCode : BitVec 11
/-- What ZDP_CMD reads of a register of the management processor or of a ring command processor (R700), by draw number, target and register. -/
opaque Config.debugRead : Nat → Nat → Nat → Nat
/-- The status that a ZDP_CMD leaves which its target does not allow (R700). -/
opaque Config.debugStatus : Nat → BitVec 16

end Sys2Proof
end

