-- ==== Sys2Proof/Machine/Wire.lean ====
section
/-!
DEFINITION. What goes over a link, byte by byte (12): packet headers and bodies, flits with their CRC, and the lanes that carry them.
-/
namespace Sys2Proof.Machine

/-- CRC-32 of IEEE 802.3, bit by bit over bytes. -/
def crcBits : Nat → Nat → Nat
  | 0, c => c
  | n + 1, c => crcBits n (if c % 2 = 1 then c / 2 ^^^ 0xEDB88320 else c / 2)
def crcGo : Nat → Nat → Nat → Nat
  | 0, _, c => c
  | n + 1, v, c => crcGo n (v / 256) (crcBits 8 (c ^^^ v % 256))
/-- The CRC of the low `n` bytes of `v`. -/
def crc32 (n v : Nat) : Nat := crcGo n v 0xFFFFFFFF ^^^ 0xFFFFFFFF

/-- The low `n` bytes of a number, the lowest first (R13). -/
def leBytes : Nat → Nat → List Byte
  | 0, _ => []
  | n + 1, v => BitVec.ofNat 8 v :: leBytes n (v / 256)

/-! ### Packets (Tables 12.7 to 12.9) -/

/-- TYPE (Table 12.8). -/
def typeCode : Payload → Nat
  | .null => 0x00
  | .flagOp _ _ => 0x01
  | .flagAck _ => 0x02
  | .ctrl _ => 0x10
  | .segAck _ _ => 0x11
  | .segAbort _ _ => 0x12
  | .window _ => 0x13
  | .redData .. => 0x20
  | .write .. => 0x30
  | .readReq .. => 0x31
  | .readData .. => 0x32

/-- The 16-byte header (Table 12.7). -/
def packetHeader (p : Packet) : List Byte :=
  [BitVec.ofNat 8 (typeCode p.body), BitVec.ofNat 8 (32 * p.hops + 4 * p.hidx)] ++ leBytes 2 (p.dst % 4096) ++ leBytes 2 (p.src % 4096) ++
  (List.range 6).map (fun i => BitVec.ofNat 8 (p.route.getD i 0)) ++ leBytes 2 p.len ++ leBytes 2 p.tseq

/-- The body that carries lines (Table 12.9). -/
def linesBody (group segid : Nat) (mask pmask : BitVec 16) (last : Option Nat) (lines : List Line) : List Byte :=
  leBytes 5 (1024 * group) ++ leBytes 2 segid ++ leBytes 2 mask.toNat ++ leBytes 2 pmask.toNat ++
  leBytes 2 (match last with
    | some n => 2 ^ 15 + n
    | none => 0) ++ leBytes 3 0 ++ lines.flatMap (fun l => leBytes 64 l.toNat)

/-- A body: as Table 12.9 has it, or in a layout that the spec does not give (log 10). -/
def packetBody (p : Packet) : List Byte :=
  match p.body with
  | .null => []
  | .write group segid mask pmask last lines => linesBody group segid mask pmask last lines
  | .readData group tag mask pmask lines => linesBody group tag mask pmask none lines
  | b => (List.range p.len).map (Config.bodyByte b)

def packetBytes (p : Packet) : List Byte := packetHeader p ++ packetBody p

/-! ### Flits (Tables 12.2 to 12.4) -/

def nullPacket : Packet := { vc := 0, hops := 0, hidx := 0, dst := 0, src := 0, route := [], tseq := 0, len := 0, body := .null }
/-- A part ends its packet. -/
def Part.ends (a : Part) : Bool := a.off + a.n == 16 + a.pkt.len
def subBytes (f : SubFlit) : Nat := f.parts.foldl (fun n a => n + a.n) 0

def partBytes (a : Part) : List Byte :=
  if a.pkt.body == .null then 0x00 :: List.replicate (a.n - 1) Config.padByte else ((packetBytes a.pkt).drop a.off).take a.n

/-- A sub-flit with its header (Table 12.4); `cap` is its payload. -/
def subFlitBytes (cap : Nat) (f : SubFlit) : List Byte :=
  BitVec.ofNat 8 (64 * f.vc.toNat + if f.idle then 32 else 0) ::
  if f.idle then List.replicate cap Config.padByte else f.parts.flatMap partBytes

/-- The header (Table 12.3). -/
def flitHeader (f : Flit) : Nat :=
  2 ^ 20 * f.seq.toNat + 2 ^ 8 * f.ack.toNat + (if f.ctrl then 2 ^ 7 else 0) + (if f.nak then 2 ^ 6 else 0) + 2 ^ 4 * f.crvc.toNat + f.crcnt.toNat

def subCaps : List Nat := [59, 63, 63, 59]
/-- Bytes 0 to 251. -/
def flitFront (f : Flit) : List Byte := leBytes 4 (flitHeader f) ++ (subCaps.zip f.subs).flatMap (fun e => subFlitBytes e.1 e.2)
/-- The 256 bytes of a flit, the CRC-32 of the others last (Table 12.2). -/
def flitBytes (f : Flit) : List Byte :=
  flitFront f ++ leBytes 4 (crc32 252 (packBits 8 ((flitFront f).map BitVec.toNat)))

/-! ### Lanes (R518 to R520) -/

/-- The lanes in use: all eight, or the half that has no failed lane. -/
def lanesOf (x : Port) : List Nat :=
  if x.width = 8 then List.range 8 else if x.laneFail.toNat % 16 = 0 then List.range 4 else (List.range 4).map (4 + ·)

/-- The bytes of a flit on the j-th lane in use: byte i goes to lane i mod W (R520). -/
def laneBytes (x : Port) (f : Flit) (j : Nat) : List Byte :=
  let b := flitBytes f
  (List.range (256 / max 1 x.width)).map (fun i => b.getD (i * x.width + j) 0)

/-- The pins of a lane, in the order that training found (R519). -/
def pinOf (x : Port) (lane : Nat) : Nat := if x.reversed then 7 - lane else lane
/-- What a lane carries, from what its pins receive: the port corrects order and polarity (R519). -/
def laneIn (x : Port) (pins : Nat → List Byte) (lane : Nat) : List Byte :=
  (pins (pinOf x lane)).map (fun b => if x.polarity.getLsbD (pinOf x lane) then ~~~b else b)

/-- Bits of a lane's bytes in one codeword: 514 symbols of 10 bits (R518). -/
def wordBits : Nat := 5140
/-- The codewords of a lane in which flit number `n` has bytes, at width `w`. -/
def flitWords (w n : Nat) : List Nat :=
  let k := 8 * (256 / max 1 w)
  let a := n * k / wordBits
  (List.range ((n * k + k - 1) / wordBits - a + 1)).map (a + ·)

/-- The codewords decoded by the time flit number `n` has arrived, each once: those known, and the others with the errors that the check gives. -/
def decodeWords (x : Port) (c : RxCheck) : List (Nat × Nat × Nat) :=
  ((lanesOf x).flatMap (fun l => (flitWords x.width x.rxFlits).map (fun w => (pinOf x l, w)))).filterMap (fun k =>
    if x.rxWords.any (fun q => q.1 == k.1 && q.2.1 == k.2) then none
    else some (k.1, k.2, ((c.words.find? (fun q => q.1 == k.1 && q.2.1 == k.2)).map (fun q => q.2.2)).getD 0))

end Sys2Proof.Machine
end

