-- ==== Sys2Proof/Machine/Fabric0.lean ====
section
/-!
DEFINITION. Ports, routes and the sending of packets (R527, R535 to R539): the part of the fabric that flags and moves use.
-/
namespace Sys2Proof.Machine

def portDefault (_ : Nat) : Port := {}
def portOf (s : State) (p : Nat) : Port := tget portDefault s.fb.ports p
def setPort (s : State) (p : Nat) (x : Port) : State := { s with fb := { s.fb with ports := tset portDefault s.fb.ports p x } }

/-- A port the part has (R6). -/
def portPresent (s : State) (p : Nat) : Bool := decide (p < 8 * s.fit.iodies)

/-- The device holds fabric traffic: it is in C1, C2 or C3, or on its way out, or an entry asks the slices or has passed them (R477, R721,
R728). -/
def asleep (s : State) : Bool := s.pw.st == 1 || s.pw.st == 2 || s.pw.st == 3 || s.pw.st == 5 || (s.pw.st == 4 && decide (3 ≤ s.pw.tier))

/-- A wake event (R728, R729): in C1, C2 or C3 the exit begins; during an entry it is kept until the entry ends. -/
def wakeUp (s : State) : State :=
  if s.pw.st == 4 then { s with pw := { s.pw with wake := true } }
  else if s.pw.st == 1 || s.pw.st == 2 || s.pw.st == 3 then { s with pw := { s.pw with prev := s.pw.st, st := 5, next := 0 } }
  else s

/-- Tier of a block ID (Table 17.2). -/
def tierOfBlock (id : Nat) : Nat :=
  let k := id / 4096
  if k = 0 then 1 else if k ≤ 4 then 2 else if k = 5 then 3 else if k = 6 then 4 else 5

/-- A block that has answered ACK to the entry in progress holds the work that reaches it (R721). -/
def blockHeld (s : State) (id : Nat) : Bool :=
  s.pw.st == 4 && (decide (tierOfBlock id < s.pw.tier) || (tierOfBlock id == s.pw.tier && !s.pw.asked.contains id) || s.pw.committed) &&
  (decide (id / 4096 < 6) || s.pw.target == 3)

/-- The compute dies are stopped: C1, C2 or C3, or an exit from it (Table 17.1, R730). -/
def stopped (s : State) : Bool := s.pw.st == 1 || s.pw.st == 2 || s.pw.st == 3 || s.pw.st == 5
/-- A block takes up no work that reaches it: the compute dies are stopped, or it has answered ACK to the entry in progress (R721, Table 17.1). -/
def blockRests (s : State) (id : Nat) : Bool := stopped s || blockHeld s id
/-- The block of a flag's holder (Table 17.2). -/
def holderBlock : FlagRef → Nat
  | .core c _ => c
  | .chip n => 4096 * 5 + n % 48

/-- The debug port has halted the management processor: firmware serves nothing (R701). -/
def mgmtHalted (s : State) : Bool := s.sec.zdpHalted.contains .mgmt

/-- Bits [hi:lo] of a 64-bit register as a number. -/
def field64 (v : BitVec 64) (hi lo : Nat) : Nat := v.toNat / 2 ^ lo % 2 ^ (hi + 1 - lo)

/-- CFG_BXL (Table 12.14) and the device number (R534). -/
def cfgBxl (s : State) : BitVec 64 := reg64 s 0x130
def devNum (s : State) : Nat := field64 (cfgBxl s) 51 40

/-- Route k toward a device (Table 12.17). -/
def routeWord (s : State) (dst k : Nat) : BitVec 64 := reg64 s (0x100000 + 32 * dst + 8 * k)
def routeValid (s : State) (dst k : Nat) : Bool :=
  let w := routeWord s dst k
  w.getLsbD 63 && field64 w 57 55 != 7
def routePort (s : State) (dst k : Nat) : Nat := field64 (routeWord s dst k) 62 58
/-- R537. -/
def routeUsable (s : State) (dst k : Nat) : Bool :=
  routeValid s dst k && portPresent s (routePort s dst k) && (portOf s (routePort s dst k)).st == .up
def anyRoute (s : State) (dst : Nat) : Bool := (List.range 4).any (routeValid s dst)
def usableRoutes (s : State) (dst : Nat) : List Nat := (List.range 4).filter (routeUsable s dst)

/-- The hops of a route after its source port. -/
def routeHops (s : State) (dst k : Nat) : List Nat :=
  (List.range (field64 (routeWord s dst k) 57 55)).map (fun i => field64 (routeWord s dst k) (8 * i + 7) (8 * i))

/-! ### Receive buffers (R528, R531) -/

/-- Credits of a virtual channel are kept back: VC0 before READY (R531, R670) (log 41). Traffic held in an idle state stays in its buffer, and
so keeps its credits (R477, R548). -/
def withholds (s : State) (v : Nat) : Bool := v == 0 && s.bu.state != 3

/-- `n` sub-flits of virtual channel `v` have left a port's buffer: their credits go back to the partner. -/
def creditBack (s : State) (p v n : Nat) : State :=
  let x := portOf s p
  if n = 0 then s
  else if withholds s v then setPort s p { x with withheld := x.withheld.setIfInBounds v (x.withheld.getD v 0 + n) }
  else setPort s p { x with owed := x.owed.setIfInBounds v (x.owed.getD v 0 + n) }

/-- A packet leaves the receive buffer that holds it. -/
def freeHeld (s : State) (k : Packet) : State :=
  match s.fb.ports.find? (fun e => e.2.rxHeld.any (fun h => h.1 == k)) with
  | none => s
  | some (p, x) =>
    match x.rxHeld.find? (fun h => h.1 == k) with
    | some h => creditBack (setPort s p { x with rxHeld := x.rxHeld.erase h }) p k.vc.toNat h.2
    | none => s

/-- A packet that cannot be acted on yet stays accepted. -/
def keepPacket (s : State) (p : Packet) : State :=
  if s.fb.inbox.contains p then s else { s with fb := { s.fb with inbox := s.fb.inbox ++ [p] } }

/-- In an idle state, flag operations and packets of R548 are applied later in arrival order (R477, R730). -/
def holdPacket (s : State) (k : Packet) : State :=
  match k.body with
  | .flagOp _ _ | .write .. | .readReq .. | .redData .. => if s.fb.held.contains k then s else { s with fb := { s.fb with held := s.fb.held ++ [k] } }
  | _ => s

/-- Queues a packet on a port, to be sent sub-flit by sub-flit (R529); its header takes 16 bytes (R532). -/
def enqueue (s : State) (p : Nat) (pk : Packet) : State :=
  let x := portOf s p
  let i := pk.vc.toNat
  setPort s p { x with queue := x.queue.setIfInBounds i (x.queue.getD i [] ++ [(pk, 16 + pk.len)]) }

/-- Sends a body to a device through port `p`, with the hops that follow it. -/
def sendVia (s : State) (p : Nat) (route : List Nat) (vc : BitVec 2) (dst tseq len : Nat) (b : Payload) : State :=
  enqueue s p { vc := vc, hops := route.length, hidx := 0, dst := dst, src := devNum s, route := route, tseq := tseq, len := len, body := b }

/-- Sends a body to a device over route `k`. -/
def sendOn (s : State) (k : Nat) (vc : BitVec 2) (dst tseq len : Nat) (b : Payload) : State :=
  sendVia s (routePort s dst k) (routeHops s dst k) vc dst tseq len b

/-- The firmware path takes a packet (R500, R539), which waits while the management processor is halted (R701). -/
def sendFw (s : State) (vc : BitVec 2) (dst tseq len : Nat) (b : Payload) : State :=
  let p : Packet := { vc := vc, hops := 0, hidx := 0, dst := dst, src := devNum s, route := [], tseq := tseq, len := len, body := b }
  { s with fb := if mgmtHalted s then { s.fb with fwHeld := s.fb.fwHeld ++ [p] } else { s.fb with fwOut := s.fb.fwOut ++ [p] } }

/-- A packet of VC0 or VC1 that this device has sent to `dst`. -/
def lowPacket (s : State) (dst : Nat) (p : Packet) : Bool := decide (p.vc.toNat < 2) && p.src == devNum s && p.dst == dst
/-- Those on a port whose flits are not all acknowledged. -/
def lowPending (s : State) (dst : Nat) (x : Port) : List Packet :=
  ((List.range 2).flatMap (fun v => (x.queue.getD v []).map (·.1)) ++ x.retry.flatMap (fun r => r.f.subs.flatMap (fun q => q.parts.map (·.pkt)))).filter
    (lowPacket s dst)

/-- The route that VC0 and VC1 packets to a destination are on, as its port and hops: that of a packet whose flits are not acknowledged, or of a
flag operation whose holder has not answered (R501, R538). -/
def lowInUse (s : State) (dst : Nat) : Option (Nat × List Nat) :=
  match s.fb.ports.findSome? (fun e => (lowPending s dst e.2).head?.map (fun p => (e.1, p.route))) with
  | some r => some r
  | none => (s.sh.remote.find? (fun q => q.sent && !q.fw && q.dst == dst && (portOf s q.port).st != .down)).map (fun q => (q.port, q.hops))

/-- The route of VC0 and VC1 packets: the lowest usable one; a change of it takes effect once all that was sent on the old one is acknowledged, so
until then they stay on that (R538, R568) (log 42). -/
def lowRoute (s : State) (dst : Nat) : Option (Nat × List Nat) :=
  match lowInUse s dst with
  | some r => some r
  | none => (usableRoutes s dst).head?.map (fun k => (routePort s dst k, routeHops s dst k))

/-- Sends a VC0 or VC1 packet (R538); with no usable route it goes over the firmware path. -/
def sendLow (s : State) (vc : BitVec 2) (dst tseq len : Nat) (b : Payload) : State :=
  match lowRoute s dst with
  | some r => sendVia s r.1 r.2 vc dst tseq len b
  | none => sendFw s vc dst tseq len b

/-- Sends packet `n` of a spread stream over the usable routes in turn (R538). -/
def sendSpread (s : State) (n : Nat) (vc : BitVec 2) (dst len : Nat) (b : Payload) : State :=
  let u := usableRoutes s dst
  match u[n % u.length]? with
  | some k => sendOn s k vc dst 0 len b
  | none => sendFw s vc dst 0 len b

end Sys2Proof.Machine
end

