-- ==== Sys2Proof/Machine/Float.lean ====
section
/-!
DEFINITION. FP32 arithmetic on encodings (R448): every operation takes FP32 operands and rounds its result once, RNE; sums of products
are formed exactly and rounded once.
-/
namespace Sys2Proof.Machine

def f32 (x : Exact) : Nat := (roundNum 0 none x).1
def val32 (x : Nat) : Exact := decodeNum 0 x
def fAdd (a b : Nat) : Nat := f32 (nadd (val32 a) (val32 b)).1
def fSub (a b : Nat) : Nat := f32 (nadd (val32 a) (nneg (val32 b))).1
def fMul (a b : Nat) : Nat := f32 (nmul (val32 a) (val32 b)).1
def fDiv (a b : Nat) : Nat := f32 (ndiv (val32 a) (val32 b)).1
def fSqrt (a : Nat) : Nat := f32 (nsqrt (val32 a)).1
def fLt (a b : Nat) : Bool := nlt (val32 a) (val32 b)
def fMax (a b : Nat) : Nat := if fLt a b then b else a
def fMin (a b : Nat) : Nat := if fLt b a then b else a
def finite32 (x : Nat) : Bool :=
  match val32 x with
  | .fin _ _ _ => true
  | _ => false
def fZero : Nat := 0
def fOne : Nat := 0x3F800000
/-- The FP32 nearest to a natural number, and to a quotient of two. -/
def fNat (n : Nat) : Nat := f32 (.fin false n 0)
def fQuot (a b : Nat) : Nat := f32 (ndiv (.fin false a 0) (.fin false b 0)).1
/-- The value is zero, below zero. -/
def fIsZero (x : Nat) : Bool := x % 2 ^ 31 == 0
def fNeg (x : Nat) : Bool := fLt x fZero

/-- Powers by repeated squaring, the squarings taken from the least significant bit of the exponent upward (R448). -/
def fPowGo : Nat → Nat → Nat → Nat → Nat
  | 0, _, _, r => r
  | n + 1, x, k, r => if k = 0 then r else fPowGo n (fMul x x) (k / 2) (if k % 2 = 1 then fMul r x else r)
def fPow (x k : Nat) : Nat := fPowGo 64 x k fOne

/-- The exact sum of products of two lists. -/
def dotExact : List Nat → List Nat → Exact
  | a :: as, b :: bs => (nadd (nmul (val32 a) (val32 b)).1 (dotExact as bs)).1
  | _, _ => .fin false 0 0
def fDot (a b : List Nat) : Nat := f32 (dotExact a b)
/-- The sum of products is NaN from operands that are not (R62). -/
def dotInvalid : List Nat → List Nat → Bool
  | a :: as, b :: bs =>
    let p := nmul (val32 a) (val32 b)
    p.2 || (nadd p.1 (dotExact as bs)).2 || dotInvalid as bs
  | _, _ => false

/-! ### Expressions with their events -/

/-- An expression over FP32 encodings, one operation a node (R448). -/
inductive FEx where
  | val (x : Nat) | add (a b : FEx) | sub (a b : FEx) | mul (a b : FEx) | div (a b : FEx) | sqrt (a : FEx) | dot (a b : List Nat)

/-- An operation on results whose events are `e`. -/
def fexOp (e : Ev) (z : Exact × Bool) : Nat × Ev :=
  let y := fp32 z
  (y.1, evAdd e y.2)

/-- The value of an expression, and the events of all its operations (R62, R70, R96). -/
def fexRun : FEx → Nat × Ev
  | .val x => (x, {})
  | .add a b => let x := fexRun a; let y := fexRun b; fexOp (evAdd x.2 y.2) (nadd (val32 x.1) (val32 y.1))
  | .sub a b => let x := fexRun a; let y := fexRun b; fexOp (evAdd x.2 y.2) (nadd (val32 x.1) (nneg (val32 y.1)))
  | .mul a b => let x := fexRun a; let y := fexRun b; fexOp (evAdd x.2 y.2) (nmul (val32 x.1) (val32 y.1))
  | .div a b => let x := fexRun a; let y := fexRun b; fexOp (evAdd x.2 y.2) (ndiv (val32 x.1) (val32 y.1))
  | .sqrt a => let x := fexRun a; fexOp x.2 (nsqrt (val32 x.1))
  | .dot a b => fexOp {} (dotExact a b, dotInvalid a b)

/-- One expression an element; the events of all elements are counted (R96). -/
abbrev Vals := List Nat × Ev
def fexList (l : List FEx) : Vals := l.foldr (fun x r => let y := fexRun x; (y.1 :: r.1, evAdd y.2 r.2)) ([], {})
def fexMap (f : Nat → FEx) (l : List Nat) : Vals := fexList (l.map f)
def fexMap2 (f : Nat → Nat → FEx) : List Nat → List Nat → List FEx
  | a :: as, b :: bs => f a b :: fexMap2 f as bs
  | _, _ => []
def fexMap3 (f : Nat → Nat → Nat → FEx) : List Nat → List Nat → List Nat → List FEx
  | a :: as, b :: bs, c :: cs => f a b c :: fexMap3 f as bs cs
  | _, _, _ => []

end Sys2Proof.Machine
end

