-- ==== Sys2Proof/Machine/Strip.lean ====
section
/-!
DEFINITION. What flags and commands share with the Test strip and the command log (13): reports of non-finite values, loss posts, and the
logging of a command once its wait selector has completed.
-/
namespace Sys2Proof.Machine

/-- Values reported to the Test strip under a class (R585). -/
def tsReport (s : State) (c n : Nat) : State :=
  if n = 0 then s
  else bump { s with tr := { s.tr with nf := tset zeroN s.tr.nf c (tget zeroN s.tr.nf c + n) } } (31 + c) n

/-- Lines that the host has read with a cacheable request and not given back (R619). -/
def hostHolds (s : State) (line : Nat) : Bool := s.m.snoop.contains line
/-- Sends BISnpInv for a line once (R619). -/
def sendBisnp (s : State) (line : Nat) : State :=
  if s.m.bisnp.contains line then s else bump { s with m := { s.m with bisnp := s.m.bisnp ++ [line] } } 62 1

/-! ### MSI-X and events (R641, R642) -/

/-- The message of an MSI-X vector: address and data of its table entry go out on the link (R641, R770), and the message counts (Table 14.11). -/
def msixEmit (s : State) (v : Nat) : State :=
  bump { s with cm := { s.cm with msgs := s.cm.msgs ++ [((reg64 s (0x1000 + 16 * v)).toNat, reg32 s (0x1000 + 16 * v + 8))] } } 63 1

/-- What the device tells an MSI-X vector (R641, R770): a vector that is pending or masked sends nothing more; a masked trigger is left
pending. An entry's mask bit is bit 0 of its last word (log 5). -/
def msixSend (s : State) (v : Nat) : State :=
  if s.cm.msixPend.getLsbD v then s
  else if (reg32 s (0x1000 + 16 * v + 12)).getLsbD 0 then { s with cm := { s.cm with msixPend := putBit s.cm.msixPend v true } }
  else msixEmit s v

/-- An event of STS_EVENT (R642). -/
def raiseEvent (s : State) (k : Nat) : State :=
  let s1 := { s with cm := { s.cm with event := putBit s.cm.event k true } }
  let c := reg64 s 0x60
  if c.getLsbD 63 && c.getLsbD (8 + k) then msixSend s1 (field64 c 5 0) else s1

/-! ### Loss posts (R586, R587) -/

def postByte (line k : Nat) : Nat := line / 2 ^ (8 * k) % 256
def postWord (line k : Nat) : Nat := line / 2 ^ (8 * k) % 2 ^ 32

/-- The counts that a post line carries for classes 4 to 7. -/
def postCounts (line : Nat) : List Nat → State → State
  | [], s => s
  | k :: t, s => postCounts line t (if postByte line 4 / 2 ^ k % 2 = 1 then tsReport s k (postWord line (4 * k - 8)) else s)

/-- The loss that a post line carries. -/
def postLoss (s : State) (line : Nat) : State :=
  if postByte line 4 % 2 = 1 then
    let l := postWord line 0
    let s1 := bumpIf s.tr.loss.isSome s 43 1
    let s2 := if finite32 l then s1 else tsReport s1 3 1
    { s2 with tr := { s2.tr with loss := some l } }
  else s

/-- Address of the post line. -/
def postAddr (s : State) : Nat := field64 (reg64 s 0x148) 39 6 * 64
/-- What the post line carries reaches the open step; after the check of its step a post is discarded (R587). -/
def takePost (s : State) : State :=
  if s.tr.checked then bump s 44 1
  else
    let line := readBytes s (postAddr s) 64
    postCounts line [4, 5, 6, 7] (postLoss s line)
/-- The Test strip reads the post line, once the host has given it back (R586, R619). -/
def stripPost (s : State) : State :=
  if hostHolds s (postAddr s / 64) then sendBisnp { s with tr := { s.tr with postWait := s.tr.postWait + 1 } } (postAddr s / 64)
  else takePost s

/-! ### The check of a step (R588 to R591) -/

def sigmaK (s : State) : Nat := field64 (reg64 s 0x150) 63 32
def sigmaMin (s : State) : Nat := field64 (reg64 s 0x150) 31 0
def tsEn (s : State) : Bool := s.tr.cfg.getLsbD 63
def holdWait (s : State) : Bool := !s.tr.cfg.getLsbD 62

/-- Classes that hold the step. -/
def holdClasses (s : State) : Nat :=
  ((List.range 8).filter (fun c => c != 2 && s.tr.cfg.getLsbD (48 + c) && tget zeroN s.tr.nf c != 0)).foldl (fun m c => m + 2 ^ c) 0

/-- The finite loss posted in the open step. -/
def finiteLoss (s : State) : Option Nat :=
  match s.tr.loss with
  | some l => if finite32 l then some l else none
  | none => none

def spikeTest (s : State) : Bool :=
  match finiteLoss s with
  | some l => !fIsZero (sigmaK s) && decide (field64 s.tr.cfg 47 40 ≤ s.tr.samples) &&
      fLt (fMul (sigmaK s) (fMax (fSqrt s.tr.var) (sigmaMin s))) (fSub l s.tr.mean)
  | none => false

/-- 2^−ALPHA_SHIFT, 0 acting as 1. -/
def alpha (s : State) : Nat := f32 (.fin false 1 (-(Int.ofNat (max 1 (field64 s.tr.cfg 39 36)))))

/-- The statistics take a finite loss of a step that passes. -/
def takeLoss (s : State) : Training :=
  match finiteLoss s with
  | none => s.tr
  | some l =>
    let n := min (s.tr.samples + 1) (2 ^ 32 - 1)
    if s.tr.samples = 0 then { s.tr with mean := l, var := 0, samples := n }
    else
      let a := alpha s
      let d := fSub l s.tr.mean
      { s.tr with mean := fAdd s.tr.mean (fMul a d), var := fMul (fSub fOne a) (fAdd s.tr.var (fMul (fMul a d) d)), samples := n }

/-- The step of the last verdict is discarded: each of its STEPs, whenever its row comes (R591). -/
def discardStep (s : State) : State :=
  bump { s with tr := { s.tr with held := false, verdict := 3,
                                  discarded := if s.tr.discarded.contains s.tr.vstep then s.tr.discarded else s.tr.discarded ++ [s.tr.vstep] } } 42 1

/-- A SET of the Test strip goes to its chip flag (R590). -/
def stripSet (s : State) (i : Nat) : State :=
  { s with sh := { s.sh with flagQ := s.sh.flagQ ++ [{ who := .tstrip, flag := .chip i, op := .set, addr := 0 }] } }

/-- The check of the open step, made once (R588). With EN 0 it passes and changes nothing (R589). -/
def tsCheck (s : State) : State :=
  if s.tr.checked then s
  else if !tsEn s then { s with tr := { s.tr with checked := true } }
  else
    let cls := holdClasses s
    let spike := spikeTest s
    let last := s.tr.loss.getD s.tr.lastLoss
    let s1 := bump s 39 1
    if cls = 0 ∧ spike = false then
      { s1 with tr := { takeLoss s1 with checked := true, verdict := 1, vstep := s.tr.step, spike := false, nfc := 0, lastLoss := last } }
    else
      let s2 := { s1 with tr := { s1.tr with checked := true, verdict := 2, held := holdWait s, vstep := s.tr.step, spike := spike, nfc := cls,
                                             lastLoss := last } }
      let s3 := raiseEvent (bumpIf spike (bumpIf (cls != 0) s2 40 1) 41 1) 2
      let s4 := if s.tr.cfg.getLsbD 61 then stripSet s3 (field64 s.tr.cfg 35 24) else s3
      if holdWait s then s4 else discardStep s4

/-! ### The command log (R573 to R576, R329) -/

def logEn (s : State) : Bool := (reg64 s 0x158).getLsbD 63
def logAddr (s : State) : Nat := field64 (reg64 s 0x158) 39 21 * 2 ^ 21
def segOf (s : State) (step : Nat) : Option LogSeg := s.tr.segs.find? (fun g => g.step == step)
def putSeg (s : State) (g : LogSeg) : State :=
  { s with tr := { s.tr with segs := s.tr.segs.map (fun h => if h.step == g.step then g else h) } }

/-- Bits of a descriptor. -/
def descBits (d : Line) (lo w : Nat) : Nat := d.toNat / 2 ^ lo % 2 ^ w
/-- Commands that are not logged (R575); an OPEN is logged in the segment that it begins. -/
def unlogged (d : Line) : Bool := [0x01, 0x40, 0x43, 0x44, 0x45, 0x60, 0x70].contains (descBits d 0 8)
/-- Commands that mark their step NOREPLAY (R576). -/
def noReplay (d : Line) : Bool :=
  let op := descBits d 0 8
  op == 0x30 || op == 0x31 || (op == 0x42 && descBits d 64 2 != 0) || (op == 0x41 && (descBits d 64 2 == 1 || descBits d 64 2 == 2))

/-- A line of the log is written once the host has given it back and no copy of its block runs (R357, R573, R619). -/
def logWrite (s : State) (l : Nat) (d : Line) : State :=
  if hostHolds s l then sendBisnp { s with tr := { s.tr with logWait := s.tr.logWait ++ [(l, d)] } } l
  else if (dirOf s (blockOfLine l)).mig then { s with tr := { s.tr with logWait := s.tr.logWait ++ [(l, d)] } }
  else writeLine s l d

/-- Log lines that waited are written, and posts that waited are read, in order. -/
def pumpLog (s : State) : State :=
  let s1 := s.tr.logWait.foldl (fun t e => logWrite t e.1 e.2) { s with tr := { s.tr with logWait := [] } }
  (List.range s.tr.postWait).foldl (fun t _ => stripPost t) { s1 with tr := { s1.tr with postWait := 0 } }

/-- Appends a descriptor to the open step's segment (log 47). -/
def logAppend (s : State) (d : Line) (ring : Nat) : State :=
  match segOf s s.tr.step with
  | none => s
  | some g =>
    if 3584 ≤ g.cmds.length then (if g.overflow then s else bump (putSeg s { g with overflow := true }) 45 1)
    else
      let s1 := putSeg s { g with cmds := g.cmds ++ [(d, ring)], noreplay := g.noreplay || noReplay d }
      logWrite s1 ((logAddr s + 262144 * (g.step % 8) + 32768) / 64 + g.cmds.length) d

/-- A command is an UPDATE STEP. -/
def isUpdStep (d : Line) : Bool := descBits d 0 8 == 0x42 && descBits d 64 2 == 0

/-- A command whose wait selector has completed: it takes the step number of that moment, an UPDATE STEP draws the check of its step (R588), and it is
logged when its ring logs, or when it is replayed (R575, R600). -/
def logCmd (s : State) (ring slot : Nat) (ringLogs : Bool) : State :=
  match s.cm.cmds.find? (fun m => m.ring == ring && m.slot == slot) with
  | none => s
  | some m =>
    let s0 : State := { s with cm := { s.cm with cmds := s.cm.cmds.map (fun q =>
      if q.ring == ring && q.slot == slot then { q with step := s.tr.step, logged := true } else q) } }
    let s1 := if isUpdStep m.desc && !m.logged then tsCheck s0 else s0
    if m.logged || unlogged m.desc || !logEn s || !(ringLogs || m.replayed) then s1 else logAppend s1 m.desc ring

end Sys2Proof.Machine
end

