-- ==== Sys2Proof/Machine/Flags.lean ====
section
/-!
DEFINITION. The Shutter's shared operations (11): flags and their holders, flag selectors, what a holder does with an operation, how
an operation is sent to a holder on this or another device, and acknowledgements.
-/
namespace Sys2Proof.Machine

/-! ### Flags and selectors -/

def flagGet (s : State) : FlagRef → Bool
  | .core c i => flagOf (coreOf s c) i
  | .chip i => s.sh.cf.getLsbD i

def flagPut (s : State) (f : FlagRef) (b : Bool) : State :=
  match f with
  | .core c i => updCore s c (fun k => setFlag k i b)
  | .chip i => { s with sh := { s.sh with cf := putBit s.sh.cf i b } }

/-- Index of the holder's CNT_FLAG_OVER; UNDER and WRITES follow (R515, Table 20.4) (log 50). -/
def flagCounter : FlagRef → Nat
  | .core c _ => cCore c 48
  | .chip i => cSlice (i % 48) 8

/-- Fields of a flag selector (Table 04.16). -/
def selChip (w : Word) : Bool := w.getLsbD 31
def selDev (w : Word) : Nat := w.toNat / 2 ^ 19 % 4096
def selCore (w : Word) : Nat := w.toNat / 512 % 1024
def selIdx (w : Word) : Nat := if selChip w then w.toNat % 4096 else w.toNat % 256
/-- A bit that Table 04.16 marks "must be 0" is set. -/
def selBad (w : Word) : Bool := if selChip w then w.toNat / 4096 % 128 != 0 else w.getLsbD 8
def selRef (w : Word) : FlagRef := if selChip w then .chip (selIdx w) else .core (selCore w) (selIdx w)

/-- The selector that names a flag of this device. -/
def selOf (s : State) : FlagRef → Word
  | .core c i => BitVec.ofNat 32 (devNum s * 2 ^ 19 + c * 512 + i)
  | .chip i => BitVec.ofNat 32 (2 ^ 31 + devNum s * 2 ^ 19 + i)

/-! ### At the holder (R478, R480, R498) -/

/-- The command of a ring slot. -/
def cmdOf (s : State) (ring slot : Nat) : Option Cmd := s.cm.cmds.find? (fun m => m.ring == ring && m.slot == slot)
def setCmds (s : State) (l : List Cmd) : State := { s with cm := { s.cm with cmds := l } }
/-- Changes the phase of a command in progress. -/
def setPhase (s : State) (ring slot : Nat) (p : CmdPhase) : State :=
  setCmds s (s.cm.cmds.map (fun m => if m.ring == ring && m.slot == slot then { m with phase := p } else m))
/-- A command ends with its status; the places that it held are free (R773). -/
def finishCmd (s : State) (ring slot : Nat) (st : Status) (info : BitVec 64) : State :=
  let t := setPhase s ring slot (.done st info)
  { t with m := { t.m with
    keeps := t.m.keeps.filter (fun x => !(x.ring == ring && x.slot == slot)), interlocks := t.m.interlocks.filter (fun x => x != (ring, slot)),
    snaps := t.m.snaps.filter (fun x => !(x.ring == ring && x.slot == slot)) } }

def updEngine (k : Core) (x : Bool) (f : Engine → Engine) : Core := if x then { k with xe := f k.xe } else { k with ae := f k.ae }
def engineOf (k : Core) (x : Bool) : Engine := if x then k.xe else k.ae

/-- The ring's log enable (Table 14.8). -/
def noRing (_ : Nat) : Ring := {}
def ringLogs (s : State) (r : Nat) : Bool := (tget noRing s.cm.rings r).w3.getLsbD 62

/-- The chip flag of loss posts, and the Test strip's next WAITC on it (R586). -/
def postCf (s : State) : Nat := field64 (reg64 s 0x140) 23 12
def stripWait (s : State) : State := { s with sh := { s.sh with waiters := s.sh.waiters ++ [⟨.tstrip, .chip (postCf s)⟩] } }

/-- A WAITC completes at its holder: its engine, its command or the Test strip goes on. The Test strip reads its post line and waits again
(R586). A command of FLAG_WAIT (opcode 0x51) that
waits in its work is done (R499); any other is ready for its checks (R494). -/
def waitDone (s : State) (w : FIssuer) : State :=
  match w with
  | .engine c x => updCore s c (fun k => updEngine k x (fun e => { e with grant := true }))
  | .ring r i =>
    match cmdOf s r i with
    | some m => if m.phase == .busy 1 then setPhase s r i (.done .ok 0) else setPhase (logCmd s r i (ringLogs s r)) r i .ready
    | none => s
  | .tstrip => stripWait (stripPost s)
  | .remote _ _ => s

/-- The oldest WAITC waiting on a flag (R480). -/
def firstWaiter (s : State) (f : FlagRef) : Option Waiter := s.sh.waiters.find? (fun w => w.flag == f)
def dropWaiter (s : State) (w : Waiter) : State := { s with sh := { s.sh with waiters := s.sh.waiters.erase w } }

/-- A flag that is clear becomes set, or completes its oldest waiting WAITC and stays clear (R480). -/
def flagRaise (s : State) (f : FlagRef) : State :=
  match firstWaiter s f with
  | some w => waitDone (dropWaiter s w) w.who
  | none => flagPut s f true

/-- One operation at its holder, with the error found (Table 11.2, R498). -/
def flagApply (s : State) (f : FlagRef) (op : FOp) : State × Option Cause :=
  match op with
  | .set => if flagGet s f then (bump s (flagCounter f) 1, some .flagOver) else (flagRaise s f, none)
  | .clr => if flagGet s f then (flagPut s f false, none) else (bump s (flagCounter f + 1) 1, some .flagUnder)
  | .write v =>
    let s1 := bump s (flagCounter f + 2) 1
    (if v then (if flagGet s f then s1 else flagRaise s1 f) else flagPut s1 f false, none)

/-- A WAITC reaches its holder: true when it completes at once (Table 11.2). -/
def flagWaitc (s : State) (f : FlagRef) (who : FIssuer) : State × Bool :=
  if flagGet s f then (flagPut s f false, true)
  else ({ s with sh := { s.sh with waiters := s.sh.waiters ++ [⟨who, f⟩] } }, false)

/-! ### Sending operations (R484, R486, R500 to R503) -/

def causeStatus : Cause → Status
  | .fetchBounds | .address | .wgbOffset => .range
  | .shape => .shape | .page => .page | .absentCore => .absent
  | .flagOver => .flagOver | .flagUnder => .flagUnder
  | _ => .format

/-- An acknowledgement goes back to the issuer (R484, R497). -/
def flagAckTo (s : State) (who : FIssuer) (addr : Nat) (err : Option Cause) : State :=
  match who with
  | .engine c x => { s with sh := { s.sh with acks := s.sh.acks ++ [⟨c, x, addr, err⟩] } }
  | .ring r i => finishCmd s r i (match err with
    | some e => causeStatus e
    | none => .ok) 0
  | _ => s

def seqOf (t : Table Nat) (d : Nat) : Nat := tget zeroN t d

/-- A SET or CLR of an engine's sync slot is counted when it is first sent to its holder (R515). -/
def countFlag (s : State) (who : FIssuer) (op : FOp) : State :=
  match who with
  | .engine c _ => bump s (cCore c (match op with
    | .clr => 46
    | _ => 45)) 1
  | _ => s

/-- A remote operation that goes out is counted once (R515). -/
def countRemote (s : State) (o : RemoteOp) : State :=
  let s1 := if o.tried then s else bump (countFlag s o.who o.op) 15 1
  bumpIf (o.fw && !o.fwTx) s1 18 1

/-- A remote operation goes out over the path it was issued for once that path is in use and no operation of its pair is outstanding on
the other (R501); on the fabric by the route of VC0 and VC1 (R538); one that firmware resends goes over the firmware path (R503). Without a usable
route it is held. -/
def sendRemote (s : State) (o : RemoteOp) : State × RemoteOp :=
  let other := s.sh.remote.any (fun q => q.sent && q.dst == o.dst && q.fw != o.fw)
  let earlier := s.sh.remote.any (fun q => !q.sent && q.dst == o.dst && decide ((o.seq + 65536 - q.seq) % 65536 < 32768) && q.seq != o.seq && q.fw != o.fw)
  if other || earlier || !(o.resend || (o.fw != s.sh.path)) || (o.fw && mgmtHalted s) then (s, o)
  else if o.fw then
    (if (usableRoutes s o.dst).isEmpty then (s, o)
     else (countRemote (sendFw s 0 o.dst o.seq 5 (.flagOp o.sel o.op)) o, { o with sent := true, tried := true, fwTx := true }))
  else match lowRoute s o.dst with
    | none => (s, o)
    | some r => (countRemote (sendVia s r.1 r.2 0 o.dst o.seq 5 (.flagOp o.sel o.op)) o, { o with sent := true, port := r.1, hops := r.2, tried := true })

/-- Sends, in order, every remote operation that may go. -/
def pumpRemote (s : State) : List RemoteOp → State × List RemoteOp
  | [] => (s, [])
  | o :: t =>
    let a := if o.sent then (s, o) else sendRemote s o
    let b := pumpRemote a.1 t
    (b.1, a.2 :: b.2)

def pumpRemotes (s : State) : State :=
  let r := pumpRemote s s.sh.remote
  { r.1 with sh := { r.1.sh with remote := r.2 } }

/-- Sends one operation toward the flag a selector names: to a holder of this device, or to another device with the pair's next
sequence number (R484, R486, R502); one to a holder of this device wakes it (R728). Behind operations that firmware has still to send again it goes with them (R503). -/
def flagSend (s : State) (who : FIssuer) (sel : Word) (op : FOp) (addr : Nat) : State :=
  if selDev sel = devNum s then
    let s1 := if stopped s then wakeUp s else s
    countFlag { s1 with sh := { s1.sh with flagQ := s1.sh.flagQ ++ [{ who := who, flag := selRef sel, op := op, addr := addr }] } } who op
  else if !anyRoute s (selDev sel) then flagAckTo s who addr (some .absentCore)
  else
    let d := selDev sel
    let q := seqOf s.sh.txSeq d
    let again := s.sh.remote.any (fun o => o.dst == d && o.resend && !o.sent)
    pumpRemotes { s with sh := { s.sh with
      txSeq := tset zeroN s.sh.txSeq d ((q + 1) % 65536),
      remote := s.sh.remote ++ [{ dst := d, seq := q, sel := sel, op := op, who := who, addr := addr, fw := again || !(reg32 s 0x124).getLsbD 0,
                                  sent := false, resend := again }] } }

/-! ### Operations posted by an engine that wait for its stores (R114, R264) -/

/-- A posted operation may go: the stores and drains it orders after are done. -/
def postedReady (k : Core) (p : Posted) : Bool :=
  p.sq.all (fun i => decide (i < k.sqNext) && !k.sq.any (fun e => e.id == i)) && p.mop.all (fun i => !k.mops.any (fun m => m.id == i))

/-- Sends the posted operations of a core that may go, in order, up to the first of each engine that may not. -/
def pumpPostedGo (c : Nat) (s : State) (blockA blockX : Bool) : List Posted → State × List Posted
  | [] => (s, [])
  | p :: t =>
    if (if p.x then blockX else blockA) || !postedReady (coreOf s c) p then
      let r := pumpPostedGo c s (blockA || !p.x) (blockX || p.x) t
      (r.1, p :: r.2)
    else
      pumpPostedGo c (flagSend s (.engine c p.x) p.sel p.op p.addr) blockA blockX t

def pumpPosted (c : Nat) (s : State) : State :=
  let r := pumpPostedGo c s false false (coreOf s c).posted
  updCore r.1 c (fun k => { k with posted := r.2 })

end Sys2Proof.Machine
end

