-- ==== Sys2Proof/Machine/Operands.lean ====
section
/-!
DEFINITION. Operand forms and lane arithmetic of the scalar and vector slots (04, Tables 04.3, 04.9, 04.10), as pure functions of the
values read. An event count comes with each result (R96).
-/
namespace Sys2Proof.Machine

/-! ### Scalar values (R94, R157) -/

def sext16 (x : BitVec 16) : Word := x.signExtend 32
def zext16 (x : BitVec 16) : Word := x.setWidth 32
def sext13 (x : BitVec 13) : Word := x.signExtend 32

def aluVal (op : Alu) (a b : Word) : Word :=
  match op with
  | .add => a + b | .sub => a - b | .and => a &&& b | .or => a ||| b | .xor => a ^^^ b
def shiftVal (op : Shift) (a : Word) (n : Nat) : Word :=
  match op with
  | .shl => a <<< n | .shr => a >>> n | .sra => a.sshiftRight n
def minmaxVal (op : MinMax) (a b : Word) : Word :=
  match op with
  | .min => if a.slt b then a else b
  | .max => if a.slt b then b else a
  | .minu => if a.ult b then a else b
  | .maxu => if a.ult b then b else a
def logicVal {n : Nat} (op : Logic) (a b : BitVec n) : BitVec n :=
  match op with
  | .and => a &&& b | .or => a ||| b | .xor => a ^^^ b
def relVal (op : Rel) (a b : Word) : Bool :=
  match op with
  | .eq => a == b | .ne => a != b | .lt => a.slt b | .ltu => a.ult b
def plogicVal (op : PLogic) (a b : Bool) : Bool :=
  match op with
  | .and => a && b | .or => a || b | .xor => a != b | .andn => a && !b

/-! ### Lanes -/

def unpackLanes (w n : Nat) (v : Line) : List Nat := unpackBits w n v.toNat
def packLanes (w : Nat) (l : List Nat) : Line := BitVec.ofNat 512 (packBits w l)

/-- The vector arithmetic type of TY: its format code (R162). -/
def tyCode (ty : BitVec 2) : Nat := if ty = 3 then 9 else ty.toNat
def tyWidth (ty : BitVec 2) : Nat := if ty = 0 ∨ ty = 3 then 32 else 16
def tyLanes (ty : BitVec 2) : Nat := if ty = 0 ∨ ty = 3 then 16 else 32
def laneVals (ty : BitVec 2) (v : Line) : List Nat := unpackLanes (tyWidth ty) (tyLanes ty) v

/-- The random bits of lane `i` when SR asks for them (R93, R166). -/
def rnd (sr : Bool) (seed stream pos i : Nat) : Option Nat :=
  if sr then some (srBits seed stream ((pos + i) % 2 ^ 48)) else none

/-- Rounds lane results from lane `i` on; each result carries its invalid mark (R62). -/
def roundLanes (code : Nat) (r : Nat → Option Nat) : Nat → List (Exact × Bool) → List Nat × Ev
  | _, [] => ([], {})
  | i, x :: t =>
    let y := roundNum code (r i) x.1
    let z := roundLanes code r (i + 1) t
    (y.1 :: z.1, evAdd { y.2 with invalid := if x.2 then 1 else 0 } z.2)

/-- IEEE 754 minimum and maximum: −0 orders below +0, a NaN operand gives NaN. -/
def nminmax (mx : Bool) (a b : Exact) : Exact :=
  match a, b with
  | .nan, _ => .nan
  | _, .nan => .nan
  | _, _ =>
    let aLess := nlt a b || (neq a b && match a with
      | .fin n _ _ => n
      | _ => false)
    if aLess == mx then b else a

def vopNum (op : VArith) (a b : Exact) : Exact × Bool :=
  match op with
  | .add => nadd a b
  | .sub => nadd a (nneg b)
  | .mul => nmul a b

def vopInt (op : VArith) (a b : Nat) : Nat :=
  match op with
  | .add => (a + b) % 2 ^ 32
  | .sub => (a + 2 ^ 32 - b) % 2 ^ 32
  | .mul => a * b % 2 ^ 32

/-- a × b ± c with one rounding to come (R92); 0 × ∞ is no invalid event beside a NaN (R62). -/
def fmaNum (a b c : Exact) : Exact × Bool :=
  let p := nmul a b
  let q := nadd p.1 c
  (q.1, (p.2 && c != .nan) || q.2)

def zip3 (f : Nat → Nat → Nat → Exact × Bool) : List Nat → List Nat → List Nat → List (Exact × Bool)
  | a :: as, b :: bs, c :: cs => f a b c :: zip3 f as bs cs
  | _, _, _ => []

def zip2 {α : Type} (f : Nat → Nat → α) : List Nat → List Nat → List α
  | a :: as, b :: bs => f a b :: zip2 f as bs
  | _, _ => []

/-- A value of the lane type is non-zero (R163). -/
def laneNonzero (ty : BitVec 2) (x : Nat) : Bool :=
  if ty = 3 then x != 0
  else match decodeNum (tyCode ty) x with
    | .fin _ m _ => m != 0
    | _ => true

/-- 1 of the lane type (R163). -/
def laneOne (ty : BitVec 2) : Nat :=
  if ty = 0 then 0x3F800000 else if ty = 1 then 0x3C00 else if ty = 2 then 0x3F80 else 1

def vrelNum (op : VRel) (a b : Exact) : Bool :=
  match op with
  | .eq => neq a b | .lt => nlt a b | .le => nle a b

/-- One level of the pairwise tree of R165: neighbours combined. -/
def pairUp {α : Type} (f : α → α → α) : List α → List α
  | a :: b :: t => f a b :: pairUp f t
  | l => l

/-- The pairwise tree over up to 32 values. -/
def tree {α : Type} (f : α → α → α) (l : List α) : List α := pairUp f (pairUp f (pairUp f (pairUp f (pairUp f l))))

/-- One FP32 addition of the tree, with its events. -/
def addEv (a b : Exact × Ev) : Exact × Ev :=
  let r := fp32 (nadd a.1 b.1)
  (decodeNum 0 r.1, evAdd (evAdd a.2 b.2) r.2)

/-! ### Reciprocal, reciprocal root, exponential, logarithm (R164) -/

/-- A choice within 1 ulp of the exact value `x`: the free value where it qualifies, else the nearest value (log 10). -/
def ulpPick (raw : Nat) (x : Exact) : Nat × Ev :=
  match x with
  | .fin n m e =>
    match ffmt 0 with
    | some f =>
      let t := roundMag f (some 0) m e
      let sgn := if n then 2 ^ 31 else 0
      let exact := neq (decodeF f (sgn + t)) x
      if m ≠ 0 ∧ t ≤ f.maxCode ∧ (raw = sgn + t ∨ (raw = sgn + t + 1 ∧ t < f.maxCode) ∨ (exact ∧ raw + 1 = sgn + t ∧ 0 < t)) then (raw, {})
      else roundNum 0 none x
    | none => (0, {})
  | _ => roundNum 0 none x

/-- ln 2 × 2^256. -/
def ln2Bits : Nat := 80260960185991308862233904206310070533990667611589946606122867505419956976171

/-- The sum of the terms of e^t from term `i` on, `u` being that term; t and the terms in units of 2^−256. -/
def expGo : Nat → Nat → Nat → Nat → Nat
  | 0, _, _, _ => 0
  | n + 1, i, t, u => u + expGo n (i + 1) t (u * t / 2 ^ 256 / (i + 1))

/-- 2^x for x = z / 2^k, as a number times a power of two: its error is below one part in 2^240. Beyond ±200 the result of any FP32
operation is the same as at ±200. -/
def exp2Near (z : Int) (k : Nat) : Nat × Int :=
  let n := max (-200) (min 200 (z / (2 ^ k : Nat)))
  let f := (z % (2 ^ k : Nat)).toNat
  let F := if k ≤ 256 then f * 2 ^ (256 - k) else f / 2 ^ (k - 256)
  (expGo 64 0 (F * ln2Bits / 2 ^ 256) (2 ^ 256), n - 256)

/-- The first `n` bits after the point of log2 of y / 2^440, a number in [1, 2), after `r`. -/
def log2Go : Nat → Nat → Nat → Nat
  | 0, _, r => r
  | n + 1, y, r =>
    let q := y * y / 2 ^ 440
    if 2 ^ 441 ≤ q then log2Go n (q / 2) (2 * r + 1) else log2Go n q (2 * r)

/-- log2 of m × 2^e, m not 0, in units of 2^−200: its error is below 4 units, and none for a power of two. -/
def log2Near (m : Nat) (e : Int) : Int :=
  let w := Nat.log2 m
  ((w : Int) + e) * 2 ^ 200 + log2Go 200 (m * 2 ^ (440 - w)) 0

/-- A choice within 1 ulp of a value known to lie from lo × 2^e to hi × 2^e: the free value where it qualifies for every value between them,
else the FP32 number nearest to mid × 2^e (log 10). -/
def ulpNear (raw : Nat) (neg : Bool) (lo mid hi : Nat) (e : Int) : Nat × Ev :=
  match ffmt 0 with
  | some f =>
    let sgn := if neg then 2 ^ 31 else 0
    let least := roundMag f (some 0) hi e
    let most := roundMag f (some 0) lo e + 1
    if sgn + least ≤ raw ∧ raw ≤ sgn + most ∧ least < f.maxCode then (raw, {}) else roundNum 0 none (.fin neg mid e)
  | none => (0, {})

/-- The FP32 result of a function on an FP32 encoding, with its events. -/
def vfuncVal (op : VFunc) (x : Nat) : Nat × Ev :=
  let n := decodeNum 0 x
  match op with
  | .rcp =>
    let q := ndiv none1 n
    ulpPick (Config.reciprocal x) q.1
  | .rsq =>
    let r := nsqrt n
    let q := ndiv none1 r.1
    let y := ulpPick (Config.reciprocalRoot x) q.1
    (y.1, { y.2 with invalid := if r.2 then 1 else 0 })
  | .exp2 =>
    match n with
    | .nan => (0x7FC00000, {})
    | .inf neg => (if neg then 0 else 0x7F800000, {})
    | .fin neg m e =>
      if m = 0 then (0x3F800000, {})
      else
        let z : Int := if neg then -(m : Int) else m
        let q := if 0 ≤ e then exp2Near (z * 2 ^ (min e 16).toNat) 0 else exp2Near z (-e).toNat
        if q.1 = 2 ^ 256 ∧ (0 ≤ e ∨ m % 2 ^ (-e).toNat = 0) then ulpPick (Config.exp2 x) (.fin false 1 (q.2 + 256))
        else ulpNear (Config.exp2 x) false (q.1 - q.1 / 2 ^ 240) q.1 (q.1 + q.1 / 2 ^ 240) q.2
  | .log2 =>
    match n with
    | .nan => (0x7FC00000, {})
    | .inf neg => if neg then (0x7FC00000, { invalid := 1 }) else (0x7F800000, {})
    | .fin neg m e =>
      if m = 0 then (0xFF800000, {})
      else if neg then (0x7FC00000, { invalid := 1 })
      else
        let z := log2Near m e
        if m = 2 ^ Nat.log2 m then (if z = 0 then (0, {}) else ulpPick (Config.log2 x) (.fin (decide (z < 0)) z.natAbs (-200)))
        else ulpNear (Config.log2 x) (decide (z < 0)) (z.natAbs - 4) z.natAbs (z.natAbs + 4) (-200)

/-- Lane-wise function: FP32 lanes take the FP32 result, 16-bit lanes round it once more. -/
def funcLanes (op : VFunc) (ty : BitVec 2) (r : Nat → Option Nat) : Nat → List Nat → List Nat × Ev
  | _, [] => ([], {})
  | i, x :: t =>
    let z := funcLanes op ty r (i + 1) t
    let wide := if ty = 0 then x else (roundNum 0 none (decodeNum (tyCode ty) x)).1
    let y := vfuncVal op wide
    if ty = 0 then (y.1 :: z.1, evAdd y.2 z.2)
    else
      let q := roundNum (tyCode ty) (r i) (decodeNum 0 y.1)
      (q.1 :: z.1, evAdd (evAdd y.2 q.2) z.2)

/-! ### Conversion operands (Table 04.10) -/

def isWide (code : Nat) : Bool := code == 0 || code == 9

/-- Bit offset of a part in its register. -/
def partOff (code part : Nat) : Nat := if code = 7 then 128 * part else 256 * part

/-- The 32 element encodings of a conversion source. -/
def srcElems (k : Core) (code reg part : Nat) : List Nat :=
  let w := fmtBits code
  if isWide code then unpackLanes 32 16 (getV k reg) ++ unpackLanes 32 16 (getV k (reg + 1))
  else if w = 16 then unpackLanes 16 32 (getV k reg)
  else unpackBits w 32 ((getV k reg).toNat / 2 ^ partOff code part)

/-- Replaces `len` bits at `off`. -/
def insertBits (v off len x : Nat) : Nat := v % 2 ^ off + (x % 2 ^ len) * 2 ^ off + v / 2 ^ (off + len) * 2 ^ (off + len)

/-- Writes the 32 element encodings of a conversion destination; other bytes are unchanged (R168). -/
def putElems (k : Core) (code reg part : Nat) (l : List Nat) : Core :=
  let w := fmtBits code
  if isWide code then setV (setV k reg (packLanes 32 (l.take 16))) (reg + 1) (packLanes 32 (l.drop 16))
  else if w = 16 then setV k reg (packLanes 16 l)
  else setV k reg (BitVec.ofNat 512 (insertBits (getV k reg).toNat (partOff code part) (32 * w) (packBits w l)))

/-- Greatest PART of a format (Table 04.10). -/
def maxPart (code : Nat) : Nat := if code = 7 then 3 else if fmtBits code < 16 then 1 else 0

end Sys2Proof.Machine
end

