-- ==== Sys2Proof/Machine/Access.lean ====
section
/-!
DEFINITION. A core's memory requests (03): slots, translation, the performing of stores, dropped and faulted accesses, squash, and the
ways a stream stops. Shared by the access slot, the queues and the events of the memory.
-/
namespace Sys2Proof.Machine

/-! ### Commit levels (R123, R124) -/

/-- The level an operation issued now takes: the number of the youngest unresolved BRX. -/
def levelNow (k : Core) : Nat := k.brxHead + k.brx.length
def committed (k : Core) (level : Nat) : Bool := decide (level ≤ k.brxHead)

/-! ### Faults and stops (R136, R197, R199, Table 20.3) -/

/-- Cause codes of Table 04.17. -/
def causeCode : Cause → Nat
  | .slotStream => 0x01 | .length => 0x02 | .opcode => 0x03 | .field => 0x04 | .writeConflict => 0x05 | .twoBranch => 0x06
  | .regAlign => 0x07 | .numFormat => 0x08 | .operandPair => 0x09 | .flagKind => 0x0A | .fetchBounds => 0x10 | .address => 0x11
  | .wgbOffset => 0x12 | .shape => 0x18 | .page => 0x20 | .absentCore => 0x28 | .flagOver => 0x30 | .flagUnder => 0x31

/-- An entry of the fault record (Table 20.3). -/
def faultWord (cause : Cause) (addr slot : Nat) : BitVec 64 :=
  BitVec.ofNat 64 (2 ^ 63 + slot % 8 * 2 ^ 32 + addr % 65536 * 2 ^ 16 + causeCode cause * 2 ^ 8)

/-- What a squash leaves of a tile being filled under a discarded BRX (Tables 03.3, 05.3). -/
def squashTile (level : Nat) (t : Tile) : Tile :=
  if level ≤ t.level && (t.st == .loading || (t.st == .full && t.spec)) then { t with st := .empty, mask := 0, spec := false, load := none }
  else t

def squashReq (level : Nat) (r : Req) : Option Req :=
  if r.level < level then some r
  else match r.phase with
    | .translating | .waitSlot | .bankWait _ | .faulted => none
    | _ => some { r with orphan := true }

/-- Table 03.3: everything issued at `level` or above is undone and a0 to a15 return to `ckpt`. -/
def squash (k : Core) (level : Nat) (ckpt : Table (BitVec 48)) : Core :=
  let lq := k.lq.filter (fun e => e.level < level)
  let sq := k.sq.filter (fun e => e.level < level)
  { k with
    a := ckpt
    lq := lq
    sq := sq
    sqNext := k.sqNext - (k.sq.length - sq.length)
    brx := k.brx.filter (fun b => b.id < level)
    reqs := k.reqs.filterMap (squashReq level)
    tiles := (k.tiles.map (fun e => (e.1, squashTile level e.2))).filter (fun e => decide (e.2 ≠ tileDefault e.1))
    heldFault := match k.heldFault with
      | some h => if h.level < level then some h else none
      | none => none }

/-- All uncommitted state of a core is squashed (R136). -/
def squashAll (k : Core) : Core :=
  match k.brx with
  | [] => k
  | b :: _ => squash k b.id b.ckpt

/-- An engine stops: nothing of it waits any more. -/
def haltEngine (e : Engine) (st : EngState) : Engine := { e with st := st, hold := .none, held := 0, grant := false }

def stopPeer (e : Engine) : Engine := if e.st == .running || e.st == .pageFault then haltEngine e .faulted else e

/-- The bundle that the other engine `x` issues in this cycle is committed and may fault too (R199). -/
def atBundle (k : Core) (x : Bool) : Bool := (engineOf k x).st == .running && (x || k.brx.isEmpty)

/-- A stream stops on a fault: its record is written, and the other engine stops (R136, R197). An engine that has ended or halted at a
STOP stays as it is (log 93). -/
def streamFault (s : State) (c : Nat) (x : Bool) (cause : Cause) (addr slot : Nat) : State :=
  let s1 := { s with sh := { s.sh with waiters := s.sh.waiters.filter (fun w =>
    match w.who with
    | .engine d _ => d != c
    | _ => true) } }
  updCore s1 c (fun k0 =>
    let k := updEngine k0 x (fun e => { haltEngine e .faulted with frec := faultWord cause addr slot })
    let k := updEngine k (!x) stopPeer
    { squashAll k with twin := atBundle k0 (!x) })

/-- A fault of the A-stream: held while its bundle is uncommitted (R196). The AE then waits as at an uncommitted operation (log 93). -/
def faultA (s : State) (c : Nat) (cause : Cause) (addr slot : Nat) : State :=
  let k := coreOf s c
  if k.brx.isEmpty then streamFault s c false cause addr slot
  else updCore s c (fun k => { k with heldFault := some ⟨cause, addr, slot, levelNow k⟩, ae := { k.ae with hold := .uncommitted } })

/-! ### Request slots (R116 to R118) -/

def holdsSlot (r : Req) : Bool :=
  match r.phase with
  | .flight => true
  | .performed => true
  | .heldAt => true
  | _ => r.orphan

def slotsUsed (k : Core) : Nat := (k.reqs.filter holdsSlot).length
/-- At least `n` of the 512 slots are free. -/
def slotsFree (k : Core) (n : Nat) : Bool := decide (slotsUsed k + n ≤ 512)

def updReq (k : Core) (id : Nat) (f : Req → Req) : Core := { k with reqs := k.reqs.map (fun r => if r.id == id then f r else r) }
def dropReq (k : Core) (id : Nat) : Core := { k with reqs := k.reqs.filter (fun r => r.id != id) }
def reqOf (k : Core) (id : Nat) : Option Req := k.reqs.find? (fun r => r.id == id)

/-! ### Queues -/

def updLq (k : Core) (id : Nat) (f : Lq → Lq) : Core := { k with lq := k.lq.map (fun e => if e.id == id then f e else e) }
def updSq (k : Core) (id : Nat) (f : Sq → Sq) : Core := { k with sq := k.sq.map (fun e => if e.id == id then f e else e) }
def sqOf (k : Core) (id : Nat) : Option Sq := k.sq.find? (fun e => e.id == id)
def dropSq (k : Core) (id : Nat) : Core := { k with sq := k.sq.filter (fun e => e.id != id) }

/-! ### Translation (R342 to R344) -/

/-- The translation cache after a use of block `b`: the entry moves to the front (least recently used replacement). -/
def tcTouch (l : List TcEntry) (b : Nat) : Option (TcEntry × List TcEntry) :=
  match l.find? (fun e => e.block == b) with
  | some e => some (e, e :: l.filter (fun q => q.block != b))
  | none => none

/-- Puts an entry into a cache of `cap` places. -/
def tcInsert (cap : Nat) (l : List TcEntry) (e : TcEntry) : List TcEntry := (e :: l.filter (fun q => q.block != e.block)).take cap

/-- Asks the directory for a block, once per requester and block (R343, R132). -/
def askDirectory (s : State) (who : Requester) (b : Nat) (demand : Bool) : State :=
  if s.m.dirReq.any (fun q => q.who == who && q.block == b) then
    { s with m := { s.m with dirReq := s.m.dirReq.map (fun q =>
        if q.who == who && q.block == b then { q with demand := q.demand || demand } else q) } }
  else
    let s1 := { s with m := { s.m with dirReq := s.m.dirReq ++ [⟨who, b, demand⟩] } }
    match who with
    | .core c => bump s1 (cCore c 41) 1
    | .mover => s1

/-! ### Stores (R108, R357) -/

/-- Number of a bank of a channel over the device. -/
def bankNo (stack ch bank : Nat) : Nat := (stack * 32 + ch) * 48 + bank

/-- The bank that holds a line of a stack-homed block (R288, R340). -/
def bankOf (s : State) (line : Nat) : Option Nat :=
  let b := blockOfLine line
  match (dirOf s b).home with
  | .stack p => some (bankNo p (homeAt s b).1 (bankIndex (homeAt s b).2 line))
  | _ => none

def bankDefault (_ : Nat) : Bank := {}
def bankAt (s : State) (b : Nat) : Bank := tget bankDefault (chanOf s (b / 48 / 32) (b / 48 % 32)).banks (b % 48)
def setBank (s : State) (b : Nat) (x : Bank) : State :=
  let c := chanOf s (b / 48 / 32) (b / 48 % 32)
  setChan s (b / 48 / 32) (b / 48 % 32) { c with banks := tset bankDefault c.banks (b % 48) x }

/-- The bank refuses a request that arrives now (R294). -/
def bankFull (k : Bank) : Bool := decide (64 ≤ k.accepted + k.granted.length) || !k.refused.isEmpty

/-- A request waits at the channel of bank `b`: as a write in its queue of 64 bursts or before it, or as a read (R291) (log 27). -/
def queueAt (s : State) (b : Nat) (w : Bool) : State :=
  let x := chanOf s (b / 48 / 32) (b / 48 % 32)
  setChan s (b / 48 / 32) (b / 48 % 32) (if w then { x with wq := x.wq + 1 } else { x with rq := x.rq + 1 })

/-- An access of the base die, which takes no bank place, waits at the channel of its line (R291, R299). -/
def queueLine (s : State) (line : Nat) (w : Bool) : State :=
  match bankOf s line with
  | some b => queueAt s b w
  | none => s

/-- Whether a user other than a core writes at the channel. -/
def userWrites : BankUser → Bool
  | .mover w => w
  | .writeBack => true
  | .core _ => false

/-- Grants go to the oldest refusals while places are free (R297). The lists of the mover and of write-backs send their request with the grant at
once, and it waits at the channel from then on (R299) (log 28). -/
def pumpGrants (s : State) (b : Nat) : Nat → State
  | 0 => s
  | n + 1 =>
    let k := bankAt s b
    match k.refused with
    | [] => s
    | u :: t =>
      if 64 ≤ k.accepted + k.granted.length then s
      else match u with
        | .core _ => pumpGrants (setBank s b { k with granted := k.granted ++ [u], refused := t }) b n
        | _ => pumpGrants (queueAt (setBank s b { k with accepted := k.accepted + 1, refused := t }) b (userWrites u)) b n

/-- A request leaves the bank: its place may be granted. -/
def bankDone (s : State) (b : Nat) : State :=
  let k := bankAt s b
  pumpGrants (setBank s b { k with accepted := k.accepted - 1 }) b 64

/-- A request of the mover or a write-back arrives: it takes a place and waits at the channel, or waits in its list (R294, R299). -/
def bankArrive (s : State) (b : Nat) (u : BankUser) : State :=
  let k := bankAt s b
  if bankFull k then bump (setBank s b { k with refused := k.refused ++ [u] }) (cChan (b / 48 / 32) (b / 48 % 32) 4) 1
  else queueAt (setBank s b { k with accepted := k.accepted + 1 }) b (userWrites u)

/-- The bank-wait list of a core, in the order of its entries: the bank of each (R296). -/
def waitBank (r : Req) : Option Nat :=
  match r.phase with
  | .bankWait b => some b
  | _ => none
def bankList (k : Core) : List Nat := k.reqs.filterMap waitBank
/-- The core already waits for a bank (R296) (log 28). -/
def waitsBank (k : Core) (bank : Nat) : Bool := (bankList k).contains bank
/-- The list takes entries for the banks `bs` besides those it holds: at most 256 entries, for at most 16 banks (R296). -/
def listTakes (k : Core) (bs : List Nat) : Bool :=
  decide ((bankList k ++ bs).length ≤ 256) && decide ((bankList k ++ bs).eraseDups.length ≤ 16)
/-- Requests that need an entry when none is free wait for one beyond the 256 and the 16 banks; they hold the AE at its bundle (R296) (log 28). -/
def listOver (k : Core) : Bool := !listTakes k []
/-- A request goes to the tail of the list (R296). -/
def toTail (k : Core) (id : Nat) (f : Req → Req) : Core :=
  { k with reqs := k.reqs.filter (fun r => r.id != id) ++ (k.reqs.filter (fun r => r.id == id)).map f }
/-- The request joins the bank's grant list as it enters the tail of the core's own (R294, R296) (log 28). -/
def joinBank (s : State) (c id bank : Nat) : State :=
  let s1 := setBank s bank { bankAt s bank with refused := (bankAt s bank).refused ++ [.core c] }
  bump (updCore s1 c (fun k => toTail k id (fun q => { q with phase := .bankWait bank }))) (cCore c 36) 1
/-- The bank that refuses a request for a line when it arrives (R294): its slice does not hold the line, and the bank is full. -/
def refusingBank (s : State) (line : Nat) : Option Nat :=
  match bankOf s line with
  | some b => if bankFull (bankAt s b) && !cached s line then some b else none
  | none => none

/-- A request that a tombstone answers: sent to a home that is no longer the block's, or held until the commit (R358). One whose translation an
UNMAP has emptied names no home (R362). -/
def forwarded (s : State) (r : Req) : Bool :=
  !r.orphan && !(dirOf s (blockOf r.addr)).mig &&
  (r.phase == .heldAt || (r.phase == .flight && ((dirOf s (blockOf r.addr)).home != r.home || r.home == .unmapped)))

/-- An earlier request of the core to the block has not been sent again to its new home, so this one waits (R358) (log 30). -/
def behindForward (s : State) (c : Nat) (r : Req) : Bool :=
  (coreOf s c).reqs.any (fun q => decide (q.id < r.id) && blockOf q.addr == blockOf r.addr && (q.fwd || forwarded s q))

/-- A store reaches its home through a translation that named `r.home`: performed there, held while the block is in COPY, left to
be forwarded when that home is a tombstone, or left for the refusal of a bank that takes nothing (R108, R295, R357, R358). A line that the
host holds is brought back first (R619) (log 22). -/
def storeAtHome (s : State) (c : Nat) (r : Req) (e : Sq) (d : Line) : State :=
  let b := blockOf e.addr
  let left := updCore s c (fun k => updReq k r.id (fun q => { q with phase := .flight }))
  if (dirOf s b).home ≠ r.home ∨ behindForward s c r = true ∨ (r.placed = false ∧ (refusingBank s (lineOf e.addr)).isSome = true) then left
  else match moveOf s b with
    | some v =>
      if v.copy then
        let s1 := { s with m := { s.m with moves := s.m.moves.map (fun w =>
          if w.block == b then { w with held := w.held ++ [⟨c, r.id⟩] } else w) } }
        updCore s1 c (fun k => updReq k r.id (fun q => { q with phase := .heldAt }))
      else storeDo s c r e d
    | none =>
      if hostHolds s (lineOf e.addr) then sendBisnp left (lineOf e.addr)
      else storeDo s c r e d
where
  /-- The store is performed: its bytes are in the device range and its SQ entry is free; the acknowledgement is on its way. -/
  storeDo (s : State) (c : Nat) (r : Req) (e : Sq) (d : Line) : State :=
    let s1 := if e.poison then poisonLine s (lineOf e.addr) else writeBytes s e.addr e.bytes d.toNat
    pumpPosted c (updCore s1 c (fun k => dropSq (updReq k r.id (fun q => { q with phase := .performed })) e.id))

/-- A request goes out on the D-net, where it takes a slot (R116): a store is performed, anything else is on its way until its answer
(log 28). An atomic whose block turns out to be homed in a local store raises ADDRESS (R314), unless the A-stream has recorded a fault
(R199, log 93). -/
def goOut (s : State) (c : Nat) (r : Req) : State :=
  let r := { r with phase := .flight, fwd := false }
  let s1 := updCore s c (fun k => updReq k r.id (fun _ => r))
  match r.kind with
  | .store q =>
    match sqOf (coreOf s1 c) q with
    | some e =>
      match e.data with
      | some d => storeAtHome s1 c r e d
      | none => s1
    | none => s1
  | .atomic q =>
    match r.home with
    | .ls _ _ =>
      let s2 := updCore s1 c (fun k => dropSq (dropReq k r.id) q)
      if (coreOf s2 c).ae.frec.getLsbD 63 then s2 else streamFault s2 c false .address r.pc 3
    | _ => s1
  | _ => s1

/-- The bank of a line, if the core waits for it already: a new request to it joins that list and is not sent (R296). -/
def listedBank (s : State) (c line : Nat) : Option Nat :=
  match bankOf s line with
  | some b => if waitsBank (coreOf s c) b then some b else none
  | none => none

/-- A request whose translation names a home joins the list of a bank that its core waits for, goes out with a free slot, or waits for
a slot (R116 to R118, R296). -/
def sendReq (s : State) (c : Nat) (r : Req) (home : Home) : State :=
  let r := { r with home := home, phase := .waitSlot }
  let s1 := updCore s c (fun k => updReq k r.id (fun _ => r))
  match if home = (dirOf s (blockOf r.addr)).home then listedBank s1 c (lineOf r.addr) else none with
  | some bank => joinBank s1 c r.id bank
  | none => if slotsFree (coreOf s1 c) 1 then goOut s1 c r else s1

/-- An access hits the translation cache; a tile load counts its rows only (R376). -/
def countHit (s : State) (c : Nat) (kind : ReqKind) : State :=
  match kind with
  | .scale _ => s
  | _ => bump s (cCore c 40) 1

/-- The requests that wait for a slot go on, oldest first. -/
def sendReadyGo (s : State) (c : Nat) : List Req → State
  | [] => s
  | r :: t => sendReadyGo (if r.phase == .waitSlot then sendReq s c r r.home else s) c t
def sendReady (s : State) (c : Nat) : State := sendReadyGo s c (coreOf s c).reqs

/-- Issues a request of core `c`: it takes the cached translation or asks for one (R342, R343). -/
def request (s : State) (c : Nat) (kind : ReqKind) (addr level pc : Nat) (ra : Bool) : State :=
  let k := coreOf s c
  let r : Req := { id := k.reqNext, kind := kind, addr := addr, level := level, pc := pc, ra := ra, phase := .translating }
  let s1 := updCore s c (fun k => { k with reqs := k.reqs ++ [r], reqNext := k.reqNext + 1 })
  match tcTouch k.tc (blockOf addr) with
  | some (e, l) => sendReq (countHit (updCore s1 c (fun k => { k with tc := l })) c kind) c r e.home
  | none => askDirectory s1 (.core c) (blockOf addr) (!ra)

/-- Sends again a request that holds a place already, as a demand access (R134, R135). -/
def rerequest (s : State) (c : Nat) (id : Nat) : State :=
  match reqOf (coreOf s c) id with
  | none => s
  | some r =>
    let r := { r with ra := false, phase := .translating }
    let s1 := updCore s c (fun k => updReq k id (fun _ => r))
    match tcTouch (coreOf s c).tc (blockOf r.addr) with
    | some (e, l) => sendReq (countHit (updCore s1 c (fun k => { k with tc := l })) c r.kind) c r e.home
    | none => askDirectory s1 (.core c) (blockOf r.addr) true

/-- An older entry of the same line is not performed yet (R108). -/
def olderSame (k : Core) (e : Sq) : Bool := k.sq.any (fun q => decide (q.id < e.id) && lineOf q.addr == lineOf e.addr)

/-- Every store whose entry holds data and is committed, and whose request has not been made, is performed, oldest first, stores to one
line in allocation order (R108) (log 22). -/
def storeScan (s : State) (c : Nat) : List Sq → State
  | [] => s
  | e :: t =>
    if e.data.isSome && !e.sent && committed (coreOf s c) e.level && !olderSame (coreOf s c) e then
      let s1 := updCore s c (fun k => updSq k e.id (fun q => { q with sent := true }))
      let kind := if e.amo.isSome then ReqKind.atomic e.id else .store e.id
      storeScan (request s1 c kind e.addr e.level e.pc false) c t
    else storeScan s c t

def storePump (s : State) (c : Nat) : State := storeScan s c (coreOf s c).sq

/-! ### Drops and page faults (R131 to R135, R345) -/

/-- A run-ahead access is dropped (R131, R133). -/
def dropAccess (s : State) (c : Nat) (r : Req) : State :=
  let s1 := bump s (cCore c 7) 1
  match r.kind with
  | .lq e => updCore s1 c (fun k => updLq (dropReq k r.id) e (fun q => { q with st := .dropped }))
  | _ => updCore s1 c (fun k => dropReq k r.id)

/-- The tile that a request fills. -/
def loadOf (r : Req) : Option Nat :=
  match r.kind with
  | .tile t _ => some t
  | .scale t => some t
  | _ => none

/-- Not on the D-net. -/
def unsent (r : Req) : Bool :=
  match r.phase with
  | .translating | .waitSlot | .bankWait _ | .faulted => true
  | _ => false

/-- A tile load stops at a page fault of block `b`: its lines not on the D-net are not issued (R237). -/
def stopLoad (k : Core) (t b : Nat) : Core :=
  { setTile k t { tileOf k t with load := (tileOf k t).load.map (fun l => { l with stopped := some b }) } with
    reqs := k.reqs.filter (fun r => !(loadOf r == some t && unsent r && !r.orphan)) }

/-- The request that meets a page fault stays with its core until the fault is resolved; that of a tile load is issued anew (R238). -/
def markFault (k : Core) (r : Req) : Core :=
  match loadOf r with
  | some t => stopLoad k t (blockOf r.addr)
  | none => updReq k r.id (fun q => { q with phase := .faulted })

/-- A demand access takes a page fault, which is counted: the core stops at it (R135). `gone` says the block is unmapped, which ends the run
with cause PAGE (R345) and counts for the device (R376). The core stops at the first such access; later ones wait with it (log 33). -/
def pageFault (s : State) (c : Nat) (r : Req) (gone : Bool) : State :=
  let s1 := bump (updCore s c (fun k => markFault k r)) (cCore c 12) 1
  if gone then (if (coreOf s c).ae.st == .faulted then bump s1 4 1 else streamFault (bump s1 4 1) c false .page r.pc 3)
  else updCore s1 c (fun k =>
    let st (e : Engine) : Engine := if e.st == .running then { e with st := .pageFault } else e
    { k with ae := st k.ae, xe := st k.xe, faultBlock := some (k.faultBlock.getD (blockOf r.addr)), faults := k.faults ++ [blockOf r.addr] })

end Sys2Proof.Machine
end

