-- ==== Sys2Proof/Machine/Check.lean ====
section
/-!
DEFINITION. What can keep a bundle from taking effect (04, 05): the registers its slots write, the faults of each slot found from its
encoding and the state, and the waits that hold it.
-/
namespace Sys2Proof.Machine

/-! ### Registers written (R151): s n, p n, v n, a n as distinct numbers -/

def regS (i : BitVec 5) : Nat := i.toNat
def regP (i : BitVec 3) : Nat := 100 + i.toNat
def regV (i : Nat) : Nat := 200 + i
def regA (i : BitVec 4) : Nat := 300 + i.toNat

def scalarWrites : ScalarOp → List Nat
  | .alu _ f | .shift _ f | .mul f | .minmax _ f | .sel f | .lqs f => [regS f.sd]
  | .addi f | .logi _ f | .shifti _ f | .lui f | .getid f => [regS f.sd]
  | .cmp _ f | .cmpi _ f => [regP f.pd]
  | .plog _ f | .pnot f => [regP f.pd]
  | .sqs _ | .srseed _ | .bc _ | .jmp _ => []

/-- The vector registers a conversion destination takes (Table 04.10). -/
def cvtWrites (f : FVC) : List Nat :=
  if isWide f.dst.toNat then [regV f.vd.toNat, regV (f.vd.toNat + 1)] else [regV f.vd.toNat]

def scaleReg (f : FVC) : BitVec 5 := f.ss.setWidth 5

def vectorWrites : VectorOp → List Nat
  | .arith _ f | .fma f | .fms f | .minmax _ f | .absneg _ f | .sqrt f | .func _ f | .bitw _ f | .shift _ f | .cmp _ f | .sel f
  | .redsum f | .redmax f | .lqv f => [regV f.vd.toNat]
  | .any f => [regP f.pd]
  | .cvt f | .cvtbs f => cvtWrites f
  | .cvtbd f | .cvtbb f => regS (scaleReg f) :: cvtWrites f
  | .bcast f => [regV f.v.toNat]
  | .movs f => [regS f.s]
  | .vtr f => [regV f.v.toNat]
  | .sqv _ | .vtw _ => []

def accessWrites : AccessOp → List Nat
  | .ld f | .st f | .pf f => if f.inc then [regA f.ab] else []
  | .addsub _ f => [regA f.ad]
  | .addai f | .shla f | .mulai f | .lia f => [regA f.ad]
  | _ => []

def syncWrites (x : Bool) : SyncOp → List Nat
  | .test f => [if x then regP (f.dst.setWidth 3) else regA (f.dst.setWidth 4)]
  | _ => []

def clash (a b : List Nat) : Bool := a.any (fun r => b.contains r)

/-! ### Faults of a slot -/

def when (b : Bool) (c : Cause) : List Cause := if b then [c] else []

/-- The fault a slot raises: the lowest cause code (R195). -/
def lowest : List Cause → Option Cause
  | [] => none
  | c :: t => match lowest t with
    | some d => if causeCode d < causeCode c then some d else some c
    | none => some c

/-- A branch target in halfwords from its bundle (R158). -/
def target (pc : Nat) (off : BitVec 16) : Int := (pc : Int) + 2 * off.toInt
def inRegion (e : Engine) (t : Int) : Bool := decide ((e.base : Int) ≤ t) && decide (t < (e.base + e.size : Nat))

/-- BC is taken (Table 04.3). -/
def bcTaken (k : Core) (f : FSB) : Bool := getP k f.p != f.pneg

def scalarFaults (k : Core) (pc : Nat) : ScalarOp → List Cause
  | .alu _ f | .shift _ f | .mul f | .minmax _ f => when (f.p != 0) .field
  | .sel _ => []
  | .lqs f => when (f.sa != 0 || f.sb != 0 || f.p != 0) .field
  | .sqs f => when (f.sd != 0 || f.sb != 0 || f.p != 0) .field
  | .srseed f => when (f.sd != 0 || f.p != 0) .field
  | .addi _ | .logi _ _ => []
  | .shifti _ f => when (f.imm.toNat / 32 != 0) .field
  | .lui f => when (f.sa != 0) .field
  | .cmp _ f => when (f.imm != 0) .field
  | .cmpi _ f => when (f.sb != 0) .field
  | .plog _ _ => []
  | .pnot f => when (f.pb != 0) .field
  | .getid f => when (f.sa != 0 || decide (5 ≤ f.imm.toNat)) .field
  | .bc f => when (!f.rep && f.pair != 0) .field ++ when (bcTaken k f && !inRegion k.xe (target pc f.off)) .fetchBounds
  | .jmp f => when ((!f.rep && f.pair != 0) || f.p != 0 || f.pneg) .field ++ when (!inRegion k.xe (target pc f.off)) .fetchBounds

/-- SR on a result of FP32 or INT32 (R64, R166). -/
def srField (f : FVR) : List Cause := when (f.sr && (f.ty == 0 || f.ty == 3)) .field

def cvtFaults (f : FVC) (bs bd : Bool) : List Cause :=
  let a := f.src.toNat
  let b := f.dst.toNat
  when (!(bs || bd) && f.ss != 0) .field ++
  when (decide (9 < a) || decide (9 < b) || a == b || (bs && (a == 0 || a == 9)) || (bd && (b == 0 || b == 9))) .numFormat ++
  when (decide (a ≤ 9) && decide (b ≤ 9) &&
    (if fmtBits a < 16 && fmtBits b < 16 then decide (min (maxPart a) (maxPart b) < f.part.toNat)
     else decide (max (maxPart a) (maxPart b) < f.part.toNat))) .field ++
  when ((isWide a && f.va.getLsbD 0) || (isWide b && f.vd.getLsbD 0)) .regAlign ++
  when (f.sr && (b == 0 || b == 9)) .field

/-- Faults found from a vector slot's encoding. -/
def vectorFaults : VectorOp → List Cause
  | .arith _ f | .minmax _ f | .cmp _ f => when (f.vc != 0) .field ++ srField f
  | .fma f | .fms f | .sel f => srField f
  | .absneg _ f | .redsum f | .redmax f => when (f.vb != 0 || f.vc != 0) .field ++ srField f
  | .sqrt f | .func _ f => when (f.vb != 0 || f.vc != 0) .field ++ srField f ++ when (f.ty == 3) .numFormat
  | .bitw _ f => when (f.vc != 0 || f.sr) .field ++ when (f.ty != 0) .numFormat
  | .shift _ f => when (f.vc != 0 || f.sr) .field ++ when (f.ty != 3) .numFormat
  | .any _ => []
  | .cvt f => cvtFaults f false false
  | .cvtbs f => cvtFaults f true false
  | .cvtbd f => cvtFaults f false true
  | .cvtbb f => cvtFaults f true true
  | .lqv f => when (f.va != 0 || f.vb != 0 || f.vc != 0 || f.sr) .field ++ when (f.ty != 0) .numFormat
  | .sqv f => when (f.vd != 0 || f.vb != 0 || f.vc != 0 || f.sr) .field ++ when (f.ty != 0) .numFormat
  | .bcast f => when (f.lane != 0) .field
  | .movs f => when (decide (tyLanes f.ty ≤ f.lane.toNat)) .field
  | .vtr f => when (f.fmt != 0) .field
  | .vtw f => when (f.fmt == 0 || decide (8 < f.fmt.toNat)) .numFormat

/-- The faults that a guarded-off slot still raises (R149). -/
def hardOnly (l : List Cause) : List Cause := l.filter (fun c => c == .field || c == .opcode || c == .length || c == .slotStream)

/-! ### The matrix unit as earlier instructions will leave it (R171, R227) -/

/-- Table 02.7: products per cycle and whether the accumulator is INT32; none for a pair R88 forbids. -/
def mmulPair (fa fw : Nat) (sa sw : Bool) : Option (Nat × Bool) :=
  if fa = 8 ∨ fw = 8 then (if fa = fw ∧ sa = sw then some (2, !sa) else none)
  else if fa ≤ 2 ∨ fw ≤ 2 then some (1, false)
  else if fa = 7 ∧ fw = 7 then some (4, false)
  else some (2, false)

/-- Table 05.1. -/
def tileE (fmt : Nat) : Nat := if fmt ≤ 2 then 32 else if fmt = 7 then 128 else 64
def tileKw (fmt : Nat) : Nat := tileE fmt / 32

/-- Holding and kind of the eight accumulators after a matrix instruction; an MMUL that has not computed sets its kinds. -/
def projectAcc (k : Core) (a : Nat → Bool × Bool) (m : MOp) : Nat → Bool × Bool :=
  match m.op with
  | .mmul f =>
    if m.phase == .computing then a
    else fun i =>
      if i < 4 ∧ f.amask.getLsbD i then
        let ta := tileOf k f.ta.toNat
        let tw := tileOf k (4 * f.twg.toNat + i)
        (true, match mmulPair ta.fmt tw.fmt (ta.bsh != 0) (tw.bsh != 0) with
          | some r => r.2
          | none => false)
      else a i
  | .mzero mask => fun i => if mask.getLsbD i then (false, false) else a i
  | .mswap => fun i => if i < 4 then a (i + 4) else if i < 8 then a (i - 4) else a i
  | .mdrain f => fun i => if f.clr ∧ i = 4 + f.acc.toNat then (false, false) else a i
  | .trel _ => a

def projectedAcc (k : Core) (i : Nat) : Bool × Bool :=
  (k.mops.foldl (projectAcc k) (fun j => ((accOf k j).holding, (accOf k j).int))) i

/-- Tiles a matrix instruction reads. -/
def mopReads (op : MatrixOp) : List Nat :=
  match op with
  | .mmul f => if f.amask = 0 then [] else f.ta.toNat :: ((List.range 4).filter (fun i => f.amask.getLsbD i)).map (fun i => 4 * f.twg.toNat + i)
  | _ => []
/-- Tiles a matrix instruction releases or writes. -/
def mopChanges (op : MatrixOp) : List Nat :=
  match op with
  | .trel mask => (List.range 16).filter (fun i => mask.getLsbD i)
  | .mdrain f => if f.dest = 0 then [f.td.toNat] else []
  | _ => []

/-- A tile counts as FULL for an MMUL at issue (R227). -/
def tileReady (k : Core) (t : Nat) : Bool :=
  let x := tileOf k t
  x.st == .full && !x.spec && !k.mops.any (fun m => (mopChanges m.op).contains t)

/-- MMUL checks of one enabled array (R88, R172, R226). -/
def mmulFaults (k : Core) (f : FMM) (i : Nat) : List Cause :=
  let ta := tileOf k f.ta.toNat
  let tw := tileOf k (4 * f.twg.toNat + i)
  match mmulPair ta.fmt tw.fmt (ta.bsh != 0) (tw.bsh != 0) with
  | none => [.operandPair]
  | some (kk, int) =>
    let p := projectedAcc k i
    let e := tileE ta.fmt
    let ks := f.ksel.toNat
    when (p.1 && p.2 != int) .operandPair ++
    when ((!ta.trans && decide (e < (ks + 1) * (16 * kk))) || (ta.trans && (kk != 1 || decide (e / 16 ≤ ks))) || tw.trans ||
      (ta.bsh == 2 && decide (32 < e))) .shape

/-- Table 04.12 without the accumulator's kind. -/
def drainRow (f : FMD) : Bool :=
  let d := f.dest.toNat
  let m := f.fmt.toNat
  (d == 0 && decide (1 ≤ m) && decide (m ≤ 8)) || (d == 1 && ((decide (1 ≤ m) && decide (m ≤ 8)) || ((m == 0 || m == 9) && !f.bs))) ||
  (d == 2 && m == 0 && !f.bs)
/-- Table 04.12 for a kind. -/
def drainKind (f : FMD) (int : Bool) : Bool :=
  let m := f.fmt.toNat
  if int then (f.dest == 0 && m == 8 && !f.bs) || (f.dest == 1 && (m == 8 || m == 9) && !f.bs) else m != 9

/-- Faults found from a matrix slot's encoding (R156, R174, R177). -/
def matrixFaults : MatrixOp → List Cause
  | .mdrain f =>
    when (f.dest == 3 || (f.td != 0 && f.dest != 0) || (f.soff != 0 && f.dest != 2) || (f.sr && (f.fmt == 0 || f.fmt == 9))) .field ++
    when (f.dest != 3 && !drainRow f) .numFormat
  | _ => []

/-- Faults a matrix slot raises from the state it meets at issue. -/
def matrixStateFaults (k : Core) : MatrixOp → List Cause
  | .mmul f => ((List.range 4).filter (fun i => f.amask.getLsbD i)).flatMap (mmulFaults k f)
  | .mdrain f =>
    let p := projectedAcc k (4 + f.acc.toNat)
    when (p.1 && !drainKind f p.2) .numFormat ++
    when (f.dest == 2 && ((getS k f.soff).toNat % 2048 != 0 || decide (194560 < (getS k f.soff).toNat))) .wgbOffset
  | _ => []

/-! ### Sync slot -/

/-- The flag an SF slot names (R185): the core's own, a chip flag, or a selector. -/
inductive SyncTarget where | flag (f : FlagRef) | sel (w : Word) (high : Bool)
  deriving DecidableEq, Repr

def syncTarget (c : Nat) (k : Core) (x : Bool) (f : FSF) : SyncTarget :=
  if f.kind = 0 then .flag (.core c (f.flag.toNat % 256))
  else if f.kind = 1 then .flag (.chip f.flag.toNat)
  else if x then .sel (getS k f.reg) false
  else
    let a := getA k (f.reg.setWidth 4)
    .sel (a.setWidth 32) (a.toNat / 2 ^ 32 != 0)

/-- The own-core flag an operation names, if its holder is the issuing core (R483). -/
def ownFlag (s : State) (c : Nat) : SyncTarget → Option Nat
  | .flag (.core _ i) => some i
  | .flag (.chip _) => none
  | .sel w _ => if selDev w = devNum s ∧ selChip w = false ∧ selCore w = c then some (selIdx w) else none

/-- Faults of an SF slot. WAITC or TEST on a selector raises FLAG_KIND whatever the register holds: its value is looked at only by SET and CLR (R185,
R186) (log 17). -/
def fsfFaults (s : State) (c : Nat) (k : Core) (x : Bool) (f : FSF) (sets test : Bool) : List Cause :=
  when (f.kind == 3 || (f.kind == 0 && (f.flag.toNat / 256 != 0 || f.reg != 0)) || (f.kind == 1 && f.reg != 0) ||
    (f.kind == 2 && (f.flag != 0 || (!x && f.reg.getLsbD 4))) ||
    (if test then (if x then f.dst.toNat / 8 != 0 else f.dst.getLsbD 4) else f.dst != 0)) .field ++
  when (!sets && f.kind == 2) .flagKind ++
  (if sets && f.kind == 2 then
    match syncTarget c k x f with
    | .sel w hi =>
      when hi .address ++ when (selBad w) .field ++
      when (!selBad w && selDev w == devNum s && !selChip w && !present s (selCore w)) .absentCore
    | .flag _ => []
  else [])

def syncFaults (s : State) (c : Nat) (k : Core) (x : Bool) : SyncOp → List Cause
  | .set f | .clr f => fsfFaults s c k x f true false
  | .waitc f => fsfFaults s c k x f false false
  | .test f => fsfFaults s c k x f false true
  | .brx _ => when x .opcode
  | .stop _ | .end_ => []

/-- FLAG_OVER and FLAG_UNDER of an own-core flag, found once the bundle's waits are over (R483). -/
def syncLateFaults (s : State) (c : Nat) (k : Core) (x : Bool) : SyncOp → List Cause
  | .set f => match ownFlag s c (syncTarget c k x f) with
    | some i => when (flagOf k i) .flagOver
    | none => []
  | .clr f => match ownFlag s c (syncTarget c k x f) with
    | some i => when (!flagOf k i) .flagUnder
    | none => []
  | _ => []

/-! ### Access slot -/

def accBytes (sz : BitVec 3) : Nat := 2 ^ sz.toNat
def offA (off : BitVec 16) : BitVec 48 := off.signExtend 48
def accAddr (k : Core) (f : FAM) : Nat := (if f.inc then getA k f.ab else getA k f.ab + offA f.off).toNat
def badAddr (addr n : Nat) : Bool := decide (2 ^ 40 ≤ addr) || addr % n != 0

/-- Size of the data an atomic acts on, and of its operand (R184, Table 04.14). -/
def amoSize (aop : BitVec 4) (ty : BitVec 2) : Nat :=
  if aop = 5 then 8 else if aop = 6 then 64
  else if aop = 3 ∨ aop = 4 then (if ty = 1 then 8 else 4)
  else if ty = 1 then 2 else 4
def amoOperand (aop : BitVec 4) (ty : BitVec 2) : Nat := if aop = 5 then 16 else amoSize aop ty
def amoFieldBad (f : FAX) : Bool :=
  let a := f.aop.toNat
  decide (6 < a) || ((decide (a ≤ 2) || a == 6) && f.ty == 3) || ((a == 3 || a == 4) && decide (1 < f.ty.toNat)) || (a == 5 && f.ty != 0) ||
  (a == 5 && !f.ret) || (a == 6 && f.ret)
def amoAddr (k : Core) (f : FAX) : Nat := (getA k f.ab + f.off.signExtend 48).toNat

/-- The address of row `r` of a tile load (R182). -/
def rowAddr (ab as : BitVec 48) (r : Nat) : Nat := (ab + BitVec.ofNat 48 r * as).toNat

def mloadFaults (k : Core) (f : FAT) : List Cause :=
  when (f.bsh == 3 || (f.bsh == 0 && f.ac != 0)) .field ++
  when (f.fmt == 0 || decide (8 < f.fmt.toNat)) .numFormat ++
  when ((List.range (f.nr.toNat + 1)).any (fun r => badAddr (rowAddr (getA k f.ab) (getA k f.as) r) 64) ||
    (f.bsh != 0 && badAddr (getA k f.ac).toNat 64)) .address

/-- The comparison of BRA (Table 04.13). -/
def braTaken (k : Core) (f : FAB) : Bool :=
  let a := getA k f.aa
  let b := getA k f.ab
  if f.cond = 0 then a == b else if f.cond = 1 then a != b else if f.cond = 2 then a.slt b else a.ult b

def accessFaults (k : Core) (pc : Nat) : AccessOp → List Cause
  | .ld f | .st f => when (f.sz == 7) .field ++ when (badAddr (accAddr k f) (accBytes f.sz)) .address
  | .pf f => when (f.sz != 6) .field
  | .mload f | .mloadt f => mloadFaults k f
  | .amo f => when (amoFieldBad f) .field ++ when (badAddr (amoAddr k f) (amoSize f.aop f.ty)) .address
  | .addsub _ _ | .addai _ | .mulai _ => []
  | .shla f => when (f.imm.toNat / 64 != 0) .field
  | .lia f => when (f.as != 0) .field
  | .bra f => when (braTaken k f && !inRegion k.ae (target pc f.off)) .fetchBounds
  | .jmpa f => when (f.aa != 0 || f.ab != 0 || f.cond != 0) .field ++ when (!inRegion k.ae (target pc f.off)) .fetchBounds

/-! ### Waits -/

/-- The greatest number of unresolved BRX (Table 03.5). -/
def brxDepth (k : Core) : Nat := min 16 (k.runahead.toNat % 32)

def waitFor (b : Bool) (h : Hold) : List Hold := if b then [h] else []

/-- The LQ entry at place `i` has committed data (R102). -/
def lqReady (k : Core) (i : Nat) : Bool :=
  match k.lq[i]? with
  | some e => e.st == .data && committed k e.level
  | none => false

/-- The SQ entry that fill `n` goes to is present and committed (R107). -/
def sqReady (k : Core) (n : Nat) : Bool :=
  match sqOf k n with
  | some e => committed k e.level
  | none => false

def pairIdle (k : Core) (pair : Nat) : Bool := !flagOf k (2 * pair) && !flagOf k (2 * pair + 1)

def popsScalar : Option ScalarOp → Nat
  | some (.lqs _) => 1
  | _ => 0
def fillsScalar : Option ScalarOp → Nat
  | some (.sqs _) => 1
  | _ => 0

def scalarWaits (k : Core) : ScalarOp → List Hold
  | .lqs _ => waitFor (!lqReady k 0) .lq
  | .sqs _ => waitFor (!sqReady k k.fillNext) .sq
  | .bc f | .jmp f => waitFor (f.rep && !pairIdle k f.pair.toNat) .report
  | _ => []

/-- A VTR or VTW waits for every earlier matrix instruction on its tile (R212). -/
def tileBusy (k : Core) (t : Nat) : Bool := k.mops.any (fun m => (mopReads m.op).contains t || (mopChanges m.op).contains t)

def vtrReady (k : Core) (f : FVT) : Bool :=
  let x := tileOf k f.t.toNat
  !tileBusy k f.t.toNat && !x.spec && x.st != .empty && (if x.trans then x.st == .full else x.mask.getLsbD f.row.toNat)

/-- VTW meets a tile that it may write or that it faults on; a FULL tile whose load is uncommitted is waited for (log 92). -/
def vtwReady (k : Core) (f : FVT) : Bool :=
  let x := tileOf k f.t.toNat
  !tileBusy k f.t.toNat && (x.st == .empty || x.st == .writing || (x.st == .full && !x.spec))

/-- VTW on a tile it may not overwrite (R214). -/
def vtwBad (k : Core) (f : FVT) : Bool :=
  let x := tileOf k f.t.toNat
  (x.st == .writing && x.fmt != f.fmt.toNat) || (x.st == .full && (x.trans || x.bsh != 0 || x.fmt != f.fmt.toNat))

/-- Faults that a vector slot raises from the tile it meets, once the tile is no longer waited for. -/
def vectorStateFaults (k : Core) : VectorOp → List Cause
  | .vtw f => when (vtwReady k f && vtwBad k f) .field
  | _ => []

def vectorWaits (k : Core) (pops fills : Nat) : VectorOp → List Hold
  | .lqv _ => waitFor (!lqReady k pops) .lq
  | .sqv _ => waitFor (!sqReady k (k.fillNext + fills)) .sq
  | .vtr f => waitFor (!vtrReady k f) (.tile f.t.toNat)
  | .vtw f => waitFor (!vtwReady k f) (.tile f.t.toNat)
  | _ => []

/-- Matrix instructions in MQ: an MMUL until its collection starts, any other until it completes (R232). -/
def mqUsed (k : Core) : Nat := (k.mops.filter (fun m => match m.op with
  | .mmul _ => m.phase == .queued
  | _ => true)).length

/-- The waits of a matrix slot at its bundle (R208, R227, R232). A TREL waits for no tile here: it enters MQ and waits there; a slot that its guard
turns off needs no room in MQ (log 92). -/
def matrixWaits (k : Core) (op : MatrixOp) : List Hold :=
  waitFor (decide (4 ≤ mqUsed k)) .mqFull ++
  match op with
  | .mmul f => match (mopReads (.mmul f)).find? (fun t => !tileReady k t) with
    | some t => [.tile t]
    | none => []
  | _ => []

/-- An MDRAIN waits for its destination tile (Table 05.3), as the tile is before the bundle: a VTW of the same bundle on that tile does not hold it
(log 92). -/
def drainWaits (k : Core) : MatrixOp → List Hold
  | .mdrain f => waitFor (f.dest == 0 && ((tileOf k f.td.toNat).st != .empty || tileBusy k f.td.toNat)) (.tile f.td.toNat)
  | _ => []

/-- Stores that earlier bundles have filled or hold fills for (R178), and WGB drains, that are not done (R114, R264). -/
def xStores (k : Core) : List Nat :=
  (k.sq.filter (fun e => decide (e.id < k.fillNext))).map (fun e => e.id) ++ (List.range (k.fillNext - k.sqNext)).map (fun i => k.sqNext + i)
def xDrains (k : Core) : List Nat := (k.mops.filter (fun m => match m.op with
  | .mdrain f => f.dest == 2
  | _ => false)).map (fun m => m.id)
def aStores (k : Core) : List Nat := k.sq.map (fun e => e.id)

def storesDone (k : Core) (x : Bool) : Bool := if x then (xStores k).isEmpty && (xDrains k).isEmpty else (aStores k).isEmpty

def syncWaits (s : State) (c : Nat) (k : Core) (x : Bool) (op : SyncOp) : List Hold :=
  waitFor (!x && !k.brx.isEmpty && (match op with
    | .brx _ => false
    | _ => true)) .uncommitted ++
  match op with
  | .set f | .clr f => waitFor ((ownFlag s c (syncTarget c k x f)).isSome && !storesDone k x) .stores
  | .waitc f => match syncTarget c k x f with
    | .flag r => waitFor (!(engineOf k x).grant && (fsfFaults s c k x f false false).isEmpty && (!flagGet s r || (firstWaiter s r).isSome)) .waitc
    | .sel _ _ => []
  | .brx _ => waitFor (decide (max 1 (brxDepth k) ≤ k.brx.length)) .brxDepth
  | _ => []

/-- The banks of those addresses whose requests need a list entry: the core waits for the bank, or it refuses what arrives (R294, R296). -/
def needsEntry (s : State) (k : Core) (addrs : List Nat) : List Nat :=
  addrs.filterMap (fun a => match bankOf s (lineOf a) with
    | some b => if waitsBank k b || (refusingBank s (lineOf a)).isSome then some b else none
    | none => none)

/-- Requests that need a list entry when none is free (R296). -/
def listFull (s : State) (k : Core) (addrs : List Nat) : Bool :=
  let l := needsEntry s k addrs
  !l.isEmpty && !listTakes k l

/-- An older store of the core names the line (R113). -/
def hazard (k : Core) (addr : Nat) : Bool := k.sq.any (fun e => lineOf e.addr == lineOf addr)

/-- The addresses of a tile load: its rows, and with block scales its scale line (R182). -/
def loadAddrs (k : Core) (f : FAT) : List Nat :=
  (List.range (f.nr.toNat + 1)).map (fun r => rowAddr (getA k f.ab) (getA k f.as) r) ++ if f.bsh = 0 then [] else [(getA k f.ac).toNat]

def accessWaits (s : State) (k : Core) (op : AccessOp) : List Hold :=
  match op with
  | .ld f =>
    let a := accAddr k f
    waitFor (hazard k a) .sqHazard ++ waitFor (decide (32 ≤ k.lq.length)) .lqFull ++ waitFor (!slotsFree k 1) .slotsFull ++
    waitFor (listFull s k [a]) .bankList
  | .st f => waitFor (decide (16 ≤ k.sq.length)) .sqFull ++ waitFor (!slotsFree k 1) .slotsFull ++ waitFor (listFull s k [accAddr k f]) .bankList
  | .pf f =>
    if k.runahead.getLsbD 9 && !badAddr (accAddr k f) 64 then
      waitFor (!slotsFree k 1) .slotsFull ++ waitFor (listFull s k [accAddr k f]) .bankList
    else []
  | .mload f | .mloadt f =>
    waitFor ((loadAddrs k f).any (hazard k)) .sqHazard ++
    waitFor (!k.brx.isEmpty && !k.runahead.getLsbD 8) .uncommitted ++
    waitFor (!slotsFree k (loadAddrs k f).length) .slotsFull ++
    waitFor ((tileOf k f.td.toNat).st != .empty) (.tile f.td.toNat) ++
    waitFor (listFull s k (loadAddrs k f)) .bankList
  | .amo f =>
    waitFor (!k.brx.isEmpty) .uncommitted ++ waitFor (decide (16 ≤ k.sq.length)) .sqFull ++
    waitFor (f.ret && decide (32 ≤ k.lq.length)) .lqFull ++ waitFor (!slotsFree k 1) .slotsFull ++
    waitFor (listFull s k [amoAddr k f]) .bankList
  | _ => []

end Sys2Proof.Machine
end

