-- ==== Sys2Proof/Machine/Issue.lean ====
section
/-!
DEFINITION. The issue of one bundle (R149 to R155, R195): its waits, its faults, and the effects of its slots, each slot reading the
registers as they were before the bundle. `s0` is the state before the bundle, `s` the state as earlier slots leave it.
-/
namespace Sys2Proof.Machine

/-! ### Queues -/

/-- Marks the run of a core as having met poison (R603). -/
def markPoison (k : Core) : Core :=
  { k with run := match k.run with
    | some r => some { r with poisonSeen := true }
    | none => none }

/-- Pops the LQ head (R102); a poisoned entry gives zeros and counts (R105, R603). -/
def popLq (s : State) (c : Nat) : State × Line :=
  match (coreOf s c).lq with
  | [] => (s, 0)
  | e :: t =>
    let s1 := updCore s c (fun k => { k with lq := t })
    if e.poison then (bump (updCore s1 c markPoison) (cCore c 51) 1, 0) else (s1, e.data)

/-- Fills SQ entry `n` (R107). -/
def fillEntry (k : Core) (n : Nat) (d : Line) (p : Bool) : Core := updSq k n (fun e => { e with data := some d, poison := p })

/-- Fills the head unfilled SQ entry. -/
def fillSq (s : State) (c : Nat) (d : Line) : State :=
  updCore s c (fun k => { fillEntry k k.fillNext d false with fillNext := k.fillNext + 1 })

/-! ### Scalar slot -/

/-- GETID selectors (Table 04.8). -/
def getidVal (s : State) (c : Nat) (i : Nat) : Word :=
  BitVec.ofNat 32 (if i = 0 then c else if i = 1 then s.fit.grade else if i = 2 then devNum s else if i = 3 then s.fit.nStacks else s.fit.iodies)

/-- The report of a branch on its decision pair, which is set one CLK_A cycle later (R109, R112, R160) (log 18). -/
def report (s : State) (c pc : Nat) (f : FSB) (taken : Bool) : State :=
  if f.rep then updCore s c (fun q => { q with rep := some (2 * f.pair.toNat + (if taken then 0 else 1), pc) }) else s

/-- A report that is due is set. When another agent has set its flag since, the X-stream takes FLAG_OVER at its branch (R112) (log 18). -/
def settleReport (s : State) (c : Nat) : State :=
  match (coreOf s c).rep with
  | none => s
  | some (i, addr) =>
    let s1 := updCore s c (fun q => { q with rep := none })
    if flagOf (coreOf s c) i then bump (streamFault s1 c true .flagOver addr 0) (cCore c 48) 1 else flagRaise s1 (.core c i)

def scalarEffect (s0 : State) (c : Nat) (op : ScalarOp) (s : State) : State :=
  let k := coreOf s0 c
  let put (d : BitVec 5) (v : Word) : State := updCore s c (fun q => setS q d v)
  let putp (d : BitVec 3) (v : Bool) : State := updCore s c (fun q => setP q d v)
  match op with
  | .alu o f => put f.sd (aluVal o (getS k f.sa) (getS k f.sb))
  | .shift o f => put f.sd (shiftVal o (getS k f.sa) ((getS k f.sb).toNat % 32))
  | .mul f => put f.sd (getS k f.sa * getS k f.sb)
  | .minmax o f => put f.sd (minmaxVal o (getS k f.sa) (getS k f.sb))
  | .addi f => put f.sd (getS k f.sa + sext16 f.imm)
  | .logi o f => put f.sd (logicVal o (getS k f.sa) (zext16 f.imm))
  | .shifti o f => put f.sd (shiftVal o (getS k f.sa) (f.imm.toNat % 32))
  | .lui f => put f.sd (zext16 f.imm <<< 16)
  | .cmp o f => putp f.pd (relVal o (getS k f.sa) (getS k f.sb))
  | .cmpi o f => putp f.pd (relVal o (getS k f.sa) (sext13 f.imm))
  | .plog o f => putp f.pd (plogicVal o (getP k f.pa) (getP k f.pb))
  | .pnot f => putp f.pd (!getP k f.pa)
  | .sel f => put f.sd (if getP k f.p then getS k f.sa else getS k f.sb)
  | .lqs f =>
    let r := popLq s c
    updCore r.1 c (fun q => setS q f.sd (r.2.setWidth 32))
  | .sqs f => fillSq s c ((getS k f.sa).setWidth 512)
  | .srseed _ => s
  | .getid f => put f.sd (getidVal s0 c f.imm.toNat)
  | .bc f => report s c k.xe.pc f (bcTaken k f)
  | .jmp f => report s c k.xe.pc f true

/-- SRSEED takes effect at the next bundle (R161). -/
def srseedEffect (k0 : Core) (op : Option ScalarOp) (k : Core) : Core :=
  match op with
  | some (.srseed f) => { k with seed := getS k0 f.sb ++ getS k0 f.sa, posVec := 0, posDrain := 0, posWgb := 0 }
  | _ => k

/-! ### The tile banks and the WGB port, by the cycle (R215 to R217, R235, R258 to R260) -/

/-- The tile banks taken in a cycle, whether the WGB port is taken, and what is counted: rows that reach a tile, rows added to the WGB, bank
operations and row adds delayed. -/
structure Cycle where
  banks : List Nat := []
  port : Bool := false
  tileRows : Nat := 0
  wgbRows : Nat := 0
  bankDelays : Nat := 0
  portDelays : Nat := 0
  deriving DecidableEq, Repr

/-- The bank of row `r` of tile `t` (R215). -/
def bankOfRow (t r : Nat) : Nat := (r + t) % 16

/-- The collectors read one row of each tile in this cycle, before every other user (R216, R230). -/
def collectRow (m : MOp) : List Nat := if m.phase == .collecting && decide (m.filled < 16) then m.reads.map (fun t => bankOfRow t m.filled) else []
def collectBanks (k : Core) : List Nat := k.mops.flatMap collectRow

/-- A row of a drain reaches its destination, or loses the bank or the port in this cycle and waits, with the later rows behind it (R217, R235,
R260). The drains go in X-stream order (R259) (log 92). -/
def cycleDrain (y : Cycle) (m : MOp) : Cycle × MOp :=
  match m.op with
  | .mdrain f =>
    if m.phase != .started || m.left != 0 || decide (16 ≤ m.filled) then (y, m)
    else if f.dest = 0 then
      let b := bankOfRow f.td.toNat m.filled
      if y.banks.contains b then ({ y with bankDelays := y.bankDelays + 1 }, m)
      else ({ y with banks := b :: y.banks, tileRows := y.tileRows + 1 }, { m with filled := m.filled + 1 })
    else if f.dest = 2 then
      if y.port then ({ y with portDelays := y.portDelays + 1 }, m)
      else ({ y with port := true, wgbRows := y.wgbRows + 1 }, { m with filled := m.filled + 1 })
    else (y, m)
  | _ => (y, m)

def cycleDrains : Cycle → List MOp → Cycle × List MOp
  | y, [] => (y, [])
  | y, m :: t =>
    let a := cycleDrain y m
    let b := cycleDrains a.1 t
    (b.1, a.2 :: b.2)

/-- One cycle of the matrix unit: what its users take of the banks and of the port, and its instructions afterwards. -/
def unitCycle (k : Core) : Cycle × Core :=
  let r := cycleDrains { banks := collectBanks k } k.mops
  let step (m : MOp) : MOp :=
    { m with left := m.left - 1, filled := if m.phase == .collecting && decide (m.filled < 16) then m.filled + 1 else m.filled }
  (r.1, { k with mops := r.2.map step })

/-- The cycles for which an access of the vector slot to a bank loses it to the collectors and drains (R216, R217). -/
def vectorDelay (bank : Nat) : Nat → Core → Nat
  | 0, _ => 0
  | n + 1, k => let y := unitCycle k; if y.1.banks.contains bank then vectorDelay bank n y.2 + 1 else 0

/-! ### Vector slot -/

/-- The random bits of a vector instruction of core `c` (Table 02.3, R166). -/
def vecRnd (c : Nat) (k : Core) (sr : Bool) (i : Nat) : Option Nat := rnd sr k.seed.toNat (streamVec c) k.posVec.toNat i

/-- Lane results of the floating or integer VR instructions that compute lane by lane (log 19). -/
def vrLanes (c : Nat) (k : Core) (op : VectorOp) (f : FVR) : List Nat × Ev :=
  let la := laneVals f.ty (getV k f.va.toNat)
  let lb := laneVals f.ty (getV k f.vb.toNat)
  let lc := laneVals f.ty (getV k f.vc.toNat)
  let code := tyCode f.ty
  let d (x : Nat) : Exact := decodeNum code x
  let r := vecRnd c k f.sr
  let int := f.ty == 3
  match op with
  | .arith o _ =>
    if int then (zip2 (vopInt o) la lb, {}) else roundLanes code r 0 (zip2 (fun a b => vopNum o (d a) (d b)) la lb)
  | .fma _ =>
    if int then (zip2 (fun p x => (p + x) % 2 ^ 32) (zip2 (vopInt .mul) la lb) lc, {})
    else roundLanes code r 0 (zip3 (fun a b x => fmaNum (d a) (d b) (d x)) la lb lc)
  | .fms _ =>
    if int then (zip2 (vopInt .sub) (zip2 (vopInt .mul) la lb) lc, {})
    else roundLanes code r 0 (zip3 (fun a b x => fmaNum (d a) (d b) (nneg (d x))) la lb lc)
  | .minmax mx _ => roundLanes code r 0 (zip2 (fun a b => (nminmax mx (d a) (d b), false)) la lb)
  | .absneg neg _ =>
    if int then (la.map (fun a => if neg then wrapOf 32 (-(sgnOf 32 a)) else wrapOf 32 ((sgnOf 32 a).natAbs : Int)), {})
    else roundLanes code r 0 (la.map (fun a => (if neg then nneg (d a) else nabs (d a), false)))
  | .sqrt _ => roundLanes code r 0 (la.map (fun a => nsqrt (d a)))
  | .func o _ => funcLanes o f.ty r 0 la
  | .cmp o _ => (zip2 (fun a b => if vrelNum o (d a) (d b) then laneOne f.ty else 0) la lb, {})
  | .sel _ =>
    let l := zip2 (fun p x => if laneNonzero f.ty x then p / 2 ^ 32 else p % 2 ^ 32) (zip2 (fun a b => a * 2 ^ 32 + b) la lb) lc
    if int then (l, {}) else roundLanes code r 0 (l.map (fun x => (d x, false)))
  | .shift o _ => (zip2 (fun a b => (shiftVal o (BitVec.ofNat 32 a) (b % 32)).toNat) la lb, {})
  | .redsum _ =>
    if int then ((tree (fun a b => (a + b) % 2 ^ 32) la), {})
    else
      match tree addEv (la.map (fun a => (d a, {}))) with
      | x :: _ =>
        let y := roundNum code (r 0) x.1
        ([y.1], evAdd x.2 y.2)
      | [] => ([], {})
  | .redmax _ => ((tree (fun a b => (roundNum code none (nminmax true (d a) (d b))).1) la), {})
  | _ => ([], {})

/-- A VR instruction of a 16-bit type takes 32 positions (R166). -/
def takePositions (k : Core) (n : Nat) : Core := { k with posVec := k.posVec + BitVec.ofNat 48 n }

def vrEffect (s0 : State) (c : Nat) (op : VectorOp) (f : FVR) (s : State) : State :=
  let r := vrLanes c (coreOf s0 c) op f
  let s1 := updCore s c (fun q => setV q f.vd.toNat (packLanes (tyWidth f.ty) r.1))
  let s2 := if f.ty = 1 ∨ f.ty = 2 then updCore s1 c (fun q => takePositions q 32) else s1
  bumpEv s2 (cCore c 0) r.2

/-- The VCVT family (R167 to R170). -/
def cvtEffect (s0 : State) (c : Nat) (f : FVC) (bs bd : Bool) (s : State) : State :=
  let k := coreOf s0 c
  let sc := (getS k (scaleReg f)).toNat % 256
  let a := f.src.toNat
  let b := f.dst.toNat
  let part := f.part.toNat
  let xs := (srcElems k a f.va.toNat (if fmtBits a < 16 then part else 0)).map (decodeNum a)
  let xs := if bs then xs.map (scaled a sc) else xs
  let r := vecRnd c k f.sr
  let dp := if fmtBits b < 16 then part else 0
  if bd then
    let y := convBlock b r 0 xs
    let s1 := updCore s c (fun q => takePositions (setS (putElems q b f.vd.toNat dp y.2.1) (scaleReg f) (BitVec.ofNat 32 y.1)) 32)
    bumpEv s1 (cCore c 0) y.2.2
  else
    let y := convPlain b r 0 xs
    let s1 := updCore s c (fun q => takePositions (putElems q b f.vd.toNat dp y.1) 32)
    bumpEv s1 (cCore c 0) y.2

/-- The bytes of a tile row that VTR returns; an FP6 row has 48 (R206). -/
def rowMask (fmt : Nat) (v : Line) : Line := if fmt = 5 ∨ fmt = 6 then BitVec.ofNat 512 (v.toNat % 2 ^ 384) else v
def tileRow (x : Tile) (r : Nat) : Line := rowMask x.fmt (tget zeroL x.rows r)
def setTileRow (x : Tile) (r : Nat) (v : Line) : Tile := { x with rows := tset zeroL x.rows r v, mask := putBit x.mask r true }
/-- A tile with all lines and scales becomes FULL (Table 05.3). -/
def settle (x : Tile) : Tile := if x.mask == 0xFFFF && x.scaleOk then { x with st := .full, load := none } else x

/-- Reuse latches that name a tile are cleared (R231). -/
def clearLatch (k : Core) (t : Nat) : Core := { k with coll := (k.coll.map (fun e => (e.1, e.2.filter (fun n => n != t)))).filter (fun e => decide (e.2 ≠ [])) }

def vtwTile (x : Tile) (f : FVT) (v : Line) : Tile :=
  if x.st = .empty then { setTileRow { ({} : Tile) with st := .writing, fmt := f.fmt.toNat, scaleOk := true } f.row.toNat v with st := .writing }
  else settle (setTileRow x f.row.toNat v)

def vectorEffect (s0 : State) (c : Nat) (op : VectorOp) (s : State) : State :=
  let k := coreOf s0 c
  match op with
  | .arith _ f | .fma f | .fms f | .minmax _ f | .absneg _ f | .sqrt f | .func _ f | .shift _ f | .cmp _ f | .sel f | .redsum f | .redmax f =>
    vrEffect s0 c op f s
  | .bitw o f => updCore s c (fun q => setV q f.vd.toNat (logicVal o (getV k f.va.toNat) (getV k f.vb.toNat)))
  | .any f => updCore s c (fun q => setP q f.pd ((laneVals f.ty (getV k f.va.toNat)).any (laneNonzero f.ty)))
  | .cvt f => cvtEffect s0 c f false false s
  | .cvtbs f => cvtEffect s0 c f true false s
  | .cvtbd f => cvtEffect s0 c f false true s
  | .cvtbb f => cvtEffect s0 c f true true s
  | .lqv f =>
    let r := popLq s c
    updCore r.1 c (fun q => setV q f.vd.toNat r.2)
  | .sqv f => fillSq s c (getV k f.va.toNat)
  | .bcast f =>
    updCore s c (fun q => setV q f.v.toNat (packLanes (tyWidth f.ty) (List.replicate (tyLanes f.ty) (getS k f.s).toNat)))
  | .movs f => updCore s c (fun q => setS q f.s (BitVec.ofNat 32 ((laneVals f.ty (getV k f.v.toNat)).getD f.lane.toNat 0)))
  | .vtr f => updCore s c (fun q => setV q f.v.toNat (tileRow (tileOf k f.t.toNat) f.row.toNat))
  | .vtw f => updCore s c (fun q => clearLatch (setTile q f.t.toNat (vtwTile (tileOf q f.t.toNat) f (getV k f.v.toNat))) f.t.toNat)

/-! ### Matrix slot -/

/-- SQ fills of an MDRAIN (Table 04.12). -/
def drainFills (f : FMD) : Nat :=
  if f.dest = 1 then (if f.fmt = 0 ∨ f.fmt = 9 then 32 else 16 + if f.bs then 1 else 0) else 0

/-- The values of an accumulator row. -/
def accVals (a : Acc) (r : Nat) : List Exact :=
  (unpackBits 32 32 (tget zeroRow a.rows r).toNat).map (decodeNum (if a.int then 9 else 0))

/-- One row converted: its scale, its elements, its events (R80, R174). -/
def drainRowVals (c : Nat) (m : MOp) (f : FMD) (a : Acc) (r : Nat) : Nat × List Nat × Ev :=
  let rd (i : Nat) : Option Nat := rnd f.sr m.seed (streamDrain c) m.pos (32 * r + i)
  if f.bs then convBlock f.fmt.toNat rd 0 (accVals a r)
  else
    let y := convPlain f.fmt.toNat rd 0 (accVals a r)
    (0, y.1, y.2)

/-- The SQ fills of a row, low part first (Table 04.12). -/
def drainFillLines (f : FMD) (codes : List Nat) : List Line :=
  if f.fmt = 0 ∨ f.fmt = 9 then
    [BitVec.ofNat 512 (packBits 32 (codes.take 16)), BitVec.ofNat 512 (packBits 32 (codes.drop 16))]
  else [BitVec.ofNat 512 (packBits (fmtBits f.fmt.toNat) codes)]

def drainSqRows (c : Nat) (m : MOp) (f : FMD) (a : Acc) : List Nat → List Line × List Nat × Ev
  | [] => ([], [], {})
  | r :: rs =>
    let y := drainRowVals c m f a r
    let z := drainSqRows c m f a rs
    (drainFillLines f y.2.1 ++ z.1, y.1 :: z.2.1, evAdd y.2.2 z.2.2)

/-- The fills of an MDRAIN to the SQ in order: its rows, and with BS their scales last (Table 04.12). -/
def drainLines (c : Nat) (m : MOp) (f : FMD) (a : Acc) : List Line :=
  let y := drainSqRows c m f a (List.range 16)
  y.1 ++ if f.bs then [BitVec.ofNat 512 (packBits 8 y.2.1)] else []

/-- Fills entries from ticket `n` on, as far as each is present and committed. -/
def fillReady (p : Bool) : Nat → List Line → Core → Core × Nat
  | n, [], k => (k, n)
  | n, l :: ls, k => if sqReady k n then fillReady p (n + 1) ls (fillEntry k n l p) else (k, n)

/-- A drain to the SQ that has started fills the entries that are available (R178, R236, R243). -/
def drainFill (c : Nat) (k : Core) (m : MOp) : Core :=
  match m.op with
  | .mdrain f =>
    if f.dest = 1 ∧ m.phase = .started then
      let a := accOf k (4 + f.acc.toNat)
      let r := fillReady a.poison (m.ticket + m.filled) ((drainLines c m f a).drop m.filled) k
      { r.1 with mops := r.1.mops.map (fun o => if o.id == m.id then { o with filled := r.2 - m.ticket } else o) }
    else k
  | _ => k

/-- A drain to the SQ is under way. -/
def drainsSq (m : MOp) : Bool := m.phase == .started && match m.op with
  | .mdrain f => f.dest == 1
  | _ => false

/-- The rows of its accumulator that a drain to the SQ has given whole. -/
def rowsGiven (m : MOp) : Nat :=
  match m.op with
  | .mdrain f => if f.dest = 1 then min 16 (if f.fmt = 0 ∨ f.fmt = 9 then m.filled / 2 else m.filled) else 0
  | _ => 0
def rowsGivenAll (k : Core) : Nat := (k.mops.map rowsGiven).sum

/-- Fills what started drains may fill, counts the rows drained, and performs the stores that are then whole (R108, R236, R249) (log 25). -/
def drainPump (s : State) (c : Nat) : State :=
  let k := coreOf s c
  if k.mops.any drainsSq then
    let q := k.mops.foldl (drainFill c) k
    let n := rowsGivenAll q - rowsGivenAll k
    storePump (bumpIf (n != 0) (setCore s c q) (cCore c 30) n) c
  else s

/-- A matrix instruction enters MQ; an MDRAIN takes its positions, its fills and its tile (R174, R177, R178, Table 05.3). -/
def matrixEffect (s0 : State) (c : Nat) (op : MatrixOp) (s : State) : State :=
  let k := coreOf s0 c
  let add (q : Core) (m : MOp) : Core := { q with mops := q.mops ++ [m], mopNext := q.mopNext + 1 }
  match op with
  | .mmul _ => bump (updCore s c (fun q => add q { id := q.mopNext, op := op, phase := .queued })) (cCore c 24) 1
  | .mdrain f =>
    updCore s c (fun q =>
      let q1 := add q { id := q.mopNext, op := op, phase := .queued, soff := (getS k f.soff).toNat, seed := k.seed.toNat,
                        pos := k.posDrain.toNat, ticket := q.fillNext }
      let q2 := { q1 with fillNext := q1.fillNext + drainFills f, posDrain := q1.posDrain + 512 }
      if f.dest = 0 then
        clearLatch (setTile q2 f.td.toNat
          { ({} : Tile) with st := .draining, fmt := f.fmt.toNat, bsh := if f.bs then 1 else 0, scaleOk := !f.bs }) f.td.toNat
      else q2)
  | _ => updCore s c (fun q => add q { id := q.mopNext, op := op, phase := .queued })

/-! ### Access slot -/

/-- The update of an incremented base, made at issue (R181). -/
def incBase (k0 : Core) (f : FAM) (k : Core) : Core := if f.inc then setA k f.ab (getA k0 f.ab + offA f.off) else k

/-- A tile load takes an EMPTY tile; rows past NR are zero and valid (R182). -/
def loadTile (k0 : Core) (f : FAT) (tr : Bool) (level pc : Nat) : Tile :=
  let n := f.nr.toNat + 1
  { st := .loading, fmt := f.fmt.toNat, bsh := f.bsh.toNat, trans := tr,
    mask := (List.range 16).foldl (fun m r => putBit m r (decide (n ≤ r))) 0,
    scaleOk := f.bsh == 0, spec := !(committed k0 level), level := level,
    load := some { ab := (getA k0 f.ab).toNat, as := (getA k0 f.as).toNat, ac := (getA k0 f.ac).toNat, nr := f.nr.toNat, pc := pc } }

/-- Requests for rows `r` on, `n` of them (R182). -/
def requestRows (s : State) (c t level pc : Nat) (ra : Bool) (ab as : BitVec 48) (r : Nat) : Nat → State
  | 0 => s
  | n + 1 => requestRows (request s c (.tile t r) (rowAddr ab as r) level pc ra) c t level pc ra ab as (r + 1) n

def tileLoad (s0 : State) (c pc : Nat) (f : FAT) (tr : Bool) (s : State) : State :=
  let k := coreOf s0 c
  let lv := levelNow k
  let ra := !(committed k lv)
  let t := f.td.toNat
  let n := f.nr.toNat + 1
  let s1 := updCore s c (fun q => clearLatch (setTile q t (loadTile k f tr lv pc)) t)
  let s2 := bumpIf ra s1 (cCore c 6) n
  let s3 := if f.bsh = 0 then s2 else request s2 c (.scale t) (getA k f.ac).toNat lv pc ra
  requestRows s3 c t lv pc ra (getA k f.ab) (getA k f.as) 0 n

/-- What an access slot does. A PF with a bad address (R181) counts as dropped and not as issued while PF_EN is 1; with PF_EN 0 every PF counts
as issued and nothing else (Table 03.5) (log 91). -/
def accessEffect (s0 : State) (c pc : Nat) (op : AccessOp) (s : State) : State :=
  let k := coreOf s0 c
  let lv := levelNow k
  let ra := !(committed k lv)
  let puta (d : BitVec 4) (v : BitVec 48) : State := updCore s c (fun q => setA q d v)
  match op with
  | .ld f =>
    let a := accAddr k f
    let e : Lq := { id := k.lqNext, level := lv, pc := pc, addr := a, bytes := accBytes f.sz }
    let s1 := updCore s c (fun q => incBase k f { q with lq := q.lq ++ [e], lqNext := q.lqNext + 1 })
    request (bumpIf ra s1 (cCore c 6) 1) c (.lq k.lqNext) a lv pc ra
  | .st f =>
    let e : Sq := { id := k.sqNext, level := lv, pc := pc, addr := accAddr k f, bytes := accBytes f.sz }
    updCore s c (fun q => incBase k f { q with sq := q.sq ++ [e], sqNext := q.sqNext + 1 })
  | .pf f =>
    let a := accAddr k f
    let s1 := updCore s c (incBase k f)
    if k.runahead.getLsbD 9 then
      if badAddr a 64 then bump s1 (cCore c 7) 1
      else request (bump s1 (cCore c 6) 1) c .pf a lv pc true
    else bump s1 (cCore c 6) 1
  | .mload f => tileLoad s0 c pc f false s
  | .mloadt f => tileLoad s0 c pc f true s
  | .amo f =>
    let ret := if f.ret then some k.lqNext else none
    let e : Sq := { id := k.sqNext, level := lv, pc := pc, addr := amoAddr k f, bytes := amoSize f.aop f.ty, amo := some ⟨f.aop, f.ty, ret⟩ }
    updCore s c (fun q =>
      let q1 := { q with sq := q.sq ++ [e], sqNext := q.sqNext + 1 }
      if f.ret then { q1 with lq := q1.lq ++ [{ id := k.lqNext, level := lv, pc := pc, addr := amoAddr k f, bytes := amoSize f.aop f.ty, amo := true }],
                              lqNext := q1.lqNext + 1 } else q1)
  | .addsub sub f => puta f.ad (if sub then getA k f.as - getA k f.at_ else getA k f.as + getA k f.at_)
  | .addai f => puta f.ad (getA k f.as + f.imm.signExtend 48)
  | .shla f => puta f.ad (getA k f.as <<< (f.imm.toNat % 64))
  | .mulai f => puta f.ad (getA k f.as * f.imm.signExtend 48)
  | .lia f => puta f.ad (f.imm.signExtend 48)
  | .bra _ | .jmpa _ => s

/-! ### Sync slot -/

/-- A SET or CLR: applied at once when the holder is the issuing core, else posted (R114, R264, R483, R484). -/
def syncPost (s0 : State) (c pc : Nat) (x : Bool) (f : FSF) (op : FOp) (s : State) : State :=
  let k := coreOf s0 c
  let tg := syncTarget c k x f
  let ix := cCore c (if op = .clr then 46 else 45)
  match ownFlag s0 c tg with
  | some i => bump (flagApply s (.core c i) op).1 ix 1
  | none =>
    let sel := match tg with
      | .flag r => selOf s0 r
      | .sel w _ => w
    let p : Posted := { x := x, sel := sel, op := op, addr := pc, sq := if x then xStores k else aStores k, mop := if x then xDrains k else [] }
    pumpPosted c (updCore s c (fun q => { q with posted := q.posted ++ [p], unacked := q.unacked + 1 }))

/-- The predictor entry of a bundle address (R120). -/
def predIndex (pc : Nat) : Nat := pc / 2 % 64
def predDefault (_ : Nat) : Option (BitVec 2) := none
def predOf (k : Core) (pc : Nat) : Option (BitVec 2) := tget predDefault k.predictor (predIndex pc)
def setPred (k : Core) (pc : Nat) (v : BitVec 2) : Core := { k with predictor := tset predDefault k.predictor (predIndex pc) (some v) }
/-- The prediction of a BRX, and its entry after the prediction. -/
def predict (k : Core) (pc : Nat) (hint : Bool) : Bool × BitVec 2 :=
  match predOf k pc with
  | some v => (decide (2 ≤ v.toNat), v)
  | none => (hint, if hint then 2 else 1)
/-- Training moves one step toward the outcome. -/
def trained (v : BitVec 2) (taken : Bool) : BitVec 2 := if taken then (if v = 3 then 3 else v + 1) else if v = 0 then 0 else v - 1

/-- A branch target as an address; one below the store lies outside every region. -/
def tgtNat (t : Int) : Nat := if t < 0 then 65536 else t.toNat

/-- Clears the report of a pair and gives its outcome (R111). -/
def takeReport (s : State) (c pair : Nat) : State × Bool :=
  let t := flagOf (coreOf s c) (2 * pair)
  (flagPut s (.core c (if t then 2 * pair else 2 * pair + 1)) false, t)

/-- A BRX (R119 to R122); with BRX_DEPTH 0 the A-stream then waits for its outcome (log 87). Gives the address of the next bundle. -/
def brxEffect (c pc len : Nat) (f : FSX) (s : State) : State × Nat :=
  let k := coreOf s c
  let p := predict k pc f.hint
  let tk := tgtNat (target pc f.off)
  let b : Brx := { id := levelNow k + 1, pair := f.pair.toNat, addr := pc, fall := pc + len, tgt := tk, pred := p.1, ckpt := k.a, bundles := 0 }
  (updCore s c (fun q => setPred { q with brx := q.brx ++ [b] } pc p.2), if p.1 then tk else pc + len)

def syncEffect (s0 : State) (c pc : Nat) (x : Bool) (op : SyncOp) (s : State) : State :=
  let k := coreOf s0 c
  match op with
  | .set f => syncPost s0 c pc x f .set s
  | .clr f => syncPost s0 c pc x f .clr s
  | .waitc f =>
    if (engineOf k x).grant then s
    else match syncTarget c k x f with
      | .flag r => flagPut s r false
      | .sel _ _ => s
  | .test f =>
    match syncTarget c k x f with
    | .flag r =>
      let b := flagGet s0 r
      updCore s c (fun q => if x then setP q (f.dst.setWidth 3) b else setA q (f.dst.setWidth 4) (if b then 1 else 0))
    | .sel _ _ => s
  | .brx _ => s
  | .stop id => updCore s c (fun q => updEngine q x (fun e => haltEngine e (.stopped id)))
  | .end_ => updCore s c (fun q => updEngine q x (fun e => haltEngine e .ended))

/-! ### The bundle -/

def optList {α β : Type} (o : Option α) (f : α → List β) : List β :=
  match o with
  | some x => f x
  | none => []

/-- The guard lets the vector and matrix slots take effect (R149). -/
def guardOn (k : Core) (b : Bundle) : Bool := !b.gen || (getP k b.gpred != b.gneg)

/-- Write conflicts of a slot with the slots before it (R151). -/
def conflict (earlier mine : List Nat) : List Cause := when (clash earlier mine) .writeConflict

/-- Faults of the slots of a bundle, slot by slot (R149, R151, R153). A VTW that its guard turns off meets no tile, so it raises no FIELD of R214
(log 17). -/
def slotFaults (s : State) (c : Nat) (x : Bool) (b : Bundle) : List (Nat × List Cause) :=
  let k := coreOf s c
  let pc := (engineOf k x).pc
  let on := guardOn k b
  let w0 := optList b.scalar scalarWrites
  let w1 := optList b.vector vectorWrites
  let w3 := optList b.access accessWrites
  let w4 := optList b.sync (syncWrites x)
  let isBr : Bool := match b.access with
    | some (.bra _) => true
    | some (.jmpa _) => true
    | _ => false
  let isBrx : Bool := match b.sync with
    | some (.brx _) => true
    | _ => false
  [(0, optList b.scalar (scalarFaults k pc)),
   (1, (if on then optList b.vector (fun v => vectorFaults v ++ vectorStateFaults k v) else hardOnly (optList b.vector vectorFaults)) ++
     conflict w0 w1),
   (2, if on then optList b.matrix (fun m => matrixFaults m ++ matrixStateFaults k m) else hardOnly (optList b.matrix matrixFaults)),
   (3, optList b.access (accessFaults k pc)),
   (4, optList b.sync (syncFaults s c k x) ++ conflict (w0 ++ w1 ++ w3) w4 ++ when (isBr && isBrx) .twoBranch)]

/-- The fault of the first faulting slot (R195 step 4). -/
def firstFault : List (Nat × List Cause) → Option (Nat × Cause)
  | [] => none
  | (n, l) :: t => match lowest l with
    | some c => some (n, c)
    | none => firstFault t

/-- The waits of a bundle whose matrix slot, if any, has room and an MMUL its tiles. -/
def bundleWaits (s : State) (c : Nat) (x : Bool) (b : Bundle) : List Hold :=
  let k := coreOf s c
  let on := guardOn k b
  let vec := if on then b.vector else none
  optList b.access (accessWaits s k) ++
  optList b.scalar (scalarWaits k) ++
  optList vec (vectorWaits k (popsScalar b.scalar) (fillsScalar b.scalar)) ++
  (if on then optList b.matrix (drainWaits k) else []) ++
  waitFor (vec.isSome && k.tokens == 0) .tokens ++
  waitFor (!x && listOver k) .bankList ++
  optList b.sync (syncWaits s c k x)

/-- Place of a hold in the order of Tables 03.6 and 05.7 (R143, R249), after a wait for a list entry, whose cycles count in no counter of Table 03.6
(R296); a lack of tokens is counted apart from them (R737); a WAITC reaches its holder once nothing else holds its bundle (R155) (log 17). -/
def holdRank : Hold → Nat
  | .bankList => 0 | .brxDepth => 1 | .sqHazard => 2 | .uncommitted => 3 | .lqFull => 4 | .slotsFull => 5 | .lq => 6 | .sq => 7 | .report => 8
  | .tile _ => 9 | .waitc => 11 | _ => 10

/-- The reason a held bundle is counted against: the first in that order (log 17). -/
def firstHold : List Hold → Option Hold
  | [] => none
  | h :: t => match firstHold t with
    | some g => if holdRank g < holdRank h then some g else some h
    | none => some h

/-- Faults found when every wait is over: the checks of the core's own flags (R483). -/
def lateFaults (s : State) (c : Nat) (x : Bool) (b : Bundle) : List (Nat × List Cause) :=
  [(4, optList b.sync (syncLateFaults s c (coreOf s c) x))]

/-- The bundle is held: its engine notes why; a WAITC reaches its holder and waits there (R480, R506). -/
def holdBundle (s : State) (c : Nat) (x : Bool) (b : Bundle) (h : Hold) : State :=
  let k := coreOf s c
  let s1 := updCore s c (fun q => updEngine q x (fun e => { e with hold := h, short := guardOn k b && b.vector.isSome && k.tokens == 0 }))
  match h, b.sync with
  | .waitc, some (.waitc f) =>
    match syncTarget c k x f with
    | .flag r =>
      if s.sh.waiters.any (fun w => w.who == .engine c x) then s1
      else { s1 with sh := { s1.sh with waiters := s1.sh.waiters ++ [⟨.engine c x, r⟩] } }
    | .sel _ _ => s1
  | _, _ => s1

/-- Counts a bundle: an X bundle when it issues, an A bundle when it is committed (Table 03.6). -/
def countBundle (s : State) (c : Nat) (x : Bool) : State :=
  if x then bump s (cCore c 5) 1
  else
    let k := coreOf s c
    match k.brx.getLast? with
    | none => bump s (cCore c 4) 1
    | some b => updCore s c (fun q => { q with brx := q.brx.dropLast ++ [{ b with bundles := b.bundles + 1 }] })

/-- Where the next bundle lies, but for a BRX. -/
def nextPc (k : Core) (x : Bool) (len : Nat) (b : Bundle) : Nat :=
  let pc := (engineOf k x).pc
  match b.scalar, b.access with
  | some (.bc f), _ => if bcTaken k f then tgtNat (target pc f.off) else pc + len
  | some (.jmp f), _ => tgtNat (target pc f.off)
  | _, some (.bra f) => if braTaken k f then tgtNat (target pc f.off) else pc + len
  | _, some (.jmpa f) => tgtNat (target pc f.off)
  | _, _ => pc + len

/-- The slots of a bundle that take effect fill an SQ entry, so that a store may be ready (R107, R108). -/
def fillsEntry (sc : Option ScalarOp) (v : Option VectorOp) : Bool :=
  match sc, v with
  | some (.sqs _), _ => true
  | _, some (.sqv _) => true
  | _, _ => false

/-- An access slot that allocates an SQ entry, which a drain under way may fill (R178). -/
def allocatesEntry : Option AccessOp → Bool
  | some (.st _) => true
  | some (.amo _) => true
  | _ => false

/-- The bank operation of a VTR or VTW. -/
def vectorBank : Option VectorOp → Option Nat
  | some (.vtr f) => some (bankOfRow f.t.toNat f.row.toNat)
  | some (.vtw f) => some (bankOfRow f.t.toNat f.row.toNat)
  | _ => none

/-- The cycles for which a VTR or VTW loses its bank count (R217). -/
def countVectorDelay (s0 : State) (c : Nat) (vec : Option VectorOp) (s : State) : State :=
  match vectorBank vec with
  | some b => let n := vectorDelay b 32 (coreOf s0 c); bumpIf (n != 0) s (cCore c 28) n
  | none => s

/-- The effects of a bundle that issues (R150, R152, R155). -/
def bundleEffect (s0 : State) (c : Nat) (x : Bool) (b : Bundle) (len : Nat) : State :=
  let k0 := coreOf s0 c
  let pc := (engineOf k0 x).pc
  let on := guardOn k0 b
  let vec := if on then b.vector else none
  let mat := if on then b.matrix else none
  let s := updCore (countBundle s0 c x) c (fun q => updEngine q x (fun e => { e with hold := .none, held := 0, short := false, pc := nextPc k0 x len b }))
  let s := match b.scalar with
    | some o => scalarEffect s0 c o s
    | none => s
  let s := match vec with
    | some o => vectorEffect s0 c o (updCore s c (fun q => { q with tokens := q.tokens - 1 }))
    | none => s
  let s := countVectorDelay s0 c vec s
  let s := match mat with
    | some o => matrixEffect s0 c o s
    | none => s
  let s := match b.access with
    | some o => accessEffect s0 c pc o s
    | none => s
  let s := match b.sync with
    | some (.brx f) =>
      let r := brxEffect c pc len f s
      updCore r.1 c (fun q => updEngine q x (fun e => { e with pc := r.2 }))
    | some o => syncEffect s0 c pc x o s
    | none => s
  let s := updCore s c (fun q => updEngine (srseedEffect k0 b.scalar q) x (fun e => { e with grant := false, last := pc }))
  if fillsEntry b.scalar vec then storePump s c else if allocatesEntry b.access then drainPump s c else s

/-- Faults found while a slot was decoded, put before those of its operation. -/
def withPre (pre : Nat → List Cause) (l : List (Nat × List Cause)) : List (Nat × List Cause) := l.map (fun e => (e.1, pre e.1 ++ e.2))

/-- The engine stopped in this cycle at the other's fault, so that a fault of its own bundle fills its entry too (R199). -/
def isTwin (s : State) (c : Nat) (x : Bool) : Bool :=
  let k := coreOf s c
  k.twin && (engineOf k x).st == .faulted && !(engineOf k x).frec.getLsbD 63

/-- A fault found at issue; FLAG_OVER and FLAG_UNDER are found by the core as the flag's holder, which counts them (R483, Table 11.11). -/
def raise (s : State) (c : Nat) (x : Bool) (f : Nat × Cause) : State :=
  let pc := (engineOf (coreOf s c) x).pc
  let s1 := match f.2 with
    | .flagOver => bump s (cCore c 48) 1
    | .flagUnder => bump s (cCore c 49) 1
    | _ => s
  if isTwin s c x then updCore s1 c (fun k => { updEngine k x (fun e => { e with frec := faultWord f.2 pc f.1 }) with twin := false })
  else if x then streamFault s1 c true f.2 pc f.1 else faultA s1 c f.2 pc f.1

/-- An engine that can issue: its core is present and does not rest (R712, R721), it runs, the report of the core's last branch is set (R112), and no held fault keeps it
(R196) (log 93). -/
def canIssue (s : State) (c : Nat) (x : Bool) : Bool :=
  let k := coreOf s c
  present s c && !blockRests s c && (engineOf k x).st == .running && k.rep.isNone && (x || k.heldFault.isNone)

/-- The waits that come before any fault of the bundle is found: with BRX_DEPTH 0 the A-stream waits for the outcome of its BRX (R121) (log 87); a
bundle with a matrix slot waits for everything that holds it, MQ and its tiles among them (R232). -/
def firstWaits (s : State) (c : Nat) (x : Bool) (b : Bundle) : List Hold :=
  let k := coreOf s c
  let m := if guardOn k b then b.matrix else none
  waitFor (!x && brxDepth k == 0 && !k.brx.isEmpty) .brxDepth ++ optList m (matrixWaits k) ++ if m.isSome then bundleWaits s c x b else []

/-- What is decided of a bundle at its issue: the wait that holds it, the fault it raises, or its effects. The waits of `firstWaits` come before
any fault is found; every other fault that the encoding shows comes before the waits (R155, R195). A bundle held for several reasons is
counted against the first of them (R143, R249). -/
inductive Verdict where | held (h : Hold) | fault (f : Nat × Cause) | go
  deriving DecidableEq, Repr

def verdict (s : State) (c : Nat) (x : Bool) (b : Bundle) (pre : Nat → List Cause) : Verdict :=
  match firstWaits s c x b with
  | h :: t => .held ((firstHold (h :: t ++ bundleWaits s c x b)).getD h)
  | [] =>
    match firstFault (withPre pre (slotFaults s c x b)) with
    | some f => .fault f
    | none =>
      match firstHold (bundleWaits s c x b) with
      | some h => .held h
      | none =>
        match firstFault (lateFaults s c x b) with
        | some f => .fault f
        | none => .go

/-- A bundle that faults takes no effect, so the flag that its WAITC has taken at its holder is set again (R155) (log 17). -/
def giveBack (s : State) (c : Nat) (x : Bool) (b : Bundle) : State :=
  match b.sync with
  | some (.waitc f) =>
    match syncTarget c (coreOf s c) x f with
    | .flag r => if (engineOf (coreOf s c) x).grant then flagRaise (updCore s c (fun k => updEngine k x (fun e => { e with grant := false }))) r else s
    | .sel _ _ => s
  | _ => s

/-- An engine that stopped in this cycle records a fault of its bundle, and does nothing else (R199). -/
def issueTwin (s : State) (c : Nat) (x : Bool) : Verdict → State
  | .fault f => raise s c x f
  | _ => s

/-- One attempt to issue a bundle of `len` bytes at an engine's program counter (log 21). -/
def attempt (pre : Nat → List Cause) (s : State) (c : Nat) (x : Bool) (b : Bundle) (len : Nat) : State :=
  if canIssue s c x then
    match verdict s c x b pre with
    | .held h => holdBundle s c x b h
    | .fault f => raise (giveBack s c x b) c x f
    | .go => bundleEffect s c x b len
  else if isTwin s c x then issueTwin s c x (verdict s c x b pre)
  else s

/-- A report of the core's last branch is set before the bundle issues (R112, Table 03.4). -/
def issueWith (pre : Nat → List Cause) (s : State) (c : Nat) (x : Bool) (b : Bundle) (len : Nat) : State :=
  attempt pre (settleReport s c) c x b len

/-- A bundle given whole: no decoding fault. -/
def noPre (_ : Nat) : List Cause := []

def issue (s : State) (c : Nat) (x : Bool) (b : Bundle) (len : Nat) : State := issueWith noPre s c x b len

end Sys2Proof.Machine
end

