-- ==== Sys2Proof/Machine/Bundle.lean ====
section
/-!
DEFINITION. BUNDLE_ISSUE: fetching a bundle from the program store, its header and slots (R144 to R148, R156, R190, R195), and its
issue. A reserved opcode decodes to no operation and raises OPCODE; a set bit among those Table 04.2 marks 0 raises FIELD.
-/
namespace Sys2Proof.Machine

/-- Bits [lo + n − 1 : lo] of a slot. -/
def bits (w : Word) (lo n : Nat) : BitVec n := w.extractLsb' lo n

def opc (w : Word) : Nat := (bits w 26 6).toNat

def decSR (w : Word) : FSR := ⟨bits w 21 5, bits w 16 5, bits w 11 5, bits w 8 3⟩
def decSI (w : Word) : FSI := ⟨bits w 21 5, bits w 16 5, bits w 0 16⟩
def decSC (w : Word) : FSC := ⟨bits w 23 3, bits w 18 5, bits w 13 5, bits w 0 13⟩
def decSP (w : Word) : FSP := ⟨bits w 23 3, bits w 20 3, bits w 17 3⟩
def decSB (w : Word) : FSB := ⟨bits w 23 3, w.getLsbD 22, w.getLsbD 21, bits w 16 5, bits w 0 16⟩
def decVR (w : Word) : FVR := ⟨bits w 21 5, bits w 16 5, bits w 11 5, bits w 6 5, bits w 4 2, w.getLsbD 3⟩
def decVC (w : Word) : FVC := ⟨bits w 21 5, bits w 16 5, bits w 12 4, bits w 8 4, bits w 6 2, w.getLsbD 5, bits w 1 4⟩
def decVT (w : Word) : FVT := ⟨bits w 21 5, bits w 17 4, bits w 13 4, bits w 9 4⟩
def decVS (w : Word) : FVS := ⟨bits w 21 5, bits w 16 5, bits w 11 5, bits w 9 2⟩
def decVP (w : Word) : FVP := ⟨bits w 23 3, bits w 18 5, bits w 16 2⟩
def decMM (w : Word) : FMM := ⟨bits w 22 4, bits w 20 2, bits w 16 4, bits w 13 3⟩
def decMD (w : Word) : FMD :=
  ⟨bits w 24 2, bits w 22 2, bits w 18 4, bits w 14 4, w.getLsbD 13, w.getLsbD 12, w.getLsbD 11, bits w 6 5⟩
def decAM (w : Word) : FAM := ⟨bits w 22 4, bits w 19 3, w.getLsbD 18, bits w 0 16⟩
def decAT (w : Word) : FAT := ⟨bits w 22 4, bits w 18 4, bits w 14 4, bits w 10 4, bits w 6 4, bits w 4 2, bits w 0 4⟩
def decAR (w : Word) : FAR := ⟨bits w 22 4, bits w 18 4, bits w 14 4⟩
def decAI (w : Word) : FAI := ⟨bits w 22 4, bits w 18 4, bits w 0 18⟩
def decAB (w : Word) : FAB := ⟨bits w 22 4, bits w 18 4, bits w 16 2, bits w 0 16⟩
def decAX (w : Word) : FAX := ⟨bits w 22 4, bits w 18 4, bits w 16 2, w.getLsbD 15, bits w 0 12⟩
def decSF (w : Word) : FSF := ⟨bits w 24 2, bits w 12 12, bits w 7 5, bits w 2 5⟩
def decSX (w : Word) : FSX := ⟨w.getLsbD 25, bits w 20 5, bits w 0 16⟩

/-- Width of the low bits of a format that must be 0. -/
def lowPad (w : Word) (n : Nat) : Bool := w.toNat % 2 ^ n != 0

/-- A decoded slot with its decoding faults. -/
def got {α : Type} (a : α) (pad : Bool) : Option α × List Cause := (some a, when pad .field)
def bad {α : Type} : Option α × List Cause := (none, [.opcode])

/-- Table 04.3. -/
def decScalar (w : Word) : Option ScalarOp × List Cause :=
  let sr := decSR w
  let p := lowPad w 8
  match opc w with
  | 0x00 => got (.alu .add sr) p | 0x01 => got (.alu .sub sr) p | 0x02 => got (.alu .and sr) p | 0x03 => got (.alu .or sr) p
  | 0x04 => got (.alu .xor sr) p | 0x05 => got (.shift .shl sr) p | 0x06 => got (.shift .shr sr) p | 0x07 => got (.shift .sra sr) p
  | 0x08 => got (.mul sr) p | 0x09 => got (.minmax .min sr) p | 0x0A => got (.minmax .max sr) p | 0x0B => got (.minmax .minu sr) p
  | 0x0C => got (.minmax .maxu sr) p
  | 0x10 => got (.addi (decSI w)) false | 0x11 => got (.logi .and (decSI w)) false | 0x12 => got (.logi .or (decSI w)) false
  | 0x13 => got (.logi .xor (decSI w)) false | 0x14 => got (.shifti .shl (decSI w)) false | 0x15 => got (.shifti .shr (decSI w)) false
  | 0x16 => got (.shifti .sra (decSI w)) false | 0x17 => got (.lui (decSI w)) false
  | 0x18 => got (.cmp .eq (decSC w)) false | 0x19 => got (.cmp .ne (decSC w)) false | 0x1A => got (.cmp .lt (decSC w)) false
  | 0x1B => got (.cmp .ltu (decSC w)) false | 0x1C => got (.cmpi .eq (decSC w)) false | 0x1D => got (.cmpi .ne (decSC w)) false
  | 0x1E => got (.cmpi .lt (decSC w)) false | 0x1F => got (.cmpi .ltu (decSC w)) false
  | 0x20 => got (.plog .and (decSP w)) (lowPad w 17) | 0x21 => got (.plog .or (decSP w)) (lowPad w 17)
  | 0x22 => got (.plog .xor (decSP w)) (lowPad w 17) | 0x23 => got (.plog .andn (decSP w)) (lowPad w 17)
  | 0x24 => got (.pnot (decSP w)) (lowPad w 17) | 0x25 => got (.sel sr) p
  | 0x28 => got (.lqs sr) p | 0x29 => got (.sqs sr) p | 0x2A => got (.srseed sr) p | 0x2B => got (.getid (decSI w)) false
  | 0x30 => got (.bc (decSB w)) false | 0x31 => got (.jmp (decSB w)) false
  | _ => bad

/-- Table 04.9. -/
def decVector (w : Word) : Option VectorOp × List Cause :=
  let f := decVR w
  let p := lowPad w 3
  let v := decVC w
  let q := lowPad w 1
  match opc w with
  | 0x00 => got (.arith .add f) p | 0x01 => got (.arith .sub f) p | 0x02 => got (.arith .mul f) p | 0x03 => got (.fma f) p
  | 0x04 => got (.fms f) p | 0x05 => got (.minmax false f) p | 0x06 => got (.minmax true f) p | 0x07 => got (.absneg false f) p
  | 0x08 => got (.absneg true f) p | 0x09 => got (.sqrt f) p | 0x0A => got (.func .rcp f) p | 0x0B => got (.func .rsq f) p
  | 0x0C => got (.func .exp2 f) p | 0x0D => got (.func .log2 f) p
  | 0x10 => got (.bitw .and f) p | 0x11 => got (.bitw .or f) p | 0x12 => got (.bitw .xor f) p
  | 0x13 => got (.shift .shl f) p | 0x14 => got (.shift .shr f) p | 0x15 => got (.shift .sra f) p
  | 0x18 => got (.cmp .eq f) p | 0x19 => got (.cmp .lt f) p | 0x1A => got (.cmp .le f) p | 0x1B => got (.sel f) p
  | 0x1C => got (.redsum f) p | 0x1D => got (.redmax f) p | 0x1E => got (.any (decVP w)) (lowPad w 16)
  | 0x20 => got (.cvt v) q | 0x21 => got (.cvtbs v) q | 0x22 => got (.cvtbd v) q | 0x23 => got (.cvtbb v) q
  | 0x28 => got (.lqv f) p | 0x29 => got (.sqv f) p
  | 0x2A => got (.bcast (decVS w)) (lowPad w 9) | 0x2B => got (.movs (decVS w)) (lowPad w 9)
  | 0x2C => got (.vtr (decVT w)) (lowPad w 9) | 0x2D => got (.vtw (decVT w)) (lowPad w 9)
  | _ => bad

/-- Table 04.11. -/
def decMatrix (w : Word) : Option MatrixOp × List Cause :=
  match opc w with
  | 0x00 => got (.mmul (decMM w)) (lowPad w 13)
  | 0x01 => got (.mdrain (decMD w)) (lowPad w 6)
  | 0x02 => got (.mzero (bits w 18 8)) (lowPad w 18)
  | 0x03 => got .mswap (lowPad w 26)
  | 0x04 => got (.trel (bits w 10 16)) (lowPad w 10)
  | _ => bad

/-- Table 04.13. -/
def decAccess (w : Word) : Option AccessOp × List Cause :=
  let m := decAM w
  let mp := bits w 16 2 != 0
  match opc w with
  | 0x00 => got (.ld m) mp | 0x01 => got (.st m) mp | 0x02 => got (.pf m) mp
  | 0x04 => got (.mload (decAT w)) false | 0x05 => got (.mloadt (decAT w)) false
  | 0x08 => got (.amo (decAX w)) (bits w 12 3 != 0)
  | 0x10 => got (.addsub false (decAR w)) (lowPad w 14) | 0x11 => got (.addsub true (decAR w)) (lowPad w 14)
  | 0x12 => got (.addai (decAI w)) false | 0x13 => got (.shla (decAI w)) false | 0x14 => got (.mulai (decAI w)) false
  | 0x15 => got (.lia (decAI w)) false
  | 0x18 => got (.bra (decAB w)) false | 0x19 => got (.jmpa (decAB w)) false
  | _ => bad

/-- Table 04.15. -/
def decSync (w : Word) : Option SyncOp × List Cause :=
  let f := decSF w
  let p := lowPad w 2
  match opc w with
  | 0x00 => got (.set f) p | 0x01 => got (.clr f) p | 0x02 => got (.waitc f) p | 0x03 => got (.test f) p
  | 0x08 => got (.brx (decSX w)) (bits w 16 4 != 0)
  | 0x10 => got (.stop (bits w 10 16)) (lowPad w 10)
  | 0x11 => got .end_ (lowPad w 26)
  | _ => bad

/-- Fields of a bundle header (Table 04.1). -/
def slotsOf (h : BitVec 16) : Nat := h.toNat % 32
def slotCount (h : BitVec 16) : Nat := ((List.range 5).filter (fun i => h.getLsbD i)).length
def bundleLen (h : BitVec 16) : Nat := 2 + 4 * slotCount h

/-- Faults of a header, in the order of R195 (R147, R148). -/
def headerFault (x : Bool) (h : BitVec 16) : Option Cause :=
  if (if x then h.getLsbD 3 else slotsOf h % 8 != 0) then some .slotStream
  else if h.toNat / 32 % 8 != slotCount h then some .length
  else if h.toNat / 8192 != 0 || (!x && h.toNat / 256 % 32 != 0) then some .field
  else none

/-- Byte offset of slot `i` in its bundle: the slots present before it (R144). -/
def slotAt (h : BitVec 16) (i : Nat) : Nat := 2 + 4 * ((List.range i).filter (fun j => h.getLsbD j)).length

def slotWord (k : Core) (pc : Nat) (h : BitVec 16) (i : Nat) : Word := BitVec.ofNat 32 (readN k.store (pc + slotAt h i) 4)

/-- Decodes slot `i` when its mask bit is set. -/
def decSlot {α : Type} (k : Core) (pc : Nat) (h : BitVec 16) (i : Nat) (d : Word → Option α × List Cause) : Option α × List Cause :=
  if h.getLsbD i then d (slotWord k pc h i) else (none, [])

/-- The bundle at `pc` and the decoding faults of its slots. -/
def decBundle (k : Core) (pc : Nat) (h : BitVec 16) : Bundle × (Nat → List Cause) :=
  let a := decSlot k pc h 0 decScalar
  let b := decSlot k pc h 1 decVector
  let m := decSlot k pc h 2 decMatrix
  let d := decSlot k pc h 3 decAccess
  let e := decSlot k pc h 4 decSync
  ({ gen := h.getLsbD 8, gpred := h.extractLsb' 9 3, gneg := h.getLsbD 12,
     scalar := a.1, vector := b.1, matrix := m.1, access := d.1, sync := e.1 },
   fun i => if i = 0 then a.2 else if i = 1 then b.2 else if i = 2 then m.2 else if i = 3 then d.2 else if i = 4 then e.2 else [])

/-- The header at the engine's program counter. -/
def headerAt (k : Core) (pc : Nat) : BitVec 16 := BitVec.ofNat 16 (readN k.store pc 2)

/-- `n` bytes at `pc` lie within the region of the engine's stream. -/
def fits (e : Engine) (n : Nat) : Bool := decide (e.base ≤ e.pc) && decide (e.pc + n ≤ e.base + e.size)

/-- With BRX_DEPTH 0 the A-stream waits for the outcome of its BRX (R121) (log 87). -/
def brxWait (k : Core) (x : Bool) : Option Hold := if !x && brxDepth k == 0 && !k.brx.isEmpty then some .brxDepth else none

/-- The waits of a bundle that its header shows: a matrix slot waits for MQ whatever its word decodes to, unless its guard turns it off
(R232); the A-stream waits for the outcome of a BRX (R121). -/
def headerWait (k : Core) (x : Bool) (h : BitVec 16) : Option Hold :=
  if x && h.getLsbD 2 && guardOn k { gen := h.getLsbD 8, gpred := h.extractLsb' 9 3, gneg := h.getLsbD 12 } && decide (4 ≤ mqUsed k) then some .mqFull
  else brxWait k x

/-- A fault of steps 1 to 3 of R195, if there is one. -/
def fetchFault (k : Core) (x : Bool) : Option Cause :=
  let e := engineOf k x
  let h := headerAt k e.pc
  if !fits e 2 then some .fetchBounds
  else match headerFault x h with
    | some f => some f
    | none => if fits e (bundleLen h) then none else some .fetchBounds

/-- BUNDLE_ISSUE: the waits that come before any fault, steps 1 to 3 of R195, then the slots. -/
def fetchIssue (s : State) (c : Nat) (x : Bool) : State :=
  let k := coreOf s c
  let e := engineOf k x
  let h := headerAt k e.pc
  match fetchFault k x with
  | some f =>
    if !canIssue s c x && !isTwin s c x then s
    else match (if fits e 2 then headerWait k x h else brxWait k x) with
      | some w => if canIssue s c x then holdBundle s c x {} w else s
      | none => raise s c x (7, f)
  | none =>
    let d := decBundle k e.pc h
    match (if d.1.matrix.isNone then headerWait k x h else none) with
    | some w => if canIssue s c x then holdBundle s c x {} w else s
    | none => attempt d.2 s c x d.1 (bundleLen h)

/-- BUNDLE_ISSUE (R155) (log 21). -/
def execBundleIssue (c : Nat) (x : Bool) (s : State) : Host.Outcome State Fault Refusal := .next (fetchIssue (settleReport s c) c x)

end Sys2Proof.Machine
end

