-- ==== Sys2Proof/Machine/Command.lean ====
section
/-!
DEFINITION. What commands share (14, 09): fields of a descriptor, its reserved bytes, pointers, structures read from memory, host
memory, and the frame in which a row of a command does its work.
-/
namespace Sys2Proof.Machine

/-! ### Descriptor fields (Tables 14.5, 14.6) -/

/-- `w` bits of a descriptor or structure from bit `b` of byte `n`. -/
def bitsAt (d n b w : Nat) : Nat := d / 2 ^ (8 * n + b) % 2 ^ w
def fld (d : Line) (n b w : Nat) : Nat := bitsAt d.toNat n b w
def bytesAt (d : Line) (n k : Nat) : Nat := fld d n 0 (8 * k)

def dOpcode (d : Line) : Nat := bytesAt d 0 1
def dFlags (d : Line) : Nat := bytesAt d 1 1
def dTag (d : Line) : Nat := bytesAt d 2 2
def dWaitEn (d : Line) : Bool := fld d 1 0 1 == 1
def dSetEn (d : Line) : Bool := fld d 1 1 1 == 1
def dIrq (d : Line) : Bool := fld d 1 2 1 == 1
def dWaitSel (d : Line) : Nat := bytesAt d 4 2
def dSetSel (d : Line) : Nat := bytesAt d 6 2

/-- The bits that a list of fields (byte, bit, width) names. -/
def fieldMask (l : List (Nat × Nat × Nat)) : Nat := l.foldl (fun m f => m ||| ((2 ^ f.2.2 - 1) * 2 ^ (8 * f.1 + f.2.1))) 0

/-- Every bit of bytes 8 to 63 outside the named fields is 0 (R630) (log 16). -/
def bodyOk (d : Line) (l : List (Nat × Nat × Nat)) : Bool := d.toNat / 2 ^ 64 * 2 ^ 64 ||| fieldMask l == fieldMask l

/-! ### Commands in progress (R629) -/

/-- The unit that does a command's work takes up none (R721, Table 17.1): the cores, the mover, the Easel, the reduction engines or the Fixers. -/
def unitRests (s : State) (op : Nat) : Bool :=
  let any (base n : Nat) : Bool := stopped s || (s.pw.st == 4 && (List.range n).any (fun i => blockHeld s (base + i)))
  if op = 0x10 ∨ op = 0x11 then any 0 s.fit.grade
  else if [0x20, 0x21, 0x22, 0x43, 0x44].contains op then any 4096 1
  else if op = 0x30 ∨ op = 0x31 then any 8192 1
  else if op = 0x41 then any 12288 s.fit.iodies
  else if op = 0x42 then any 16384 s.fit.nStacks
  else false

/-- The row of a command acts on the command of a ring slot that is ready and has its opcode; while its unit rests it is held, which wakes the
device once the entry has committed (R721, R728) (log 53). Anything else changes nothing (log 8). -/
def withCmd (s : State) (ring slot op : Nat) (f : Line → State) : State :=
  match cmdOf s ring slot with
  | some m => if m.phase = .ready ∧ dOpcode m.desc = op then (if unitRests s op then wakeUp s else f m.desc) else s
  | none => s

/-- The command is at stage `n` of its work. -/
def withBusy (s : State) (ring slot op n : Nat) (f : Line → State) : State :=
  match cmdOf s ring slot with
  | some m => if m.phase = .busy n ∧ dOpcode m.desc = op then f m.desc else s
  | none => s

/-- The first check that fails (log 15). -/
def firstFail : List (Bool × Status) → Option Status
  | [] => none
  | (b, e) :: t => if b then some e else firstFail t

/-- A command that fails a check completes with its status and no effect; another goes on (log 15). -/
def checked (s : State) (ring slot : Nat) (l : List (Bool × Status)) (f : State) : State :=
  match firstFail l with
  | some e => finishCmd s ring slot e 0
  | none => f

/-- Codes of Table 14.7a. -/
def statusCode : Status → Nat
  | .ok => 0 | .partial_ => 1 | .frozenSkip => 2 | .poisonSkip => 3 | .range => 0x10 | .alias_ => 0x11 | .format => 0x12 | .shape => 0x13
  | .absent => 0x20 | .page => 0x30 | .flagOver => 0x40 | .flagUnder => 0x41 | .stall => 0x42 | .dataDropped => 0x50 | .auth => 0x60
  | .powerRefused => 0x70

/-! ### Host memory (R615, R632, R775) -/

/-- A page of 4 KiB whose translation the host has not changed (log 62). -/
def samePage (p : Nat) : Nat := p
/-- Where a page of the addresses that the host gave lies: by the translation that the device keeps, or by the host's (R615). -/
def pageAt (s : State) (p : Nat) : Nat :=
  match s.host.atc.find? (fun e => e.1 == p) with
  | some e => e.2
  | none => tget samePage s.host.trans p
/-- A host address as the device uses it: translated when ATS is enabled, as it is when not (R615). -/
def hostAt (s : State) (a : Nat) : Nat := if s.host.ats then 4096 * pageAt s (a / 4096) + a % 4096 else a
/-- The device keeps the translation of a page that it has written (log 62). -/
def keepPage (s : State) (a : Nat) : HostMem :=
  if s.host.ats && !s.host.atc.any (fun e => e.1 == a / 4096) then { s.host with atc := s.host.atc ++ [(a / 4096, pageAt s (a / 4096))] } else s.host

/-- The host refuses an access to bytes `a` to `a + n - 1`; no access is refused for no bytes (log 4). -/
def hostRefuses (s : State) (a n : Nat) : Bool := decide (0 < n) && s.host.refused.any (fun r => decide (a < r.1 + r.2) && decide (r.1 < a + n))
def hostByte (s : State) (a : Nat) : Nat := if tget noMark s.host.poison (hostAt s a / 64) then 0 else (tget zeroB s.host.mem (hostAt s a)).toNat
def readHost (s : State) (a : Nat) : Nat → Nat
  | 0 => 0
  | n + 1 => hostByte s a + 256 * readHost s (a + 1) n
def hostPoisoned (s : State) (line : Nat) : Bool := tget noMark s.host.poison (hostAt s (64 * line) / 64)
/-- Writes bytes of host memory; a write of a whole line replaces poison (log 4). -/
def writeHost (s : State) (a n v : Nat) : State :=
  let b := hostAt s a
  let w := writeN s.host.mem b n v
  let p := if n = 64 ∧ a % 64 = 0 then tset noMark s.host.poison (b / 64) false else s.host.poison
  bump { s with host := { keepPage s a with mem := w, poison := p } } 58 n

/-! ### Pointers and structures (R377, R774) -/

structure Ptr where
  (host : Bool) (addr : Nat)
  deriving DecidableEq, Repr

def ptrOf (v : Nat) : Ptr := ⟨decide (v / 2 ^ 62 % 4 = 1), v % 2 ^ 62⟩
/-- The space bits are reserved. -/
def ptrSpaceBad (v : Nat) : Bool := decide (2 ≤ v / 2 ^ 62 % 4)
def ptrLimit (h : Bool) : Nat := if h then 2 ^ 52 else 2 ^ 40
/-- Misaligned, beyond its limit, or the structure's extent of `n` bytes leaves its space. -/
def ptrRangeBad (v n : Nat) : Bool :=
  let p := ptrOf v
  decide (p.addr % 64 ≠ 0) || decide (ptrLimit p.host ≤ p.addr) || decide (ptrLimit p.host < p.addr + n)

/-- Lines that `n` bytes from address `a` touch. -/
def linesOf (a n : Nat) : List Nat := if n = 0 then [] else (List.range ((a + n - 1) / 64 + 1 - a / 64)).map (fun i => a / 64 + i)
def blocksOf (a n : Nat) : List Nat := if n = 0 then [] else (List.range ((a + n - 1) / 65536 + 1 - a / 65536)).map (fun i => a / 65536 + i)

/-- Why a structure cannot be read (R774). -/
def structFault (s : State) (host : Bool) (a n : Nat) : Option Status :=
  if host then
    if hostRefuses s a n || (linesOf a n).any (hostPoisoned s) then some .dataDropped else none
  else if (blocksOf a n).any (fun b => !mapped s b) then some .page
  else if (linesOf a n).any (poisoned s) then some .dataDropped
  else none

/-- The bytes of a structure. -/
def structBytes (s : State) (host : Bool) (a n : Nat) : Nat := if host then readHost s a n else readBytes s a n

/-- Reads a structure that a descriptor pointer names: its checks in the order of R417, then R774. -/
def readStruct (s : State) (v n : Nat) : Except Status Nat :=
  if ptrSpaceBad v then .error .format
  else if ptrRangeBad v n then .error .range
  else
    let p := ptrOf v
    match structFault s p.host p.addr n with
    | some e => .error e
    | none => .ok (structBytes s p.host p.addr n)

/-- An extent of the device range: none of bits [63:40] of its address is set, and it ends in the range (R633). -/
def inRange40 (a n : Nat) : Bool := decide (a < 2 ^ 40) && decide (a + n ≤ 2 ^ 40)

end Sys2Proof.Machine
end

