-- ==== Sys2Proof/Machine/CoreEvents.lean ====
section
/-!
DEFINITION. Events of a core (03, 04, 05, 08): answers to its requests, translations, the resolution of predicted branches, flag
acknowledgements, the end of a run. An event that the state does not allow changes nothing (log 8).
-/
namespace Sys2Proof.Machine

/-! ### Sites (R369, Table 08.4) -/

/-- Core sites of a die in the order of R369, as (x, y); `x0` is 0 for West, 12 for East. -/
def rowSites (x0 y : Nat) : List (Nat × Nat) :=
  let xs := (List.range 12).map (fun i => (x0 + i, y))
  if y % 2 = 0 then xs else xs.reverse
def dieSites (x0 : Nat) : List (Nat × Nat) := (List.range 24).flatMap (rowSites x0)

/-- Site of a logical core (R3, R369); badSites holds 24 y + x of the sites that failed at assembly. -/
def coreSite (s : State) (c : Nat) : Nat × Nat :=
  let h := s.fit.grade / 2
  let good (x0 : Nat) := (dieSites x0).filter (fun p => !s.fit.badSites.contains (24 * p.2 + p.1))
  if c < h then (good 0).getD c (0, 0) else (good 12).getD (c - h) (0, 0)

def coreRow (s : State) (c : Nat) : Nat := (coreSite s c).2
/-- Quadrant of a core (Table 08.4). -/
def quadOfSite (p : Nat × Nat) : Nat := (if p.1 < 12 then 0 else 2) + if p.2 < 12 then 0 else 1
def coreQuad (s : State) (c : Nat) : Nat := quadOfSite (coreSite s c)

/-! ### Answers to requests -/

/-- The bytes of a load: `n` bytes of a line from byte `o`, the rest 0 (R181). -/
def loadBytes (l : Line) (o n : Nat) : Line := BitVec.ofNat 512 (l.toNat / 2 ^ (8 * o) % 2 ^ (8 * n))

/-- A request that its home can answer now: on the D-net, at the home its translation named, not squashed, its line not held by the
host (R619), and not behind a request that is still to be sent again (R358) (log 30). -/
def answerable (s : State) (c : Nat) (r : Req) : Bool :=
  r.phase == .flight && !r.orphan && !hostHolds s (lineOf r.addr) && (dirOf s (blockOf r.addr)).home == r.home && mapped s (blockOf r.addr) &&
  !behindForward s c r

/-- A request whose line the host holds brings it back first (R619). -/
def snoopFor (s : State) (r : Req) : State :=
  if r.phase == .flight && !r.orphan && hostHolds s (lineOf r.addr) then sendBisnp s (lineOf r.addr) else s

/-- LQ_LINE_ARRIVAL (R103, R105, R116); the answer of a PF is discarded (R181). The slot goes to a request that waits for one (R118). -/
def lqArrival (s : State) (c id : Nat) : State :=
  match reqOf (coreOf s c) id with
  | none => s
  | some r =>
    if !answerable s c r then snoopFor s r
    else match r.kind with
      | .lq e =>
        let p := poisoned s (lineOf r.addr)
        let l := readLine s (lineOf r.addr)
        sendReady (updCore s c (fun k => updLq (dropReq k id) e (fun q =>
          { q with st := .data, data := loadBytes l (r.addr % 64) q.bytes, poison := p }))) c
      | .pf => sendReady (updCore s c (fun k => dropReq k id)) c
      | _ => s

def execLqLineArrival (c req : Nat) (s : State) : Host.Outcome State Fault Refusal := .next (lqArrival s c req)

/-- WRITE_ACK_RETURN (R116, R619): a store that the host's copy of its line has kept from its home is performed first. -/
def writeAckReturn (s : State) (c req : Nat) : State :=
  match reqOf (coreOf s c) req with
  | none => s
  | some r =>
    if r.phase = .performed then sendReady (updCore s c (fun k => dropReq k req)) c
    else if r.phase ≠ .flight ∨ r.orphan = true then s
    else match r.kind with
      | .store q =>
        match sqOf (coreOf s c) q with
        | some e =>
          match e.data with
          | some d => storePump (storeAtHome s c r e d) c
          | none => s
        | none => s
      | _ => s

def execWriteAckReturn (c req : Nat) (s : State) : Host.Outcome State Fault Refusal := .next (writeAckReturn s c req)

/-- ORPHAN_RESPONSE_DROP (R129). -/
def execOrphanResponseDrop (c req : Nat) (s : State) : Host.Outcome State Fault Refusal :=
  .next (match reqOf (coreOf s c) req with
    | some r => if r.orphan then sendReady (bump (updCore s c (fun k => dropReq k req)) (cCore c 11) 1) c else s
    | none => s)

/-- Element `e` of a tile row or line of format `fmt`. -/
def elemOf (fmt : Nat) (l : Line) (e : Nat) : Nat := l.toNat / 2 ^ (fmtBits fmt * e) % 2 ^ fmtBits fmt
def putElem (fmt : Nat) (l : Line) (e v : Nat) : Line := BitVec.ofNat 512 (insertBits l.toNat (fmtBits fmt * e) (fmtBits fmt) v)

/-- A source line written through the transposed path: element e of line `ln` goes to row e mod 16, element 16 ⌊e ÷ 16⌋ + ln (R222). -/
def transposeLine (x : Tile) (ln : Nat) (l : Line) : Tile :=
  (List.range (tileE x.fmt)).foldl (fun t e =>
    { t with rows := tset zeroL t.rows (e % 16) (putElem t.fmt (tget zeroL t.rows (e % 16)) (16 * (e / 16) + ln) (elemOf t.fmt l e)) }) x

/-- A line arrives in a tile (R206, R219, R222, R242). -/
def tileLine (x : Tile) (row : Nat) (l : Line) (p : Bool) : Tile :=
  let l := rowMask x.fmt l
  let y := if x.trans then { transposeLine x row l with mask := putBit x.mask row true } else setTileRow x row l
  settle { y with poison := x.poison || p }

def tileScale (x : Tile) (l : Line) (p : Bool) : Tile := settle { x with scale := l, scaleOk := true, poison := x.poison || p }

/-- Collectors or drains use the tile banks. -/
def banksInUse (k : Core) : Bool := k.mops.any (fun m => !(collectRow m).isEmpty) || k.mops.any (fun m => match m.op with
  | .mdrain f => f.dest == 0 && m.phase == .started && decide (m.filled < 16)
  | _ => false)

/-- The bank operations of an arriving line that were delayed while others used the banks: a free number, since no row says when the line reached
the landing buffer (R217, R218) (log 11). -/
def countLanding (s : State) (c : Nat) : State :=
  if banksInUse (coreOf s c) then bump (nextFree s) (cCore c 28) (Config.bankDelays s.freeIx) else s

/-- TILE_LINE_ARRIVAL (R219, R224, R242) (log 12). -/
def tileArrival (s : State) (c id : Nat) : State :=
  match reqOf (coreOf s c) id with
  | none => s
  | some r =>
    if !answerable s c r then snoopFor s r
    else
      let p := poisoned s (lineOf r.addr)
      let l := readLine s (lineOf r.addr)
      let fin (t : Nat) (f : Tile → Tile) : State :=
        let s1 := countLanding (updCore s c (fun k => clearLatch (setTile (dropReq k id) t (f (tileOf k t))) t)) c
        sendReady (if p then bump (updCore s1 c markPoison) (cCore c 29) 1 else s1) c
      match r.kind with
      | .tile t row => if (tileOf (coreOf s c) t).st = .loading then fin t (fun x => tileLine x row l p) else s
      | .scale t => if (tileOf (coreOf s c) t).st = .loading then fin t (fun x => tileScale x l p) else s
      | _ => s

def execTileLineArrival (c req : Nat) (s : State) : Host.Outcome State Fault Refusal := .next (tileArrival s c req)

/-! ### Predicted branches (R111, R124, R128, R134, R196) -/

/-- Sends again, as demand accesses, the dropped loads that are committed now (R134). -/
def reissueLq (s : State) (c : Nat) : List Lq → State
  | [] => s
  | e :: t =>
    if e.st == .dropped && committed (coreOf s c) e.level then
      let s1 := bump (updCore s c (fun k => updLq k e.id (fun q => { q with st := .waiting }))) (cCore c 8) 1
      reissueLq (request s1 c (.lq e.id) e.addr e.level e.pc false) c t
    else reissueLq s c t

/-- A row of a tile load that is neither in the tile nor on its way: a line issued before the fault that has not arrived yet still comes, and is
not issued again (R237, R238) (log 93). -/
def rowMissing (k : Core) (t row : Nat) : Bool :=
  !(tileOf k t).mask.getLsbD row && !k.reqs.any (fun r => !r.orphan && r.kind == .tile t row)

/-- Issues the missing rows `rs` of a tile load as demand accesses; those that were dropped count as reissued, each row and the scale line as
one (R134, log 91). -/
def reissueRows (dropped : Bool) (s : State) (c t : Nat) (ld : TileLoad) (level : Nat) : List Nat → State
  | [] => s
  | r :: rs =>
    if rowMissing (coreOf s c) t r then
      let s1 := bumpIf dropped s (cCore c 8) 1
      reissueRows dropped (request s1 c (.tile t r) (rowAddr (BitVec.ofNat 48 ld.ab) (BitVec.ofNat 48 ld.as) r) level ld.pc false) c t ld level rs
    else reissueRows dropped s c t ld level rs

def scaleMissing (k : Core) (t : Nat) : Bool := !(tileOf k t).scaleOk && !k.reqs.any (fun r => !r.orphan && r.kind == .scale t)

/-- Reissues the missing rows, in ascending order, and then the scale line of the committed tile loads: those with dropped lines (R134, R239),
or those that a page fault of block `why` stopped (R238). A dropped scale line counts like a row (log 91). -/
def reissueTiles (why : Option Nat) (s : State) (c : Nat) : List Nat → State
  | [] => s
  | t :: ts =>
    let x := tileOf (coreOf s c) t
    let dropped := why.isNone
    match x.load with
    | some ld =>
      if x.st == .loading && committed (coreOf s c) x.level && ld.stopped == why then
        let s0 := updCore s c (fun k => setTile k t { x with load := some { ld with stopped := none } })
        let s1 := reissueRows dropped s0 c t ld x.level (List.range (ld.nr + 1))
        let s2 := if scaleMissing (coreOf s1 c) t then request (bumpIf dropped s1 (cCore c 8) 1) c (.scale t) ld.ac x.level ld.pc false else s1
        reissueTiles why s2 c ts
      else reissueTiles why s c ts
    | none => reissueTiles why s c ts

/-- Tiles whose load is committed lose their SPEC mark (R126). -/
def commitTiles (k : Core) : Core :=
  let l := k.tiles.map (fun e => (e.1, if committed k e.2.level then { e.2 with spec := false } else e.2))
  { k with tiles := l.filter (fun e => decide (e.2 ≠ tileDefault e.1)) }

/-- A held fault is raised once its bundle is committed (R196). -/
def raiseHeld (s : State) (c : Nat) : State :=
  match (coreOf s c).heldFault with
  | some h => if committed (coreOf s c) h.level then
      streamFault (updCore s c (fun k => { k with heldFault := none })) c false h.cause h.addr h.slot else s
  | none => s

/-- The oldest BRX resolved as predicted: everything issued under it is committed (R124). -/
def commitBrx (s : State) (c : Nat) (b : Brx) : State :=
  let s1 := bumpIf (b.bundles != 0) (updCore s c (fun k => commitTiles { k with brx := k.brx.tail, brxHead := b.id })) (cCore c 4) b.bundles
  let s2 := reissueTiles none (reissueLq s1 c (coreOf s1 c).lq) c (List.range 16)
  raiseHeld (drainPump (storePump s2 c) c) c

/-- A misprediction: everything issued under it is squashed and the A-stream restarts at the other path (R128). -/
def squashBrx (s : State) (c : Nat) (b : Brx) : State :=
  bump (updCore s c (fun k =>
    let q := squash k b.id b.ckpt
    { q with brxHead := b.id, ae := { q.ae with pc := if b.pred then b.fall else b.tgt, hold := .none, held := 0 } })) (cCore c 10) 1

/-- BRX_RESOLUTION (R111). -/
def resolveBrx (s : State) (c : Nat) : State :=
  let k := coreOf s c
  match k.brx with
  | [] => s
  | b :: _ =>
    let t := flagOf k (2 * b.pair)
    let n := flagOf k (2 * b.pair + 1)
    if t && n then bump (streamFault s c false .flagOver b.addr 4) (cCore c 48) 1
    else if !t && !n then s
    else
      let r := takeReport s c b.pair
      let v := match predOf k b.addr with
        | some v => v
        | none => 0
      let s1 := bump (updCore r.1 c (fun q => setPred q b.addr (trained v r.2))) (cCore c 9) 1
      let s2 := if r.2 = b.pred then commitBrx s1 c b else squashBrx s1 c b
      if r.2 && !inRegion k.ae b.tgt then streamFault s2 c false .fetchBounds b.addr 4 else s2

/-- BRX_RESOLUTION: the report that is due is in the flag array when the AE samples it (Table 03.4). -/
def execBrxResolution (c : Nat) (s : State) : Host.Outcome State Fault Refusal := .next (resolveBrx (settleReport s c) c)

/-! ### Translation -/

/-- The fitted stack position that holds the directory entry of a block (R337). -/
def dirStack (s : State) (b : Nat) : Nat := b % s.fit.nStacks

/-- Counts a demand miss in the requester's quadrant (R364). -/
def countMiss (e : DirEntry) (q : Nat) : DirEntry :=
  { e with q := e.q.setIfInBounds q (let v := e.q.getD q 0; if v = 15 then 15 else v + 1) }

/-- What the agent answers and what it notes (R343). -/
def lookup (s : State) (q : DirReq) : State × DirAnswer :=
  let e := dirOf s q.block
  if e.home = .unmapped then (s, .unmapped)
  else if e.mig then (s, .migrating)
  else
    let e1 := match q.who with
      | .core c =>
        let e0 := { e with rows := putBit e.rows (coreRow s c) true }
        if q.demand then countMiss e0 (coreQuad s c) else e0
      | .mover => { e with mov := true }
    (setDir s q.block e1, .entry e.home e.na)

/-- DIRECTORY_LOOKUP (R343): the agent answers its oldest request (log 14). -/
def directoryLookup (s : State) (stack : Nat) : State :=
  match s.m.dirReq.find? (fun q => dirStack s q.block == stack) with
  | none => s
  | some q =>
    let r := lookup s q
    { r.1 with m := { r.1.m with dirReq := r.1.m.dirReq.erase q, dirAns := r.1.m.dirAns ++ [(q, r.2)] } }

def execDirectoryLookup (stack : Nat) (s : State) : Host.Outcome State Fault Refusal := .next (directoryLookup s stack)

/-- Requests that waited for the translation of a block go to its home (R344). -/
def sendWaiting (s : State) (c : Nat) (home : Home) : List Req → State
  | [] => s
  | r :: t => sendWaiting (sendReq s c r home) c home t

/-- A page fault on a block whose move has ended since the agent answered: it is resolved as it is found, and the access goes out again
(R135, R345, R361) (log 33). -/
def briefFault (s : State) (c : Nat) (r : Req) : State := rerequest (bump (bump s (cCore c 12) 1) 3 1) c r.id

/-- Requests that found a block unmapped or migrating: run-ahead accesses are dropped, a demand access faults (R131, R132, R135). -/
def refuseWaiting (s : State) (c : Nat) (gone : Bool) : List Req → State
  | [] => s
  | r :: t =>
    if (reqOf (coreOf s c) r.id).isNone then refuseWaiting s c gone t
    else if r.ra && !committed (coreOf s c) r.level || r.kind == .pf then refuseWaiting (dropAccess s c r) c gone t
    else if r.ra then
      refuseWaiting (rerequest (bump (bump s (cCore c 7) 1) (cCore c 8) 1) c r.id) c gone t
    else if !gone && !(dirOf s (blockOf r.addr)).mig then refuseWaiting (briefFault s c r) c gone t
    else refuseWaiting (pageFault s c r gone) c gone t

/-- TRANSLATION_ANSWER (R344, R131, R135). Committed requests that waited go out after a fault too, as part of those of R136 (log 93). A request
of the mover or the window that is answered migrating asks again when the move commits. -/
def translationAnswer (s : State) (who : Requester) : State :=
  match s.m.dirAns.find? (fun a => a.1.who == who) with
  | none => s
  | some a =>
    let s1 := { s with m := { s.m with dirAns := s.m.dirAns.erase a } }
    let b := a.1.block
    match who with
    | .mover =>
      match a.2 with
      | .entry h na => { s1 with m := { s1.m with mtc := tcInsert 1024 s1.m.mtc ⟨b, h, na⟩ } }
      | .unmapped => s1
      | .migrating =>
        if (dirOf s1 b).mig then { s1 with m := { s1.m with mtcWait := b :: s1.m.mtcWait.filter (fun x => x != b) } }
        else askDirectory s1 .mover b false
    | .core c =>
      let w := (coreOf s1 c).reqs.filter (fun r => r.phase == .translating && blockOf r.addr == b)
      match a.2 with
      | .entry h na => storePump (sendWaiting (updCore s1 c (fun k => { k with tc := tcInsert 256 k.tc ⟨b, h, na⟩ })) c h w) c
      | .unmapped => refuseWaiting s1 c true w
      | .migrating => refuseWaiting s1 c false w

def execTranslationAnswer (who : Requester) (s : State) : Host.Outcome State Fault Refusal := .next (translationAnswer s who)

/-! ### Acknowledgements, completion, resumption -/

/-- FLAG_ACK_RETURN (R484, R485): an error stops the issuing engine at its bundle boundary; an engine that the other stream's fault has stopped
records it too, if its entry is empty (log 93). -/
def flagAckReturn (s : State) (c : Nat) : State :=
  match s.sh.acks.find? (fun a => a.core == c) with
  | none => s
  | some a =>
    let s1 := updCore { s with sh := { s.sh with acks := s.sh.acks.erase a } } c (fun k => { k with unacked := k.unacked - 1 })
    match a.err with
    | none => s1
    | some e => if (engineOf (coreOf s1 c) a.x).frec.getLsbD 63 then s1 else streamFault s1 c a.x e a.addr 4

def execFlagAckReturn (c : Nat) (s : State) : Host.Outcome State Fault Refusal := .next (flagAckReturn s c)

/-- A tile load that a page fault has stopped for good: no line of it is on its way (R237, R345). -/
def tileStuck (k : Core) (t : Nat) : Bool :=
  (tileOf k t).st == .loading && !k.reqs.any (fun r => loadOf r == some t && !r.orphan)

/-- Matrix instructions that can still do something when the AE issues nothing further (R136, R197, R236): a drain that waits for an SQ entry
never ends, nor does a TREL that waits for a tile whose load has stopped, and what must follow them never starts. `accs` are the accumulators
of such drains (log 93). -/
def opsCanRun (k : Core) (accs : List Nat) : List MOp → Bool
  | [] => false
  | m :: t =>
    match m.op with
    | .mdrain f =>
      if accs.contains (4 + f.acc.toNat) then false
      else if drainsSq m && !sqReady k (m.ticket + m.filled) && decide (m.filled < drainFills f) then opsCanRun k ((4 + f.acc.toNat) :: accs) t
      else true
    | .mswap => accs.isEmpty
    | .mzero mask => !accs.any (fun i => mask.getLsbD i)
    | .trel _ => !(mopChanges m.op).any (tileStuck k)
    | .mmul _ => true

/-- What the core has issued is done: requests in flight, and matrix instructions that can still do something (R136, R197). -/
def issuedDone (k : Core) : Bool := !k.reqs.any holdsSlot && !opsCanRun k [] k.mops

/-- A run is complete (R189, R485): both streams ended, nothing outstanding; a faulted run when what it has issued is done (R136, R197), as a
run that the stall detector stopped (R508). -/
def runComplete (k : Core) : Bool :=
  (k.ae.st == .ended && k.xe.st == .ended && k.sq.isEmpty && k.mops.isEmpty && k.posted.isEmpty && k.unacked == 0) ||
  ((k.ae.st == .faulted || k.xe.st == .faulted) && issuedDone k) ||
  ((k.ae.st == .stalled || k.xe.st == .stalled) && k.ae.st != .running && k.xe.st != .running && k.ae.st != .pageFault && issuedDone k)

/-- The run of a core is over. -/
def completeRun (k : Core) : Core :=
  { k with run := match k.run with
    | some r => some { r with complete := true }
    | none => none }

/-- CORE_RUN_COMPLETE (R189, R198). -/
def execCoreRunComplete (c : Nat) (s : State) : Host.Outcome State Fault Refusal :=
  .next (
    let t := settleReport s c
    if runComplete (coreOf t c) then updCore t c completeRun else t)

def resumeEngine (e : Engine) : Engine :=
  match e.st with
  | .stopped _ => { e with st := .running }
  | _ => e

/-- The streams halted at a STOP go on at the bundle after it (R193), an A-stream whose X-stream stopped on a fault among them (log 93). -/
def resumeCore (s : State) (c : Nat) : State :=
  updCore s c (fun k => { k with ae := resumeEngine k.ae, xe := resumeEngine k.xe, stopReported := false })

def haltedAt (e : Engine) : Bool :=
  match e.st with
  | .stopped _ => true
  | .ended => true
  | .faulted => true
  | _ => false
/-- Registers, queue entries and tiles hold what execution up to the STOP points gives (R137): loads have their data, tile loads have filled
their tiles (R240), filled stores are performed and matrix instructions are done, but for drains that wait for an SQ entry. After a fault
it is what the core had issued that is done (log 93). -/
def settled (k : Core) : Bool :=
  if k.ae.st == .faulted || k.xe.st == .faulted then issuedDone k
  else !k.tiles.any (fun e => e.2.st == .loading) && k.lq.all (fun e => e.st == .data || e.amo) && !k.sq.any (fun e => e.data.isSome) &&
    !opsCanRun k [] k.mops

/-- The core is stopped (R191, R240). -/
def coreIsStopped (k : Core) : Bool := haltedAt k.ae && haltedAt k.xe && settled k

/-! ### Bank credits at a core (R295, R296) -/

/-- BANK_REFUSAL (R294, R295): the request gives up its slot and joins the core's list for its bank, whose AE is held while it waits for a free
entry (R296) (log 28). -/
def bankRefusal (s : State) (c id : Nat) : State :=
  match reqOf (coreOf s c) id with
  | none => s
  | some r =>
    match refusingBank s (lineOf r.addr) with
    | none => s
    | some b =>
      if r.phase = .flight ∧ r.orphan = false ∧ r.placed = false then
        sendReady (bump (joinBank s c id b) (cChan (b / 48 / 32) (b / 48 % 32) 4) 1) c
      else s

def execBankRefusal (c req : Nat) (s : State) : Host.Outcome State Fault Refusal := .next (bankRefusal s c req)

end Sys2Proof.Machine
end

