-- ==== Sys2Proof/Machine/Memory.lean ====
section
/-!
DEFINITION. Channels, the Carafe, its atomics, the narrow path and the Grinder's lossless coding (07). Bytes of the range are held by
address, so a cache changes counters and places, never values (R308).
-/
namespace Sys2Proof.Machine

/-! ### Channels (R288 to R292, R300 to R304) -/

/-- A channel of a fitted stack that is not mapped out. -/
def chanLive (s : State) (stack ch : Nat) : Bool :=
  decide (stack < s.fit.nStacks) && decide (ch < 32) && (chanOf s stack ch).st != .mappedOut

/-- The line lies in a block homed in this channel. -/
def lineIn (s : State) (stack ch line : Nat) : Bool :=
  let b := blockOfLine line
  (dirOf s b).home == .stack stack && (homeAt s b).1 == ch

/-- The line lies in a block that a move in COPY writes into this channel (R356). -/
def lineTo (s : State) (stack ch line : Nat) : Bool :=
  match moveOf s (blockOfLine line) with
  | some v => v.copy && v.dst.home == .stack stack && v.dst.ch == ch
  | none => false

/-- The direction of the channel's pins; a change is counted (R291). -/
def drive (s : State) (stack ch : Nat) (w : Bool) : State :=
  let x := chanOf s stack ch
  if x.dirW = w then s else bump (setChan s stack ch { x with dirW := w }) (cChan stack ch 2) 1

/-- The row of a line, by its 2 KiB chunk, is open afterwards; opening it is counted (R288, Table 07.15) (log 27). -/
def openRow (s : State) (stack ch line : Nat) : State :=
  let x := chanOf s stack ch
  let q := (homeAt s (blockOfLine line)).2
  let bank := bankIndex q line
  let row := 32 * q + line % 1024 / 32 + 1
  if tget zeroN x.openRow bank = row then s
  else bump (setChan s stack ch { x with openRow := tset zeroN x.openRow bank row }) (cChan stack ch 3) 1

/-! ### The Grinder's lossless coding (R323 to R327) -/

/-- Occurrences of each high byte, most frequent first, as counts. -/
def insertDesc (n : Nat) : List Nat → List Nat
  | [] => [n]
  | m :: t => if m ≤ n then n :: m :: t else m :: insertDesc n t
def highCounts (his : List Nat) : List Nat := ((List.range 256).map (fun v => his.count v)).foldr insertDesc []

/-- Bytes of the exponent-plane encoding with the best table of 1 to 15 bytes. -/
def planeBytes (his : List Nat) : Nat :=
  let c := highCounts his
  (List.range 15).foldl (fun m t => min m (2 + (t + 1) + 256 + (512 - (c.take (t + 1)).foldl (· + ·) 0) + 512)) 2000

/-- The size code of a granule of 1,024 bytes with elements of `w` bytes (R325) (log 35). -/
def granCode (w : Nat) (v : Nat) : Nat :=
  if v = 0 then 0
  else
    let els := unpackBits (8 * w) (1024 / w) v
    let sparse := 2 + 1024 / w / 8 + w * (els.filter (fun e => e != 0)).length
    let best := if w = 2 then min sparse (planeBytes (els.map (fun e => e / 256))) else sparse
    let bursts := (best + 63) / 64
    if 15 ≤ bursts then 15 else bursts

/-- Bursts that a size code stores (R323) (log 26). -/
def codeBursts (c : Nat) : Nat := if c = 15 then 16 else c

/-- The block is stored compressed: CMP takes effect while it is homed in a stack (R353). -/
def compressed (s : State) (line : Nat) : Bool :=
  let e := dirOf s (blockOfLine line)
  e.cmp && match e.home with
    | .stack _ => true
    | _ => false

/-- A line as the channel of its compressed block holds it: what is dirty in the Carafe has not reached the Grinder (R308, R326). -/
def storedLine (s : State) (line : Nat) : Line := tget zeroL s.m.stored line
def putStored (s : State) (line : Nat) (v : Line) : State := { s with m := { s.m with stored := tset zeroL s.m.stored line v } }

/-- Size code of the granule that holds a line, in the channel's reserve: the code of the lines as the channel holds them (R323, R325) (log 26). -/
def granOf (s : State) (line : Nat) : Nat :=
  granCode (if (dirOf s (blockOfLine line)).w4 then 4 else 2)
    (packBits 512 ((List.range 16).map (fun i => (storedLine s (line / 16 * 16 + i)).toNat)))

/-- Bursts of a compressed granule pass the Grinder: 1 KiB raw, `n` bursts stored (Table 07.17). -/
def grind (s : State) (stack n : Nat) : State := bump (bump s (cStack stack 5) 1024) (cStack stack 6) (64 * n)

/-- The stack of a block homed in one. -/
def stackOf (s : State) (b : Nat) : Nat :=
  match (dirOf s b).home with
  | .stack p => p
  | _ => 0

/-- The granules of a block that is stored compressed pass the Grinder (R335). -/
def passGranules (s : State) (b : Nat) : State :=
  if compressed s (1024 * b) then (List.range 64).foldl (fun t g => grind t (stackOf t b) (codeBursts (granOf t (1024 * b + 16 * g)))) s else s

/-- A block that is compressed now is encoded whole, as it comes into a stack or takes the attribute there, granule by granule (R323, R353, R335)
(log 26). -/
def encodeGranules (s : State) (b : Nat) : State :=
  if compressed s (1024 * b) then
    passGranules ((List.range 1024).foldl (fun t i => putStored t (1024 * b + i) (readLine t (1024 * b + i))) s) b
  else s

/-- A read that waits at its channel has been served (R291). -/
def readServed (s : State) (stack ch : Nat) : State := setChan s stack ch { chanOf s stack ch with rq := (chanOf s stack ch).rq - 1 }

/-- `n` bursts are read, or written, at a line's row; none moves where a granule of code 0 stores none (R291, R323). -/
def readBursts (s : State) (stack ch line n : Nat) : State :=
  if n = 0 then s else bump (openRow (drive s stack ch false) stack ch line) (cChan stack ch 0) n
def writeBursts (s : State) (stack ch line n : Nat) : State :=
  if n = 0 then s else bump (openRow (drive s stack ch true) stack ch line) (cChan stack ch 1) n

/-- CHANNEL_READ (R289 to R291, R324, R326, R297). A compressed granule is read whole (log 26, log 27). `placed` says that the read is a core's
or the mover's, which holds a bank place; the Fixer, the Grinder and the narrow path hold none (R299). -/
def channelRead (s : State) (stack ch line : Nat) (placed : Bool) (err : ErrClass) : State :=
  if !chanLive s stack ch || !lineIn s stack ch line || (chanOf s stack ch).batch || decide (60 ≤ (chanOf s stack ch).wq) then s
  else
    let n := codeBursts (granOf s line)
    let s2 := if compressed s line then grind (readBursts s stack ch line n) stack n else readBursts s stack ch line 1
    let s3 := match err with
      | .clean => s2
      | .correctable => bump (bump s2 (cChan stack ch 5) 1) (cChan stack ch 1) 1
      | .uncorrectable => bump (bump (poisonLine s2 line) (cChan stack ch 6) 1) (cChan stack ch 1) 1
    let s4 := readServed s3 stack ch
    if placed then bankDone s4 (bankNo stack ch (bankIndex (homeAt s (blockOfLine line)).2 line)) else s4

def execChannelRead (stack ch line : Nat) (r : ChanRead) (s : State) : Host.Outcome State Fault Refusal :=
  .next (channelRead s stack ch line r.placed r.err)

/-- The queue of a channel after one of its writes, `n` of them its own; an empty queue ends a batch and turns the channel back (R291). -/
def drainQueue (s : State) (stack ch n : Nat) : State :=
  let x := chanOf s stack ch
  let y := { x with wq := x.wq - n }
  if y.batch && y.wq == 0 then drive (setChan s stack ch { y with batch := false }) stack ch false else setChan s stack ch y

/-- Lines of a stack's merge buffer (R321). -/
def noMerge (_ : Nat) : List Nat := []

/-- The block is in COPY: its slice neither allocates its lines nor absorbs its writes (R357). -/
def inCopy (s : State) (b : Nat) : Bool := (dirOf s b).mig

/-- The channel turns to writes: a write queue of 60 bursts is served until it is empty (R291). -/
def turnAround (s : State) (stack ch : Nat) : State :=
  let x := chanOf s stack ch
  if 60 ≤ x.wq ∧ x.batch = false then drive (setChan s stack ch { x with batch := true }) stack ch true else s

/-- The channel serves writes now: in a batch, or while no read waits (R291). -/
def servesWrites (s : State) (stack ch : Nat) : Bool := (chanOf s stack ch).batch || (chanOf s stack ch).rq == 0

/-- A write that covers part of a granule is merged into it and the granule encoded again (R326). -/
def mergeGranule (s : State) (stack ch line : Nat) (v : Line) : State :=
  let n := codeBursts (granOf s line)
  let w := putStored s line v
  let m := codeBursts (granOf w line)
  let r := grind (readBursts w stack ch line n) stack n
  bump (grind (writeBursts r stack ch line m) stack m) (cStack stack 7) 1

/-- A write of a whole line, or the read, merge and write of part of one (R287). -/
def writeBurst (s : State) (stack ch line : Nat) (mask : BitVec 64) : State :=
  if mask = BitVec.allOnes 64 then writeBursts s stack ch line 1
  else writeBursts (readBursts s stack ch line 1) stack ch line 1

/-- The line waits in the stack's merge buffer, before the channel's queue (R321). -/
def merging (s : State) (stack line : Nat) : Bool := (tget noMerge s.m.mergeBuf stack).contains line
def leaveMerge (s : State) (stack line : Nat) : State :=
  { s with m := { s.m with mergeBuf := tset noMerge s.m.mergeBuf stack ((tget noMerge s.m.mergeBuf stack).filter (fun x => x != line)) } }

/-- A line that a move in COPY writes at its new home: its burst, or the bursts of its granule (R356) (log 26). -/
def copyWrite (s : State) (stack ch line : Nat) : State :=
  let n := if (dirOf s (blockOfLine line)).cmp then codeBursts (granOf s line) else 1
  drainQueue (writeBursts (turnAround s stack ch) stack ch line n) stack ch 0

/-- CHANNEL_WRITE (R287, R291, R299, R321, R325, R326). A line is part of a granule, so a write to a compressed block merges and encodes again;
a line of the merge buffer leaves it (log 26, log 29). `placed` says that the write holds a bank place.
While the block is in COPY its writes are held; what its recalled lines left in the queue is written as it is, and the move writes its lines at
their new home (R356, R357). -/
def channelWrite (s : State) (stack ch line : Nat) (placed : Bool) (data : Line) (mask : BitVec 64) : State :=
  if !chanLive s stack ch || !servesWrites (turnAround s stack ch) stack ch then s
  else if lineTo s stack ch line && !placed then copyWrite s stack ch line
  else if !lineIn s stack ch line || (inCopy s (blockOfLine line) && !placed) then s
  else
    let s1 := turnAround s stack ch
    let s2 := if inCopy s (blockOfLine line) then s1 else writeLineMasked s1 line mask data
    let s3 := if compressed s2 line then mergeGranule s2 stack ch line (readLine s2 line) else writeBurst s2 stack ch line mask
    let s4 := drainQueue (leaveMerge s3 stack line) stack ch (if merging s stack line && !placed then 0 else 1)
    if placed then bankDone s4 (bankNo stack ch (bankIndex (homeAt s (blockOfLine line)).2 line)) else s4

def execChannelWrite (stack ch line : Nat) (data : Line) (w : ChanWrite) (s : State) : Host.Outcome State Fault Refusal :=
  .next (channelWrite s stack ch line w.placed data w.mask)

/-- CHANNEL_TURNAROUND (R291). -/
def execChannelTurnaround (stack ch : Nat) (s : State) : Host.Outcome State Fault Refusal :=
  .next (if chanLive s stack ch then turnAround s stack ch else s)

/-- BANK_REFRESH (R292): the banks of a channel are refreshed one at a time (log 27). -/
def execBankRefresh (stack ch bank : Nat) (s : State) : Host.Outcome State Fault Refusal :=
  .next (if chanLive s stack ch && decide (bank < 48) then setChan s stack ch { chanOf s stack ch with refreshed := bank } else s)

/-- INTERFACE_CALIBRATION (R292) takes channel time only. -/
def execInterfaceCalibration (stack ch : Nat) (s : State) : Host.Outcome State Fault Refusal :=
  .next (if chanLive s stack ch then setChan s stack ch (chanOf s stack ch) else s)

/-! ### The Carafe (R305 to R312) -/

def putSet (s : State) (slice line : Nat) (l : List CLine) : State :=
  { s with m := { s.m with carafe := tset noSet s.m.carafe (setIx slice line) l } }
/-- Ways of the cache partition (R305). -/
def cacheWays (s : State) : Nat := 16 - s.m.homeWays


/-- A dirty line leaves the slice for its channel (R299, R309). -/
def writeBack (s : State) (slice line : Nat) : State :=
  let s1 := bump s (cSlice slice 2) 1
  match bankOf s line with
  | some b => bankArrive s1 b .writeBack
  | none => s1

/-- The slice writes its dirty lines back and keeps them clean (R313). -/
def cleanSet (s : State) (slice : Nat) (l : List CLine) : State :=
  (l.filter (fun e => e.dirty)).foldl (fun t e =>
    writeBack (putSet t slice e.line ((setOf t slice e.line).map (fun q => if q.line = e.line then ⟨q.line, false⟩ else q))) slice e.line) s
def cleanSlice (s : State) (slice : Nat) : State :=
  (s.m.carafe.filter (fun e => e.1 / 2048 == slice)).foldl (fun t e => cleanSet t slice e.2) s

/-- A line enters a set as its most recently used; the least recently used leaves a full set (R309). -/
def allocate (s : State) (slice line : Nat) (dirty : Bool) : State :=
  let l := ⟨line, dirty⟩ :: setOf s slice line
  let s1 := putSet s slice line (l.take (cacheWays s))
  match l.drop (cacheWays s) with
  | v :: _ => if v.dirty then writeBack s1 slice v.line else s1
  | [] => s1

/-- A line is taken out of its cache slice before the base die touches it (R311). -/
def recallLine (s : State) (p line : Nat) : State :=
  let sl := cacheSlice s p line
  match (setOf s sl line).find? (fun e => e.line == line) with
  | none => s
  | some e =>
    let s1 := bump (putSet s sl line ((setOf s sl line).filter (fun e => e.line != line))) (cSlice sl 3) 1
    if e.dirty then writeBack s1 sl line else s1

/-- Every line of a block is recalled (R356). -/
def recallBlock (s : State) (p b : Nat) : State := (List.range 1024).foldl (fun t i => recallLine t p (1024 * b + i)) s

/-- Every line of a block leaves its cache slice without a write-back (R362). -/
def dropBlock (s : State) (b : Nat) : State :=
  { s with m := { s.m with carafe :=
    (s.m.carafe.map (fun e => (e.1, e.2.filter (fun l => blockOfLine l.line != b)))).filter (fun e => decide (e.2 ≠ [])) } }

def writes : AccKind → Bool
  | .write | .atomic => true
  | .mover w => w
  | _ => false

def errAt (s : State) (base line : Nat) : ErrClass → State
  | .clean => s
  | .correctable => bump s base 1
  | .uncorrectable => bump (poisonLine s line) (base + 1) 1

def allocates (s : State) (line : Nat) : AccKind → Bool
  | .read | .write => !(dirOf s (blockOfLine line)).na && !inCopy s (blockOfLine line)
  | .atomic => !inCopy s (blockOfLine line)
  | _ => false

/-- A miss of a core, whose bank has accepted it, goes toward the stack as a read, or as a write that does not stay in the slice (R309). -/
def missFill (s : State) (sl line : Nat) (kind : AccKind) (b : Nat) : State :=
  let al := allocates s line kind
  let s1 := queueAt (bump s (cSlice sl 1) 1) b (writes kind && !al)
  if al then allocate s1 sl line (writes kind) else s1

/-- A hit: the line becomes its set's most recently used, dirty after a write (R309). A run-ahead access leaves the set as it is (R127, R310). -/
def hitLine (s : State) (sl line : Nat) (e : CLine) (kind : AccKind) : State :=
  let t := if kind = .runAhead then s else putSet s sl line (⟨line, e.dirty || writes kind⟩ :: (setOf s sl line).filter (fun q => q.line != line))
  bump t (cSlice sl 0) 1

/-- The bank accepts a request of a core that has arrived (R294). -/
def acceptCore (s : State) (b : Nat) : State := setBank s b { bankAt s b with accepted := (bankAt s b).accepted + 1 }

/-- The oldest request of a core for a line that is on the D-net without a bank place. -/
def arriving (k : Core) (line : Nat) : Option Req :=
  k.reqs.find? (fun r => r.phase == .flight && !r.placed && lineOf r.addr == line)

/-- A miss takes a bank place. A request of a core that its bank refuses, or that a grant has placed, is no miss here (R294, R297). -/
def missToStack (s : State) (who : Requester) (sl line : Nat) (kind : AccKind) (b : Nat) : State :=
  match who with
  | .mover => bankArrive (bump s (cSlice sl 1) 1) b (.mover (writes kind))
  | .core c =>
    if bankFull (bankAt s b) then s
    else match arriving (coreOf s c) line with
      | some r => missFill (acceptCore (updCore s c (fun k => updReq k r.id (fun q => { q with placed := true }))) b) sl line kind b
      | none =>
        if (coreOf s c).reqs.any (fun r => r.placed && lineOf r.addr == line) then s else missFill (acceptCore s b) sl line kind b

/-- The slice that serves a line, or whose cache partition does. -/
def atomSlice (s : State) (line : Nat) : Option Nat :=
  match (dirOf s (blockOfLine line)).home with
  | .carafe i _ _ => some i
  | .stack p => some (cacheSlice s p line)
  | _ => none
/-- The slice of a line takes up no access (R721, Table 17.1). -/
def sliceRests (s : State) (line : Nat) : Bool :=
  match atomSlice s line with
  | some i => blockRests s (4096 * 5 + i)
  | none => stopped s

/-- CARAFE_ACCESS (R306 to R310, R294, R619); a local store checks its own lines the same way (R290). -/
def carafeAccess (s : State) (who : Requester) (line : Nat) (kind : AccKind) (err : ErrClass) : State :=
  if hostHolds s line then sendBisnp s line
  else match (dirOf s (blockOfLine line)).home with
    | .carafe i _ _ => errAt (bump s (cSlice i 0) 1) (cSlice i 6) line err
    | .ls c _ => errAt s (cCore c 38) line err
    | .stack p =>
      let sl := cacheSlice s p line
      match (setOf s sl line).find? (fun e => e.line == line) with
      | some e => errAt (hitLine s sl line e kind) (cSlice sl 6) line err
      | none =>
        match bankOf s line with
        | some b => missToStack s who sl line kind b
        | none => s
    | _ => s

/-- While its slice rests an access is held, which wakes the device (R721, R728). -/
def execCarafeAccess (who : Requester) (line : Nat) (kind : AccKind) (err : ErrClass) (s : State) : Host.Outcome State Fault Refusal :=
  .next (if sliceRests s line then wakeUp s else carafeAccess s who line kind err)

/-! ### Bank grants (R297, R298) -/

/-- What a core's request is to its slice (R309, R310). -/
def accKind (r : Req) : AccKind :=
  match r.kind with
  | .pf => .runAhead
  | .store _ => .write
  | .atomic _ => .atomic
  | _ => if r.ra then .runAhead else .read

/-- The granted request passes its slice: a line that the slice has come to hold gives the place back, else the bank accepts it (R297, R308)
(log 28). -/
def acceptGrant (s : State) (b : Nat) (r : Req) : State :=
  let line := lineOf r.addr
  match (dirOf s (blockOfLine line)).home with
  | .stack p =>
    let sl := cacheSlice s p line
    match (setOf s sl line).find? (fun e => e.line == line) with
    | some e => pumpGrants (hitLine s sl line e (accKind r)) b 64
    | none => missFill (acceptCore s b) sl line (accKind r) b
  | _ => pumpGrants s b 64

/-- BANK_GRANT (R297, R298): the head of the core's list goes out with the grant; a grant to an empty list is returned and passed on;
one that reaches a core without a free slot is held. -/
def bankGrant (s : State) (c b : Nat) : State :=
  let k := bankAt s b
  if k.granted.contains (.core c) then
    let s1 := setBank s b { k with granted := k.granted.erase (.core c) }
    match (coreOf s c).reqs.find? (fun r => r.phase == .bankWait b) with
    | none => pumpGrants s1 b 64
    | some r =>
      if slotsFree (coreOf s c) 1 then
        let r := { r with phase := .flight, placed := true }
        storePump (sendReady (goOut (acceptGrant s1 b r) c r) c) c
      else s
  else s

def execBankGrant (c bank : Nat) (s : State) : Host.Outcome State Fault Refusal := .next (bankGrant s c bank)

/-! ### Atomics (R314 to R318) -/

/-- The arithmetic of one lane of type TY (Table 07.7): format, and the operation. -/
def amoCode (ty : BitVec 2) : Nat := if ty = 0 then 0 else if ty = 1 then 2 else 9
def amoLane (aop : Nat) (ty : BitVec 2) (old x : Nat) : Nat × Ev :=
  let code := amoCode ty
  if code = 9 then
    if aop = 0 ∨ aop = 6 then ((old + x) % 2 ^ 32, {})
    else
      let less := decide (sgnOf 32 old < sgnOf 32 x)
      ((if less == (aop == 1) then x else old), {})
  else
    let a := decodeNum code old
    let b := decodeNum code x
    if aop = 0 ∨ aop = 6 then
      let r := nadd a b
      let y := roundNum code none r.1
      (y.1, { y.2 with invalid := if r.2 then 1 else 0 })
    else ((roundNum code none (nminmax (aop == 1) a b)).1, {})

/-- VRED64: an ADD in each lane of a line; lanes with a clear mask bit are unchanged (R401). -/
def vred (ty : BitVec 2) (mask : BitVec 32) (old data : Line) : Line × Ev :=
  let w := if ty = 1 then 16 else 32
  let n := 512 / w
  let a := unpackBits w n old.toNat
  let b := unpackBits w n data.toNat
  let l := (List.range n).map (fun i => if mask.getLsbD i then amoLane 6 ty (a.getD i 0) (b.getD i 0) else (a.getD i 0, {}))
  (BitVec.ofNat 512 (packBits w (l.map (·.1))), l.foldl (fun e x => evAdd e x.2) {})

/-- New value of the bytes an atomic acts on; `n` is their count. -/
def amoNew (i : AmoInfo) (n old x : Nat) : Nat × Ev :=
  let aop := i.aop.toNat
  if aop = 3 then (old &&& x % 2 ^ (8 * n), {})
  else if aop = 4 then (old ||| x % 2 ^ (8 * n), {})
  else if aop = 5 then (if old = x % 2 ^ 64 then x / 2 ^ 64 % 2 ^ 64 else old, {})
  else if aop = 6 then
    let r := vred i.ty (BitVec.allOnes 32) (BitVec.ofNat 512 old) (BitVec.ofNat 512 x)
    (r.1.toNat, r.2)
  else amoLane aop i.ty old (x % 2 ^ (8 * n))

/-- The slice counts an atomic, holds its line, and notes poison (R309, R315, R317). -/
def atomCount (s : State) (sl line : Nat) : State :=
  let s1 := bump s (cSlice sl 4) 1
  let s2 := bumpIf (poisoned s line) s1 (cSlice sl 5) 1
  match (dirOf s (blockOfLine line)).home with
  | .stack _ =>
    if inCopy s (blockOfLine line) then s2
    else match (setOf s2 sl line).find? (fun e => e.line == line) with
      | some _ => putSet s2 sl line (⟨line, true⟩ :: (setOf s2 sl line).filter (fun q => q.line != line))
      | none => allocate s2 sl line true
  | _ => s2

/-- An atomic of a core is applied: the line changes, the old value returns under RET, and the acknowledgement is on its way. -/
def atomDo (s : State) (c : Nat) (r : Req) (e : Sq) (i : AmoInfo) (d : Line) (sl : Nat) : State :=
  let old := readBytes s e.addr e.bytes
  let w := amoNew i e.bytes old d.toNat
  let p := poisoned s (lineOf e.addr)
  let s1 := atomCount s sl (lineOf e.addr)
  let s2 := if p || e.poison then (if e.poison then poisonLine s1 (lineOf e.addr) else s1) else writeBytes s1 e.addr e.bytes w.1
  let s3 := bumpEv s2 (cCore c 0) w.2
  pumpPosted c (updCore s3 c (fun k =>
    let k1 := dropSq (updReq k r.id (fun q => { q with phase := .performed })) e.id
    match i.ret with
    | some q => updLq k1 q (fun x => { x with st := .data, data := BitVec.ofNat 512 old, poison := p })
    | none => k1))

/-- ATOMIC_PERFORM (R314 to R317, R357, R358). -/
def atomicPerform (s : State) : AtomSrc → State
  | .core c id =>
    match reqOf (coreOf s c) id with
    | none => s
    | some r =>
      match r.kind with
      | .atomic q =>
        match sqOf (coreOf s c) q with
        | some e =>
          match e.amo, e.data, atomSlice s (lineOf e.addr) with
          | some i, some d, some sl =>
            if !answerable s c r then snoopFor s r
            else if inCopy s (blockOf e.addr) then
              let s1 := { s with m := { s.m with moves := s.m.moves.map (fun v =>
                if v.block == blockOf e.addr then { v with held := v.held ++ [⟨c, id⟩] } else v) } }
              updCore s1 c (fun k => updReq k id (fun q => { q with phase := .heldAt }))
            else atomDo s c r e i d sl
          | _, _, _ => s
        | none => s
      | _ => s
  | .mover line ty mask data =>
    match atomSlice s line with
    | some sl =>
      if hostHolds s line then sendBisnp s line
      else if inCopy s (blockOfLine line) then s
      else
        let w := vred ty mask (readLine s line) data
        let s1 := atomCount s sl line
        let s2 := if poisoned s line then s1 else writeLine s1 line w.1
        bumpIf (w.2.invalid != 0) (bumpIf (w.2.ovf != 0) s2 (cSlice sl 11) w.2.ovf) (cSlice sl 12) w.2.invalid
    | none => s

/-- The line of an atomic. -/
def atomLine (s : State) : AtomSrc → Option Nat
  | .core c id => (reqOf (coreOf s c) id).map (fun r => lineOf r.addr)
  | .mover line _ _ _ => some line

/-- A performed atomic lets the core's next store to its line go (R108); while its slice rests it is held, which wakes the device (R721, R728). -/
def execAtomicPerform (src : AtomSrc) (s : State) : Host.Outcome State Fault Refusal :=
  .next (if ((atomLine s src).map (sliceRests s)).getD false then wakeUp s else match src with
    | .core c _ => storePump (atomicPerform s src) c
    | _ => atomicPerform s src)

/-! ### The narrow path (R319 to R322) -/

/-- A write of fewer than 64 bytes coalesces in the merge buffer of 256 lines; the oldest leaves a full buffer for the channel's queue (R291, R321)
(log 29). -/
def mergeIn (s : State) (stack line : Nat) : State :=
  let l := line :: (tget noMerge s.m.mergeBuf stack).filter (fun x => x != line)
  (l.drop 256).foldl (fun t x => queueLine t x true) { s with m := { s.m with mergeBuf := tset noMerge s.m.mergeBuf stack (l.take 256) } }

/-- The narrow path of a stack touches a line: it is recalled, the access is counted, a small write merges, and any other access waits at the
channel (R291, R311, R321, R322). -/
def narrowTouch (s : State) (stack line : Nat) (write small : Bool) : State :=
  let s1 := bump (recallLine s stack line) (cStack stack 4) 1
  if small then mergeIn s1 stack line else queueLine s1 line write

/-- NARROW_ACCESS (R319, R321, R322): a write to a block in COPY is held (R357). -/
def narrowAccess (s : State) (stack addr size : Nat) (data : Option (BitVec 512)) : State :=
  if !(size == 8 || size == 16 || size == 32 || size == 64) || addr % size != 0 || (dirOf s (blockOf addr)).home != .stack stack then s
  else if hostHolds s (lineOf addr) then sendBisnp s (lineOf addr)
  else match data with
    | none => narrowTouch s stack (lineOf addr) false false
    | some d => if inCopy s (blockOf addr) then s else writeBytes (narrowTouch s stack (lineOf addr) true (size != 64)) addr size d.toNat

/-- The base die of a stack is in self-refresh, or has answered ACK to an entry to C3 (Table 17.1, Table 17.2). -/
def baseRests (s : State) (stack : Nat) : Bool := s.pw.st == 3 || (s.pw.st == 5 && s.pw.prev == 3) || blockHeld s (4096 * 6 + stack)

/-- While its base die rests a narrow access is held, which wakes the device (R721, R728). -/
def execNarrowAccess (stack addr size : Nat) (data : Option (BitVec 512)) (s : State) : Host.Outcome State Fault Refusal :=
  .next (if baseRests s stack then wakeUp s else narrowAccess s stack addr size data)

end Sys2Proof.Machine
end

