-- ==== Sys2Proof/Machine/Easel.lean ====
section
/-!
DEFINITION. The Easel (08): where homes lie, PLACE and PIN, moves with their tombstones, the planner, and the draining of channels.
-/
namespace Sys2Proof.Machine

/-! ### Places in use and free places (R348) -/

/-- Places that home a block, receive one, or are kept by a tombstone, each once. -/
def usedPlaces (s : State) : List Place :=
  ((s.m.dir.filter (fun e => e.2.home != .unmapped)).map (fun e => placeOf s e.1) ++
   (s.m.moves.flatMap (fun v => [v.src, v.dst])).filter (fun p => p.home != .unmapped)).eraseDups

/-- Unmapped blocks that running commands hold places for (R773) (log 31). -/
def keptBlocks (s : State) : List Nat := ((s.m.keeps.flatMap (·.blocks)).filter (fun b => !mapped s b)).eraseDups
def keepRoom (s : State) (ring slot : Nat) (l : List Nat) : State :=
  let b := l.filter (fun x => !mapped s x)
  if b.isEmpty then s else { s with m := { s.m with keeps := s.m.keeps ++ [⟨ring, slot, b⟩] } }

def tierOf : Home → Option Nat
  | .unmapped => none
  | .ls _ _ => some 0
  | .carafe _ _ _ => some 1
  | .stack _ => some 2

def presentCores (s : State) : List Nat := (List.range s.fit.grade).filter (present s)
def fitted (s : State) (p : Nat) : Bool := decide (p < s.fit.nStacks)
def inServiceChans (s : State) (p : Nat) : List Nat := if fitted s p then (List.range 32).filter (fun c => (chanOf s p c).st == .inService) else []

/-- The lowest block index from `q` on that is not in use. -/
def lowestFrom (used : List Nat) : Nat → Nat → Nat
  | 0, q => q
  | n + 1, q => if used.contains q then lowestFrom used n (q + 1) else q

def usedIn (s : State) (p ch : Nat) : List Nat := ((usedPlaces s).filter (fun x => x.home == .stack p && x.ch == ch)).map (·.q)

/-- A free place in a channel (36,800 block indices, R288). -/
def tryChan (s : State) (p ch : Nat) : Option Place :=
  let u := usedIn s p ch
  let q := lowestFrom u u.length 0
  if q < 36800 then some ⟨.stack p, ch, q⟩ else none

def rotate (l : List Nat) (k : Nat) : List Nat := if l.length = 0 then [] else l.drop (k % l.length) ++ l.take (k % l.length)

/-- A free place in a stack position reached through a list of `n` entries (R348). -/
def tryStack (s : State) (b n p : Nat) : Option Place := (rotate (inServiceChans s p) (b / n)).findSome? (tryChan s p)

def trySlice (s : State) (i : Nat) : Option Place :=
  ((List.range (2 * s.m.homeWays)).find? (fun k => !(usedPlaces s).contains ⟨.carafe i (k / 2) (k % 2), 0, 0⟩)).map
    (fun k => ⟨.carafe i (k / 2) (k % 2), 0, 0⟩)

def tryLs (s : State) (c : Nat) : Option Place :=
  ((List.range 12).find? (fun k => !(usedPlaces s).contains ⟨.ls c k, 0, 0⟩)).map (fun k => ⟨.ls c k, 0, 0⟩)

def tryEntry (s : State) (tier b n x : Nat) : Option Place :=
  if tier = 0 then tryLs s x else if tier = 1 then trySlice s x else tryStack s b n x

/-- Stack positions, slices and cores in the SPREAD order (Table 08.3). -/
def spreadList (s : State) (tier : Nat) : List Nat :=
  if tier = 0 then presentCores s else if tier = 1 then List.range 48 else [0, 4, 2, 6, 1, 5, 3, 7].filter (fitted s)

def quadStacks (q : Nat) : List Nat := if q = 0 then [2, 3] else if q = 1 then [0, 1] else if q = 2 then [6, 7] else [4, 5]
def quadSlices (q : Nat) : List Nat := (List.range 12).map (fun i => (if q = 0 then 12 else if q = 1 then 0 else if q = 2 then 36 else 24) + i)

/-- Homes of a quadrant in a tier (Table 08.4, R349). -/
def quadList (s : State) (tier q : Nat) : List Nat :=
  if tier = 0 then (presentCores s).filter (fun c => coreQuad s c == q)
  else if tier = 1 then quadSlices q
  else
    let l := (quadStacks q).filter (fitted s)
    if l.isEmpty then (quadStacks ((q + 2) % 4)).filter (fitted s) else l

def affList (s : State) (tier : Nat) : Affinity → List Nat
  | .spread => spreadList s tier
  | .quadrant q => quadList s tier q
  | .cores f n => if tier = 0 then ((List.range n).map (fun i => f + i)).filter (present s) else quadList s tier (coreQuad s f)

def tryList (s : State) (tier b : Nat) (l : List Nat) : Option Place := (rotate l b).findSome? (tryEntry s tier b l.length)

/-- The home of block `b` in a tier (R348). -/
def chooseIn (s : State) (tier b : Nat) (a : Affinity) : Option Place :=
  match tryList s tier b (affList s tier a) with
  | some p => some p
  | none => tryList s tier b (spreadList s tier)

/-- Free places of a tier that no command holds (R348, R334, R773) (log 31). -/
def tierRoom (s : State) (tier : Nat) : Nat :=
  if tier = 2 then
    let live := (List.range 8).flatMap (fun p => (inServiceChans s p).map (fun c => (p, c)))
    36800 * live.length - ((usedPlaces s).filter (fun x => match x.home with
      | .stack p => live.contains (p, x.ch)
      | _ => false)).length - (keptBlocks s).length
  else
    let cap := if tier = 0 then 12 * (presentCores s).length else 96 * s.m.homeWays
    cap - ((usedPlaces s).filter (fun x => tierOf x.home == some tier)).length

/-- A move may take the place: those that commands hold stay free (R773) (log 31). -/
def mayTake (s : State) (d : Place) : Bool :=
  match d.home with
  | .stack _ => tierRoom s 2 != 0
  | _ => true

/-- The first allowed tier with room for `n` blocks. -/
def chooseTier (s : State) (tiers : BitVec 3) (n : Nat) : Option Nat :=
  [0, 1, 2].find? (fun t => tiers.getLsbD t && decide (n ≤ tierRoom s t))

/-! ### Mapping (R347, R352, R773) -/

/-- The bytes of a block read 0 and none is poisoned. -/
def zeroBlock (s : State) (b : Nat) : State :=
  { s with m := { s.m with mem := tclear s.m.mem (fun a => a / 65536 == b), poison := tclear s.m.poison (fun l => l / 1024 == b) } }

/-- Maps an unmapped block at a place, zero-filled, with its attributes. -/
def mapAt (s : State) (b : Nat) (p : Place) (e : DirEntry) : State := encodeGranules (setPlace (setDir (zeroBlock s b) b e) b p) b

/-- R352: an unmapped block that the mover or the window first writes; none when no stack block is free (R773) (log 31, log 32). -/
def autoMap (s : State) (b : Nat) : Option State :=
  if mapped s b then some s
  else if !(keptBlocks s).contains b && tierRoom s 2 == 0 then none
  else (chooseIn s 2 b .spread).map (fun p => mapAt s b p { ({} : DirEntry) with tiers := 4 })

/-- The unmapped blocks among `l`, each once. -/
def unmappedOf (s : State) (l : List Nat) : List Nat := (l.filter (fun b => !mapped s b)).eraseDups

/-! ### PLACE and PIN (R347 to R354, R441) -/

def dBase (d : Line) : Nat := bytesAt d 8 8
def dLen (d : Line) : Nat := bytesAt d 16 8
def rangeBad (d : Line) : Bool :=
  dBase d % 65536 != 0 || dLen d % 65536 != 0 || !inRange40 (dBase d) (dLen d)
def rangeBlocks (d : Line) : List Nat := (List.range (dLen d / 65536)).map (fun i => dBase d / 65536 + i)

/-- PLACE fields (Table 14.6). -/
def plOp (d : Line) : Nat := fld d 24 0 2
def plTiers (d : Line) : BitVec 3 := BitVec.ofNat 3 (fld d 24 2 3)
def plAff (d : Line) : Affinity :=
  if fld d 25 0 2 = 1 then .quadrant (fld d 25 2 2) else if fld d 25 0 2 = 2 then .cores (bytesAt d 26 2) (bytesAt d 28 2) else .spread
def plFields : List (Nat × Nat × Nat) := [(8, 0, 64), (16, 0, 64), (24, 0, 8), (25, 0, 4), (26, 0, 16), (28, 0, 16)]

/-- CORES names a core that is absent (R350). -/
def affAbsent (s : State) : Affinity → Bool
  | .cores f n => !present s f || (List.range n).any (fun i => !present s (f + i))
  | _ => false

/-- The block's home lies in an allowed tier. -/
def homeAllowed (tiers : BitVec 3) (e : DirEntry) : Bool :=
  match tierOf e.home with
  | some t => tiers.getLsbD t
  | none => false

/-- A block whose home must change for a TIERS mask; a block of a Fixer group keeps its home (R441). -/
def mustMove (s : State) (tiers : BitVec 3) (b : Nat) : Bool :=
  let e := dirOf s b
  mapped s b && !e.fixer && !homeAllowed tiers e

def waitFor1 (s : State) (w : WaitMove) : State := { s with m := { s.m with waitMoves := s.m.waitMoves ++ [w] } }

/-- A block's attributes change. Where that changes how a stack stores it, the Grinder recalls its lines, reads its granules as they are stored,
and stores them anew (R311, R323, R353) (log 26). -/
def recode (s : State) (b : Nat) (e : DirEntry) : State :=
  let old := dirOf s b
  match old.home with
  | .stack p =>
    if old.cmp = e.cmp ∧ (e.cmp = false ∨ old.w4 = e.w4) then setDir s b e
    else encodeGranules (setDir (passGranules (recallBlock s p b) b) b e) b
  | _ => setDir s b e

/-- A mapped block takes the attributes of a PLACE (R351, R441). -/
def setAttrs (s : State) (ring slot : Nat) (d : Line) (tier : Option Nat) (b : Nat) : State :=
  let e := dirOf s b
  let na := fld d 24 5 1 == 1
  if e.fixer then setDir s b { e with na := na }
  else
    let s1 := recode s b { e with tiers := plTiers d, aff := plAff d, na := na, cmp := fld d 24 6 1 == 1, w4 := fld d 24 7 1 == 1 }
    if mustMove s (plTiers d) b then waitFor1 s1 ⟨b, .cmd ring slot, false, tier, none, none⟩ else s1

/-- One block of PLACE MAP. -/
def mapBlock (s : State) (ring slot : Nat) (d : Line) (tier : Option Nat) (b : Nat) : State :=
  if mapped s b then setAttrs s ring slot d tier b
  else match tier with
    | some t =>
      match chooseIn s t b (plAff d) with
      | some p => mapAt s b p { ({} : DirEntry) with tiers := plTiers d, aff := plAff d, na := fld d 24 5 1 == 1, cmp := fld d 24 6 1 == 1, w4 := fld d 24 7 1 == 1 }
      | none => s
    | none => s

/-- Moves of a command that it still waits for: a PLACE or PIN until they commit, an UNMAP until its tombstones are gone (R351, R362). -/
def movesLeft (s : State) (ring slot : Nat) : Bool :=
  s.m.waitMoves.any (fun w => w.cause == .cmd ring slot) ||
  s.m.moves.any (fun v => v.cause == .cmd ring slot && (v.copy || v.dst.home == .unmapped))

/-- The command completes when none of its moves is left. -/
def settleMoves (s : State) (ring slot : Nat) : State :=
  if movesLeft s ring slot then setPhase s ring slot (.busy 2) else finishCmd s ring slot .ok 0

def settleCause (s : State) : MoveCause → State
  | .cmd r i => match cmdOf s r i with
    | some m => if m.phase = .busy 2 then settleMoves s r i else s
    | none => s
  | _ => s

/-- A block of the range is in COPY, so the command takes effect later (Table 08.6). -/
def rangeMoving (s : State) (d : Line) : Bool :=
  s.m.moves.any (fun v => v.copy && (dBase d / 65536 ≤ v.block && v.block < (dBase d + dLen d) / 65536))
/-- An extent of a running mover command meets the range, so the command takes effect later (R419). -/
def rangeInUse (s : State) (d : Line) : Bool :=
  s.m.jobs.any (fun j => j.exts.any (fun e => decide (dBase d ≤ e.2) && decide (e.1 < dBase d + dLen d)))

/-- A command waits under R419; its waiting is counted by the cycle (R424). -/
def lockWait (s : State) (ring slot : Nat) : State :=
  if s.m.interlocks.contains (ring, slot) then s else { s with m := { s.m with interlocks := s.m.interlocks ++ [(ring, slot)] } }
def lockEnd (s : State) (ring slot : Nat) : State := { s with m := { s.m with interlocks := s.m.interlocks.filter (fun x => x != (ring, slot)) } }

/-- A PLACE, PIN or UNMAP takes effect, or waits for a COMMIT or a mover command. -/
def whenFree (s : State) (ring slot : Nat) (d : Line) (f : State → State) : State :=
  if rangeInUse s d then lockWait s ring slot else if rangeMoving s d then lockEnd s ring slot else f (lockEnd s ring slot)

def fixerIn (s : State) (d : Line) : Bool := s.m.dir.any (fun e => e.2.fixer && (dBase d / 65536 ≤ e.1 && e.1 < (dBase d + dLen d) / 65536))

/-- The checks of MAP and ATTR but for room (R350, R441). -/
def placeChecks (s : State) (d : Line) : List (Bool × Status) :=
  [(!bodyOk d plFields || plOp d == 3 || plTiers d == 0 || fld d 25 0 2 == 3, .format),
   (affAbsent s (plAff d), .absent),
   (rangeBad d || (fixerIn s d && !(plTiers d).getLsbD 2), .range)]

/-- PLACE OP 0 and OP 1. `newToo` maps unmapped blocks. -/
def placeRun (s : State) (ring slot : Nat) (d : Line) (newToo : Bool) : State :=
  whenFree s ring slot d (fun s =>
    let l := rangeBlocks d
    let need := l.filter (fun b => (newToo && !mapped s b) || mustMove s (plTiers d) b)
    let tier := chooseTier s (plTiers d) need.length
    if !need.isEmpty && tier.isNone then finishCmd s ring slot .range 0
    else settleMoves (l.foldl (fun t b =>
      if newToo then mapBlock t ring slot d tier b else if mapped t b then setAttrs t ring slot d tier b else t) s) ring slot)

/-- PLACE_MAP (R347, R350, R351); the reserved OP 3 is rejected here. -/
def execPlaceMap (ring slot : Nat) (s : State) : Host.Outcome State Fault Refusal :=
  .next (withCmd s ring slot 0x30 (fun d =>
    if plOp d = 1 ∨ plOp d = 2 then s else checked s ring slot (placeChecks s d) (placeRun s ring slot d true)))

/-- PLACE_ATTR (R347, R351). -/
def execPlaceAttr (ring slot : Nat) (s : State) : Host.Outcome State Fault Refusal :=
  .next (withCmd s ring slot 0x30 (fun d =>
    if plOp d = 1 then checked s ring slot (placeChecks s d) (placeRun s ring slot d false) else s))

/-- PLACE_UNMAP (R350, R362, R441). The attribute fields are not used and not checked (R633) (log 33). -/
def execPlaceUnmap (ring slot : Nat) (s : State) : Host.Outcome State Fault Refusal :=
  .next (withCmd s ring slot 0x30 (fun d =>
    if plOp d = 2 then
      checked s ring slot [(!bodyOk d plFields, .format), (rangeBad d || fixerIn s d, .range)]
        (whenFree s ring slot d (fun s =>
          settleMoves (((rangeBlocks d).filter (mapped s)).foldl (fun t b => waitFor1 t ⟨b, .cmd ring slot, true, none, none, none⟩) s) ring slot))
    else s))

def pinTiers (d : Line) : BitVec 3 := BitVec.ofNat 3 (fld d 24 1 3)
def pinFields : List (Nat × Nat × Nat) := [(8, 0, 64), (16, 0, 64), (24, 0, 4)]

/-- One mapped block of PIN with PIN 1. -/
def pinBlock (s : State) (ring slot : Nat) (tiers : BitVec 3) (tier : Option Nat) (b : Nat) : State :=
  let e := dirOf s b
  if e.fixer then setDir s b { e with pin := true }
  else
    let s1 := setDir s b { e with pin := true, tiers := tiers }
    if mustMove s tiers b then waitFor1 s1 ⟨b, .cmd ring slot, false, tier, none, none⟩ else s1

/-- PIN with PIN 1 takes effect. -/
def pinRun (s : State) (ring slot : Nat) (d : Line) : State :=
  whenFree s ring slot d (fun s =>
    let l := (rangeBlocks d).filter (mapped s)
    let need := l.filter (mustMove s (pinTiers d))
    let tier := chooseTier s (pinTiers d) need.length
    if !need.isEmpty && tier.isNone then finishCmd s ring slot .range 0
    else settleMoves (l.foldl (fun t b => pinBlock t ring slot (pinTiers d) tier b) s) ring slot)

/-- PIN_SET (R354, R441). -/
def execPinSet (ring slot : Nat) (s : State) : Host.Outcome State Fault Refusal :=
  .next (withCmd s ring slot 0x31 (fun d =>
    if fld d 24 0 1 = 1 then
      checked s ring slot [(!bodyOk d pinFields || pinTiers d == 0, .format), (rangeBad d || (fixerIn s d && !(pinTiers d).getLsbD 2), .range)]
        (pinRun s ring slot d)
    else s))

/-- PIN_CLEAR (R354). -/
def execPinClear (ring slot : Nat) (s : State) : Host.Outcome State Fault Refusal :=
  .next (withCmd s ring slot 0x31 (fun d =>
    if fld d 24 0 1 = 0 then
      checked s ring slot [(!bodyOk d pinFields, .format), (rangeBad d, .range)]
        (whenFree s ring slot d (fun s =>
          finishCmd (((rangeBlocks d).filter (mapped s)).foldl (fun t b => setDir t b { dirOf t b with pin := false }) s) ring slot .ok 0))
    else s))

/-! ### Moves (R356 to R363) -/

/-- The stack position a home lies at (R363). -/
def homePos : Home → Option Nat
  | .carafe i _ _ => some (i / 6)
  | .stack p => some p
  | _ => none

def movesAt (s : State) (p : Nat) : Nat := (s.m.moves.filter (fun v => homePos v.src.home == some p || homePos v.dst.home == some p)).length
def posRoom (s : State) (h : Home) : Bool :=
  match homePos h with
  | some p => decide (movesAt s p < 4)
  | none => true

/-- Both limits allow a move (R363), and the block has no tombstone and no move (R356). -/
def mayMove (s : State) (b : Nat) (src dst : Home) : Bool :=
  decide (s.m.moves.length < 64) && (moveOf s b).isNone && posRoom s src && posRoom s dst

/-- The new home of a waiting move (R348, R362, R364): in the tier that its command chose, as long as the block's attributes still allow it
(R351, R354). -/
def moveDst (s : State) (w : WaitMove) : Option Place :=
  let e := dirOf s w.block
  if w.unmap then some ⟨.unmapped, 0, 0⟩
  else match w.stack with
  | some p => tryStack s w.block (max 1 s.fit.nStacks) p
  | none => match w.quad with
    | some q => (tierOf e.home).bind (fun t => if e.tiers.getLsbD t then tryList s t w.block (quadList s t q) else none)
    | none =>
      let t := match w.tier with
        | some t => if e.tiers.getLsbD t && decide (0 < tierRoom s t) then some t else chooseTier s e.tiers 1
        | none => chooseTier s e.tiers 1
      t.bind (fun t => chooseIn s t w.block e.aff)

/-- Stack positions a drained block may go to, in order (R372, R442). -/
def drainOrder (s : State) (p : Nat) (fixer : Bool) : List Nat :=
  let all := [p, partner p] ++ (List.range 8).filter (fun x => x != p && x / 4 == p / 4) ++ (List.range 8).filter (fun x => x != partner p && x / 4 != p / 4)
  (if fixer then [p] else all).filter (fitted s)

/-- Channels of a stack whose reserves hold its directory entries and its home table, in ascending order: those in service, and a draining
one until its shares have moved (R337, R338). -/
def shareChans (s : State) (p : Nat) : List Nat :=
  if fitted s p then (List.range 32).filter (fun c =>
    (chanOf s p c).st == .inService || ((chanOf s p c).st == .draining && !(chanOf s p c).shareOut)) else []

/-- The channel whose reserve holds the directory entry of a block (R337) (log 14). -/
def shareChan (s : State) (b : Nat) : Nat :=
  let l := shareChans s (dirStack s b)
  l.getD (b / s.fit.nStacks % l.length) 0

/-- A draining channel still holds its shares: no block leaves it before they have moved (R338). -/
def shareHeld (s : State) (p ch : Nat) : Bool := (chanOf s p ch).st == .draining && !(chanOf s p ch).shareOut
/-- The shares of a channel go to the channels in service; the agent has answered throughout (R338). -/
def moveShares (s : State) (p ch : Nat) : State := setChan s p ch { chanOf s p ch with shareOut := true }

/-- The next block of a draining channel and its new home (R372, R303) (log 33). -/
def drainNext (s : State) (p ch : Nat) : Option (Nat × Place) :=
  let l := (s.m.dir.filter (fun e => e.2.home == .stack p && (homeAt s e.1).1 == ch && (moveOf s e.1).isNone)).map (fun e => e.1)
  let b := l.foldl (fun (m : Option Nat) b => match m with
    | none => some b
    | some c => if (homeAt s b).2 < (homeAt s c).2 then some b else some c) none
  b.bind (fun b => ((drainOrder s p (dirOf s b).fixer).findSome? (tryStack s b 1)).map (fun d => (b, d)))

def drainingChans (s : State) : List (Nat × Nat) :=
  (List.range 8).flatMap (fun p => ((List.range 32).filter (fun c => fitted s p && (chanOf s p c).st == .draining)).map (fun c => (p, c)))

/-- Requesters that hold a translation of a block, by its ROWS and MOV bits. -/
def holders (s : State) (e : DirEntry) : List Requester :=
  ((presentCores s).filter (fun c => e.rows.getLsbD (coreRow s c))).map Requester.core ++ if e.mov then [.mover] else []

/-- A tombstone with no acknowledgement outstanding is removed; its place is free (R356). -/
def removeTomb (s : State) (b : Nat) : State :=
  match moveOf s b with
  | some v =>
    if !v.copy && v.invals.isEmpty && v.acks.isEmpty then
      settleCause { s with m := { s.m with moves := s.m.moves.filter (fun x => x.block != b) } } v.cause
    else s
  | none => s

/-- Lines of a block that the host holds are called back before it moves (R619). -/
def callBack (s : State) (b : Nat) : State := (s.m.snoop.filter (fun l => blockOfLine l == b)).foldl sendBisnp s
def hostHasBlock (s : State) (b : Nat) : Bool := s.m.snoop.any (fun l => blockOfLine l == b)

/-- COPY begins (R356). -/
def startCopy (s : State) (b : Nat) (dst : Place) (cause : MoveCause) : State :=
  let src := placeOf s b
  let s1 := setDir s b { dirOf s b with mig := true, target := dst.home }
  let s2 := match src.home with
    | .stack p => recallBlock s1 p b
    | _ => s1
  let s3 := { s2 with m := { s2.m with moves := s2.m.moves ++ [⟨b, src, dst, cause, true, [], [], []⟩] } }
  bumpIf (cause == .planner) s3 1 1

/-- What a core has sent or will send through a translation that an UNMAP leaves behind meets the tombstone: the translation names no home from
then on, whatever the block is mapped to later (R358, R362). -/
def emptyHome (b : Nat) (k : Core) : Core :=
  { k with
    tc := k.tc.map (fun e => if e.block == b then { e with home := .unmapped } else e)
    reqs := k.reqs.map (fun r => if blockOf r.addr == b && r.phase != .translating && r.phase != .faulted then { r with home := .unmapped } else r) }

/-- An UNMAP starts and commits at once (R362). -/
def startUnmap (s : State) (b : Nat) (cause : MoveCause) : State :=
  let src := placeOf s b
  let h := holders s (dirOf s b)
  let s0 := (presentCores s).foldl (fun t c => updCore t c (emptyHome b)) s
  let s1 := zeroBlock (setPlace (setDir (dropBlock s0 b) b {}) b ⟨.unmapped, 0, 0⟩) b
  let s2 := bump { s1 with m := { s1.m with moves := s1.m.moves ++ [⟨b, src, ⟨.unmapped, 0, 0⟩, cause, false, [], h, []⟩] } } 0 1
  removeTomb s2 b

/-- A block at a place may not leave it yet: its draining channel holds its shares (R338). -/
def stays (s : State) (b : Nat) : Bool :=
  match (dirOf s b).home with
  | .stack p => shareHeld s p (homeAt s b).1
  | _ => false

/-- A waiting move that may start. -/
def startable (s : State) (w : WaitMove) : Option Place :=
  (moveDst s w).bind (fun d =>
    if mapped s w.block && !stays s w.block && mayTake s d && mayMove s w.block (dirOf s w.block).home d.home then some d else none)

/-- A waiting move that is dropped: its block has been unmapped, or has come into a Fixer group, or lies in a tier that its attributes allow by
now (R351, R354), or the planner may move it no more, the home gone or the block pinned (R355, R364, R441) (log 33). -/
def deadMove (s : State) (w : WaitMove) : Bool :=
  !mapped s w.block || ((dirOf s w.block).fixer && !w.unmap && w.stack.isNone) ||
  (!w.unmap && w.stack.isNone && w.quad.isNone && homeAllowed (dirOf s w.block).tiers (dirOf s w.block)) ||
  (w.quad.isSome && ((moveDst s w).isNone || (dirOf s w.block).pin))

/-- The block that a draining channel sends next, if a move of it may start (R302, R303, R363, R372). -/
def drainStart (s : State) (x : Nat × Nat) : Option (Nat × Place) :=
  (drainNext s x.1 x.2).bind (fun r => if mayTake s r.2 && mayMove s r.1 (.stack x.1) r.2.home then some r else none)

/-- MIGRATION_START (R363): the shares of a draining channel move first (R338); then the oldest waiting move that may start, else the next
block of a draining channel. -/
def migrationStart (s : State) : State :=
  match (drainingChans s).find? (fun x => shareHeld s x.1 x.2) with
  | some x => moveShares s x.1 x.2
  | none =>
    match s.m.waitMoves.find? (fun w => deadMove s w || (startable s w).isSome) with
    | some w =>
      let s1 := { s with m := { s.m with waitMoves := s.m.waitMoves.erase w } }
      if deadMove s w then settleCause s1 w.cause
      else match startable s w with
        | some d =>
          if hostHasBlock s w.block then callBack s w.block
          else if w.unmap then startUnmap s1 w.block w.cause else startCopy s1 w.block d w.cause
        | none => s
    | none =>
      match (drainingChans s).findSome? (drainStart s) with
      | some r => if hostHasBlock s r.1 then callBack s r.1 else startCopy s r.1 r.2 .drain
      | none => s

/-- The Easel starts no work in an idle state, nor once it has answered ACK to an entry (R721, Table 17.1). -/
def easelIdle (s : State) : Bool := asleep s || blockHeld s 8192

def execMigrationStart (s : State) : Host.Outcome State Fault Refusal := .next (if easelIdle s then s else migrationStart s)

/-- The requests of a core that a page fault stopped are made again (R135, R238). -/
def reissueFaulted (s : State) (c b : Nat) : List Req → State
  | [] => s
  | r :: t => reissueFaulted (if r.phase == .faulted && blockOf r.addr == b then rerequest s c r.id else s) c b t

/-- The page faults of a core on a block are resolved; its engines resume once none is left (R135). -/
def resumeOn (b : Nat) (k : Core) : Core :=
  let l := k.faults.filter (fun x => x != b)
  let run (e : Engine) : Engine := if l.isEmpty && e.st == .pageFault then { e with st := .running } else e
  { k with ae := run k.ae, xe := run k.xe, faultBlock := l.head?, faults := l }

/-- The page faults that wait for a block are resolved (R345, R135); each counts at a COMMIT (R376). A core that has answered ACK to an entry
is held (R721) (log 71). -/
def resolveFaults (s : State) (b : Nat) (commit : Bool) : State :=
  ((s.cores.filter (fun e => e.2.faults.contains b && !blockHeld s e.1)).map (fun e => e.1)).foldl (fun t c =>
    let t1 := updCore (bumpIf commit t 3 ((coreOf t c).faults.count b)) c (resumeOn b)
    let t2 := reissueFaulted t1 c b (coreOf t1 c).reqs
    reissueTiles (some b) (storePump t2 c) c (List.range 16)) s

/-- Window requests that were answered migrating ask again (R344). -/
def askAgain (s : State) (b : Nat) : State :=
  if s.m.mtcWait.contains b then askDirectory { s with m := { s.m with mtcWait := s.m.mtcWait.filter (fun x => x != b) } } .mover b false else s

/-- MIGRATION_COMMIT (R356). -/
def migrationCommit (s : State) (b : Nat) : State :=
  match moveOf s b with
  | some v =>
    if !v.copy then s
    else
      let e := dirOf s b
      let h := holders s e
      let s1 := encodeGranules (setPlace (setDir s b { e with mig := false, target := .unmapped, rows := 0, mov := false }) b v.dst) b
      let s2 := bump { s1 with m := { s1.m with moves := s1.m.moves.map (fun x =>
        if x.block == b then { x with copy := false, held := [], invals := h } else x) } } 0 1
      removeTomb (pumpLog (settleCause (askAgain (resolveFaults s2 b true) b) v.cause)) b
  | none => s

def execMigrationCommit (block : Nat) (s : State) : Host.Outcome State Fault Refusal := .next (migrationCommit s block)

/-- A request for the old home that is not answered, or that is still to go there (R359). -/
def pendingTo (s : State) (c b : Nat) (o : Home) : Bool :=
  (coreOf s c).reqs.any (fun r => blockOf r.addr == b && r.home == o && r.phase != .translating && r.phase != .faulted)

/-- INVALIDATION (R359): no translation of the block is left; the acknowledgement follows once nothing sent to the old home is unanswered. -/
def invalidation (s : State) (who : Requester) (b : Nat) : State :=
  match moveOf s b with
  | some v =>
    if v.copy || !v.invals.contains who then s
    else
      let ack (t : State) : State := { t with m := { t.m with moves := t.m.moves.map (fun x =>
        if x.block == b then { x with invals := x.invals.erase who, acks := x.acks ++ [who] } else x) } }
      match who with
      | .core c =>
        let s1 := if (coreOf s c).tc.any (fun e => e.block == b) then
            bump (updCore s c (fun k => { k with tc := k.tc.filter (fun e => e.block != b) })) (cCore c 42) 1 else s
        if pendingTo s c b (if v.dst.home = .unmapped then .unmapped else v.src.home) then s1 else ack s1
      | .mover => ack { s with m := { s.m with mtc := s.m.mtc.filter (fun e => e.block != b) } }
  | none => s

def execInvalidation (who : Requester) (block : Nat) (s : State) : Host.Outcome State Fault Refusal := .next (invalidation s who block)

/-- INVALIDATION_ACK (R356, R363): the last one removes the tombstone. -/
def execInvalidationAck (who : Requester) (block : Nat) (s : State) : Host.Outcome State Fault Refusal :=
  .next (match moveOf s block with
    | some v =>
      if v.acks.contains who then
        removeTomb { s with m := { s.m with moves := s.m.moves.map (fun x =>
          if x.block == block then { x with acks := x.acks.erase who } else x) } } block
      else s
    | none => s)

/-- FORWARD_RECEIVED (R358, R345, R361), in the order the requests were first issued (log 30). The answer of a tombstone that names no home is
unmapped, and no forward (R362, R376). -/
def forwardReceived (s : State) (c id : Nat) : State :=
  match reqOf (coreOf s c) id with
  | none => s
  | some r =>
    let b := blockOf r.addr
    if !forwarded s r || behindForward s c r then s
    else
      let spec := (r.ra && !committed (coreOf s c) r.level) || r.kind == .pf
      let e := dirOf s b
      if r.home == .unmapped || !mapped s b then
        let s2 := updCore s c (fun k => { k with tc := k.tc.filter (fun t => t.block != b || (mapped s b && t.home == e.home)) })
        if spec then dropAccess s2 c r else pageFault s2 c r true
      else
        let s2 := updCore (bump s (cCore c 43) 1) c (fun k => { k with tc := tcInsert 256 k.tc ⟨b, e.home, e.na⟩ })
        let s3 := setDir s2 b { e with rows := putBit e.rows (coreRow s c) true }
        if spec then dropAccess s3 c r else storePump (sendReq s3 c { r with fwd := true } e.home) c

def execForwardReceived (c req : Nat) (s : State) : Host.Outcome State Fault Refusal := .next (forwardReceived s c req)

/-! ### The cache of the mover and the window (R342) -/

/-- An entry of the shared cache as the directory or a tombstone gives it; MOV is set (R343, R358). -/
def replaceMtc (s : State) (b : Nat) : State :=
  let e := dirOf s b
  let s1 := setDir s b { e with mov := true }
  { s1 with m := { s1.m with mtc := tcInsert 1024 s1.m.mtc ⟨b, e.home, e.na⟩ } }

/-- A mover command's use of a mapped block that is not in COPY: a hit, a forward, or a lookup, which ends within the command's step (R342,
R343, R358) (log 34). -/
def moverTranslate (s : State) (b : Nat) : State :=
  if !mapped s b || (dirOf s b).mig then s
  else match tcTouch s.m.mtc b with
    | some (e, l) => if e.home == (dirOf s b).home then { s with m := { s.m with mtc := l } } else replaceMtc s b
    | none => replaceMtc s b

/-! ### The planner (R364) -/

def inQuad (s : State) (h : Home) (q : Nat) : Bool :=
  match h with
  | .ls c _ => coreQuad s c == q
  | .carafe i _ _ => (quadSlices q).contains i
  | .stack p => (quadStacks q).contains p
  | .unmapped => false

/-- The quadrant with the largest count; ties to the lowest number. -/
def leadQuad (e : DirEntry) : Nat := [1, 2, 3].foldl (fun m i => if (e.q.getD m 0).toNat < (e.q.getD i 0).toNat then i else m) 0

def budgetOf (t : Table Nat) (h : Home) : Nat :=
  match homePos h with
  | some p => tget zeroN t p
  | none => 1
def spend (t : Table Nat) (h : Home) : Table Nat :=
  match homePos h with
  | some p => tset zeroN t p (tget zeroN t p - 1)
  | none => t

/-- One block of plan_epoch, with the budgets of the positions. -/
def planBlock (x : State × Table Nat) (b : Nat) : State × Table Nat :=
  let s := x.1
  let e := dirOf s b
  let dom := s.m.epochCfg.toNat / 2 ^ 12 % 16
  let total := e.q.toList.foldl (fun n v => n + v.toNat) 0
  let q := leadQuad e
  if e.home == .unmapped || e.pin || e.fixer || e.mig || decide (total < 4) || decide (16 * (e.q.getD q 0).toNat < max 1 dom * total) || inQuad s e.home q then x
  else
    let w : WaitMove := ⟨b, .planner, false, none, some q, none⟩
    match moveDst s w with
    | some d =>
      if 0 < budgetOf x.2 e.home ∧ 0 < budgetOf x.2 d.home then (waitFor1 s w, spend (spend x.2 e.home) d.home) else x
    | none => x

def halveQ (e : DirEntry) : DirEntry := { e with q := e.q.map (fun (v : BitVec 4) => v >>> 1) }

/-- PLANNER_EPOCH (R364, R373): the epoch that ends is planned with what CFG_EASEL held at its start, and the next one begins (log 33). -/
def plannerEpoch (s : State) : State :=
  let r := s.m.epochCfg
  let budget := r.toNat / 2 ^ 16 % 256
  let s1 := if r.getLsbD 31 then
      ((s.m.dir.map (fun e => e.1)).foldl planBlock (s, (List.range 8).foldl (fun t p => tset zeroN t p budget) [])).1
    else s
  let s2 := (s1.m.dir.map (fun e => e.1)).foldl (fun t b => setDir t b (halveQ (dirOf t b))) s1
  { s2 with m := { s2.m with epochCfg := reg32 s 0x10C } }

def execPlannerEpoch (s : State) : Host.Outcome State Fault Refusal := .next (if easelIdle s || mgmtHalted s then s else plannerEpoch s)

/-! ### Draining channels (R301, R302, R361) -/

/-- The held writes of an aborted move are performed at the old home in arrival order. -/
def releaseHeld (s : State) : List HeldWrite → State
  | [] => s
  | h :: t =>
    match reqOf (coreOf s h.core) h.req with
    | some r =>
      let s1 := updCore s h.core (fun k => updReq k h.req (fun q => { q with phase := .flight }))
      match r.kind with
      | .atomic _ => releaseHeld (atomicPerform s1 (.core h.core h.req)) t
      | _ => releaseHeld (sendReq s1 h.core r r.home) t
    | none => releaseHeld s t

/-- The stack that a Fixer group's block must go to (R436). -/
def fixerStack (s : State) (v : Move) : Option Nat :=
  if (dirOf s v.block).fixer then (match v.dst.home with
    | .stack p => some p
    | _ => none) else none

/-- A move whose new home fails before COMMIT is aborted (Table 08.6); a command's move waits again (log 33). -/
def abortMove (s : State) (v : Move) : State :=
  let s1 := setDir s v.block { dirOf s v.block with mig := false, target := .unmapped }
  let s2 := bump { s1 with m := { s1.m with moves := s1.m.moves.filter (fun x => x.block != v.block) } } 2 1
  let s3 := match v.cause with
    | .cmd _ _ => waitFor1 s2 ⟨v.block, v.cause, false, none, none, fixerStack s v⟩
    | _ => s2
  pumpLog (askAgain (resolveFaults (v.held.foldl (fun t h => storePump t h.core) (releaseHeld s3 v.held)) v.block false) v.block)

/-- CHANNEL_DRAINING (R301, R361, R642): while the Easel rests it is held (R721), which wakes the device; at the limit of uncorrectable errors, or by firmware, which may be halted (R701). -/
def channelDraining (s : State) (stack ch : Nat) (fw : Bool) : State :=
  let limit := (reg32 s 0x108).toNat % 65536
  let x := chanOf s stack ch
  if easelIdle s then wakeUp s
  else if chanLive s stack ch && x.st == .inService && ((fw && !mgmtHalted s) || (limit != 0 && decide (limit ≤ counter s (cChan stack ch 6)))) then
    let s1 := raiseEvent (setChan s stack ch { x with st := .draining }) 3
    (s1.m.moves.filter (fun v => v.copy && v.dst.home == .stack stack && v.dst.ch == ch)).foldl abortMove s1
  else s

def execChannelDraining (stack ch : Nat) (byFirmware : Bool) (s : State) : Host.Outcome State Fault Refusal :=
  .next (channelDraining s stack ch byFirmware)

/-- CHANNEL_MAPPED_OUT (R302, R304): firmware adds the channel to the repair record, unless it is halted (R701). -/
def execChannelMappedOut (stack ch : Nat) (s : State) : Host.Outcome State Fault Refusal :=
  .next (
    let x := chanOf s stack ch
    if x.st == .draining && x.shareOut && (usedIn s stack ch).isEmpty && !mgmtHalted s then
      let s1 := setChan s stack ch { x with st := .mappedOut }
      { s1 with fit := { s1.fit with repair := s1.fit.repair ++ [32 * stack + ch] } }
    else s)

end Sys2Proof.Machine
end

