-- ==== Sys2Proof/Machine/FlagRows.lean ====
section
/-!
DEFINITION. The flag network's rows (11): a holder's operation, FLAG_SET and FLAG_WAIT, operations between devices, the stall detector.
-/
namespace Sys2Proof.Machine

/-! ### At a holder (R478 to R480) -/

/-- Place of an issuer in the order of R479; a core's own engines act within their bundles and never queue (log 44). -/
def issuerRank : FIssuer → Nat
  | .engine c x => 2 * c + if x then 0 else 1
  | .ring r _ => 2000 + r
  | .tstrip => 2256
  | .remote _ _ => 3000

/-- The holder of a flag (Table 11.1): a core, or a slice after the cores. -/
def holderOf : FlagRef → Nat
  | .core c _ => c
  | .chip i => 1024 + i % 48

/-- `q`, which arrived earlier, is applied before `m`: what was held through C3 comes before everything remote (R477), and the operations of
one device to one holder are applied in the order of issue (R501). -/
def appliedFirst (q m : FlagMsg) : Bool :=
  match q.who, m.who with
  | .remote a _, .remote b _ => q.late || (a == b && holderOf q.flag == holderOf m.flag)
  | _, _ => false

/-- The operations that may be applied now, in order of arrival; `pre` are those before them. -/
def applicable (pre : List FlagMsg) : List FlagMsg → List FlagMsg
  | [] => []
  | m :: t => if pre.any (fun q => appliedFirst q m) then applicable (pre ++ [m]) t else m :: applicable (pre ++ [m]) t

/-- The operation a holder applies next to a flag: first in the order of R479, and of one issuer the oldest (log 44). -/
def nextMsg (s : State) (f : FlagRef) : Option FlagMsg :=
  ((applicable [] s.sh.flagQ).filter (fun m => m.flag == f)).foldl (fun (a : Option FlagMsg) m => match a with
    | none => some m
    | some b => if issuerRank m.who < issuerRank b.who then some m else a) none

/-- An acknowledgement to another device (R484, R502). -/
def sendFlagAck (s : State) (src seq : Nat) (st : Status) : State :=
  let s1 := { s with sh := { s.sh with rxAck := tset zeroN s.sh.rxAck (src * 65536 + seq) (statusCode st) } }
  if s.sh.path then sendLow s1 0 src seq 2 (.flagAck st)
  else sendFw s1 0 src seq 2 (.flagAck st)

/-- The holder answers the issuer. -/
def answerFlag (s : State) (m : FlagMsg) (err : Option Cause) : State :=
  match m.who with
  | .remote src seq => sendFlagAck (bump s 16 1) src seq (match err with
    | some e => causeStatus e
    | none => .ok)
  | w => flagAckTo s w m.addr err

/-- FLAG_OP_APPLY (R478 to R480, R484, R486) (log 44); while the holder rests the operation is held, which wakes the device (R721, R728). -/
def flagOpApply (s : State) (f : FlagRef) : State :=
  match nextMsg s f with
  | none => s
  | some m =>
    if blockRests s (holderBlock f) then wakeUp s else
    let s1 := { s with sh := { s.sh with flagQ := s.sh.flagQ.erase m } }
    match f with
    | .core c _ =>
      if present s c then
        let r := flagApply s1 f m.op
        answerFlag r.1 m r.2
      else answerFlag s1 m (some .absentCore)
    | .chip _ =>
      let r := flagApply s1 f m.op
      answerFlag r.1 m r.2

def execFlagOpApply (flag : FlagRef) (s : State) : Host.Outcome State Fault Refusal := .next (flagOpApply s flag)

/-! ### FLAG_SET and FLAG_WAIT (R497 to R499) -/

def fsSel (d : Line) : Word := BitVec.ofNat 32 (bytesAt d 8 4)
def fsOp (d : Line) : Nat := fld d 12 0 2
def fsValue (d : Line) : Bool := fld d 12 2 1 == 1

/-- FLAG_SET with an operation: its checks, then the operation goes to its holder, whose answer completes it. -/
def flagSet (s : State) (ring slot : Nat) (d : Line) (bad : Bool) (op : FOp) : State :=
  let sel := fsSel d
  checked s ring slot
    [(!bodyOk d [(8, 0, 32), (12, 0, 3)] || bad || selBad sel, .format),
     (selDev sel == devNum s && !selChip sel && !present s (selCore sel), .absent)]
    (flagSend (setPhase s ring slot (.busy 3)) (.ring ring slot) sel op 0)

/-- FLAG_SET_SET (R497). -/
def execFlagSetSet (ring slot : Nat) (s : State) : Host.Outcome State Fault Refusal :=
  .next (withCmd s ring slot 0x50 (fun d => if fsOp d = 0 then flagSet s ring slot d (fsValue d) .set else s))

/-- FLAG_SET_CLR (R497). -/
def execFlagSetClr (ring slot : Nat) (s : State) : Host.Outcome State Fault Refusal :=
  .next (withCmd s ring slot 0x50 (fun d => if fsOp d = 1 then flagSet s ring slot d (fsValue d) .clr else s))

/-- FLAG_SET_WRITE (R498); the reserved OP 3 is rejected here. -/
def execFlagSetWrite (ring slot : Nat) (s : State) : Host.Outcome State Fault Refusal :=
  .next (withCmd s ring slot 0x50 (fun d => if 2 ≤ fsOp d then flagSet s ring slot d (fsOp d == 3) (.write (fsValue d)) else s))

/-- FLAG_WAIT (R499): it waits in its work until its WAITC completes. -/
def execFlagWait (ring slot : Nat) (s : State) : Host.Outcome State Fault Refusal :=
  .next (withCmd s ring slot 0x51 (fun d =>
    checked s ring slot [(!bodyOk d [(8, 0, 12)], .format)] (
      let r := flagWaitc s (.chip (fld d 8 0 12)) (.ring ring slot)
      if r.2 then finishCmd r.1 ring slot .ok 0 else setPhase r.1 ring slot (.busy 1))))

/-! ### Between devices (R486, R500 to R503) -/

/-- Takes a packet that FLIT_RECEIVE accepted out of the inbox and its buffer; one that came over the firmware path is not in it. -/
def fromInbox (s : State) (p : Packet → Bool) : State :=
  match s.fb.inbox.find? p with
  | some k => freeHeld { s with fb := { s.fb with inbox := s.fb.inbox.erase k, held := s.fb.held.erase k } } k
  | none => s

def isFlagOp (src seq : Nat) (sel : Word) (op : FOp) (p : Packet) : Bool := p.src == src && p.tseq == seq && p.body == .flagOp sel op
def isFlagAck (src seq : Nat) (st : Status) (p : Packet) : Bool := p.src == src && p.tseq == seq && p.body == .flagAck st

/-- The status that a code names, for a repeated acknowledgement. -/
def ackStatus (n : Nat) : Status :=
  if n = 0x40 then .flagOver else if n = 0x41 then .flagUnder else if n = 0x20 then .absent else .ok

/-- A remote operation in order reaches its holder; an absent core is answered at once (R486). -/
def acceptFlagOp (s : State) (late : Bool) (src seq : Nat) (sel : Word) (op : FOp) : State :=
  if !selChip sel && !present s (selCore sel) then sendFlagAck s src seq .absent
  else { s with sh := { s.sh with flagQ := s.sh.flagQ ++ [{ who := .remote src seq, flag := selRef sel, op := op, addr := 0, late := late }] } }

/-- In an idle state an operation is held as the packet that carries it, in the order of arrival with the packets of R548 (R477, R730) (log 23). -/
def holdFlagOp (s : State) (src seq : Nat) (sel : Word) (op : FOp) : State :=
  let k := (s.fb.inbox.find? (isFlagOp src seq sel op)).getD
    { vc := 0, hops := 0, hidx := 0, dst := devNum s, src := src, route := [], tseq := seq, len := 5, body := .flagOp sel op }
  holdPacket (keepPacket s k) k

/-- FLAG_OP (R497, R502): only the next number of the pair is applied; a repeat is acknowledged again; a number ahead is left for its
turn. A selector with a reserved bit set is a bad packet (R533). Before READY an operation from the fabric waits at its link (R670), and one of the
firmware path waits while the management processor is halted (R701); in an idle state it is held and wakes the device, and is applied in its turn
(R477, R728, R730) (log 23). -/
def flagOp (s : State) (src seq : Nat) (sel : Word) (op : FOp) : State :=
  let s0 := fromInbox s (isFlagOp src seq sel op)
  let mine := isFlagOp src seq sel op
  let fabric := s.fb.inbox.any mine
  let late := s.fb.held.any mine
  if (s.bu.state != 3 && fabric) || (mgmtHalted s && !fabric) then s
  else if asleep s then wakeUp (holdFlagOp s src seq sel op)
  else if late && !(s.fb.held.head?.map mine).getD false then s
  else if selBad sel then bump s0 20 1
  else
    let want := seqOf s.sh.rxSeq src
    if seq = want then
      acceptFlagOp { s0 with sh := { s0.sh with rxSeq := tset zeroN s0.sh.rxSeq src ((want + 1) % 65536) } } late src seq sel op
    else if 32768 ≤ (seq + 65536 - want) % 65536 then
      if s0.sh.flagQ.any (fun m => m.who == .remote src seq) then s0
      else sendFlagAck (bump s0 17 1) src seq (ackStatus (tget zeroN s.sh.rxAck (src * 65536 + seq)))
    else s

def execFlagOp (src seq : Nat) (sel : Word) (op : FOp) (s : State) : Host.Outcome State Fault Refusal := .next (flagOp s src seq sel op)

def statusCause : Status → Option Cause
  | .flagOver => some .flagOver
  | .flagUnder => some .flagUnder
  | .absent => some .absentCore
  | _ => none

/-- FLAG_ACK (R484): the issuer learns what the holder found, and operations that waited for the old path or route may go. On
the firmware path it waits while the management processor is halted (R701). -/
def flagAck (s : State) (src seq : Nat) (st : Status) : State :=
  let s0 := fromInbox s (isFlagAck src seq st)
  if mgmtHalted s && !s.fb.inbox.any (isFlagAck src seq st) then s
  else match s0.sh.remote.find? (fun o => o.dst == src && o.seq == seq && o.sent) with
  | some o =>
    let s1 := { s0 with sh := { s0.sh with remote := s0.sh.remote.erase o } }
    pumpRemotes (flagAckTo s1 o.who o.addr (statusCause st))
  | none => s0

def execFlagAck (src seq : Nat) (st : Status) (s : State) : Host.Outcome State Fault Refusal := .next (flagAck s src seq st)

/-- The numbers of operations to a destination that were never sent close up after one that was never sent is dropped; a number that has gone
out stays used (log 24). -/
def closeUp (dst seq : Nat) (o : RemoteOp) : RemoteOp :=
  if o.dst = dst ∧ o.tried = false ∧ 0 < (o.seq + 65536 - seq) % 65536 ∧ (o.seq + 65536 - seq) % 65536 < 32768 then
    { o with seq := (o.seq + 65535) % 65536 } else o

/-- A dropped operation is counted, latched and acknowledged without an error (R503, R513, R642) (log 24). -/
def dropRemote (s : State) (o : RemoteOp) : State :=
  let s1 := bump { s with sh := { s.sh with remote := s.sh.remote.erase o } } 19 1
  let s2 := if s1.sh.err.getLsbD 63 then s1 else
    { s1 with sh := { s1.sh with err := BitVec.ofNat 64 (2 ^ 63 + 0x50 * 2 ^ 32 + o.sel.toNat) } }
  let s3 := if o.tried then s2 else
    { s2 with sh := { s2.sh with remote := s2.sh.remote.map (closeUp o.dst o.seq),
                                 txSeq := tset zeroN s2.sh.txSeq o.dst ((seqOf s2.sh.txSeq o.dst + 65535) % 65536) } }
  pumpRemotes (flagAckTo (raiseEvent s3 5) o.who o.addr none)

/-- REMOTE_FLAG_HOLD_EXPIRY (R503): an operation that no route carries within HOLD_LIMIT. -/
def execRemoteFlagHoldExpiry (dst seq : Nat) (s : State) : Host.Outcome State Fault Refusal :=
  .next (match s.sh.remote.find? (fun o => o.dst == dst && o.seq == seq) with
    | some o => if (usableRoutes s dst).isEmpty then dropRemote s o else s
    | none => s)

/-- The path that comes next: that of the oldest operation not sent, else the one that REMOTE_PATH names (R501). -/
def nextPath (s : State) : Bool :=
  match s.sh.remote.find? (fun o => !o.sent && !o.resend) with
  | some o => !o.fw
  | none => (reg32 s 0x124).getLsbD 0

/-- SHUTTER_PATH_CHANGE (R500, R501): the device takes the other path when its turn has come and every operation sent on the old path is
acknowledged. -/
def execShutterPathChange (fabric : Bool) (s : State) : Host.Outcome State Fault Refusal :=
  .next (if nextPath s == fabric && s.sh.path != fabric && !s.sh.remote.any (fun o => o.sent && o.fw == fabric) then
    pumpRemotes { s with sh := { s.sh with path := fabric } } else s)

/-! ### Sync domains and the stall detector (R504 to R509) -/

/-- A member: an engine of a core, or a ring. -/
inductive Member where | engine (c : Nat) (x : Bool) | ring (r : Nat)
  deriving DecidableEq, Repr

def engineMember (k : Core) (d : Nat) (e : Engine) : Bool :=
  (match k.run with
    | some r => r.domain == some d && !r.complete
    | none => false) && (e.st == .running || e.st == .pageFault)

def ringDefault (_ : Nat) : Ring := {}
def ringOf (s : State) (r : Nat) : Ring := tget ringDefault s.cm.rings r
def setRing (s : State) (r : Nat) (x : Ring) : State := { s with cm := { s.cm with rings := tset ringDefault s.cm.rings r x } }

/-- A ring joins the domain of its set-up while it is not disabled (R504, R505). -/
def ringMember (x : Ring) (d : Nat) : Bool := x.st != .disabled && x.w3.getLsbD 61 && field64 x.w3 60 55 == d

/-- Members in the order of R508. -/
def members (s : State) (d : Nat) : List Member :=
  s.cores.flatMap (fun e => (if engineMember e.2 d e.2.ae then [Member.engine e.1 false] else []) ++
    (if engineMember e.2 d e.2.xe then [Member.engine e.1 true] else [])) ++
  (s.cm.rings.filter (fun e => ringMember e.2 d)).map (fun e => Member.ring e.1)

/-- The bundle at the program counter of an engine (log 72). -/
def bundleHere (k : Core) (x : Bool) : Bundle := (decBundle k (engineOf k x).pc (headerAt k (engineOf k x).pc)).1

/-- The lines that the load at the A-stream's program counter reads (log 72). -/
def loadLines (k : Core) : List Nat :=
  match (bundleHere k false).access with
  | some (.ld f) => [lineOf (accAddr k f)]
  | some (.mload f) | some (.mloadt f) =>
    (List.range (f.nr.toNat + 1)).map (fun r => lineOf (rowAddr (getA k f.ab) (getA k f.as) r)) ++
      if f.bsh = 0 then [] else [lineOf (getA k f.ac).toNat]
  | _ => []

/-- An older store that the load meets has no data yet; one whose data is there is being performed, and its load is not waiting (R506). -/
def hazardOpen (k : Core) : Bool := k.sq.any (fun e => e.data.isNone && (loadLines k).contains (lineOf e.addr))

/-- The hold of an engine counts as waiting (R506, R138, R211) (log 72). -/
def holdWaits (k : Core) : Hold → Bool
  | .waitc | .lq | .lqFull | .sq | .sqFull | .pair | .report | .tile _ | .brxDepth | .uncommitted => true
  | .sqHazard => hazardOpen k
  | _ => false

/-- What holds the bundle of an engine in this cycle: what its last attempt noted, unless that is over by now (R506). A WAITC, and the AE at a
fault that is not committed, wait for what ends them. -/
def holdNow (s : State) (c : Nat) (x : Bool) : Hold :=
  let k := coreOf s c
  let e := engineOf k x
  if e.hold == .waitc || e.hold == .none || (!x && k.heldFault.isSome) then e.hold
  else (firstHold (firstWaits s c x (bundleHere k x) ++ bundleWaits s c x (bundleHere k x))).getD .none

def ringCmds (s : State) (r : Nat) : List Cmd := s.cm.cmds.filter (fun m => m.ring == r)
def heldCmd (m : Cmd) : Bool := m.phase == .held
/-- The ring starts no other command: its own limit, the device's, or a FENCE in progress (R629, R631). -/
def ringFull (s : State) (r : Nat) : Bool :=
  decide (16 ≤ (ringCmds s r).length) || decide (1024 ≤ s.cm.cmds.length) || (ringCmds s r).any (fun m => dOpcode m.desc == 0x02)

/-- R506. -/
def waiting (s : State) : Member → Bool
  | .engine c x =>
    let e := engineOf (coreOf s c) x
    e.st == .running && !e.grant && holdWaits (coreOf s c) (holdNow s c x)
  | .ring r =>
    let l := ringCmds s r
    !l.isEmpty && l.all heldCmd && ((ringOf s r).todo == 0 || ringFull s r)

/-- The pair an engine waits on: that of its reporting branch, or of the oldest unresolved BRX (R506, R508). -/
def pairOf (s : State) (c : Nat) (x : Bool) : Nat :=
  let k := coreOf s c
  if x then
    match (bundleHere k true).scalar with
    | some (.bc f) => f.pair.toNat
    | some (.jmp f) => f.pair.toNat
    | _ => 0
  else match k.brx with
    | b :: _ => b.pair
    | [] => match (bundleHere k false).sync with
      | some (.brx f) => f.pair.toNat
      | _ => 0

/-- The flags of the decision pair that an engine waits on: its reports are sets of them (R110, R111, R506). -/
def pairFlags (s : State) : Member → List FlagRef
  | .engine c x =>
    match holdNow s c x with
    | .pair | .report | .brxDepth | .uncommitted => [.core c (2 * pairOf s c x), .core c (2 * pairOf s c x + 1)]
    | _ => []
  | .ring _ => []

/-- The flag a member waits on. -/
def waitsOn (s : State) (m : Member) : List FlagRef :=
  (s.sh.waiters.filter (fun w => match m, w.who with
    | .engine c x, .engine d y => c == d && x == y
    | .ring r, .ring q _ => r == q
    | _, _ => false)).map (fun w => w.flag)

def raises : FOp → Bool
  | .set => true
  | .write v => v
  | .clr => false

/-- A SET or WRITE of a flag that the member waits on, one of a decision pair's among them, is in flight (R507). -/
def flagComing (s : State) (m : Member) : Bool :=
  let fs := waitsOn s m ++ pairFlags s m
  s.sh.flagQ.any (fun q => raises q.op && fs.contains q.flag) ||
  s.fb.inbox.any (fun p => match p.body with
    | .flagOp sel op => raises op && fs.contains (selRef sel)
    | _ => false) ||
  s.cores.any (fun e => e.2.posted.any (fun p => raises p.op && selDev p.sel == devNum s && fs.contains (selRef p.sel)))

/-- An access or fill that the member's LQ, SQ or tile wait needs is in flight (R507) (log 72). -/
def dataComing (k : Core) : Hold → Bool
  | .lq | .lqFull => k.reqs.any (fun r => !r.orphan && r.phase != .faulted && match r.kind with
    | .lq e => (k.lq.take 2).any (fun h => h.id == e)
    | .atomic _ => true
    | _ => false)
  | .sq | .sqFull | .sqHazard => k.mops.any (fun m => m.phase != .queued) || k.reqs.any (fun r => !r.orphan && r.phase != .faulted && match r.kind with
    | .store _ | .atomic _ => true
    | _ => false)
  | .tile t => k.reqs.any (fun r => !r.orphan && r.phase != .faulted && match r.kind with
    | .tile u _ => t == u
    | .scale u => t == u
    | _ => false) || k.mops.any (fun m => m.phase != .queued)
  | _ => false

def releaseComing (s : State) (m : Member) : Bool :=
  flagComing s m || match m with
    | .engine c x => dataComing (coreOf s c) (holdNow s c x)
    | .ring _ => false

def domCfg (s : State) (d : Nat) : BitVec 64 := reg64 s (0x2400 + 8 * d)

/-- The conditions under which the detector of a domain counts (R507, R726). -/
def detects (s : State) (d : Nat) : Bool :=
  let l := members s d
  (domCfg s d).getLsbD 63 && !l.isEmpty && l.all (waiting s) && !l.any (releaseComing s) && !s.fb.ports.any (fun p => p.2.st == .recovery)

/-! #### The report -/

def waitCode : Hold → Nat
  | .waitc => 0
  | .lq | .lqFull => 1
  | .sq | .sqFull | .sqHazard => 2
  | .tile _ => 4
  | _ => 3

/-- Waiter record (Table 11.5), as 16 bytes in a number; CYCLES counts the cycles in which the member has waited without a break. -/
def waiterRecord (s : State) (m : Member) : Nat :=
  match m with
  | .engine c x =>
    let e := engineOf (coreOf s c) x
    let obj := match holdNow s c x with
      | .waitc => match waitsOn s m with
        | f :: _ => (selOf s f).toNat
        | [] => 0
      | .tile t => t
      | .lq | .lqFull | .sq | .sqFull | .sqHazard => 0
      | _ => pairOf s c x
    ((if x then 1 else 0) * 2 ^ 14 + c) + waitCode (holdNow s c x) * 2 ^ 16 + obj * 2 ^ 32 + e.pc * 2 ^ 64 + min e.held (2 ^ 32 - 1) * 2 ^ 96
  | .ring r =>
    match (ringCmds s r).find? heldCmd with
    | some c => (2 * 2 ^ 14 + r) + 5 * 2 ^ 16 + dWaitSel c.desc * 2 ^ 32 + c.slot * 2 ^ 64 + min (ringOf s r).waited (2 ^ 32 - 1) * 2 ^ 96
    | none => 2 * 2 ^ 14 + r + 5 * 2 ^ 16

/-- Writes bytes of a record under R352; a record that meets a block that cannot be mapped is discarded (R773). -/
def writeRecord (s : State) (a n v : Nat) : State :=
  match autoMap s (blockOf a) with
  | some s1 => writeBytes s1 a n v
  | none => s

/-- The records that fit in the device range, one after another (R508, R509). -/
def writeRecords (s0 : State) (a : Nat) : List Member → State → State
  | [], s => s
  | m :: t, s => writeRecords s0 (a + 16) t (if a + 16 ≤ 2 ^ 40 then writeRecord s a 16 (waiterRecord s0 m) else s)

/-- Lines of `n` records from address `a` that lie in the device range. -/
def recordLines (a n : Nat) : List Nat := ((List.range n).map (fun i => lineOf (a + 16 * i))).eraseDups.filter (fun l => decide (l < 2 ^ 34))
/-- The lines that were discarded, each counted once (R773, R376). -/
def countNoRoom (s : State) (l : List Nat) : State :=
  let n := (l.filter (fun x => !mapped s (blockOfLine x))).length
  bumpIf (n != 0) s 86 n

/-- A member is stopped: its WAITC is withdrawn; the held commands of a ring complete with STALL (R508). -/
def stopMember (s : State) : Member → State
  | .engine c x =>
    let s1 := { s with sh := { s.sh with waiters := s.sh.waiters.filter (fun w => w.who != .engine c x) } }
    updCore s1 c (fun k => updEngine k x (fun e => { haltEngine e .stalled with frec := e.frec }))
  | .ring r =>
    let held := (ringCmds s r).filter heldCmd
    held.foldl (fun t m => finishCmd { t with sh := { t.sh with waiters := t.sh.waiters.filter (fun w => w.who != .ring r m.slot) } } r m.slot .stall 0) s

/-- STALL (R507 to R509, R511, R642): the count has reached its limit in a cycle in which the conditions still hold, and in D0 (R726). A report whose block is in
COPY, or whose line the host holds, waits for the commit and for the line (R357, R619). -/
def stall (s : State) (d : Nat) : State :=
  if tget zeroN s.sh.domCount d < 65536 || s.pw.st ≠ 0 || !detects s d then s
  else
    let l := members s d
    let a := field64 (domCfg s d) 39 6 * 64
    let lines := recordLines a l.length
    if lines.any (fun x => inCopy s (blockOfLine x)) then s
    else if lines.any (hostHolds s) then (lines.filter (hostHolds s)).foldl sendBisnp s
    else
      let s1 := countNoRoom (writeRecords s a l s) lines
      let s2 := { s1 with sh := { s1.sh with domLast := tset zeroN s1.sh.domLast d l.length, domCount := tset zeroN s1.sh.domCount d 0 } }
      raiseEvent (l.foldl stopMember (bump s2 (cDomain d) 1)) 1

def execStall (domain : Nat) (s : State) : Host.Outcome State Fault Refusal := .next (stall s domain)

end Sys2Proof.Machine
end

