-- ==== Sys2Proof/Machine/MatrixEvents.lean ====
section
/-!
DEFINITION. The matrix unit at work (05, 06): collection, compute and completion of MMULs, drains to a tile, the SQ or the WGB, and the
execution of MZERO, MSWAP and TREL, each in X-stream order (R171, R232).
-/
namespace Sys2Proof.Machine

/-! ### Order in MQ -/

/-- An instruction has started (R232). -/
def mStarted (m : MOp) : Bool := m.phase == .computing || m.phase == .started

/-- The first instruction that satisfies `p`, with the instructions before it. -/
def firstOp (p : MOp → Bool) : List MOp → List MOp → Option (List MOp × MOp)
  | _, [] => none
  | pre, m :: t => if p m then some (pre, m) else firstOp p (pre ++ [m]) t

def isMmul (m : MOp) : Bool :=
  match m.op with
  | .mmul _ => true
  | _ => false
def isMdrain (m : MOp) : Bool :=
  match m.op with
  | .mdrain _ => true
  | _ => false

def dropOp (k : Core) (id : Nat) : Core := { k with mops := k.mops.filter (fun m => m.id != id) }
def setMPhase (k : Core) (id : Nat) (p : MPhase) : Core :=
  { k with mops := k.mops.map (fun m => if m.id == id then { m with phase := p } else m) }

/-! ### Collection (R230, R231, R233) -/

/-- The collectors an MMUL uses with the tile each reads: 0 the activation, 1 + i the weights of array i. -/
def collectorTiles (f : FMM) : List (Nat × Nat) :=
  if f.amask = 0 then []
  else (0, f.ta.toNat) :: ((List.range 4).filter (fun i => f.amask.getLsbD i)).map (fun i => (1 + i, 4 * f.twg.toNat + i))

def noTiles (_ : Nat) : List Nat := []

/-- The MMUL holds its buffers: it has begun to collect, and its compute has not ended (R233). -/
def holdsBuffers (m : MOp) : Bool := m.phase == .collecting || (m.phase == .computing && m.left != 0)

/-- The tiles in the buffers of collector `i` that a compute has still to use or uses (R233). -/
def tilesInUse (k : Core) (i : Nat) : List Nat :=
  ((k.mops.filter holdsBuffers).flatMap (fun m => match m.op with
    | .mmul f => ((collectorTiles f).filter (fun e => e.1 == i)).map (fun e => e.2)
    | _ => [])).eraseDups

/-- Collector `i` can take tile `t`: one of its buffers holds it, or one is free (R231, R233). -/
def bufferFor (k : Core) (i t : Nat) : Bool := (tget noTiles k.coll i).contains t || decide ((tilesInUse k i).length < 2)

/-- The latches of a collector, most recent first, once it has read tile `t` into a free buffer; of two free buffers it fills the one used
least recently (log 92). -/
def replaceBuffer (used l : List Nat) (t : Nat) : List Nat :=
  match l with
  | [a, b] => t :: if used.contains b then [b] else [a]
  | _ => t :: l

/-- The tiles that the collectors of an MMUL read: those that no latch gives (R231). -/
def tilesRead (k : Core) (f : FMM) : List Nat :=
  ((collectorTiles f).filter (fun e => !(tget noTiles k.coll e.1).contains e.2)).map (fun e => e.2)

/-- The collectors have finished the collection before, and begin the one of `id` (R230, R233). -/
def beginCollect (k : Core) (id : Nat) (reads : List Nat) : Core :=
  { k with mops := k.mops.map (fun m =>
    if m.id == id then { m with phase := .collecting, reads := reads, filled := if reads.isEmpty then 16 else 0 }
    else if m.phase == .collecting then { m with filled := 16 } else m) }

/-- One collector reads a tile, or reuses a buffer that holds it (R231); `used` are the tiles in use before. -/
def collect (used : Nat → List Nat) (s : State) (c : Nat) : List (Nat × Nat) → State
  | [] => s
  | (i, t) :: r =>
    let l := tget noTiles (coreOf s c).coll i
    if l.contains t then
      collect used (bump (updCore s c (fun k => { k with coll := tset noTiles k.coll i (t :: l.filter (fun n => n != t)) })) (cCore c 27) 1) c r
    else collect used (updCore s c (fun k => { k with coll := tset noTiles k.coll i (replaceBuffer (used i) l t) })) c r

/-- MMUL_COLLECTION_START (R232, R233): the collectors have finished the collection before it, and each one concerned has a buffer for its
tile (log 92). -/
def mmulCollect (s : State) (c : Nat) : State :=
  let k := coreOf s c
  match firstOp (fun m => isMmul m && m.phase == .queued) [] k.mops with
  | some (_, m) =>
    match m.op with
    | .mmul f =>
      if (collectorTiles f).all (fun e => bufferFor k e.1 e.2) then
        collect (tilesInUse k) (updCore s c (fun k => beginCollect k m.id (tilesRead k f))) c (collectorTiles f)
      else s
    | _ => s
  | none => s

/-- An event of a core's matrix unit takes place while the core does not rest (R712, R721) (log 53). -/
def atCore (s : State) (c : Nat) (t : State) : Host.Outcome State Fault Refusal := .next (if blockRests s c then s else t)

def execMmulCollectionStart (c : Nat) (s : State) : Host.Outcome State Fault Refusal := atCore s c (mmulCollect s c)

/-! ### Compute (R86, R172, R220 to R224) -/

/-- The scale byte of a tile for source line `l`, element `e` (Table 05.4). -/
def scaleByte (x : Tile) (l e : Nat) : Nat :=
  let i := if x.bsh = 1 then 16 * (e / 32) + l else 32 * (l * tileE x.fmt / 1024) + e % 32
  x.scale.toNat / 2 ^ (8 * i) % 256

/-- The value of an element at tile row `r`, element `e`, that lies at source line `l`, source element `q` (R77, R224). -/
def tileVal (x : Tile) (r e l q : Nat) : Exact :=
  let v := decodeNum x.fmt (elemOf x.fmt (tget zeroL x.rows r) e)
  if x.bsh = 0 then v else scaled x.fmt (scaleByte x l q) v

/-- A.elem(r, e) (R220, R222, R223). -/
def actVal (x : Tile) (r e : Nat) : Exact :=
  if x.trans then tileVal x r e (e % 16) (16 * (e / 16) + r) else tileVal x r e r e

/-- W.elem(j, n) (R221). -/
def weightVal (x : Tile) (j n : Nat) : Exact :=
  let kw := tileKw x.fmt
  tileVal x (j / kw) (32 * (j % kw) + n) (j / kw) (32 * (j % kw) + n)

/-- The exact sum of the products of one cycle. -/
def dotGo : List Exact → List Exact → Exact × Bool → Exact × Bool
  | a :: as, b :: bs, acc =>
    let p := nmul a b
    let q := nadd acc.1 p.1
    dotGo as bs (q.1, acc.2 || p.2 || q.2)
  | _, _, acc => acc

def dot : List Exact → List Exact → Exact × Bool
  | a :: as, b :: bs => dotGo as bs (nmul a b)
  | _, _ => (nzero, false)

/-- One cell over the cycles of an MMUL: k products a cycle, one rounding each (R86); INT32 saturates (R75); a NaN made of operands that
are not NaN is an invalid event of the cell (R62). -/
def cellGo (int : Bool) (kk : Nat) : Nat → List Exact → List Exact → Nat × Ev → Nat × Ev
  | 0, _, _, acc => acc
  | n + 1, as, bs, acc =>
    let d := dot (as.take kk) (bs.take kk)
    let x := decodeNum (if int then 9 else 0) acc.1
    let q := nadd x d.1
    let y := roundNum (if int then 9 else 0) none q.1
    let made := (d.2 || q.2) && !hasNan (x :: (as.take kk ++ bs.take kk))
    cellGo int kk n (as.drop kk) (bs.drop kk) (y.1, evAdd acc.2 { y.2 with invalid := if made then 1 else 0 })

/-- Row `r` of an accumulator after the 16 cycles. -/
def rowGo (int : Bool) (kk : Nat) (as : List Exact) : List (List Exact) → List Nat → List Nat × Ev
  | w :: ws, x :: xs =>
    let y := cellGo int kk 16 as w (x, {})
    let z := rowGo int kk as ws xs
    (y.1 :: z.1, evAdd y.2 z.2)
  | _, _ => ([], {})

def rowsGo (int : Bool) (kk : Nat) (ta : Tile) (ks : Nat) (cols : List (List Exact)) : List Nat → Table (BitVec 1024) → Ev → Table (BitVec 1024) × Ev
  | [], t, e => (t, e)
  | r :: rs, t, e =>
    let as := (List.range (16 * kk)).map (fun j => actVal ta r (ks * (16 * kk) + j))
    let y := rowGo int kk as cols (unpackBits 32 32 (tget zeroRow t r).toNat)
    rowsGo int kk ta ks cols rs (tset zeroRow t r (BitVec.ofNat 1024 (packBits 32 y.1))) (evAdd e y.2)

/-- Array `i` accumulates (R172) (log 25). -/
def arrayMul (k : Core) (f : FMM) (i : Nat) : Acc × Ev :=
  let ta := tileOf k f.ta.toNat
  let tw := tileOf k (4 * f.twg.toNat + i)
  let a := accOf k i
  match mmulPair ta.fmt tw.fmt (ta.bsh != 0) (tw.bsh != 0) with
  | none => (a, {})
  | some (kk, int) =>
    let cols := (List.range 32).map (fun n => (List.range (16 * kk)).map (fun j => weightVal tw j n))
    let y := rowsGo int kk ta f.ksel.toNat cols (List.range 16) a.rows {}
    ({ holding := true, int := int, poison := a.poison, rows := y.1 }, y.2)

def arraysMul (s : State) (c : Nat) (f : FMM) (p : Bool) : List Nat → State
  | [] => s
  | i :: is =>
    if f.amask.getLsbD i then
      let y := arrayMul (coreOf s c) f i
      arraysMul (bumpEv (updCore s c (fun k => setAcc k i { y.1 with poison := y.1.poison || p })) (cCore c 0) y.2) c f p is
    else arraysMul s c f p is

/-- The compute before has ended, and that of `id` begins: 16 cycles (R229, R233). -/
def beginCompute (k : Core) (id : Nat) : Core :=
  { k with mops := k.mops.map (fun m =>
    if m.id == id then { m with phase := .computing, left := 16, filled := 16 }
    else if m.phase == .computing then { m with left := 0 } else m) }

/-- MMUL_COMPUTE_START (R229, R233, R243, R733): it begins when the compute before it has ended (log 92). -/
def mmulCompute (s : State) (c : Nat) : State :=
  let k := coreOf s c
  match firstOp (fun m => m.phase == .collecting) [] k.mops with
  | none => s
  | some (pre, m) =>
    match m.op with
    | .mmul f =>
      if pre.all mStarted && decide (16 ≤ k.tokens) then
        let p := (mopReads m.op).any (fun t => (tileOf k t).poison)
        let s1 := updCore s c (fun q => { beginCompute q m.id with tokens := q.tokens - 16 })
        arraysMul (bump s1 (cCore c 25) 16) c f p [0, 1, 2, 3]
      else s
    | _ => s

def execMmulComputeStart (c : Nat) (s : State) : Host.Outcome State Fault Refusal := atCore s c (mmulCompute s c)

/-- MMUL_COMPLETE (R234): the oldest computing MMUL, while CLK_A runs (R712). -/
def execMmulComplete (c : Nat) (s : State) : Host.Outcome State Fault Refusal :=
  .next (if stopped s then s else match (coreOf s c).mops.find? (fun m => m.phase == .computing) with
    | some m => updCore s c (fun k => dropOp k m.id)
    | none => s)

/-! ### Drains (R174, R225, R235, R256) -/

/-- Row adds into the WGB: each element rounded once (R256). -/
def wgbAddRows (k : Core) (a : Acc) (i : Nat) : List Nat → Core × Ev → Core × Ev
  | [], x => x
  | r :: rs, (q, e) =>
    let old := unpackBits 32 32 (tget zeroRow q.wgb (16 * i + r)).toNat
    let new := unpackBits 32 32 (tget zeroRow a.rows r).toNat
    let y := roundLanes 0 (fun _ => none) 0 (zip2 (fun x y => nadd (decodeNum 0 x) (decodeNum 0 y)) old new)
    wgbAddRows k a i rs ({ q with wgb := tset zeroRow q.wgb (16 * i + r) (BitVec.ofNat 1024 (packBits 32 y.1)) }, evAdd e y.2)

/-- An MDRAIN may read its first row: everything before it has started, and the drain before it from its accumulator is done (R232, R235). -/
def drainMayStart (pre : List MOp) (f : FMD) : Bool :=
  pre.all mStarted && !pre.any (fun m => match m.op with
    | .mdrain g => g.acc == f.acc
    | _ => false)

/-- A drain begins: its first row reaches its destination two cycles later (R235). -/
def beginDrain (k : Core) (id : Nat) : Core :=
  { k with mops := k.mops.map (fun m => if m.id == id then { m with phase := .started, left := 2 } else m) }

/-- MDRAIN_START (R232, R236, R256, R257, R275); the sums of all rows are taken as the drain starts, and the rows counted as they reach the WGB
(R261) (log 25). -/
def mdrainStart (s : State) (c id : Nat) : State :=
  let k := coreOf s c
  match firstOp (fun m => m.id == id) [] k.mops with
  | none => s
  | some (pre, m) =>
    match m.op with
    | .mdrain f =>
      if m.phase = .queued ∧ drainMayStart pre f then
        let s1 := updCore s c (fun q => beginDrain q id)
        if f.dest = 2 then
          let i := m.soff / 2048
          if k.wgbLock.getLsbD i then s
          else
            let a := accOf k (4 + f.acc.toNat)
            let y := wgbAddRows k a i (List.range 16) (coreOf s1 c, {})
            let q := { y.1 with wgbDirty := putBit y.1.wgbDirty i true, wgbPoison := if a.poison then putBit y.1.wgbPoison i true else y.1.wgbPoison }
            bumpEv (setCore s1 c (if a.poison then markPoison q else q)) (cCore c 0) y.2
        else if f.dest = 1 then drainPump s1 c
        else s1
      else s
    | _ => s

def execMdrainStart (c id : Nat) (s : State) : Host.Outcome State Fault Refusal := atCore s c (mdrainStart s c id)

/-- Rows of a drain to a tile (R225). -/
def drainTileRows (c : Nat) (m : MOp) (f : FMD) (a : Acc) : List Nat → Tile × Ev → Tile × Ev
  | [], x => x
  | r :: rs, (t, e) =>
    let y := drainRowVals c m f a r
    let t1 := { t with rows := tset zeroL t.rows r (BitVec.ofNat 512 (packBits (fmtBits f.fmt.toNat) y.2.1)),
                       scale := if f.bs then BitVec.ofNat 512 (insertBits t.scale.toNat (8 * r) 8 y.1) else t.scale }
    drainTileRows c m f a rs (t1, evAdd e y.2.2)

/-- The scale store before the rows' scales: 0x7F in every byte Table 05.4 uses. -/
def idleScales (fmt : Nat) : Line := BitVec.ofNat 512 (packBits 8 (List.replicate (tileE fmt / 2) 0x7F))

/-- MDRAIN_COMPLETE (R225, R235, R236, R243): a drain to the SQ fills what it can, and completes once its last entry is filled; the rows that no
cycle has counted are counted (log 25). -/
def mdrainComplete (s : State) (c id : Nat) : State :=
  let k := coreOf s c
  match k.mops.find? (fun m => m.id == id) with
  | none => s
  | some m =>
    match m.op with
    | .mdrain f =>
      if m.phase ≠ .started then s
      else
        let ai := 4 + f.acc.toNat
        let a := accOf k ai
        let fin (q : Core) (e : Ev) (s : State) : State :=
          let q1 := if f.clr then setAcc q ai {} else q
          let q2 := if a.poison then markPoison q1 else q1
          let left := if f.dest = 1 then 0 else 16 - m.filled
          let s1 := bumpIf (left != 0) (setCore s c (dropOp q2 id)) (cCore c 30) left
          let s2 := bumpIf (f.dest == 2 && left != 0) s1 (cCore c 31) left
          pumpPosted c (storePump (bumpEv s2 (cCore c 0) e) c)
        if f.dest = 0 then
          let t := f.td.toNat
          let y := drainTileRows c m f a (List.range 16)
            ({ tileOf k t with scale := if f.bs then idleScales f.fmt.toNat else 0 }, {})
          fin (clearLatch (setTile k t { y.1 with st := .full, mask := 0xFFFF, scaleOk := true, poison := a.poison }) t) y.2 s
        else if f.dest = 1 then
          let t := drainPump s c
          match (coreOf t c).mops.find? (fun m => m.id == id) with
          | some q => if q.filled < drainFills f then t else fin (coreOf t c) (drainSqRows c m f a (List.range 16)).2.2 t
          | none => t
        else fin k {} s
    | _ => s

def execMdrainComplete (c id : Nat) (s : State) : Host.Outcome State Fault Refusal := .next (if stopped s then s else mdrainComplete s c id)

/-! ### MZERO, MSWAP, TREL (R179, R234) -/

/-- Accumulators a matrix instruction uses. -/
def accUsed (op : MatrixOp) : List Nat :=
  match op with
  | .mmul f => (List.range 4).filter (fun i => f.amask.getLsbD i)
  | .mdrain f => [4 + f.acc.toNat]
  | .mswap => List.range 8
  | _ => []

def zeroAccs (mask : BitVec 8) (k : Core) : Core :=
  { k with acc := tclear k.acc (fun i => mask.getLsbD i) }

/-- MZERO_EXECUTE (R179, R234). -/
def execMzeroExecute (c : Nat) (s : State) : Host.Outcome State Fault Refusal :=
  atCore s c (match firstOp (fun m => match m.op with
      | .mzero _ => true
      | _ => false) [] (coreOf s c).mops with
    | some (pre, m) =>
      match m.op with
      | .mzero mask =>
        if pre.all mStarted && !pre.any (fun p => (accUsed p.op).any (fun i => mask.getLsbD i)) then
          updCore s c (fun k => dropOp (zeroAccs mask k) m.id)
        else s
      | _ => s
    | none => s)

def swapAccs (k : Core) : Core :=
  (List.range 4).foldl (fun q i => setAcc (setAcc q i (accOf q (i + 4))) (i + 4) (accOf q i)) k

/-- MSWAP_EXECUTE (R179, R234). -/
def execMswapExecute (c : Nat) (s : State) : Host.Outcome State Fault Refusal :=
  atCore s c (match firstOp (fun m => m.op == .mswap) [] (coreOf s c).mops with
    | some (pre, m) =>
      if pre.all mStarted && !pre.any (fun p => isMmul p || isMdrain p) then updCore s c (fun k => dropOp (swapAccs k) m.id) else s
    | none => s)

/-- A tile that TREL may empty now (Table 05.3). -/
def trelReady (x : Tile) : Bool := x.st == .empty || x.st == .writing || (x.st == .full && !x.spec)

def releaseTiles (k : Core) : List Nat → Core
  | [] => k
  | t :: ts => releaseTiles (clearLatch (setTile k t { tileOf k t with st := .empty, mask := 0, spec := false, load := none, poison := false }) t) ts

/-- TREL_EXECUTE (R126, R179, R208, R231): a TREL waits in MQ for its tiles, and empties all that it names in one step (log 92). -/
def execTrelExecute (c : Nat) (s : State) : Host.Outcome State Fault Refusal :=
  atCore s c (match firstOp (fun m => match m.op with
      | .trel _ => true
      | _ => false) [] (coreOf s c).mops with
    | some (pre, m) =>
      let ts := mopChanges m.op
      if pre.all mStarted && !pre.any (fun p => (mopReads p.op ++ mopChanges p.op).any (fun t => ts.contains t)) &&
          ts.all (fun t => trelReady (tileOf (coreOf s c) t)) then
        updCore s c (fun k => dropOp (releaseTiles k ts) m.id)
      else s
    | none => s)

end Sys2Proof.Machine
end

