-- ==== Sys2Proof/Machine/Clock.lean ====
section
/-!
DEFINITION. One CLK_A cycle on an empty queue (log 7): the cycle counters of held engines and of the matrix unit, and the detectors of
the sync domains. The table has no row for a cycle; everything else that takes time is an event row.
-/
namespace Sys2Proof.Machine

/-- The counter of a hold (Tables 03.6, 05.7, 11.11, 17.8) (log 11, log 17). -/
def holdCounter (x : Bool) : Hold → Option Nat
  | .waitc => some 47
  | .lq => some 18
  | .sq => some 19
  | .report => some 20
  | .tile _ => some (if x then 21 else 23)
  | .brxDepth => some 13
  | .uncommitted => some 15
  | .lqFull => some 16
  | .slotsFull => some 17
  | .sqHazard => some 14
  | .mqFull => some 22
  | .bankList => some 37
  | _ => none

/-- A running engine held at its bundle counts the cycle, and while it is a waiting one, for its report (R506, Table 11.5). -/
def tickEngine (s : State) (c : Nat) (x : Bool) : State :=
  let e := engineOf (coreOf s c) x
  if e.st == .running && e.hold != .none then
    let w := waiting s (.engine c x)
    let s1 := updCore s c (fun k => updEngine k x (fun e => { e with held := if w then e.held + 1 else 0 }))
    match holdCounter x e.hold with
    | some n => bump s1 (cCore c n) 1
    | none => s1
  else s

/-- The oldest instruction that has not started, with those before it. -/
def mqFront (k : Core) : Option (List MOp × MOp) := firstOp (fun m => !mStarted m) [] k.mops

/-- An MMUL at work whose compute has not ended. -/
def computing (m : MOp) : Bool := m.phase == .computing && m.left != 0

/-- A collected MMUL whose compute waits only for an MSWAP, its collection and the compute before it having ended (R233, Table 05.7). -/
def swapGap (k : Core) : Bool :=
  match firstOp (fun m => m.phase == .collecting) [] k.mops with
  | some (pre, m) =>
    let l := pre.filter (fun m => !mStarted m)
    decide (16 ≤ m.filled) && !l.isEmpty && l.all (fun m => m.op == .mswap) && !pre.any computing
  | none => false

/-- A compute start waits for tokens (R733): its MMUL is collected, and everything before it has gone as far as it must. -/
def tokenGap (k : Core) : Bool :=
  match firstOp (fun m => m.phase == .collecting) [] k.mops with
  | some (pre, m) => decide (16 ≤ m.filled) && pre.all mStarted && !pre.any computing && decide (k.tokens < 16)
  | none => false

/-- A compute start or a vector bundle waits for tokens in this cycle, counted once and apart from the other tables (R733, R737). -/
def tokenWait (k : Core) : Bool := tokenGap k || (k.xe.st == .running && k.xe.hold != .none && k.xe.short && k.tokens == 0)

/-- An MDRAIN waits at its first row on a drain's lock (R275). -/
def lockGap (k : Core) : Bool :=
  match mqFront k with
  | some (pre, m) =>
    match m.op with
    | .mdrain f => f.dest == 2 && drainMayStart pre f && k.wgbLock.getLsbD (m.soff / 2048)
    | _ => false
  | none => false

/-- Writes held at a home while their block is in COPY (R376). -/
def heldWrites (s : State) (k : Core) : Nat := (k.reqs.filter (fun r => r.phase == .heldAt && inCopy s (blockOf r.addr))).length

def bumpN (s : State) (ix n : Nat) : State := bumpIf (n != 0) s ix n

/-- One cycle of the matrix unit: collectors and drains go on, and what they count is counted (R217, R249, R260, R282). -/
def tickUnit (s : State) (c : Nat) : State :=
  let y := unitCycle (coreOf s c)
  let s1 := setCore s c y.2
  bumpN (bumpN (bumpN (bumpN s1 (cCore c 30) (y.1.tileRows + y.1.wgbRows)) (cCore c 31) y.1.wgbRows) (cCore c 28) y.1.bankDelays)
    (cCore c 32) y.1.portDelays

def tickCore (s0 : State) (c : Nat) : State :=
  let s := updCore (settleReport s0 c) c (fun k => { k with twin := false })
  let k := coreOf s c
  let s1 := tickUnit (tickEngine (tickEngine s c false) c true) c
  let s2 := bumpIf (swapGap k) s1 (cCore c 26) 1
  let s3 := bumpIf (lockGap k) s2 (cCore c 33) 1
  let s4 := bumpIf (tokenWait k) s3 (cCore c 52) 1
  bumpIf (heldWrites s k != 0) s4 (cCore c 44) (heldWrites s k)

/-- A detector counts while its conditions hold, and starts from zero otherwise (R507); it neither counts nor resets during an entry and
in C1, C2 or C3 (R726) (log 7). -/
def tickDomain (s : State) (d : Nat) : State :=
  if s.pw.st ≠ 0 then s
  else { s with sh := { s.sh with domCount := tset zeroN s.sh.domCount d (if detects s d then tget zeroN s.sh.domCount d + 1 else 0) } }

/-- A ring counts the cycles for which it has been waiting (R506, Table 11.5). -/
def tickRing (s : State) (r : Nat) : State :=
  let w := waiting s (.ring r)
  setRing s r { ringOf s r with waited := if w then (ringOf s r).waited + 1 else 0 }

/-- The clock of the compute dies runs (Table 17.1). -/
def clockRuns (s : State) : Bool := !s.pw.off && (s.pw.st == 0 || s.pw.st == 4)

/-- One CLK_C cycle is two of CLK_A (01): in each of its cycles the mover commands that wait for a PLACE, PIN or UNMAP count (R419). -/
def tickHalf (s : State) : State :=
  let n := s.m.interlocks.length
  bumpIf (!s.m.halfC && n != 0) { s with m := { s.m with halfC := !s.m.halfC } } 14 n

def tick (s0 : State) : State :=
  let s := if clockRuns s0 then tickHalf s0 else s0
  if clockRuns s then
    let s1 := (s.cores.map (fun e => e.1)).foldl tickCore s
    let s2 := (s1.cm.rings.map (fun e => e.1)).foldl tickRing s1
    (List.range 64).foldl tickDomain s2
  else s

end Sys2Proof.Machine
end

