-- ==== Sys2Proof/Machine/AccessSlot.lean ====
section
/-!
DEFINITION. Access slot (Table 04.13). Each row is the issue of a bundle that holds this one slot, without a guard, at the engine's program
counter (6 bytes, R144, R145): its waits, its faults and its effect are those of Issue.
-/
namespace Sys2Proof.Machine

/-- LD (R101, R181). -/
def execLd (c : Nat) (f : FAM) (s : State) : Host.Outcome State Fault Refusal :=
  .next (issue s c false { access := some (.ld f) } 6)

/-- ST (R106, R181). -/
def execSt (c : Nat) (f : FAM) (s : State) : Host.Outcome State Fault Refusal :=
  .next (issue s c false { access := some (.st f) } 6)

/-- PF (R123, R181). -/
def execPf (c : Nat) (f : FAM) (s : State) : Host.Outcome State Fault Refusal :=
  .next (issue s c false { access := some (.pf f) } 6)

/-- MLOAD (R182). -/
def execMload (c : Nat) (f : FAT) (s : State) : Host.Outcome State Fault Refusal :=
  .next (issue s c false { access := some (.mload f) } 6)

/-- MLOADT (R182, R222). -/
def execMloadt (c : Nat) (f : FAT) (s : State) : Host.Outcome State Fault Refusal :=
  .next (issue s c false { access := some (.mloadt f) } 6)

/-- AMO (R184). -/
def execAmo (c : Nat) (f : FAX) (s : State) : Host.Outcome State Fault Refusal :=
  .next (issue s c false { access := some (.amo f) } 6)

/-- ADDA, SUBA (R180). -/
def execAddaSuba (c : Nat) (sub : Bool) (f : FAR) (s : State) : Host.Outcome State Fault Refusal :=
  .next (issue s c false { access := some (.addsub sub f) } 6)

/-- ADDAI (R180). -/
def execAddai (c : Nat) (f : FAI) (s : State) : Host.Outcome State Fault Refusal :=
  .next (issue s c false { access := some (.addai f) } 6)

/-- SHLA (R180). -/
def execShla (c : Nat) (f : FAI) (s : State) : Host.Outcome State Fault Refusal :=
  .next (issue s c false { access := some (.shla f) } 6)

/-- MULAI (R180). -/
def execMulai (c : Nat) (f : FAI) (s : State) : Host.Outcome State Fault Refusal :=
  .next (issue s c false { access := some (.mulai f) } 6)

/-- LIA (R180). -/
def execLia (c : Nat) (f : FAI) (s : State) : Host.Outcome State Fault Refusal :=
  .next (issue s c false { access := some (.lia f) } 6)

/-- BRA (R100). -/
def execBra (c : Nat) (f : FAB) (s : State) : Host.Outcome State Fault Refusal :=
  .next (issue s c false { access := some (.bra f) } 6)

/-- JMPA (R180). -/
def execJmpa (c : Nat) (f : FAB) (s : State) : Host.Outcome State Fault Refusal :=
  .next (issue s c false { access := some (.jmpa f) } 6)

end Sys2Proof.Machine
end

