-- ==== Sys2Proof/Machine/Crypto.lean ====
section
/-!
DEFINITION. The verification of signatures (R679): SHA-256 and SHA-384 (FIPS 180-4), ECDSA on P-384 (FIPS 186-5), LMS and HSS (RFC 8554). Byte
strings are lists of numbers below 256, in order.
-/
namespace Sys2Proof.Machine

/-! ### Bytes and words, the most significant byte first -/

def beNat (l : List Nat) : Nat := l.foldl (fun n b => 256 * n + b) 0
def beBytes : Nat → Nat → List Nat
  | 0, _ => []
  | n + 1, v => beBytes n (v / 256) ++ [v % 256]
/-- Pieces of `k` elements. -/
def chunks (k : Nat) : Nat → List Nat → List (List Nat)
  | 0, _ => []
  | n + 1, l => if l.isEmpty then [] else l.take k :: chunks k n (l.drop k)

/-! ### SHA-2 -/

/-- The first 64 bits of the fractions of the cube roots of the first 80 primes. -/
def sha512K : List Nat :=
  [0x428A2F98D728AE22, 0x7137449123EF65CD, 0xB5C0FBCFEC4D3B2F, 0xE9B5DBA58189DBBC, 0x3956C25BF348B538,
   0x59F111F1B605D019, 0x923F82A4AF194F9B, 0xAB1C5ED5DA6D8118, 0xD807AA98A3030242, 0x12835B0145706FBE,
   0x243185BE4EE4B28C, 0x550C7DC3D5FFB4E2, 0x72BE5D74F27B896F, 0x80DEB1FE3B1696B1, 0x9BDC06A725C71235,
   0xC19BF174CF692694, 0xE49B69C19EF14AD2, 0xEFBE4786384F25E3, 0x0FC19DC68B8CD5B5, 0x240CA1CC77AC9C65] ++
  [0x2DE92C6F592B0275, 0x4A7484AA6EA6E483, 0x5CB0A9DCBD41FBD4, 0x76F988DA831153B5, 0x983E5152EE66DFAB,
   0xA831C66D2DB43210, 0xB00327C898FB213F, 0xBF597FC7BEEF0EE4, 0xC6E00BF33DA88FC2, 0xD5A79147930AA725,
   0x06CA6351E003826F, 0x142929670A0E6E70, 0x27B70A8546D22FFC, 0x2E1B21385C26C926, 0x4D2C6DFC5AC42AED,
   0x53380D139D95B3DF, 0x650A73548BAF63DE, 0x766A0ABB3C77B2A8, 0x81C2C92E47EDAEE6, 0x92722C851482353B] ++
  [0xA2BFE8A14CF10364, 0xA81A664BBC423001, 0xC24B8B70D0F89791, 0xC76C51A30654BE30, 0xD192E819D6EF5218,
   0xD69906245565A910, 0xF40E35855771202A, 0x106AA07032BBD1B8, 0x19A4C116B8D2D0C8, 0x1E376C085141AB53,
   0x2748774CDF8EEB99, 0x34B0BCB5E19B48A8, 0x391C0CB3C5C95A63, 0x4ED8AA4AE3418ACB, 0x5B9CCA4F7763E373,
   0x682E6FF3D6B2B8A3, 0x748F82EE5DEFB2FC, 0x78A5636F43172F60, 0x84C87814A1F0AB72, 0x8CC702081A6439EC] ++
  [0x90BEFFFA23631E28, 0xA4506CEBDE82BDE9, 0xBEF9A3F7B2C67915, 0xC67178F2E372532B, 0xCA273ECEEA26619C,
   0xD186B8C721C0C207, 0xEADA7DD6CDE0EB1E, 0xF57D4F7FEE6ED178, 0x06F067AA72176FBA, 0x0A637DC5A2C898A6,
   0x113F9804BEF90DAE, 0x1B710B35131C471B, 0x28DB77F523047D84, 0x32CAAB7B40C72493, 0x3C9EBE0A15C9BEBC,
   0x431D67C49C100D4C, 0x4CC5D4BECB3E42B6, 0x597F299CFC657E2A, 0x5FCB6FAB3AD6FAEC, 0x6C44198C4A475817]

/-- A hash of the family: word size, round constants, start value, and the rotations of its functions. -/
structure Sha where
  (w : Nat) (k iv : List Nat) (e0 e1 s0 s1 : Nat × Nat × Nat)

def sha384 : Sha :=
  ⟨64, sha512K, [0xCBBB9D5DC1059ED8, 0x629A292A367CD507, 0x9159015A3070DD17, 0x152FECD8F70E5939,
    0x67332667FFC00B31, 0x8EB44A8768581511, 0xDB0C2E0D64F98FA7, 0x47B5481DBEFA4FA4], (28, 34, 39), (14, 18, 41), (1, 8, 7), (19, 61, 6)⟩
/-- The constants of SHA-256 are the upper halves of those of SHA-512. -/
def sha256 : Sha :=
  ⟨32, (sha512K.take 64).map (· / 2 ^ 32), [0x6A09E667, 0xBB67AE85, 0x3C6EF372, 0xA54FF53A, 0x510E527F, 0x9B05688C, 0x1F83D9AB, 0x5BE0CD19],
    (2, 13, 22), (6, 11, 25), (7, 18, 3), (17, 19, 10)⟩

def rotr (w n x : Nat) : Nat := x / 2 ^ n + x % 2 ^ n * 2 ^ (w - n)
def Sha.big (h : Sha) (r : Nat × Nat × Nat) (x : Nat) : Nat := rotr h.w r.1 x ^^^ rotr h.w r.2.1 x ^^^ rotr h.w r.2.2 x
def Sha.small (h : Sha) (r : Nat × Nat × Nat) (x : Nat) : Nat := rotr h.w r.1 x ^^^ rotr h.w r.2.1 x ^^^ x / 2 ^ r.2.2

/-- The working variables a to h after a round with constant `k` and schedule word `x`. -/
def Sha.round (h : Sha) (k x : Nat) : List Nat → List Nat
  | [a, b, c, d, e, f, g, i] =>
    let m := 2 ^ h.w
    let t1 := i + h.big h.e1 e + ((e &&& f) ^^^ ((m - 1 - e) &&& g)) + k + x
    let t2 := h.big h.e0 a + ((a &&& b) ^^^ (a &&& c) ^^^ (b &&& c))
    [(t1 + t2) % m, a, b, c, (d + t1) % m, e, f, g]
  | l => l

/-- The rounds over a window of 16 schedule words. -/
def Sha.rounds (h : Sha) : List Nat → List Nat → List Nat → List Nat
  | [], _, st => st
  | k :: ks, win, st =>
    let x := win.headD 0
    let new := (h.small h.s1 (win.getD 14 0) + win.getD 9 0 + h.small h.s0 (win.getD 1 0) + x) % 2 ^ h.w
    h.rounds ks (win.drop 1 ++ [new]) (h.round k x st)

def Sha.block (h : Sha) (st : List Nat) (b : List Nat) : List Nat :=
  ((chunks (h.w / 8) 16 b).map beNat |> fun win => h.rounds h.k win st).zipWith (fun a c => (a + c) % 2 ^ h.w) st

/-- The message with its padding and length. -/
def Sha.pad (h : Sha) (msg : List Nat) : List Nat :=
  let n := 2 * h.w
  msg ++ [0x80] ++ List.replicate ((2 * n - 1 - h.w / 4 - msg.length % n) % n) 0 ++ beBytes (h.w / 4) (8 * msg.length)

/-- The first `n` bytes of the hash. -/
def Sha.hash (h : Sha) (n : Nat) (msg : List Nat) : List Nat :=
  let p := h.pad msg
  (((chunks (2 * h.w) p.length p).foldl h.block h.iv).flatMap (beBytes (h.w / 8))).take n
def hash256 (msg : List Nat) : List Nat := sha256.hash 32 msg
def hash384 (msg : List Nat) : List Nat := sha384.hash 48 msg

/-! ### ECDSA on P-384 -/

def p384 : Nat := 2 ^ 384 - 2 ^ 128 - 2 ^ 96 + 2 ^ 32 - 1
def n384 : Nat := 0xFFFFFFFFFFFFFFFFFFFFFFFFFFFFFFFFFFFFFFFFFFFFFFFFC7634D81F4372DDF581A0DB248B0A77AECEC196ACCC52973
/-- A point in Jacobian coordinates, at infinity for z = 0. -/
structure Pt where
  (x y z : Nat)
def base384 : Pt :=
  ⟨0xAA87CA22BE8B05378EB1C71EF320AD746E1D3B628BA79B9859F741E082542A385502F25DBF55296C3A545E3872760AB7,
   0x3617DE4A96262C6F5D9E98BF9292DC29F8F41DBD289A147CE9DA3113B5F0B8C00A60B1CE1D7E819D7A431D7C90EA0E5F, 1⟩

def powMod (m b : Nat) : Nat → Nat → Nat → Nat
  | 0, _, r => r
  | n + 1, e, r => powMod m (b * b % m) n (e / 2) (if e % 2 = 1 then r * b % m else r)
def invMod (m x : Nat) : Nat := powMod m (x % m) 384 (m - 2) 1
def subMod (a b : Nat) : Nat := (a + p384 - b % p384) % p384

def Pt.double (q : Pt) : Pt :=
  let y2 := q.y * q.y % p384
  let s := 4 * q.x * y2 % p384
  let z2 := q.z * q.z % p384
  let m := 3 * (subMod q.x z2 * ((q.x + z2) % p384)) % p384
  let x := subMod (m * m) (2 * s)
  ⟨x, subMod (m * subMod s x) (8 * y2 * y2), 2 * q.y * q.z % p384⟩

def Pt.add (q r : Pt) : Pt :=
  if q.z = 0 then r else if r.z = 0 then q
  else
    let z1 := q.z * q.z % p384
    let z2 := r.z * r.z % p384
    let u1 := q.x * z2 % p384
    let u2 := r.x * z1 % p384
    let s1 := q.y * z2 * r.z % p384
    let s2 := r.y * z1 * q.z % p384
    if u1 = u2 then (if s1 = s2 then q.double else ⟨1, 1, 0⟩)
    else
      let h := subMod u2 u1
      let t := subMod s2 s1
      let h2 := h * h % p384
      let h3 := h * h2 % p384
      let v := u1 * h2 % p384
      let x := subMod (t * t) (h3 + 2 * v)
      ⟨x, subMod (t * subMod v x) (s1 * h3), h * q.z * r.z % p384⟩

/-- k × q, from the lowest of `n` bits of k on. -/
def Pt.mul (q : Pt) : Nat → Nat → Pt → Pt
  | 0, _, a => a
  | n + 1, k, a => q.double.mul n (k / 2) (if k % 2 = 1 then a.add q else a)

/-- An ECDSA signature, r then s (Table 16.1), verifies over `msg` under the public key (x, y). -/
def ecdsaVerify (x y : Nat) (sig msg : List Nat) : Bool :=
  let r := beNat (sig.take 48)
  let s := beNat (sig.drop 48)
  let e := beNat (hash384 msg)
  let w := invMod n384 s
  let q := (base384.mul 384 (e * w % n384) ⟨1, 1, 0⟩).add ((Pt.mk x y 1).mul 384 (r * w % n384) ⟨1, 1, 0⟩)
  decide (0 < r) && decide (r < n384) && decide (0 < s) && decide (s < n384) && q.z != 0 &&
  q.x * powMod p384 (q.z * q.z % p384) 384 (p384 - 2) 1 % p384 % n384 == r

/-! ### LMS and HSS, SHA-256 with 32 bytes and W8 -/

def slice (l : List Nat) (a n : Nat) : List Nat := (l.drop a).take n

/-- `n` steps of a hash chain from step j on. -/
def otsChain (pre : List Nat) : Nat → Nat → List Nat → List Nat
  | 0, _, t => t
  | n + 1, j, t => otsChain pre n (j + 1) (hash256 (pre ++ [j] ++ t))

/-- The LM-OTS public key that a signature of `msg` by leaf q leads to; `sig` is type, C and 34 chain values. -/
def otsKey (id : List Nat) (q : Nat) (sig msg : List Nat) : List Nat :=
  let pre := id ++ beBytes 4 q
  let h := hash256 (pre ++ [0x81, 0x81] ++ slice sig 4 32 ++ msg)
  let digits := h ++ beBytes 2 (h.foldl (fun n b => n + (255 - b)) 0)
  hash256 (pre ++ [0x80, 0x80] ++ (List.range 34).flatMap (fun i =>
    otsChain (pre ++ beBytes 2 i) (255 - digits.getD i 0) (digits.getD i 0) (slice sig (36 + 32 * i) 32)))

/-- The root above node `n` along a path. -/
def lmsClimb (id : List Nat) : List (List Nat) → Nat → List Nat → List Nat
  | [], _, t => t
  | p :: ps, n, t => lmsClimb id ps (n / 2) (hash256 (id ++ beBytes 4 (n / 2) ++ [0x83, 0x83] ++ if n % 2 = 1 then p ++ t else t ++ p))

/-- The type codes of a signature of height h, 15 or 20, and its leaf number. -/
def lmsForm (h : Nat) (sig : List Nat) : Bool :=
  beNat (slice sig 4 4) == 4 && beNat (slice sig 1128 4) == (if h = 15 then 7 else 8) && decide (beNat (slice sig 0 4) < 2 ^ h)
/-- The root that a signature leads to. -/
def lmsRoot (h : Nat) (id sig msg : List Nat) : List Nat :=
  let q := beNat (slice sig 0 4)
  lmsClimb id ((List.range h).map (fun i => slice sig (1132 + 32 * i) 32)) (2 ^ h + q)
    (hash256 (id ++ beBytes 4 (2 ^ h + q) ++ [0x82, 0x82] ++ otsKey id q (slice sig 4 1124) msg))
def lmsVerify (h : Nat) (k : LmsKey) (sig msg : List Nat) : Bool := lmsForm h sig && lmsRoot h k.id sig msg == k.root

/-- An HSS signature with two levels of height 15: the top level signs the lower key, which signs the message. -/
def hssVerify (k : LmsKey) (sig msg : List Nat) : Bool :=
  let low := slice sig 1616 56
  beNat (slice sig 0 4) == 1 && lmsVerify 15 k (slice sig 4 1612) low && beNat (slice low 0 4) == 7 && beNat (slice low 4 4) == 4 &&
  lmsVerify 15 ⟨slice low 8 16, slice low 24 32⟩ (slice sig 1672 1612) msg

end Sys2Proof.Machine
end

