-- ==== Sys2Proof/Machine/Identity.lean ====
section
/-!
DEFINITION. The keys of an identity and the signatures it makes (R686, R690): HMAC and HKDF with SHA-384 (RFC 2104, RFC 5869), ECDSA on P-384
(FIPS 186-5), LMS and HSS with trees of height 15 (RFC 8554). Byte strings are lists of numbers below 256, in order (log 64).
-/
namespace Sys2Proof.Machine

/-! ### Derivation -/

def hmac384 (key msg : List Nat) : List Nat :=
  let k0 := if 128 < key.length then hash384 key else key
  let k := k0 ++ List.replicate (128 - k0.length) 0
  hash384 (k.map (fun b => b ^^^ 0x5C) ++ hash384 (k.map (fun b => b ^^^ 0x36) ++ msg))

/-- The blocks of HKDF-Expand from number `i` on, after the block `t`. -/
def hkdfBlocks (prk info : List Nat) : Nat → Nat → List Nat → List Nat
  | 0, _, _ => []
  | n + 1, i, t =>
    let b := hmac384 prk (t ++ info ++ [i])
    b ++ hkdfBlocks prk info n (i + 1) b

/-- `n` bytes from a seed of 32 bytes (R686). -/
def hkdf384 (seed info : List Nat) (n : Nat) : List Nat :=
  (hkdfBlocks (hmac384 Config.keySalt seed) info ((n + 47) / 48) 1 []).take n

/-- The keys that an identity derives at reset: the private key from 56 bytes (FIPS 186-5, A.2.1), seed and identifier of the top tree. -/
def deriveKeys (kind : Bool) (seed : BitVec 256) : IdKeys :=
  let ikm := beBytes 32 seed.toNat
  ⟨beNat (hkdf384 ikm (Config.keyInfo kind 0) 56) % (n384 - 1) + 1, hkdf384 ikm (Config.keyInfo kind 1) 48⟩

/-! ### ECDSA -/

/-- The affine coordinates of a point. -/
def Pt.affine (q : Pt) : Nat × Nat :=
  let i := powMod p384 (q.z % p384) 384 (p384 - 2) 1
  (q.x * (i * i % p384) % p384, q.y * (i * i % p384 * i % p384) % p384)

def ecdsaPublic (d : Nat) : Nat × Nat := (base384.mul 384 d ⟨1, 1, 0⟩).affine
/-- r then s of a signature of `msg` with the private key `d` and the random number `k`. -/
def ecdsaSign (d k : Nat) (msg : List Nat) : List Nat :=
  let r := (base384.mul 384 k ⟨1, 1, 0⟩).affine.1 % n384
  beBytes 48 r ++ beBytes 48 (invMod n384 k * (beNat (hash384 msg) + r * d) % n384)

/-! ### LMS and HSS -/

/-- The secret start of chain `i` of leaf `q` (RFC 8554, appendix A). -/
def otsSecret (id seed : List Nat) (q i : Nat) : List Nat := hash256 (id ++ beBytes 4 q ++ beBytes 2 i ++ [0xFF] ++ seed)
/-- An LM-OTS signature with the randomizer `c`: type, c and 34 chain values. -/
def otsSign (id seed c : List Nat) (q : Nat) (msg : List Nat) : List Nat :=
  let pre := id ++ beBytes 4 q
  let h := hash256 (pre ++ [0x81, 0x81] ++ c ++ msg)
  let digits := h ++ beBytes 2 (h.foldl (fun n b => n + (255 - b)) 0)
  beBytes 4 4 ++ c ++ (List.range 34).flatMap (fun i => otsChain (pre ++ beBytes 2 i) (digits.getD i 0) 0 (otsSecret id seed q i))
/-- The LM-OTS public key of leaf `q`. -/
def otsPublic (id seed : List Nat) (q : Nat) : List Nat :=
  let pre := id ++ beBytes 4 q
  hash256 (pre ++ [0x80, 0x80] ++ (List.range 34).flatMap (fun i => otsChain (pre ++ beBytes 2 i) 255 0 (otsSecret id seed q i)))

/-- Node `n` of a tree of height 15, `k` levels above the leaves. -/
def lmsNode (id seed : List Nat) : Nat → Nat → List Nat
  | 0, n => hash256 (id ++ beBytes 4 n ++ [0x82, 0x82] ++ otsPublic id seed (n - 2 ^ 15))
  | k + 1, n => hash256 (id ++ beBytes 4 n ++ [0x83, 0x83] ++ lmsNode id seed k (2 * n) ++ lmsNode id seed k (2 * n + 1))

/-- A tree's seed and identifier. -/
def treeSeed (t : List Nat) : List Nat := slice t 0 32
def treeId (t : List Nat) : List Nat := slice t 32 16
/-- The LMS public key of a tree: type codes, identifier, root. -/
def lmsPublic (t : List Nat) : List Nat := beBytes 4 7 ++ beBytes 4 4 ++ treeId t ++ lmsNode (treeId t) (treeSeed t) 15 1
/-- The signature by leaf `q` of a tree. -/
def lmsSign (t c : List Nat) (q : Nat) (msg : List Nat) : List Nat :=
  let node (i : Nat) : List Nat := lmsNode (treeId t) (treeSeed t) i (((2 ^ 15 + q) / 2 ^ i) ^^^ 1)
  beBytes 4 q ++ otsSign (treeId t) (treeSeed t) c q msg ++ beBytes 4 7 ++ (List.range 15).flatMap node

/-- The lower tree under leaf `n` of the top tree (log 64). -/
def lowerTree (kind : Bool) (top : List Nat) (n : Nat) : List Nat := hkdf384 (treeSeed top) (Config.keyInfo kind (2 + n)) 48
/-- The HSS public key: L, then the top-level LMS public key. -/
def hssPublic (top : List Nat) : List Nat := beBytes 4 2 ++ lmsPublic top
/-- The HSS signature with index `n` (Table 16.1), with the randomizers of its two LM-OTS signatures. -/
def hssSign (kind : Bool) (top c0 c1 : List Nat) (n : Nat) (msg : List Nat) : List Nat :=
  let low := lowerTree kind top (n / 2 ^ 15)
  beBytes 4 1 ++ lmsSign top c0 (n / 2 ^ 15) (lmsPublic low) ++ lmsPublic low ++ lmsSign low c1 (n % 2 ^ 15) msg

/-- Both signatures of a message, with the random numbers `r` (R690): the HSS signature with index `n`, and the ECDSA signature. -/
def signBoth (kind : Bool) (k : IdKeys) (r : BitVec 896) (n : Nat) (msg : List Nat) : SignPair :=
  ⟨n, hssSign kind k.hss (beBytes 32 (r.toNat / 2 ^ 384 % 2 ^ 256)) (beBytes 32 (r.toNat / 2 ^ 640)) n msg, ecdsaSign k.ecdsa (r.toNat % 2 ^ 384) msg⟩

end Sys2Proof.Machine
end

