-- ==== Sys2Proof/Machine/FixerMath.lean ====
section
/-!
DEFINITION. The arithmetic of the Fixer (10): update rules on blocks of FP32 encodings, catch-up, the preconditioner, learning-rate schedules.
-/
namespace Sys2Proof.Machine

/-- What a STEP uses of its group and command: rule fields as FP32 encodings, the bias-correction count, the learning rate. -/
structure Hyper where
  (b1 b2 eps wd lr gscale t : Nat) (nesterov : Bool)
  deriving DecidableEq, Repr

def map2 (f : Nat → Nat → Nat) : List Nat → List Nat → List Nat
  | a :: as, b :: bs => f a b :: map2 f as bs
  | _, _ => []

/-- A decoded element of a BF16 block (R77, R449), and the event of a value beyond FP32 (R70). -/
def dec16 (scale c : Nat) : Nat := f32 (scaled 2 scale (decodeNum 2 c))
def dec16Ev (scale c : Nat) : Ev := (roundNum 0 none (scaled 2 scale (decodeNum 2 c))).2
def evSum (l : List Ev) : Ev := l.foldl evAdd {}

/-- A moment as it is stored: scale, codes, and the decoded values with which the rule continues (R450); the events of both conversions. -/
structure Enc where
  (scale : Nat) (codes vals : List Nat) (ev : Ev)
  deriving DecidableEq, Repr

def encMoment (rd : Nat → Option Nat) (xs : List Nat) : Enc :=
  let y := convBlock 2 rd 0 (xs.map val32)
  ⟨y.1, y.2.1, y.2.1.map (dec16 y.1), evAdd y.2.2 (evSum (y.2.1.map (dec16Ev y.1)))⟩

def allFinite (l : List Nat) : Bool := l.all finite32

/-- The gradient elements of R449. -/
def scaleGrad (h : Hyper) (g : List Nat) : Vals := fexMap (fun x => .mul (.val h.gscale) (.val x)) g

/-! ### Rules 0 and 1 (R456, R457) -/

/-- w − lr × x. -/
def descend (h : Hyper) (w : Nat) (x : FEx) : FEx := .sub (.val w) (.mul (.val h.lr) x)

def sgdMoment (h : Hyper) (g m : List Nat) : Vals := fexList (fexMap2 (fun m g => .add (.mul (.val h.b1) (.val m)) (.val g)) m g)
def sgdMaster (h : Hyper) (w g m : List Nat) : Vals :=
  fexList (fexMap3 (fun w g m =>
    descend h w (.add (if h.nesterov then .add (.val g) (.mul (.val h.b1) (.val m)) else .val m) (.mul (.val h.wd) (.val w)))) w g m)

def adamM (h : Hyper) (g m : List Nat) : Vals :=
  fexList (fexMap2 (fun m g => .add (.mul (.val h.b1) (.val m)) (.mul (.val (fSub fOne h.b1)) (.val g))) m g)
def adamV (h : Hyper) (g v : List Nat) : Vals :=
  fexList (fexMap2 (fun v g => .add (.mul (.val h.b2) (.val v)) (.mul (.val (fSub fOne h.b2)) (.mul (.val g) (.val g)))) v g)

def adamDir1 (h : Hyper) (w m v : Nat) : FEx :=
  let c1 := fSub fOne (fPow h.b1 h.t)
  let c2 := fSub fOne (fPow h.b2 h.t)
  .add (.div (.div (.val m) (.val c1)) (.add (.sqrt (.div (.val v) (.val c2))) (.val h.eps))) (.mul (.val h.wd) (.val w))
def adamDir (h : Hyper) (w m v : List Nat) : Vals := fexList (fexMap3 (adamDir1 h) w m v)
def adamMaster (h : Hyper) (w u : List Nat) : Vals := fexList (fexMap2 (fun w u => descend h w (.val u)) w u)

/-! ### Catch-up (R464) -/

/-- Master, first and second moment after k skipped updates of rule 0 or 1, and the events. -/
def catchUp (rule : Nat) (h : Hyper) (k : Nat) (w m v : List Nat) : List Nat × List Nat × List Nat × Ev :=
  if k = 0 then (w, m, v, {})
  else
    let decay := fPow (fSub fOne (fMul h.lr h.wd)) k
    let pk := fPow h.b1 k
    let m1 := fexMap (fun m => .mul (.val pk) (.val m)) m
    if rule = 0 then
      let s0 := fDiv (fMul h.b1 (fSub fOne pk)) (fSub fOne h.b1)
      let s1 := if h.b1 = fOne then fNat k else s0
      let sk := if h.nesterov then fMul h.b1 s1 else s1
      let w1 := fexList (fexMap2 (fun w m => .sub (.mul (.val w) (.val decay)) (.mul (.val (fMul h.lr sk)) (.val m))) w m)
      (w1.1, m1.1, v, evAdd w1.2 m1.2)
    else
      let w1 := fexMap (fun w => .mul (.val w) (.val decay)) w
      let v1 := fexMap (fun v => .mul (.val (fPow h.b2 k)) (.val v)) v
      (w1.1, m1.1, v1.1, evAdd w1.2 (evAdd m1.2 v1.2))

/-! ### Rule 2 (R458, R459) -/

/-- r of a segment from its rounded totals, and the events. -/
def trustRatio (tmax w2 u2 : Nat) : Nat × Ev :=
  if fLt fZero w2 && fLt fZero u2 then
    let q := fexRun (.div (.sqrt (.val w2)) (.sqrt (.val u2)))
    (fMin q.1 tmax, q.2)
  else (fOne, {})
def trustMaster (h : Hyper) (r : Nat) (w u : List Nat) : Vals :=
  fexList (fexMap2 (fun w u => .sub (.val w) (.mul (.mul (.val h.lr) (.val r)) (.val u))) w u)

/-! ### Rule 3 (R460 to R462): matrices as lists of 32 rows -/

abbrev Mat := List (List Nat)
def cell (m : Mat) (i j : Nat) : Nat := (m.getD i []).getD j 0
def colOf (m : Mat) (j : Nat) : List Nat := m.map (fun r => r.getD j 0)
/-- Rows of expressions, with the events of them all. -/
def matRun (l : List (List FEx)) : Mat × Ev := l.foldr (fun x r => let y := fexList x; (y.1 :: r.1, evAdd y.2 r.2)) ([], {})
def mat32 (f : Nat → Nat → FEx) : Mat × Ev := matRun ((List.range 32).map (fun i => (List.range 32).map (f i)))
def matMul (a b : Mat) : Mat × Ev := mat32 (fun i j => .dot (a.getD i []) (colOf b j))

def zipRows (f : Nat → Nat → FEx) : Mat → Mat → List (List FEx)
  | a :: as, b :: bs => fexMap2 f a b :: zipRows f as bs
  | _, _ => []

def preMoment (h : Hyper) (mo g : Mat) : Mat × Ev :=
  matRun (zipRows (fun m g => .add (.mul (.val h.b1) (.val m)) (.mul (.val (fSub fOne h.b1)) (.val g))) mo g)
def preStat (h : Hyper) (l g : Mat) : Mat × Ev :=
  mat32 (fun i j => .add (.mul (.val h.b2) (.val (cell l i j)))
    (.div (.mul (.val (fSub fOne h.b2)) (.dot (g.getD i []) (g.getD j []))) (.val (fNat 32))))

/-- The entries of row i of the Cholesky factor left of the diagonal, from the rows above it. -/
def cholRow (a : Mat) (rows : Mat) (i : Nat) : Nat → Vals
  | 0 => ([], {})
  | j + 1 =>
    let c := cholRow a rows i j
    let x := fexRun (.div (.sub (.val (cell a i j)) (.dot c.1 ((rows.getD j []).take j))) (.val (cell rows j j)))
    (c.1 ++ [x.1], evAdd c.2 x.2)

/-- Rows of the factor of the lower triangle of `a` with `d` on its diagonal, in ascending order; none when a pivot fails. -/
def cholesky (a : Mat) (d : Nat) : Nat → Option Mat × Ev
  | 0 => (some [], {})
  | i + 1 =>
    let up := cholesky a d i
    match up.1 with
    | none => up
    | some rows =>
      let c := cholRow a rows i i
      let p := fexRun (.sub (.add (.val (cell a i i)) (.val d)) (.dot c.1 c.1))
      let e := evAdd up.2 (evAdd c.2 p.2)
      if finite32 p.1 && fLt fZero p.1 then
        let q := fexRun (.sqrt (.val p.1))
        (some (rows ++ [c.1 ++ [q.1]]), evAdd e q.2)
      else (none, e)

/-- Rows of the inverse of a lower triangular factor (log 36). -/
def triInv (c : Mat) : Nat → Mat × Ev
  | 0 => ([], {})
  | i + 1 =>
    let y := triInv c i
    let row := fexList (((List.range i).map (fun j =>
      .div (.sub (.val fZero) (.dot (((c.getD i []).take i).drop j) ((colOf y.1 j).drop j))) (.val (cell c i i)))) ++
      [.div (.val fOne) (.val (cell c i i))])
    (y.1 ++ [row.1 ++ List.replicate (31 - i) 0], evAdd y.2 row.2)

/-- What an inversion gives: the matrix, the escalations, 1 for the diagonal fallback (R461), the events (log 36). -/
structure Inverse where
  (mat : Mat) (esc diag : Nat) (ev : Ev)

def dampedInverse (l : Mat) : Nat → Nat → Nat → Ev → Inverse
  | 0, d, esc, ev =>
    let z := mat32 (fun i j => if i = j then .div (.val fOne) (.add (.val (cell l i i)) (.val d)) else .val 0)
    ⟨z.1, esc, 1, evAdd ev z.2⟩
  | n + 1, d, esc, ev =>
    let f := cholesky l d 32
    match f.1 with
    | some c =>
      let y := triInv c 32
      let z := mat32 (fun i j => .dot (colOf y.1 i) (colOf y.1 j))
      ⟨z.1, esc, 0, evAdd (evAdd ev f.2) (evAdd y.2 z.2)⟩
    | none =>
      let q := fexRun (.mul (.val d) (.val (fNat 10)))
      if n = 0 then dampedInverse l 0 d esc (evAdd ev f.2) else dampedInverse l n q.1 (esc + 1) (evAdd (evAdd ev f.2) q.2)

/-- The new masters of a preconditioner block. -/
def preMaster (h : Hyper) (w mo pi : Mat) : Mat × Ev :=
  let u := matMul pi mo
  let a := fexRun (.sqrt (.dot mo.flatten mo.flatten))
  let c := fexRun (.sqrt (.dot u.1.flatten u.1.flatten))
  let k := fexRun (.div (.val a.1) (.val c.1))
  let v := if fLt fZero c.1 then matRun (u.1.map (fun r => r.map (fun x => FEx.mul (.val x) (.val k.1))))
    else (u.1.map (fun r => r.map (fun _ => 0)), {})
  let z := matRun (zipRows (fun w u => descend h w (.add (.val u) (.mul (.val h.wd) (.val w)))) w v.1)
  (z.1, evAdd (evAdd u.2 (evAdd a.2 c.2)) (evAdd (if fLt fZero c.1 then evAdd k.2 v.2 else {}) z.2))

/-! ### Schedules (R467, R468) -/

/-- The fields of CFG_FIXER_SCHED (Table 10.8). -/
structure Sched where
  (base min_ start warmup decay step gamma tmult : Nat) (restart : Bool) (kind wkind : Nat)
  deriving DecidableEq, Repr

/-- tau and the length of its period after the restarts. -/
def restarts (mult : Nat) : Nat → Nat → Nat → Nat × Nat
  | 0, tau, per => (tau % per, per)
  | n + 1, tau, per =>
    if tau < per then (tau, per)
    else if mult = 1 ∨ 2 ^ 32 ≤ per then (tau % per, per)
    else restarts mult n (tau - per) (min (per * mult) (2 ^ 32))

/-- π × 2^128. -/
def piBits : Nat := 1069028584064966747859680373161870783300

/-- The sum of ± t, t θ²/(k+1)(k+2), …: cos θ from k = 0 and t = 1, sin θ from k = 1 and t = θ; t and θ² in units of 2^−128. -/
def trigGo : Nat → Nat → Nat → Nat → Nat
  | 0, _, _, _ => 0
  | n + 1, k, t, q => t - trigGo n (k + 2) (t * q / 2 ^ 128 / ((k + 1) * (k + 2))) q

/-- cos(π g) for g in units of 2^−128 up to one half, in the same units: its error is below 2^8 units. -/
def cosNear (g : Nat) : Nat :=
  let sine := decide (2 ^ 126 < g)
  let a := piBits * (if sine then 2 ^ 127 - g else g) / 2 ^ 128
  if sine then trigGo 20 1 a (a * a / 2 ^ 128) else trigGo 20 0 (2 ^ 128) (a * a / 2 ^ 128)

/-- cos(π f) for f from 0 to 1, exact at 0, 0.5 and 1, else within 1 ulp (R467): the free value where it may qualify (log 10). -/
def cosPi (f : Nat) : Nat :=
  if fIsZero f then fOne else if f = 0x3F000000 then fZero else if f = fOne then 0xBF800000
  else match val32 f with
    | .fin _ m e =>
      let g := if 0 ≤ e + 128 then m * 2 ^ (e + 128).toNat else m / 2 ^ (-(e + 128)).toNat
      let past := decide (2 ^ 127 < g)
      let c := cosNear (if past then 2 ^ 128 - g else g)
      (ulpNear (Config.cosPi f) past (c - 2 ^ 8) c (c + 2 ^ 8) (-128)).1
    | _ => 0x7FC00000

/-- WARM_START to a power k in [0, 1), rounded once (R448, R467): the free value only where the bounds of the exact power round to different
numbers (log 10). -/
def warmPow (x k : Nat) : Nat :=
  if fIsZero k ∨ x = fOne then fOne
  else match val32 x, val32 k with
    | .fin false m e, .fin false kn ke =>
      let l := log2Near m e
      let lo := exp2Near ((l - 4) * kn) (200 + (-ke).toNat)
      let hi := exp2Near ((l + 4) * kn) (200 + (-ke).toNat)
      let a := f32 (.fin false (lo.1 - lo.1 / 2 ^ 240) lo.2)
      let b := f32 (.fin false (hi.1 + hi.1 / 2 ^ 240) hi.2)
      if a = b ∨ Config.warmPower x k ≠ b then a else b
    | _, _ => fOne

def sched (c : Sched) (n : Nat) : Nat :=
  if n < c.warmup then
    let x := fQuot (n + 1) c.warmup
    if c.wkind = 0 then fMul c.base (fAdd c.start (fMul (fSub fOne c.start) x))
    else fMul c.base (warmPow c.start (fSub fOne x))
  else if c.kind = 0 then c.base
  else
    let t0 := n - c.warmup
    let tp := if c.restart then restarts c.tmult 64 t0 c.decay else (min t0 c.decay, c.decay)
    let f := fQuot tp.1 tp.2
    if c.kind = 1 then fAdd c.min_ (fMul (fSub c.base c.min_) (fSub fOne f))
    else if c.kind = 2 then fAdd c.min_ (fDiv (fMul (fSub c.base c.min_) (fAdd fOne (cosPi f))) (fNat 2))
    else fMax c.min_ (fMul c.base (fPow c.gamma (tp.1 / c.step)))

/-- The registers break R468. -/
def schedBad (c : Sched) : Bool :=
  !(finite32 c.base && finite32 c.min_ && finite32 c.start && finite32 c.gamma) ||
  (c.kind != 0 && c.decay == 0) || (c.kind == 3 && c.step == 0) || (c.restart && c.tmult == 0) ||
  (if c.wkind = 1 then !fLt fZero c.start else fLt c.start fZero) || fLt fOne c.start

end Sys2Proof.Machine
end

