-- ==== Sys2Proof/Machine/Tensors.lean ====
section
/-!
DEFINITION. Tensors (09): descriptors and their checks, where elements and scales lie, extents, the non-overlap test, and reading and
writing elements line by line with poison. A line number is an address ÷ 64 within its space.
-/
namespace Sys2Proof.Machine

/-! ### Descriptors (R379 to R385) -/

def tdSize (v d : Nat) : Nat := bitsAt v (24 + 4 * d) 0 32
def tdStride (v d : Nat) : Int := sgnOf 48 (bitsAt v (48 + 6 * d) 0 48)
def tdSstr (v d : Nat) : Int := sgnOf 48 (bitsAt v (84 + 6 * d) 0 48)

/-- The descriptor in 128 bytes; SPACE 2 with this device's own number is SPACE 0 (R380). -/
def parseTD (s : State) (v : Nat) : TD :=
  let rank := bitsAt v 16 4 3
  let space := bitsAt v 16 10 2
  let dev := bitsAt v 16 16 12
  let own := space == 2 && dev == devNum s
  { addr := bitsAt v 0 0 64, saddr := bitsAt v 8 0 64, fmt := bitsAt v 16 0 4, rank := rank, bsh := bitsAt v 16 8 2,
    space := if own then 0 else space, dev := if own then 0 else dev,
    sizes := (List.range 6).map (fun d => if d < rank then tdSize v d else 1),
    strides := (List.range 6).map (fun d => if d < rank then tdStride v d else 0),
    sstr := (List.range 6).map (fun d => if d < rank then tdSstr v d else 0) }

def sizeAt (t : TD) (d : Nat) : Nat := t.sizes.getD d 1

/-- Elements of a packing group: 4 for FP6, 2 for FP4, 1 otherwise (R55, R56). -/
def packGroup (fmt : Nat) : Nat := if fmtBits fmt = 6 then 4 else if fmtBits fmt = 4 then 2 else 1

/-- R57. -/
def packBad (t : TD) : Bool :=
  let g := packGroup t.fmt
  decide (1 < g) && ((decide (1 < sizeAt t 0) && t.strides.getD 0 0 != 1) ||
    (List.range 5).any (fun d => decide (1 < sizeAt t (d + 1)) && t.strides.getD (d + 1) 0 % g != 0))

/-- A reserved field, or a field of a dimension from RANK on, is not 0 (R379, R381). -/
def tdReserved (v : Nat) : Bool :=
  let rank := bitsAt v 16 4 3
  bitsAt v 16 7 1 != 0 || bitsAt v 16 12 4 != 0 || bitsAt v 16 28 4 != 0 || bitsAt v 20 0 32 != 0 || bitsAt v 120 0 64 != 0 ||
  (bitsAt v 16 10 2 != 2 && bitsAt v 16 16 12 != 0) ||
  (List.range 6).any (fun d => decide (rank ≤ d) && (tdSize v d != 0 || tdStride v d != 0 || tdSstr v d != 0))

/-- What check 2 of Table 09.8 asks of one descriptor. -/
def tdBad (v : Nat) (t : TD) : Bool :=
  tdReserved v || t.rank == 0 || t.rank == 7 || decide (10 < t.fmt) || t.bsh == 3 || (t.bsh == 2 && t.rank == 1) ||
  (t.bsh != 0 && !(decide (1 ≤ t.fmt) && decide (t.fmt ≤ 8))) || (t.bsh == 0 && (t.saddr != 0 || t.sstr.any (fun x => x != 0))) ||
  packBad t || t.space == 3

/-- R384. -/
def addrBad (t : TD) : Bool := let w := fmtBits t.fmt; decide (16 ≤ w) && t.addr % (w / 8) != 0

/-! ### Indices -/

def prodOf (l : List Nat) : Nat := l.foldl (· * ·) 1
/-- The `n`-th index vector, dimension 0 varying fastest. -/
def idxAt : List Nat → Nat → List Nat
  | [], _ => []
  | z :: t, n => n % z :: idxAt t (n / z)
def allIdx (sizes : List Nat) : List (List Nat) := (List.range (prodOf sizes)).map (idxAt sizes)

def dotI : List Nat → List Int → Int
  | i :: is, x :: xs => i * x + dotI is xs
  | _, _ => 0

/-- First bit of the element with index vector `i`, from bit 0 of its space (R384). -/
def elemBit (t : TD) (i : List Nat) : Int := 8 * t.addr + fmtBits t.fmt * dotI i t.strides
def elemBitN (t : TD) (i : List Nat) : Nat := (elemBit t i).toNat

/-- The block dimension, and the block coordinates of an index (R385). -/
def blockIdx (t : TD) (i : List Nat) : List Nat :=
  (List.range 6).map (fun d => if t.bsh != 0 && d == t.bsh - 1 then i.getD d 0 / 32 else i.getD d 0)
def scaleSizes (t : TD) : List Nat :=
  (List.range 6).map (fun d => if t.bsh != 0 && d == t.bsh - 1 then (sizeAt t d + 31) / 32 else sizeAt t d)
/-- Address of the scale byte of the block that holds an index (R385). -/
def scaleAddr (t : TD) (i : List Nat) : Nat := (t.saddr + dotI (blockIdx t i) t.sstr : Int).toNat

/-! ### Extents (R386, R387) -/

def lowSum : List Nat → List Int → Int
  | n :: ns, x :: xs => (if x < 0 then (n - 1 : Nat) * x else 0) + lowSum ns xs
  | _, _ => 0
def highSum : List Nat → List Int → Int
  | n :: ns, x :: xs => (if 0 < x then (n - 1 : Nat) * x else 0) + highSum ns xs
  | _, _ => 0

/-- The lowest and the highest byte of the elements; none for a tensor without elements (R383). -/
def elemExtent (t : TD) : Option (Int × Int) :=
  if t.sizes.any (fun n => n == 0) then none
  else
    let w : Int := fmtBits t.fmt
    some ((8 * t.addr + w * lowSum t.sizes t.strides) / 8, (8 * t.addr + w * highSum t.sizes t.strides + w - 1) / 8)

def scaleExtent (t : TD) : Option (Int × Int) :=
  if t.bsh = 0 || t.sizes.any (fun n => n == 0) then none
  else some (t.saddr + lowSum (scaleSizes t) t.sstr, t.saddr + highSum (scaleSizes t) t.sstr)

def extentsOf (t : TD) : List (Int × Int) := (elemExtent t).toList ++ (scaleExtent t).toList

def spaceLimit (space : Nat) : Int := if space = 1 then 2 ^ 52 else 2 ^ 40
/-- An extent leaves its space, or ADDR is misaligned (check 4). -/
def extentBad (t : TD) : Bool := addrBad t || (extentsOf t).any (fun e => decide (e.1 < 0) || decide (spaceLimit t.space ≤ e.2))

def meet (a b : Int × Int) : Bool := decide (a.1 ≤ b.2) && decide (b.1 ≤ a.2)

/-! ### The non-overlap test (R389) -/

def insertStride (x : Nat × Nat) : List (Nat × Nat) → List (Nat × Nat)
  | [] => [x]
  | y :: t => if x.2 ≤ y.2 then x :: y :: t else y :: insertStride x t

def spanGo : Nat → List (Nat × Nat) → Bool
  | _, [] => true
  | span, (n, x) :: t => decide (span + 1 ≤ x) && spanGo (span + (n - 1) * x) t

def nonOverlap (sizes : List Nat) (strides : List Int) : Bool :=
  spanGo 0 (((sizes.zip strides).filter (fun p => decide (1 < p.1))).map (fun p => (p.1, p.2.natAbs)) |>.foldr insertStride [])

def denseDst (t : TD) : Bool := nonOverlap t.sizes t.strides && (t.bsh == 0 || nonOverlap (scaleSizes t) t.sstr)

/-- A destination extent meets another extent in the same space, or the other of the destination's own (R391). -/
def dstHits (dst : TD) (others : List (Nat × Nat × (Int × Int))) : Bool :=
  (match extentsOf dst with
   | [a, b] => meet a b
   | _ => false) ||
  (extentsOf dst).any (fun e => others.any (fun o => o.1 == dst.space && o.2.1 == dst.dev && meet e o.2.2))

def extentsIn (t : TD) : List (Nat × Nat × (Int × Int)) := (extentsOf t).map (fun e => (t.space, t.dev, e))

/-! ### Reading -/

/-- Lines read from another device: line number, contents, poison. -/
abbrev RBuf := List (Nat × Line × Bool)

/-- A byte of a space, and whether its line is poisoned. -/
def spaceByte (s : State) (rb : RBuf) (space a : Nat) : Nat × Bool :=
  if space = 1 then (hostByte s a, hostPoisoned s (a / 64))
  else if space = 2 then
    match rb.find? (fun e => e.1 == a / 64) with
    | some e => (if e.2.2 then 0 else e.2.1.toNat / 2 ^ (8 * (a % 64)) % 256, e.2.2)
    | none => (0, false)
  else (if poisoned s (a / 64) then 0 else (tget zeroB s.m.mem a).toNat, poisoned s (a / 64))

def spaceBytes (s : State) (rb : RBuf) (space a : Nat) : Nat → Nat × Bool
  | 0 => (0, false)
  | n + 1 =>
    let x := spaceByte s rb space a
    let y := spaceBytes s rb space (a + 1) n
    (x.1 + 256 * y.1, x.2 || y.2)

/-- `w` bits from bit `b` of a space. -/
def spaceBits (s : State) (rb : RBuf) (space b w : Nat) : Nat × Bool :=
  let x := spaceBytes s rb space (b / 8) ((b % 8 + w + 7) / 8)
  (x.1 / 2 ^ (b % 8) % 2 ^ w, x.2)

def elemRead (s : State) (rb : RBuf) (t : TD) (i : List Nat) : Nat × Bool := spaceBits s rb t.space (elemBitN t i) (fmtBits t.fmt)
def scaleRead (s : State) (rb : RBuf) (t : TD) (i : List Nat) : Nat × Bool := spaceBits s rb t.space (8 * scaleAddr t i) 8

/-- Lines of a space that the elements and scales of an index touch. -/
def bitLines (b w : Nat) : List Nat := linesOf (b / 8) ((b % 8 + w + 7) / 8)
def elemLines (t : TD) (i : List Nat) : List Nat :=
  bitLines (elemBitN t i) (fmtBits t.fmt) ++ if t.bsh = 0 then [] else [scaleAddr t i / 64]

/-! ### Writing, line by line -/

/-- What a command gives a line: the bits, their values, and whether it is poisoned. -/
structure LineW where
  (mask data : BitVec 512) (poison : Bool)
  deriving DecidableEq, Repr

def noLineW (_ : Nat) : LineW := ⟨0, 0, false⟩

/-- Adds `w` bits of value `v` from bit `b` of line `l`; what goes past the line's end goes to the next line. -/
def putLine (t : Table LineW) (l b w v : Nat) (p : Bool) : Table LineW :=
  let x := tget noLineW t l
  let m : BitVec 512 := BitVec.ofNat 512 ((2 ^ w - 1) * 2 ^ b)
  tset noLineW t l ⟨x.mask ||| m, (x.data &&& ~~~ m) ||| (BitVec.ofNat 512 (v % 2 ^ w * 2 ^ b)), x.poison || p⟩

def putBits (t : Table LineW) (b w v : Nat) (p : Bool) : Table LineW :=
  let l := b / 512
  if b % 512 + w ≤ 512 then putLine t l (b % 512) w v p
  else
    let n := 512 - b % 512
    putLine (putLine t l (b % 512) n v p) (l + 1) 0 (w - n) (v / 2 ^ n) p

def putElem' (t : Table LineW) (d : TD) (i : List Nat) (v : Nat) (p : Bool) : Table LineW := putBits t (elemBitN d i) (fmtBits d.fmt) v p
def putScale (t : Table LineW) (d : TD) (i : List Nat) (v : Nat) : Table LineW := putBits t (8 * scaleAddr d i) 8 v false

/-- The unused element positions of the last packing group of an innermost row, when its last element is written (R58). -/
def tailZero (t : Table LineW) (d : TD) (i : List Nat) : Table LineW :=
  let g := packGroup d.fmt
  let n := sizeAt d 0
  if 1 < g ∧ i.getD 0 0 + 1 = n ∧ n % g ≠ 0 then
    putBits t (elemBitN d i + fmtBits d.fmt) (fmtBits d.fmt * (g - n % g)) 0 false else t

/-- Lines that the unused positions of a last group touch (R58). -/
def tailLines (d : TD) (i : List Nat) : List Nat :=
  let g := packGroup d.fmt
  let n := sizeAt d 0
  if 1 < g ∧ i.getD 0 0 + 1 = n ∧ n % g ≠ 0 then bitLines (elemBitN d i + fmtBits d.fmt) (fmtBits d.fmt * (g - n % g)) else []
/-- Lines that writing an element, its scale and the end of its row touches. -/
def writtenLines (d : TD) (i : List Nat) : List Nat := elemLines d i ++ tailLines d i

def mergeLine (old : Line) (x : LineW) : Line := (old &&& ~~~ x.mask) ||| (x.data &&& x.mask)
def fullLine (x : LineW) : Bool := x.mask == BitVec.allOnes 512

/-- Bytes of a line that a command writes. -/
def maskBytes (m : BitVec 512) : Nat := ((List.range 64).filter (fun i => m.toNat / 2 ^ (8 * i) % 256 != 0)).length

/-- One line of the device range: a line poisoned already stays so unless every byte is given (R290); the block is mapped when it is first
written (R352). -/
def writeLineW (s : State) (l : Nat) (x : LineW) : State :=
  match autoMap s (blockOfLine l) with
  | none => bump s 86 1
  | some s1 =>
    if x.poison then poisonLine s1 l
    else if fullLine x then writeLine s1 l x.data
    else if poisoned s1 l then s1
    else writeLine s1 l (mergeLine (readLine s1 l) x)

def writeLinesW (s : State) : List (Nat × LineW) → State
  | [] => s
  | (l, x) :: t => writeLinesW (writeLineW s l x) t

/-- One line of host memory; a poisoned line goes out as zeros with the poison indication (R775). -/
def hostLineW (s : State) (l : Nat) (x : LineW) : State :=
  if x.poison then
    { bump s 58 64 with host := { keepPage s (64 * l) with mem := writeN s.host.mem (hostAt s (64 * l)) 64 0, poison := tset noMark s.host.poison (hostAt s (64 * l) / 64) true } }
  else
    let old := BitVec.ofNat 512 (readHost s (64 * l) 64)
    let w := writeN s.host.mem (hostAt s (64 * l)) 64 (mergeLine old x).toNat
    let p := if fullLine x then tset noMark s.host.poison (hostAt s (64 * l) / 64) false else s.host.poison
    bump { s with host := { keepPage s (64 * l) with mem := if hostPoisoned s l && !fullLine x then s.host.mem else w, poison := p } } 58 (maskBytes x.mask)

def hostLinesW (s : State) : List (Nat × LineW) → State
  | [] => s
  | (l, x) :: t => hostLinesW (hostLineW s l x) t

/-! ### Lines that must be settled before a command touches them -/

/-- A line of the range that the host holds (R619). -/
def heldByHost (s : State) (l : List Nat) : List Nat := l.filter (hostHolds s)
def recallFromHost (s : State) (l : List Nat) : State := l.foldl sendBisnp s
/-- A block in COPY holds writes (R357). -/
def anyCopy (s : State) (bs : List Nat) : Bool := bs.any (fun b => (dirOf s b).mig)

/-- Lines that the host holds come back before a command reads or writes them (R619); the command's row acts again then. -/
def hostFirst (s : State) (l : List Nat) (f : State) : State :=
  if (heldByHost s l).isEmpty then f else recallFromHost s (heldByHost s l)

/-! ### Structures -/

/-- Host bytes read are counted (Table 14.11). -/
def countRead (s : State) (space n : Nat) : State := bumpIf (space == 1 && n != 0) s 57 n
def ptrSpace (v : Nat) : Nat := if (ptrOf v).host then 1 else 0

/-- A descriptor pointer's own failure (R377, check 1). -/
def ptrFail (v n : Nat) : Option Status := if ptrSpaceBad v then some .format else if ptrRangeBad v n then some .range else none

/-- Bytes of the structure at a pointer that has passed check 1 (R774). -/
def structAt (s : State) (v n : Nat) : Except Status Nat :=
  match structFault s (ptrOf v).host (ptrOf v).addr n with
  | some e => .error e
  | none => .ok (structBytes s (ptrOf v).host (ptrOf v).addr n)

/-- Lines of the device range that the structure at a pointer takes; none where the pointer itself fails. -/
def structLines (v n : Nat) : List Nat := if (ptrFail v n).isSome || (ptrOf v).host then [] else linesOf (ptrOf v).addr n

/-- The structures that are read one after another, each a pointer and a length, as far as the reads go: the lines of the first that the host
holds (R619, R774). -/
def heldStructs (s : State) : List (Nat × Nat) → List Nat
  | [] => []
  | (v, n) :: t =>
    if !(heldByHost s (structLines v n)).isEmpty then heldByHost s (structLines v n)
    else if (ptrFail v n).isSome || (structFault s (ptrOf v).host (ptrOf v).addr n).isSome then [] else heldStructs s t

/-! #### What a command has kept of its structures (R378) -/

def snapOf (s : State) (ring slot : Nat) (k : SnapKey) : Option Nat :=
  (s.m.snaps.find? (fun x => x.ring == ring && x.slot == slot && x.key == k)).map (·.raw)
def keepSnap (s : State) (ring slot : Nat) (k : SnapKey) (raw : Nat) : State :=
  if (snapOf s ring slot k).isSome then s else { s with m := { s.m with snaps := s.m.snaps ++ [⟨ring, slot, k, raw⟩] } }

/-! ### Lines that the base die touches (R311) -/

/-- A line is recalled from the slice of the stack that homes it. -/
def recallAt (s : State) (l : Nat) : State :=
  match (dirOf s (blockOfLine l)).home with
  | .stack p => recallLine s p l
  | _ => s

/-! ### Room in the stack tier (R773) -/

/-- The unmapped blocks among `l` find places in the stack tier. -/
def roomFor (s : State) (l : List Nat) : Bool := let n := (unmappedOf s l).length; n == 0 || decide (n ≤ tierRoom s 2)

end Sys2Proof.Machine
end

