-- ==== Sys2Proof/Machine/FixerGroup.lean ====
section
/-!
DEFINITION. Parameter groups (10): the group record, its tensors and shards, and the UPDATE commands that define, modify and release a group.
-/
namespace Sys2Proof.Machine

def groupDefault (_ : Nat) : GroupSt := {}
def groupOf (s : State) (g : Nat) : GroupSt := tget groupDefault s.fx.groups g
def setGroup (s : State) (g : Nat) (x : GroupSt) : State := { s with fx := { s.fx with groups := tset groupDefault s.fx.groups g x } }

/-! ### The group record (Tables 10.1 to 10.3), as a number -/

def grRule (r : Nat) : Nat := bitsAt r 0 0 8
def grWcFmt (r : Nat) : Nat := bitsAt r 1 0 8
def grFlag (r k : Nat) : Bool := bitsAt r 2 k 1 == 1
def grWcBs (r : Nat) : Bool := grFlag r 0
def grWcTile (r : Nat) : Bool := grFlag r 1
def grEmbed (r : Nat) : Bool := grFlag r 2
def grCatchup (r : Nat) : Bool := grFlag r 3
def grNesterov (r : Nat) : Bool := grFlag r 4
def grFrozen (r : Nat) : Bool := grFlag r 5
def grCoG (r : Nat) : Bool := grFlag r 6
def grCoW (r : Nat) : Bool := grFlag r 7
def grSr (r : Nat) : Nat := bitsAt r 3 0 8
def grRowLen (r : Nat) : Nat := bitsAt r 4 0 32
def grP (r : Nat) : Nat := bitsAt r 8 0 64
/-- The i-th address: MASTER, M1, M1S, M2, M2S, AUX, AUXS, GRAD, GRADS, WC, WCS, ROWREC. -/
def grAddr (r i : Nat) : Nat := bitsAt r (16 + 8 * i) 0 64
def grSeed (r : Nat) : Nat := bitsAt r 112 0 64
/-- The i-th of B1, B2, EPS, WD, DAMP, TRUST_MAX, NSEG_LEN, PRECOND_EVERY. -/
def grHyper (r i : Nat) : Nat := bitsAt r (120 + 4 * i) 0 32

def grBlocks (r : Nat) : Nat := (grP r + 31) / 32
def grRows (r : Nat) : Nat := if grRowLen r = 0 then 0 else grP r / grRowLen r

/-- The rule uses tensor i (Table 10.2, R432, R433). -/
def usesTensor (r i : Nat) : Bool :=
  if i = 0 ∨ i = 1 ∨ i = 2 ∨ i = 9 then true
  else if i = 3 ∨ i = 4 then grRule r != 0
  else if i = 5 ∨ i = 6 then grRule r == 3
  else if i = 7 ∨ i = 8 then !grEmbed r
  else if i = 10 then grWcBs r
  else grEmbed r

/-- Weight packing factor of a format (Table 05.1). -/
def packKw (fmt : Nat) : Nat := if fmt = 1 ∨ fmt = 2 then 1 else if fmt = 7 then 4 else 2

/-- Offset of the scale byte of a block in WCS (R431, R434). -/
def wcsOff (r b : Nat) : Nat :=
  if grWcTile r then
    let kw := packKw (grWcFmt r)
    64 * (b / (16 * kw)) + 16 * (b % kw) + b % (16 * kw) / kw
  else b

/-- Bytes of tensor i (R431). -/
def tensorBytes (r i : Nat) : Nat :=
  let p := grP r
  if i = 0 then 4 * p
  else if i = 1 ∨ i = 3 ∨ i = 5 ∨ i = 7 then 2 * p
  else if i = 9 then
    let g := packGroup (grWcFmt r)
    (p + g - 1) / g * g * fmtBits (grWcFmt r) / 8
  else if i = 10 then
    let nb := grBlocks r
    (List.range 64).foldl (fun m k => if k < nb then max m (wcsOff r (nb - 1 - k) + 1) else m) 0
  else if i = 11 then 8 * grRows r
  else grBlocks r

/-- Tensors whose blocks the group homes by shard (R436). -/
def homedTensors (r : Nat) : List Nat :=
  ([0, 1, 2, 3, 4, 5, 6, 11] ++ (if grCoG r then [7, 8] else []) ++ (if grCoW r then [9, 10] else [])).filter (usesTensor r)
def usedTensors (r : Nat) : List Nat := (List.range 12).filter (usesTensor r)

/-- Elements of a shard (R435). -/
def shardLen (r : Nat) : Nat := if grEmbed r then max 2097152 (8192 * grRowLen r) else 2097152

/-- The first element that the n-th 64 KiB block of a tensor holds. -/
def firstElem (r i n : Nat) : Nat :=
  if i = 0 then n * 16384
  else if i = 1 ∨ i = 3 ∨ i = 5 ∨ i = 7 then n * 32768
  else if i = 9 then n * 524288 / fmtBits (grWcFmt r)
  else if i = 10 then (if grWcTile r then n * 1024 * 16 * packKw (grWcFmt r) * 32 else n * 2097152)
  else if i = 11 then n * 8192 * grRowLen r
  else n * 2097152

/-- The stack of a shard (R436). -/
def shardStack (s : State) (g k : Nat) : Nat :=
  let l := spreadList s 2
  l.getD ((k + g) % l.length) 0

/-- Blocks of the homed tensors with the stack each belongs to. -/
def homedBlocks (s : State) (g r : Nat) : List (Nat × Nat) :=
  (homedTensors r).flatMap (fun i =>
    (List.range ((tensorBytes r i + 65535) / 65536)).map (fun n =>
      (grAddr r i / 65536 + n, shardStack s g (firstElem r i n / shardLen r))))

/-! ### UPDATE descriptors (Table 10.4) -/

def upOp (d : Line) : Nat := fld d 8 0 2
def upGroup (d : Line) : Nat := fld d 8 2 6
def upLr (d : Line) : Nat := bytesAt d 12 4
def upGscale (d : Line) : Nat := bytesAt d 16 4
def upFields : List (Nat × Nat × Nat) := [(8, 0, 8), (12, 0, 32), (16, 0, 32), (24, 0, 64), (32, 0, 64), (40, 0, 64)]

/-- An earlier command that `p` names has not completed (R438, R551). -/
def earlier (s : State) (ring slot : Nat) (p : Line → Bool) : Bool :=
  match cmdOf s ring slot with
  | some m => s.cm.cmds.any (fun q => decide (q.order < m.order) && p q.desc)
  | none => false

/-- Operations of a group are serialized, among themselves and with CHECKPOINT and RESTORE (R438, R470, R593) (log 37). -/
def groupBusy (s : State) (ring slot g : Nat) : Bool :=
  earlier s ring slot (fun d => (dOpcode d == 0x42 && upGroup d == g) || dOpcode d == 0x44) ||
  (match cmdOf s ring slot with
   | some m => s.cm.cmds.any (fun q => decide (q.order < m.order) && dOpcode q.desc == 0x43 && (q.phase == .held || q.phase == .ready))
   | none => false)

/-! ### DEFINE (R439, R440, Table 10.5) -/

/-- Table 10.3. -/
def wcBad (r : Nat) : Bool :=
  let f := grWcFmt r
  decide (8 < f) || (f == 0 && (grWcBs r || grWcTile r || grSr r / 2 % 2 == 1)) || (decide (5 ≤ f) && !grWcBs r) || (grWcTile r && !grWcBs r)

def powerOf2 (n : Nat) : Bool := decide (0 < n) && decide (2 ^ Nat.log2 n = n)

/-- A used FP32 field out of its range. -/
def hyperBad (r : Nat) : Bool :=
  let k := grRule r
  let b1 := grHyper r 0
  let b2 := grHyper r 1
  let inUnit (x : Nat) : Bool := finite32 x && !fNeg x && fLt x fOne
  !inUnit b1 || !finite32 (grHyper r 3) || fNeg (grHyper r 3) ||
  (if k = 0 then b2 != 0 else !inUnit b2) ||
  (if k = 1 ∨ k = 2 then !finite32 (grHyper r 2) || !fLt fZero (grHyper r 2) else grHyper r 2 != 0) ||
  (if k = 3 then !finite32 (grHyper r 4) || !fLt fZero (grHyper r 4) else grHyper r 4 != 0) ||
  (if k = 2 then !finite32 (grHyper r 5) || !fLt fZero (grHyper r 5) else grHyper r 5 != 0) ||
  (if k = 2 then grHyper r 6 % 32 != 0 else grHyper r 6 != 0) ||
  (if k = 3 then grHyper r 7 == 0 else grHyper r 7 != 0)

/-- The FORMAT line of Table 10.5. -/
def recordBad (r : Nat) : Bool :=
  decide (3 < grRule r) || bitsAt r 152 0 832 != 0 || decide (3 < grSr r) || wcBad r || hyperBad r ||
  (List.range 12).any (fun i => bitsAt r (16 + 8 * i) 40 24 != 0 || (!usesTensor r i && grAddr r i != 0)) ||
  (grNesterov r && grRule r != 0) ||
  (if grEmbed r then decide (2 ≤ grRule r) || !(powerOf2 (grRowLen r) && decide (32 ≤ grRowLen r) && decide (grRowLen r ≤ 65536))
   else grRowLen r != 0 || grCatchup r)

/-- The SHAPE line. -/
def recordShape (r : Nat) : Bool :=
  grP r == 0 || (grRule r == 3 && grP r % 1024 != 0) ||
  (grRule r == 2 && (grP r % grHyper r 6 != 0 || decide (4096 < grP r / grHyper r 6))) || (grEmbed r && grP r % grRowLen r != 0)

/-- Blocks that need a place in a stack. -/
def needPlaces (s : State) (l : List (Nat × Nat)) (p : Nat) : Nat :=
  (l.filter (fun x => x.2 == p && (dirOf s x.1).home != .stack p)).length
def stackRoom (s : State) (p : Nat) : Nat :=
  let live := inServiceChans s p
  36800 * live.length - ((usedPlaces s).filter (fun x => x.home == .stack p && live.contains x.ch)).length

/-- The RANGE line. -/
def recordRange (s : State) (g r : Nat) : Bool :=
  (usedTensors r).any (fun i => grAddr r i % (if (homedTensors r).contains i then 65536 else 64) != 0 || !inRange40 (grAddr r i) (tensorBytes r i)) ||
  (List.range 8).any (fun p => decide (stackRoom s p < needPlaces s (homedBlocks s g r) p)) ||
  decide (tierRoom s 2 < ((homedBlocks s g r).filter (fun x => tierOf (dirOf s x.1).home != some 2)).length)

def spansMeet (a b : Nat × Nat) : Bool := decide (a.1 < b.1 + b.2) && decide (b.1 < a.1 + a.2)
def spansOf (r : Nat) (l : List Nat) : List (Nat × Nat) := (l.map (fun i => (grAddr r i, tensorBytes r i))).filter (fun x => x.2 != 0)
def anyTwo (f : (Nat × Nat) → (Nat × Nat) → Bool) : List (Nat × Nat) → Bool
  | [] => false
  | a :: t => t.any (f a) || anyTwo f t

/-- The ALIAS line: extents of the record, and those of defined groups. -/
def recordAlias (s : State) (r : Nat) : Bool :=
  let l := spansOf r (usedTensors r)
  anyTwo spansMeet l ||
  (List.range 64).any (fun g => let x := groupOf s g
    x.defined && (spansOf x.record.toNat (homedTensors x.record.toNat)).any (fun a => l.any (spansMeet a)))

/-- The checks of Table 10.5 after the record has been read (log 37). -/
def defineFail (s : State) (g r : Nat) : Option Status :=
  firstFail [(recordBad r, .format), (recordShape r, .shape), (recordRange s g r, .range), (recordAlias s r, .alias_)]

/-- The record that RECORD names (R439, R774). -/
def readRecord (s : State) (v : Nat) : Except Status Nat :=
  if (ptrFail v 256).isSome then .error .range else structAt s v 256

/-- Bytes `a` to `a + n - 1` of the device range become 0, and lines that lie wholly inside are no longer poisoned. -/
def zeroBytes (s : State) (a n : Nat) : State :=
  { s with m := { s.m with mem := tclear s.m.mem (fun x => decide (a ≤ x) && decide (x < a + n)),
                           poison := tclear s.m.poison (fun l => decide (a ≤ 64 * l) && decide (64 * l + 64 ≤ a + n)) } }

/-- One block of a group being defined: mapped in its stack, or moved there. -/
def defineBlock (s : State) (ring slot : Nat) (x : Nat × Nat) : State :=
  let n := max 1 s.fit.nStacks
  if mapped s x.1 then
    let e := dirOf s x.1
    let s1 := setDir s x.1 { e with tiers := 4, cmp := false, fixer := true }
    if e.home = .stack x.2 then s1 else waitFor1 s1 ⟨x.1, .cmd ring slot, false, none, none, some x.2⟩
  else match tryStack s x.1 n x.2 with
    | some p => mapAt s x.1 p { ({} : DirEntry) with tiers := 4, fixer := true }
    | none => s

/-- The lines of the row records. -/
def recLines (r : Nat) : List Nat := if grEmbed r then linesOf (grAddr r 11) (tensorBytes r 11) else []

/-- The group becomes defined (R440). The Fixer recalls the lines of row records that it writes to zero; they wait at their channels (R291, R311,
R455). -/
def defineGroup (s : State) (ring slot g r : Nat) : State :=
  let s1 := (homedBlocks s g r).foldl (fun t x => defineBlock t ring slot x) s
  let s2 := if grEmbed r then zeroBytes ((recLines r).foldl (fun t l => queueLine (recallAt t l) l true) s1) (grAddr r 11) (tensorBytes r 11) else s1
  setGroup s2 g { (groupOf s2 g) with defined := true, record := BitVec.ofNat 2048 r, t := 0 }

/-- A UPDATE field that its OP does not use is not 0 (R437) (log 37). -/
def recordFieldsOnly (d : Line) : Bool := upLr d == 0 && upGscale d == 0 && bytesAt d 32 8 == 0 && bytesAt d 40 8 == 0

/-- A DEFINE with its record: Table 10.5, then its blocks leave COPY and the host gives the row records back (R357, R440, R619); it keeps the
record as long as it waits (R437). -/
def defineWith (s : State) (ring slot g v r : Nat) : State :=
  match defineFail s g r with
  | some e => finishCmd s ring slot e 0
  | none =>
    let t := keepSnap s ring slot (.desc v) r
    if s.m.moves.any (fun v => v.copy && (homedBlocks s g r).any (fun x => x.1 == v.block)) then t
    else hostFirst t (recLines r) (settleMoves (defineGroup s ring slot g r) ring slot)

def updateDefine (s : State) (ring slot : Nat) (d : Line) : State :=
  let g := upGroup d
  let v := bytesAt d 24 8
  if groupBusy s ring slot g then s
  else
    checked s ring slot
      [(!bodyOk d upFields || !recordFieldsOnly d, .format), ((ptrFail v 256).isSome, .range), ((groupOf s g).defined, .alias_)]
      (match snapOf s ring slot (.desc v) with
       | some r => defineWith s ring slot g v r
       | none => hostFirst s (structLines v 256) (match readRecord s v with
         | .error e => finishCmd s ring slot e 0
         | .ok r => defineWith (countRead s (ptrSpace v) 256) ring slot g v r))

/-- UPDATE_DEFINE (R439, R440). -/
def execUpdateDefine (ring slot : Nat) (s : State) : Host.Outcome State Fault Refusal :=
  .next (withCmd s ring slot 0x42 (fun d => if upOp d = 1 then updateDefine s ring slot d else s))

/-! ### MODIFY and RELEASE (R443 to R445) -/

/-- What MODIFY may change: FROZEN, SR, SEED and bytes 120 to 151. -/
def modifyMask : Nat := fieldMask [(2, 5, 1), (3, 0, 8), (112, 0, 64), (120, 0, 256)]
def modifyBad (old new : Nat) : Bool := old ||| modifyMask != new ||| modifyMask || recordBad new ||
  (grRule new == 2 && (grP new % grHyper new 6 != 0 || decide (4096 < grP new / grHyper new 6)))

def updateModify (s : State) (ring slot : Nat) (d : Line) : State :=
  let g := upGroup d
  let x := groupOf s g
  if groupBusy s ring slot g then s
  else
    checked s ring slot [(!bodyOk d upFields || !recordFieldsOnly d, .format), (!x.defined, .range)]
      (hostFirst s (structLines (bytesAt d 24 8) 256) (match readRecord s (bytesAt d 24 8) with
       | .error e => finishCmd s ring slot e 0
       | .ok r =>
         let s0 := countRead s (ptrSpace (bytesAt d 24 8)) 256
         if modifyBad x.record.toNat r then finishCmd s0 ring slot .format 0
         else finishCmd (setGroup s0 g { x with record := BitVec.ofNat 2048 r }) ring slot .ok 0))

/-- UPDATE_MODIFY (R443). -/
def execUpdateModify (ring slot : Nat) (s : State) : Host.Outcome State Fault Refusal :=
  .next (withCmd s ring slot 0x42 (fun d => if upOp d = 2 then updateModify s ring slot d else s))

/-- The group is undefined; its blocks are no longer the Fixer's (R444). -/
def releaseGroup (s : State) (g : Nat) : State :=
  let x := groupOf s g
  let s1 := (homedBlocks s g x.record.toNat).foldl (fun t b => setDir t b.1 { dirOf t b.1 with fixer := false }) s
  setGroup s1 g { x with defined := false }

def updateRelease (s : State) (ring slot : Nat) (d : Line) : State :=
  let g := upGroup d
  if groupBusy s ring slot g then s
  else
    checked s ring slot [(!bodyOk d upFields || !recordFieldsOnly d || bytesAt d 24 8 != 0, .format), (!(groupOf s g).defined, .range)]
      (finishCmd (releaseGroup s g) ring slot .ok 0)

/-- UPDATE_RELEASE (R444, R445). -/
def execUpdateRelease (ring slot : Nat) (s : State) : Host.Outcome State Fault Refusal :=
  .next (withCmd s ring slot 0x42 (fun d => if upOp d = 3 then updateRelease s ring slot d else s))

end Sys2Proof.Machine
end

