-- ==== Sys2Proof/Machine/Segments.lean ====
section
/-!
DEFINITION. Sending remote writes and reads (12): segments of lines, requests for groups of 16 lines, and what waits for a usable route.
-/
namespace Sys2Proof.Machine

/-- Body bytes of a packet that carries `n` lines (Table 12.9). -/
def lineLen (n : Nat) : Nat := 16 + 64 * n

/-- The lines of one group of 16 as the fields of a packet: mask, poison mask, data in ascending line order. -/
def groupFields (l : List (Nat × Line × Bool)) : BitVec 16 × BitVec 16 × List Line :=
  (l.foldl (fun m e => putBit m (e.1 % 16) true) 0, l.foldl (fun m e => putBit m (e.1 % 16) e.2.2) 0, l.map (fun e => if e.2.2 then 0 else e.2.1))

/-- The packets of a segment; the last carries END with the count of lines (Table 12.9). -/
def segBodies (segid total : Nat) (l : List (Nat × Line × Bool)) : List Nat → List (Payload × Nat)
  | [] => []
  | g :: gs =>
    let x := l.filter (fun e => e.1 / 16 == g)
    let f := groupFields x
    (.write g segid f.1 f.2.1 (if gs.isEmpty then some total else none) f.2.2, lineLen x.length) :: segBodies segid total l gs

def sendBodies (s : State) (k : Nat) (vc : BitVec 2) (dst : Nat) : List (Payload × Nat) → State
  | [] => s
  | b :: t => sendBodies (sendSpread s k vc dst b.2 b.1) k vc dst t

/-- The port that spread stream `n` toward a device takes now (R538). -/
def spreadPort (s : State) (n dst : Nat) : Option Nat :=
  ((usableRoutes s dst)[n % (usableRoutes s dst).length]?).map (routePort s dst)

/-- A segment goes out over a usable route, or waits for one (R538, R539). -/
def sendSeg (s : State) (o : OutSeg) : State :=
  match spreadPort s o.key.segid o.dst with
  | none => { s with fb := { s.fb with outSegs := s.fb.outSegs ++ [o] } }
  | some p => sendBodies { s with fb := { s.fb with outSegs := s.fb.outSegs ++ [{ o with port := some p }] } } o.key.segid o.vc o.dst o.bodies

/-- The next number of segments and reads, modulo 2¹⁶. -/
def takeSeg (s : State) : State := { s with fb := { s.fb with segNext := (s.fb.segNext + 1) % 65536 } }

/-- Writes lines to device `dst`, one segment for each 64 KiB block (R544). -/
def remoteWrite (s : State) (owner : SegOwner) (dst : Nat) (l : List (Nat × Line × Bool)) : List Nat → State
  | [] => s
  | b :: bs =>
    let x := l.filter (fun e => blockOfLine e.1 == b)
    let n := s.fb.segNext
    let gs := (x.map (fun e => e.1 / 16)).eraseDups
    remoteWrite (sendSeg (takeSeg s) ⟨⟨devNum s, n, b⟩, dst, owner, 3, x.map (fun e => e.1 % 1024), segBodies n x.length x gs, false, none⟩) owner dst l bs

def remoteWriteAll (s : State) (owner : SegOwner) (dst : Nat) (l : List (Nat × Line × Bool)) : State :=
  remoteWrite s owner dst l ((l.map (fun e => blockOfLine e.1)).eraseDups)

/-- Body of a read request (log 40). -/
def readLen : Nat := 16

/-- Asks device `dev` for the lines of one group after another (R547). -/
def remoteRead (s : State) (ring slot dev : Nat) (l : List Nat) : List Nat → State
  | [] => s
  | g :: gs =>
    let m : BitVec 16 := (l.filter (fun x => x / 16 == g)).foldl (fun m x => putBit m (x % 16) true) 0
    let n := s.fb.segNext
    let up := !(usableRoutes s dev).isEmpty
    let s1 := takeSeg { s with fb := { s.fb with reads := s.fb.reads ++ [⟨dev, g, n, m, ring, slot, up, [], []⟩] } }
    let s2 := if up then sendSpread s1 n 3 dev readLen (.readReq g m n) else s1
    remoteRead s2 ring slot dev l gs

def remoteReadAll (s : State) (ring slot dev : Nat) (l : List Nat) : State :=
  remoteRead s ring slot dev l ((l.map (fun x => x / 16)).eraseDups)

/-- Lines read for a command. -/
def readBuf (s : State) (ring slot : Nat) : RBuf := (s.fb.reads.filter (fun r => r.ring == ring && r.slot == slot)).flatMap (·.got)
/-- Those of one device. -/
def readFrom (s : State) (ring slot dev : Nat) : RBuf :=
  (s.fb.reads.filter (fun r => r.ring == ring && r.slot == slot && r.dev == dev)).flatMap (·.got)
/-- Lines that a command asked for and that were lost (R547). -/
def lostBuf (s : State) (ring slot : Nat) : List Nat := (s.fb.reads.filter (fun r => r.ring == ring && r.slot == slot)).flatMap (·.lost)
def dropReads (s : State) (ring slot : Nat) : State :=
  { s with fb := { s.fb with reads := s.fb.reads.filter (fun r => !(r.ring == ring && r.slot == slot)) } }

def readComplete (r : ReadOut) : Bool := (List.range 16).all (fun i => !r.mask.getLsbD i || r.got.any (fun e => e.1 == 16 * r.group + i))
def readsLeft (s : State) (ring slot : Nat) : Bool := s.fb.reads.any (fun r => r.ring == ring && r.slot == slot && !readComplete r)

/-- Segments and reads that waited for a route go out when a port comes up. -/
def pumpSegs (s : State) : List OutSeg → State
  | [] => s
  | o :: t =>
    match o.port, spreadPort s o.key.segid o.dst with
    | none, some p =>
      let s1 := { s with fb := { s.fb with outSegs := s.fb.outSegs.map (fun q => if q.key == o.key then { q with port := some p } else q) } }
      pumpSegs (sendBodies s1 o.key.segid o.vc o.dst o.bodies) t
    | _, _ => pumpSegs s t

def pumpReads (s : State) : List ReadOut → State
  | [] => s
  | r :: t =>
    if !r.sent && !(usableRoutes s r.dev).isEmpty then
      let s1 := { s with fb := { s.fb with reads := s.fb.reads.map (fun q => if q.tag == r.tag then { q with sent := true } else q) } }
      pumpReads (sendSpread s1 r.tag 3 r.dev readLen (.readReq r.group r.mask r.tag)) t
    else pumpReads s t

/-- What waited for a route goes out. -/
def pumpRoutes (s : State) : State :=
  let s1 := pumpRemotes s
  let s2 := pumpSegs s1 s1.fb.outSegs
  pumpReads s2 s2.fb.reads

/-! ### Marks on commands -/

def markCmd (s : State) (ring slot : Nat) (lost pois : Bool) : State :=
  setCmds s (s.cm.cmds.map (fun m => if m.ring == ring && m.slot == slot then { m with lost := m.lost || lost, pois := m.pois || pois } else m))

def cmdLost (s : State) (ring slot : Nat) : Bool :=
  match cmdOf s ring slot with
  | some m => m.lost
  | none => false
def cmdPois (s : State) (ring slot : Nat) : Bool :=
  match cmdOf s ring slot with
  | some m => m.pois
  | none => false

/-- Segments of a command not acknowledged yet. -/
def segsLeft (s : State) (o : SegOwner) : Bool := s.fb.outSegs.any (fun q => q.owner == o)

end Sys2Proof.Machine
end

