-- ==== Sys2Proof/Machine/Mover.lean ====
section
/-!
DEFINITION. The mover (09): the checks of MOVE, GATHER and SCATTER in the order of Table 09.8, and the copy they make. A command does its
work in one step once nothing it touches is in COPY, held by the host, or named by a running PLACE, PIN or UNMAP; what lies on another
device is read before and acknowledged after.
-/
namespace Sys2Proof.Machine

/-! ### Reading what a command names (check 1) -/

def seqFail : List (Option Status) → Option Status
  | [] => none
  | some e :: _ => some e
  | none :: t => seqFail t

/-- A descriptor at a pointer that has passed check 1, with its raw bytes. -/
def descAt (s : State) (v : Nat) : Except Status (Nat × TD) :=
  match structAt s v 128 with
  | .error e => .error e
  | .ok x => .ok (x, parseTD s x)

/-- The descriptors at pointers `l` are kept, those that can be read. -/
def keepDescs (s : State) (ring slot : Nat) : List Nat → State
  | [] => s
  | v :: t =>
    match descAt s v with
    | .ok x => keepDescs (keepSnap s ring slot (.desc v) x.1) ring slot t
    | .error _ => keepDescs s ring slot t
/-- A descriptor of a command: as kept, or read now. -/
def descFor (s : State) (ring slot v : Nat) : Except Status (Nat × TD) :=
  match snapOf s ring slot (.desc v) with
  | some x => .ok (x, parseTD s x)
  | none => descAt s v

def descsAt (s : State) : List Nat → Except Status (List (Nat × TD))
  | [] => .ok []
  | v :: t =>
    match descAt s v with
    | .error e => .error e
    | .ok x =>
      match descsAt s t with
      | .error e => .error e
      | .ok l => .ok (x :: l)

/-! ### Sides (check 2) -/

/-- Remote operands name two devices or lie on both sides; host memory is on both sides. -/
def sidesBad (srcs : List TD) (dst : TD) : Bool :=
  let r := (dst :: srcs).filter (fun t => t.space == 2)
  r.any (fun a => r.any (fun b => a.dev != b.dev)) || (dst.space == 2 && srcs.any (fun t => t.space == 2)) ||
  (dst.space == 1 && srcs.any (fun t => t.space == 1))

/-! ### MOVE (R392 to R404) -/

/-- A piece record (Table 09.5). -/
structure Piece where
  (raw : Nat) (src : TD) (off lo hi : List Nat)
  deriving DecidableEq, Repr

def pieceRec (list i : Nat) : Nat := bitsAt list (64 * i) 0 512
def pieceOf (raw : Nat) (t : TD) : Piece :=
  ⟨raw, t, (List.range 6).map (fun d => bitsAt raw (8 + 4 * d) 0 32), (List.range 6).map (fun d => bitsAt raw (32 + 2 * d) 0 16),
   (List.range 6).map (fun d => bitsAt raw (44 + 2 * d) 0 16)⟩

def swap01 {α : Type} : List α → List α
  | a :: b :: t => b :: a :: t
  | l => l

/-- S′ of a piece (R393). -/
def pieceSizes (xp : Bool) (p : Piece) : List Nat := if xp then swap01 p.src.sizes else p.src.sizes
def pieceEmpty (p : Piece) : Bool := p.src.sizes.any (fun n => n == 0)

def addIdx : List Nat → List Nat → List Nat
  | a :: as, b :: bs => (a + b) :: addIdx as bs
  | _, _ => []

def mvView (d : Line) : Bool := fld d 16 0 1 == 1
def mvXpose (d : Line) : Bool := fld d 16 1 1 == 1
def mvRed (d : Line) : Bool := fld d 16 2 1 == 1
def mvLossy (d : Line) : Bool := fld d 16 3 1 == 1
def mvSr (d : Line) : Bool := fld d 16 4 1 == 1
def mvPieces (d : Line) : Nat := fld d 17 0 4 + 1
def mvPadBits (d : Line) : Nat := bytesAt d 20 4
def mvPadScale (d : Line) : Nat := bytesAt d 18 1

/-- Formats a reduction may have (R401). -/
def redFmt (f : Nat) : Bool := f == 0 || f == 2 || f == 9

/-- Check 2 over the pieces of a MOVE (R392, R397 to R401, R404) (log 16, log 34). -/
def moveFormatBad (d : Line) (dst : TD) (ps : List Piece) : Bool :=
  let w := fmtBits dst.fmt
  let g := packGroup dst.fmt
  let k := dst.bsh - 1
  sidesBad (ps.map (·.src)) dst ||
  ps.any (fun p => bitsAt p.raw 56 0 64 != 0 ||
    (List.range 6).any (fun i => decide (dst.rank ≤ i) && (p.off.getD i 0 != 0 || p.lo.getD i 0 != 0 || p.hi.getD i 0 != 0))) ||
  (mvSr d && !mvLossy d) || (dst.space == 1 && (mvLossy d || mvXpose d || mvRed d)) ||
  mvPadBits d / 2 ^ w != 0 || (dst.bsh == 0 && mvPadScale d != 0x7F) ||
  (mvXpose d && (decide (w < 8) || mvRed d || mvLossy d)) ||
  (mvRed d && (!redFmt dst.fmt || dst.bsh != 0 || ps.any (fun p => p.src.fmt != dst.fmt || p.lo.any (fun x => x != 0) || p.hi.any (fun x => x != 0)))) ||
  (if mvLossy d then mvRed d || dst.fmt != 3 || dst.bsh == 0 || ps.any (fun p => p.src.fmt ≥ 3 || p.src.bsh != 0)
   else ps.any (fun p => p.src.fmt != dst.fmt || (if mvXpose d then (if p.src.bsh = 0 then 0 else 3 - p.src.bsh) else p.src.bsh) != dst.bsh)) ||
  (dst.bsh != 0 && ps.any (fun p => p.off.getD k 0 % 32 != 0 || p.lo.getD k 0 % 32 != 0 || p.hi.getD k 0 % 32 != 0 ||
    (!pieceEmpty p && (pieceSizes (mvXpose d) p).getD k 1 % 32 != 0 && p.off.getD k 0 + (pieceSizes (mvXpose d) p).getD k 1 != sizeAt dst k))) ||
  (decide (1 < g) && ps.any (fun p => p.off.getD 0 0 % g != 0 || p.lo.getD 0 0 % g != 0 || p.hi.getD 0 0 % g != 0))

/-- A region exceeds the destination (R393). -/
def regionBad (xp : Bool) (dst : TD) (p : Piece) : Bool :=
  !pieceEmpty p && (List.range 6).any (fun i => decide (sizeAt dst i < p.off.getD i 0 + (pieceSizes xp p).getD i 1))

/-- Two regions share an element (R396). -/
def regionsMeet (xp : Bool) (p q : Piece) : Bool :=
  !pieceEmpty p && !pieceEmpty q && (List.range 6).all (fun i =>
    decide (p.off.getD i 0 < q.off.getD i 0 + (pieceSizes xp q).getD i 1) && decide (q.off.getD i 0 < p.off.getD i 0 + (pieceSizes xp p).getD i 1))

def anyPair {α : Type} (f : α → α → Bool) : List α → Bool
  | [] => false
  | a :: t => t.any (f a) || anyPair f t

/-- The copies of a piece, in ascending source index (R394, R400, R403). -/
def pieceCopies (xp : Bool) (p : Piece) : List Copy :=
  (allIdx p.src.sizes).map (fun j => ⟨addIdx (if xp then swap01 j else j) p.off, p.src, j⟩)

/-- The indices of a piece's frame and region together, clipped to the destination (R393). -/
def frameIdx (xp : Bool) (dst : TD) (p : Piece) : List (List Nat) :=
  let lo := (List.range 6).map (fun i => p.off.getD i 0 - p.lo.getD i 0)
  let hi := (List.range 6).map (fun i => min (sizeAt dst i) (p.off.getD i 0 + (pieceSizes xp p).getD i 1 + p.hi.getD i 0))
  (allIdx (zip2 (fun a b => b - a) lo hi)).map (fun q => addIdx q lo)

/-- Elements that take the pad element: in a frame and in no region (R395). -/
def padIdx (xp : Bool) (dst : TD) (ps : List Piece) (copies : List Copy) : List (List Nat) :=
  (ps.flatMap (frameIdx xp dst)).eraseDups.filter (fun i => !copies.any (fun c => c.di == i))

/-- Extents in the device range (R419). -/
def devExts (l : List TD) : List (Nat × Nat) :=
  (l.filter (fun t => t.space == 0)).flatMap (fun t => (extentsOf t).map (fun e => (e.1.toNat, e.2.toNat)))

def moveFields : List (Nat × Nat × Nat) := [(8, 0, 64), (16, 0, 5), (17, 0, 4), (18, 0, 8), (20, 0, 32), (24, 0, 64)]

/-- Bytes of structures in host memory. -/
def hostBytes (l : List (Nat × Nat)) : Nat := (l.filter (fun x => (ptrOf x.1).host)).foldl (fun n x => n + x.2) 0

/-- The extent of a list in the device range (R386). -/
def listExt (v n : Nat) : List (Nat × Nat) :=
  let p := ptrOf v
  if p.host || n == 0 then [] else [(p.addr, p.addr + n - 1)]

/-- What the checks of a mover command come to: a status, with the bytes of lists and indices read and those read from host memory; remote
lines that are needed first; or a job. -/
inductive GRes where | fail (e : Status) (lists host : Nat) | need (dev : Nat) (lines : List Nat) | job (j : MoveJob)
  deriving DecidableEq, Repr

/-- Checks 2 to 5 of a MOVE whose structures have been read. -/
def moveChecks (d : Line) (dv : Nat) (dst : TD) (recs : List Nat) (srcs : List (Nat × TD)) : Option Status :=
  let ps := (recs.zip srcs).map (fun x => pieceOf x.1 x.2.2)
  let xp := mvXpose d
  firstFail
    [(!bodyOk d moveFields || tdBad dv dst || srcs.any (fun x => tdBad x.1 x.2) || moveFormatBad d dst ps, .format),
     (xp && srcs.any (fun x => decide (x.2.rank < 2)), .shape),
     (extentBad dst || srcs.any (fun x => extentBad x.2) || ps.any (regionBad xp dst), .range),
     ((!mvRed d && !denseDst dst) || dstHits dst (srcs.flatMap (fun x => extentsIn x.2)) || (!mvRed d && anyPair (regionsMeet xp) ps), .alias_)]

/-- Checks 1 to 5 of a MOVE with pieces, the structures read in the order of R417 (log 15). -/
def moveJob (s : State) (ring slot : Nat) (d : Line) : GRes :=
  let n := mvPieces d
  let dp := bytesAt d 8 8
  let lp := bytesAt d 24 8
  match seqFail [ptrFail dp 128, ptrFail lp (64 * n)] with
  | some e => .fail e 0 0
  | none =>
    match descAt s dp with
    | .error e => .fail e 0 0
    | .ok (dv, dst) =>
      match structAt s lp (64 * n) with
      | .error e => .fail e 0 (hostBytes [(dp, 128)])
      | .ok list =>
        let recs := (List.range n).map (pieceRec list)
        match seqFail (recs.map (fun r => ptrFail (bitsAt r 0 0 64) 128)) with
        | some e => .fail e (64 * n) (hostBytes [(dp, 128), (lp, 64 * n)])
        | none =>
          match descsAt s (recs.map (fun r => bitsAt r 0 0 64)) with
          | .error e => .fail e (64 * n) (hostBytes [(dp, 128), (lp, 64 * n)])
          | .ok srcs =>
            let ps := (recs.zip srcs).map (fun x => pieceOf x.1 x.2.2)
            let xp := mvXpose d
            let copies := ps.flatMap (pieceCopies xp)
            let host := hostBytes ((dp, 128) :: (lp, 64 * n) :: recs.map (fun r => (bitsAt r 0 0 64, 128)))
            match moveChecks d dv dst recs srcs with
            | some e => .fail e (64 * n) host
            | none => .job ⟨ring, slot, dst, copies, padIdx xp dst ps copies, mvRed d, mvLossy d, mvSr d, mvPadBits d, mvPadScale d, [],
                devExts (dst :: srcs.map (·.2)) ++ listExt lp (64 * n), 64 * n, host⟩

/-- The structures of a MOVE with pieces that its reads come to (R417): the descriptor of the destination, the list, the pieces' descriptors. -/
def moveStructs (s : State) (d : Line) : List (Nat × Nat) :=
  let n := mvPieces d
  let lp := bytesAt d 24 8
  if (seqFail [ptrFail (bytesAt d 8 8) 128, ptrFail lp (64 * n)]).isSome then []
  else (bytesAt d 8 8, 128) :: (lp, 64 * n) :: match structAt s lp (64 * n) with
    | .ok list =>
      let l := (List.range n).map (fun i => bitsAt (pieceRec list i) 0 0 64)
      if (seqFail (l.map (fun v => ptrFail v 128))).isSome then [] else l.map (fun v => (v, 128))
    | .error _ => []

/-! ### The directory checks (check 6) -/

def elemBlocks (t : TD) (i : List Nat) : List Nat := (elemLines t i).map blockOfLine

/-- Blocks of the device range that the sources hold, and those that the destination writes. -/
def srcBlocks (j : MoveJob) : List Nat := ((j.copies.filter (fun c => c.src.space == 0)).flatMap (fun c => elemBlocks c.src c.si)).eraseDups
def regionBlocks (j : MoveJob) : List Nat := if j.dst.space = 0 then (j.copies.flatMap (fun c => (writtenLines j.dst c.di).map blockOfLine)).eraseDups else []
/-- Blocks of the device range that hold a destination element of a region (R400), and those that hold any element of the destination (R401). -/
def regionElemBlocks (j : MoveJob) : List Nat :=
  if j.dst.space = 0 then (j.copies.flatMap (fun c => (bitLines (elemBitN j.dst c.di) (fmtBits j.dst.fmt)).map blockOfLine)).eraseDups else []
def tensorBlocks (t : TD) : List Nat :=
  if t.space = 0 then ((allIdx t.sizes).flatMap (fun i => (bitLines (elemBitN t i) (fmtBits t.fmt)).map blockOfLine)).eraseDups else []
def padBlocks (j : MoveJob) : List Nat := if j.dst.space = 0 then (j.pads.flatMap (fun i => (writtenLines j.dst i).map blockOfLine)).eraseDups else []
def dstBlocks (j : MoveJob) : List Nat := (regionBlocks j ++ padBlocks j).eraseDups

def isLs (s : State) (b : Nat) : Bool :=
  match (dirOf s b).home with
  | .ls _ _ => true
  | _ => false
def isStack (s : State) (b : Nat) : Bool :=
  match (dirOf s b).home with
  | .stack _ => true
  | _ => false

/-- Check 6, and the room check of R773. The blocks of another device are not in this directory: they fail the checks of XPOSE and RED (log 34). -/
def dirFail (s : State) (xp : Bool) (j : MoveJob) : Option Status :=
  firstFail
    [((srcBlocks j).any (fun b => !mapped s b), .page),
     (j.lossy && (dstBlocks j).any (fun b => mapped s b && !isStack s b), .format),
     ((xp && (j.dst.space == 2 || (regionElemBlocks j).any (fun b => !isLs s b))) ||
      (j.red && (j.dst.space == 2 || (tensorBlocks j.dst).any (fun b => mapped s b && (dirOf s b).tiers.getLsbD 0))), .range),
     (!roomFor s (dstBlocks j), .range)]

/-- A remote operand's device (R539) (log 34). -/
def remoteDev (j : MoveJob) : Option Nat :=
  match (j.dst :: j.copies.map (·.src)).find? (fun t => t.space == 2) with
  | some t => some t.dev
  | none => none

/-! ### The copy -/

/-- Elements as they are read: the copy, its bits, its scale byte, and whether either is poisoned. -/
structure Got where
  (c : Copy) (bits scale : Nat) (poison : Bool)
  deriving DecidableEq, Repr

def readCopy (s : State) (rb : RBuf) (lossy : Bool) (c : Copy) : Got :=
  let x := elemRead s rb c.src c.si
  if c.src.bsh = 0 || lossy then ⟨c, x.1, 0x7F, x.2⟩
  else
    let y := scaleRead s rb c.src c.si
    ⟨c, x.1, y.1, x.2 || y.2⟩

/-- Blocks of the destination that take a byte of a poisoned line (R421). -/
def poisonedBlocks (dst : TD) (l : List Got) : List (List Nat) :=
  if dst.bsh = 0 then [] else ((l.filter (·.poison)).map (fun g => blockIdx dst g.c.di)).eraseDups

def putGot (dst : TD) (bad : List (List Nat)) (t : Table LineW) (g : Got) : Table LineW :=
  let p := g.poison || bad.contains (blockIdx dst g.c.di)
  let t1 := tailZero (putElem' t dst g.c.di (if p then 0 else g.bits) p) dst g.c.di
  if dst.bsh = 0 then t1 else putScale t1 dst g.c.di (if p then 0x7F else g.scale)

def putPad (dst : TD) (bits scale : Nat) (t : Table LineW) (i : List Nat) : Table LineW :=
  let t1 := tailZero (putElem' t dst i bits false) dst i
  if dst.bsh = 0 then t1 else putScale t1 dst i scale

/-- The stack whose Grinder converts a destination block, by the placement block of its first element (R328, R329) (log 35); on another device
it is not known here (log 10). -/
def grinderOf (s : State) (dst : TD) (i : List Nat) : Nat :=
  if dst.space = 2 then Config.remoteStack dst.dev ((elemBitN dst i) / 8 / 65536)
  else match (dirOf s (blockOf (elemBitN dst i / 8))).home with
    | .stack p => p
    | _ => 0

/-- One block of a lossy conversion: one scale, the elements rounded once (R80, R328, R329). Its events count in the base die that converts it,
which for a block of another device is that device's (R404). -/
def lossyBlock (s : State) (j : MoveJob) (step : Nat) (x : State × Table LineW) (b : List Nat) (l : List Got) : State × Table LineW :=
  let g := l.filter (fun q => blockIdx j.dst q.c.di == b)
  match g with
  | [] => x
  | q :: _ =>
    if g.any (·.poison) then
      (x.1, putScale (g.foldl (fun t q => putElem' t j.dst q.c.di 0 true) x.2) j.dst q.c.di 0x7F)
    else
      let p := grinderOf s j.dst q.c.di
      let seed := ((reg64 s 0x110).toNat + step) % 2 ^ 64
      let rd (i : Nat) : Option Nat :=
        if j.sr then some (srBits seed (0xC000 + p) (((g.map (fun q => elemBitN j.dst q.c.di / 8)).getD i 0) % 2 ^ 48)) else none
      let y := convBlock 3 rd 0 (g.map (fun q => decodeNum q.c.src.fmt q.bits))
      let t1 := (g.zip y.2.1).foldl (fun t e => putElem' t j.dst e.1.c.di e.2 false) x.2
      (if j.dst.space = 2 then x.1 else bumpEv x.1 (cStack p 0) y.2.2, putScale t1 j.dst q.c.di y.1)

def lossyAll (s : State) (j : MoveJob) (step : Nat) (l : List Got) : List (List Nat) → State × Table LineW → State × Table LineW
  | [], x => x
  | b :: bs, x => lossyAll s j step l bs (lossyBlock s j step x b l)

/-- The lines a command without RED writes. -/
def moveLines (s : State) (j : MoveJob) (step : Nat) (l : List Got) : State × Table LineW :=
  let x := if j.lossy then lossyAll s j step l ((l.map (fun g => blockIdx j.dst g.c.di)).eraseDups) (s, [])
    else (s, l.foldl (putGot j.dst (poisonedBlocks j.dst l)) [])
  (x.1, j.pads.foldl (putPad j.dst j.padBits j.padScale) x.2)

/-! #### Reduction (R401 to R403) -/

/-- The next masked VRED64 of a line: of each lane its first contribution left. -/
def takeRound (w line : Nat) (dst : TD) : List Got → BitVec 32 → Line → List Got → BitVec 32 × Line × List Got
  | [], m, v, rest => (m, v, rest)
  | g :: t, m, v, rest =>
    let b := elemBitN dst g.c.di
    let lane := b % 512 / w
    if b / 512 = line ∧ m.getLsbD lane = false then
      takeRound w line dst t (putBit m lane true) (v ||| BitVec.ofNat 512 (g.bits * 2 ^ (w * lane))) rest
    else takeRound w line dst t m v (rest ++ [g])

def redTy (fmt : Nat) : BitVec 2 := if fmt = 0 then 0 else if fmt = 2 then 1 else 2

/-- Every VRED64 of one line, in order. -/
def redLine (dst : TD) (line : Nat) : Nat → State → List Got → State
  | 0, s, _ => s
  | n + 1, s, l =>
    let x := takeRound (fmtBits dst.fmt) line dst l 0 0 []
    if x.1 = 0 then s
    else redLine dst line n (bump (atomicPerform s (.mover line (redTy dst.fmt) x.1 x.2.1)) 10 1) x.2.2

def redLines (dst : TD) (l : List Got) : List Nat → State → State
  | [], s => s
  | n :: ns, s =>
    let g := l.filter (fun q => elemBitN dst q.c.di / 512 == n)
    match autoMap s (blockOfLine n) with
    | none => redLines dst l ns (bump s 86 1)
    | some s1 =>
      let s2 := redLine dst n g.length s1 g
      redLines dst l ns (if g.any (·.poison) then poisonLine s2 n else s2)

/-! #### Counters and completion -/

def poisonCount (t : List (Nat × LineW)) : Nat := (t.filter (fun e => e.2.poison)).length

/-- Bytes read, bytes written, pad bytes (Table 09.10). -/
def scaleCount (dst : TD) (l : List (List Nat)) : Nat := if dst.bsh = 0 then 0 else ((l.map (blockIdx dst)).eraseDups).length
/-- Bytes that elements take, each its first bit and its width, in order: an element that begins in the byte where the one before it ends shares
that byte. -/
def runBytes (l : List (Nat × Nat)) : Nat :=
  (l.foldl (fun x e =>
    let lo := e.1 / 8
    let hi := (e.1 + e.2 - 1) / 8
    (x.1 + (hi - lo) + (if e.2 < 8 ∧ x.2 = lo + 1 then 0 else 1), hi + 1)) (0, 0)).1
def copyBytes (l : List Copy) : Nat := runBytes (l.map (fun c => (elemBitN c.src c.si, fmtBits c.src.fmt)))
def readBytesOf (j : MoveJob) (l : List Copy) : Nat := copyBytes l + if j.lossy then 0 else scaleCount j.dst (l.map (·.di))
def padBytesOf (j : MoveJob) : Nat := runBytes (j.pads.map (fun i => (elemBitN j.dst i, fmtBits j.dst.fmt))) + scaleCount j.dst j.pads
/-- Bytes that a table of lines gives, the zeros after a row's last packing group among them (R58). -/
def tableBytes (t : List (Nat × LineW)) : Nat := t.foldl (fun n e => n + maskBytes e.2.mask) 0
/-- Bytes that a reduction adds to. -/
def redBytes (j : MoveJob) (l : List Copy) : Nat := l.length * fmtBits j.dst.fmt / 8

/-- The stack that homes a block; any other home takes the normal path (R416). -/
def narrowAt (s : State) (addr : Nat) : Option Nat :=
  match (dirOf s (blockOf addr)).home with
  | .stack p => some p
  | _ => none

/-- One access of the narrow path, where its block is homed in a stack (R311, R321, R416). -/
def narrowOne (s : State) (addr : Nat) (write small : Bool) : State :=
  match narrowAt s addr with
  | some p => bump (narrowTouch s p (lineOf addr) write small) 11 1
  | none => s

/-- The narrow accesses of a command, by the homes that its blocks have as it moves (R416). -/
def countNarrow : List Narrow → State → State
  | [], s => s
  | x :: t, s =>
    countNarrow t (if (narrowAt s x.addr).isSome then x.scales.foldl (fun u a => narrowOne u (8 * a) false false) (narrowOne s x.addr x.write x.small)
      else s)

/-- Bytes that the copies read from host memory. -/
def hostReadOf (j : MoveJob) : Nat :=
  let l := j.copies.filter (fun c => c.src.space == 1)
  copyBytes l + (if j.lossy then 0 else scaleCount j.dst ((l.filter (fun c => c.src.bsh != 0)).map (·.di)))

/-- Bytes of lists and indices, and what was read from host memory, are counted whatever becomes of the command (Tables 09.10, 14.11). -/
def countLists (s : State) (lists host : Nat) : State := bumpIf (lists != 0) (bumpIf (host != 0) s 57 host) 7 lists

def countMove (s : State) (j : MoveJob) : State :=
  let s1 := bump (bump (countLists s j.lists (hostReadOf j + j.hostLists)) 7 (readBytesOf j j.copies)) 9 (padBytesOf j)
  countNarrow j.narrow s1

def dropJob (s : State) (ring slot : Nat) : State :=
  { s with m := { s.m with jobs := s.m.jobs.filter (fun j => !(j.ring == ring && j.slot == slot)) } }

/-- A view (Table 14.7), `b` being descriptor byte 24. -/
structure View where
  (cores : List Nat) (tile rows cols mode : Nat) (orient sr pin : Bool) (mult part : Nat)
  deriving DecidableEq, Repr

def viewOf (d : Line) : View :=
  { cores := (List.range (fld d 34 0 3 + 1)).map (fun k => fld d 24 (10 * k) 10), tile := fld d 35 0 7, rows := 16 * (fld d 36 0 7 + 1),
    cols := 32 * (fld d 37 0 7 + 1), mode := fld d 34 4 2, orient := fld d 34 3 1 == 1, sr := fld d 34 6 1 == 1, pin := fld d 34 7 1 == 1,
    mult := bytesAt d 40 4, part := bytesAt d 48 8 }

/-- The region tiles of a view, on each of its cores. -/
def viewTiles (v : View) : List Nat := (List.range (v.rows * v.cols / 512)).map (fun i => v.tile + i)

/-- Sets or releases the locks of a view. -/
def lockView (s : State) (v : View) (b : Bool) : State :=
  v.cores.foldl (fun t c => updCore t c (fun k => { k with wgbLock := (viewTiles v).foldl (fun m i => putBit m i b) k.wgbLock })) s

/-- A view's locks go when its command completes (R276). -/
def releaseView (s : State) (ring slot : Nat) : State :=
  match cmdOf s ring slot with
  | some m => if dOpcode m.desc = 0x20 ∧ mvView m.desc = true then lockView s (viewOf m.desc) false else s
  | none => s

/-- A mover command completes (R422, R424). -/
def finishMove (s : State) (ring slot : Nat) : State :=
  let st := if cmdLost s ring slot then Status.dataDropped else if cmdPois s ring slot then .poisonSkip else .ok
  finishCmd (bump (dropReads (dropJob (releaseView s ring slot) ring slot) ring slot) 5 1) ring slot st 0

/-- A command ends before it moves anything; a failed check of Table 09.8 counts it as rejected. -/
def turnAway (s : State) (ring slot : Nat) (e : Status) : State := finishCmd (dropReads s ring slot) ring slot e 0
def rejectMove (s : State) (ring slot : Nat) (e : Status) : State := turnAway (bump s 6 1) ring slot e

/-- Lines for another device, whole: what the command does not give comes from the line as it was read. -/
def wholeLine (rb : RBuf) (e : Nat × LineW) : Nat × Line × Bool :=
  match rb.find? (fun x => x.1 == e.1) with
  | some x => if fullLine e.2 then (e.1, e.2.data, e.2.poison) else (e.1, mergeLine x.2.1 e.2, e.2.poison || x.2.2)
  | none => (e.1, e.2.data, e.2.poison)

/-- Lines as they are written, and whether the command poisons them: one that was poisoned before and stays so is none of its (R278, R421); one
for another device that is given in part, and whose old bytes were lost, is. -/
def emitted (dst : TD) (rb : RBuf) (lost : List Nat) (t : List (Nat × LineW)) : List (Nat × Bool) :=
  t.map (fun e => (e.1, e.2.poison || (dst.space == 2 && lost.contains e.1 && (wholeLine rb e).2.2)))

/-- Poisoned destination lines: those that lines lost in transit have zeroed (`lost`), and the others (R421, R422, R424). -/
def countPoison (s : State) (ring slot : Nat) (lost : List Nat) (l : List (Nat × Bool)) : State :=
  let d := (l.filter (fun e => e.2 && lost.contains e.1)).length
  let p := (l.filter (fun e => e.2 && !lost.contains e.1)).length
  markCmd (bumpIf (d != 0) (bumpIf (p != 0) s 12 p) 13 d) ring slot false (p != 0)

/-- The lines of a command go to their space; one with a remote destination then waits for its acknowledgements (stage 6). -/
def emitLines (s : State) (ring slot : Nat) (dst : TD) (rb : RBuf) (lost : List Nat) (t : List (Nat × LineW)) : State :=
  let s0 := bump (countPoison s ring slot lost (emitted dst rb lost t)) 8 (tableBytes t)
  if dst.space = 1 then hostLinesW s0 t
  else if dst.space = 2 then remoteWriteAll s0 (.cmd ring slot) dst.dev (t.map (wholeLine rb))
  else writeLinesW s0 t

def settleRemote (s : State) (ring slot : Nat) : State :=
  if segsLeft s (.cmd ring slot) then setPhase s ring slot (.busy 6) else finishMove s ring slot

def stepOf (s : State) (ring slot : Nat) : Nat :=
  match cmdOf s ring slot with
  | some m => m.step
  | none => 0

/-- The unmapped destination blocks are mapped (R352), and each placement block that the command touches is translated (R342, R417). -/
def mapAll (s : State) (l : List Nat) : State := l.foldl (fun t b => (autoMap t b).getD t) s
def translateAll (s : State) (j : MoveJob) : State := (srcBlocks j ++ dstBlocks j).foldl moverTranslate (mapAll s (dstBlocks j))

/-- The Grinder recalls the stack-homed lines that it converts into; they wait at their channels (R291, R311). -/
def grinderRecall (s : State) (j : MoveJob) (t : List (Nat × LineW)) : State :=
  if j.lossy && j.dst.space == 0 then (t.map (·.1)).foldl (fun u l => queueLine (recallAt u l) l true) s else s

/-- Destination lines that take a byte of a line lost in transit: from a lost source, or lost themselves (R420). -/
def lostDst (s : State) (j : MoveJob) : List Nat :=
  let l := lostBuf s j.ring j.slot
  if l.isEmpty then []
  else (j.copies.filter (fun c => c.src.space == 2 && (elemLines c.src c.si).any l.contains)).flatMap (fun c => writtenLines j.dst c.di) ++
    if j.dst.space = 2 then l else []

/-- The whole work of a command whose remote lines, if any, have been read. -/
def runJob (s : State) (j : MoveJob) (rb : RBuf) : State :=
  let s1 := countMove (translateAll s j) j
  let l := j.copies.map (readCopy s1 rb j.lossy)
  let lost := lostDst s j
  if j.red then
    let ls := (j.copies.map (fun c => elemBitN j.dst c.di / 512)).eraseDups
    let pois := ls.map (fun n => (n, l.any (fun g => g.poison && elemBitN j.dst g.c.di / 512 == n)))
    settleRemote (redLines j.dst l ls (bump (countPoison s1 j.ring j.slot lost pois) 8 (redBytes j j.copies))) j.ring j.slot
  else
    let x := moveLines s1 j (stepOf s j.ring j.slot) l
    settleRemote (emitLines (grinderRecall x.1 j x.2) j.ring j.slot j.dst rb lost x.2) j.ring j.slot

/-! #### What must be settled first -/

/-- Lines of the device range that the command touches. -/
def jobLines (j : MoveJob) : List Nat :=
  ((j.copies.filter (fun c => c.src.space == 0)).flatMap (fun c => elemLines c.src c.si) ++
   (if j.dst.space = 0 then j.copies.flatMap (fun c => writtenLines j.dst c.di) ++ j.pads.flatMap (writtenLines j.dst) else [])).eraseDups

/-- Lines of a table that the command gives in part (log 34). -/
def partLines (t : List (Nat × LineW)) : List Nat := (t.filter (fun e => !fullLine e.2)).map (·.1)

/-- Lines to read from another device: sources there, and destination lines there that the command fills only in part (R394). -/
def remoteNeed (j : MoveJob) : List Nat :=
  ((j.copies.filter (fun c => c.src.space == 2)).flatMap (fun c => elemLines c.src c.si) ++
   if j.dst.space = 2 then
     let z := j.copies.foldl (fun t (c : Copy) => putGot j.dst [] t ⟨c, 0, 0, false⟩) []
     partLines (j.pads.foldl (putPad j.dst 0 0) z)
   else []).eraseDups

/-- A PLACE, PIN or UNMAP that is running meets an extent (R419). -/
def interlocked (s : State) (exts : List (Nat × Nat)) : Bool :=
  s.cm.cmds.any (fun m => m.phase == .busy 2 && (dOpcode m.desc == 0x30 || dOpcode m.desc == 0x31) &&
    exts.any (fun e => decide (dBase m.desc ≤ e.2) && decide (e.1 < dBase m.desc + dLen m.desc)))

/-- Host memory that the command reads or writes is refused (R632). -/
def jobRefused (s : State) (j : MoveJob) : Bool :=
  j.copies.any (fun c => c.src.space == 1 && (elemLines c.src c.si).any (fun l => hostRefuses s (64 * l) 64)) ||
  (j.dst.space == 1 && (j.copies.any (fun c => (writtenLines j.dst c.di).any (fun l => hostRefuses s (64 * l) 64)) ||
    j.pads.any (fun i => (writtenLines j.dst i).any (fun l => hostRefuses s (64 * l) 64))))

/-- The job of a command that has started. -/
def jobOf (s : State) (ring slot : Nat) : Option MoveJob := s.m.jobs.find? (fun j => j.ring == ring && j.slot == slot)
def addJob (s : State) (j : MoveJob) : State := { s with m := { s.m with jobs := s.m.jobs ++ [j] } }

/-- Remote lines of a job that have not been read. -/
def unread (s : State) (j : MoveJob) : List Nat := (remoteNeed j).filter (fun l => !(readBuf s j.ring j.slot).any (fun e => e.1 == l))

/-- A command that has started: it waits for a COMMIT and for lines that the host holds (R344, R619), reads remote lines (stage 5), is refused
by the host (stage 7), or does its work. What it named was read once (R378). -/
def resumeJob (s : State) (j : MoveJob) : State :=
  if anyCopy s (srcBlocks j ++ dstBlocks j) then s
  else if !(heldByHost s (jobLines j)).isEmpty then recallFromHost s (heldByHost s (jobLines j))
  else if !(unread s j).isEmpty then
    match remoteDev j with
    | some d => setPhase (remoteReadAll s j.ring j.slot d (unread s j)) j.ring j.slot (.busy 5)
    | none => s
  else if jobRefused s j then setPhase s j.ring j.slot (.busy 7)
  else runJob s j (readBuf s j.ring j.slot)

/-- The device of a remote operand cannot be reached (R539) (log 34). -/
def noRouteTo (s : State) (dev : Option Nat) : Bool :=
  match dev with
  | some d => !anyRoute s d
  | none => false

/-- A command that has passed checks 1 to 5 starts, unless a PLACE, PIN or UNMAP that runs meets it (R419), and makes check 6. -/
def startJob (s : State) (xp : Bool) (j : MoveJob) : State :=
  if interlocked s j.exts then lockWait s j.ring j.slot
  else
    let t := lockEnd s j.ring j.slot
    match dirFail t xp j with
    | some e => rejectMove (countLists t j.lists j.hostLists) j.ring j.slot e
    | none =>
      if noRouteTo t (remoteDev j) then turnAway (countLists t j.lists j.hostLists) j.ring j.slot .absent
      else resumeJob (addJob (keepRoom t j.ring j.slot (dstBlocks j)) j) j

/-! ### WGB views (R267 to R280) -/

def viewFields : List (Nat × Nat × Nat) := [(24, 0, 80), (34, 0, 8), (35, 0, 7), (36, 0, 7), (37, 0, 7), (40, 0, 32), (48, 0, 64)]

/-- Destination shape (R271): rows and columns. -/
def viewShape (v : View) : Nat × Nat := if v.orient then (v.cols, v.rows) else (v.rows, v.cols)
def isFinite32 (x : Nat) : Bool :=
  match decodeNum 0 x with
  | .fin _ _ _ => true
  | _ => false

/-- Table 06.5 in order; `dst` is none for a REDUCE and in MODE 3. -/
def viewFail (s : State) (v : View) (dst : Option TD) : Option Status :=
  let want := if v.mode = 0 then (2, 1) else (0, 0)
  firstFail
    [(v.cores.any (fun c => !present s c), .absent),
     (decide (96 < v.tile + v.rows * v.cols / 512) || (v.pin && (v.part % 64 != 0 || decide (2 ^ 40 < v.part + 4 * v.rows * v.cols))), .range),
     (anyPair (fun a b => a == b) v.cores, .alias_),
     ((match dst with
       | some t => v.mode != 3 && (t.fmt, t.bsh) != want
       | none => false) || !isFinite32 v.mult || (v.sr && v.mode != 0) || (v.pin && v.mode == 3) || (v.orient && v.mode == 0 && v.rows % 32 != 0), .format),
     ((match dst with
       | some t => v.mode != 3 && (sizeAt t 0 != (viewShape v).2 || sizeAt t 1 != (viewShape v).1 || (t.sizes.drop 2).any (fun n => n != 1))
       | none => false), .shape)]

/-- The blocks of the partial tensor. -/
def partBlocks (v : View) : List Nat := if v.pin then blocksOf v.part (4 * v.rows * v.cols) else []

/-- A region tile of the view is in use by an add or another drain (R275, R277). -/
def viewBusy (s : State) (v : View) : Bool :=
  v.cores.any (fun c => (viewTiles v).any (fun i => (coreOf s c).wgbLock.getLsbD i ||
    (coreOf s c).mops.any (fun m => m.phase == .started && m.soff / 2048 == i && match m.op with
      | .mdrain f => f.dest == 2
      | _ => false)))

/-- Destination element with row-major number `n`, and the region tile, row and lane of G it comes from (R268, R271). -/
def viewSrc (v : View) (n : Nat) : Nat × Nat × Nat :=
  let a := n / (viewShape v).2
  let b := n % (viewShape v).2
  let i := if v.orient then b else a
  let j := if v.orient then a else b
  (v.tile + i / 16 * (v.cols / 32) + j / 32, i % 16, j % 32)

def wgbElem (k : Core) (x : Nat × Nat × Nat) : Nat := (tget zeroRow k.wgb (16 * x.1 + x.2.1)).toNat / 2 ^ (32 * x.2.2) % 2 ^ 32

/-- One addition with its RNE rounding to FP32. -/
def add32 (x : Nat × Ev) (y : Nat) : Nat × Ev :=
  let z := fp32 (nadd (decodeNum 0 x.1) (decodeNum 0 y))
  (z.1, evAdd x.2 z.2)

/-- The value x of an element before its rounding, whether it is poisoned, and the events of its sums and product (R269). -/
def viewVal (s : State) (v : View) (n : Nat) : Exact × Bool × Ev :=
  let g := viewSrc v n
  let vals := v.cores.map (fun c => wgbElem (coreOf s c) g)
  let s1 := match vals with
    | [] => (0, ({} : Ev))
    | x :: t => t.foldl add32 (x, {})
  let pa := v.part + 4 * n
  let s2 := if v.pin then add32 s1 (readBytes s pa 4) else s1
  let p := nmul (decodeNum 0 s2.1) (decodeNum 0 v.mult)
  (p.1, v.cores.any (fun c => (coreOf s c).wgbPoison.getLsbD g.1) || (v.pin && poisoned s (pa / 64)),
   if p.2 then evAdd s2.2 { invalid := 1 } else s2.2)

def notFinite : Exact → Bool
  | .fin _ _ _ => false
  | _ => true

/-- A block of 32 elements of MODE 0: scale, codes, poison, events. The events of a block that is then poisoned count too (log 34). -/
def viewBlock (s : State) (v : View) (seed pos n : Nat) : Nat × List Nat × Bool × Ev :=
  let l := (List.range 32).map (fun i => viewVal s v (32 * n + i))
  let ev := l.foldl (fun e x => evAdd e x.2.2) {}
  let rd (i : Nat) : Option Nat := rnd v.sr seed (streamWgb (v.cores.getD 0 0)) pos (32 * n + i)
  let y := convBlock 2 rd 0 (l.map (·.1))
  if l.any (fun x => x.2.1) then (0x7F, List.replicate 32 0, true, evAdd ev y.2.2) else (y.1, y.2.1, false, evAdd ev y.2.2)

def dstIdx (v : View) (n : Nat) : List Nat := [n % (viewShape v).2, n / (viewShape v).2, 0, 0, 0, 0]

/-- The lines of MODE 0. -/
def viewLines0 (s : State) (v : View) (dst : TD) (seed pos : Nat) : List Nat → Table LineW × Ev → Table LineW × Ev
  | [], x => x
  | n :: ns, (t, e) =>
    let y := viewBlock s v seed pos n
    let t1 := (List.range 32).foldl (fun t i => putElem' t dst (dstIdx v (32 * n + i)) (y.2.1.getD i 0) y.2.2.1) t
    viewLines0 s v dst seed pos ns (putScale t1 dst (dstIdx v (32 * n)) y.1, evAdd e y.2.2.2)

/-- The lines of MODE 1 and MODE 2. -/
def viewLines1 (s : State) (v : View) (dst : TD) (rb : RBuf) : List Nat → Table LineW × Ev → Table LineW × Ev
  | [], x => x
  | n :: ns, (t, e) =>
    let x := viewVal s v n
    let i := dstIdx v n
    let old := if v.mode = 2 then elemRead s rb dst i else (0, false)
    let z := if v.mode = 2 then nadd (decodeNum 0 old.1) x.1 else (x.1, false)
    let y := fp32 z
    let p := x.2.1 || old.2
    viewLines1 s v dst rb ns (putElem' t dst i (if p then 0 else y.1) p, evAdd e (evAdd x.2.2 y.2))

/-- MODE 3 forms its values too: their events and reports count (R273, R279). -/
def viewEvents (s : State) (v : View) : Ev := (List.range (v.rows * v.cols)).foldl (fun e n => evAdd e (viewVal s v n).2.2) {}

/-- A whole destination line with a poisoned element is zeros and poisoned (R278), which a poisoned line already is. -/
def poisonRegions (s : State) (v : View) (c : Nat) : Nat := ((viewTiles v).filter (fun i => (coreOf s c).wgbPoison.getLsbD i)).length

/-- Every region tile read holds +0 with DIRTY and POISON clear (R276); the locks go as the command completes. -/
def clearView (s : State) (v : View) : State :=
  v.cores.foldl (fun t c =>
    let np := poisonRegions s v c
    let t1 := updCore t c (fun k => { k with
      wgb := tclear k.wgb (fun r => (viewTiles v).contains (r / 16)),
      wgbDirty := (viewTiles v).foldl (fun m i => putBit m i false) k.wgbDirty,
      wgbPoison := (viewTiles v).foldl (fun m i => putBit m i false) k.wgbPoison })
    bump (bumpIf (np != 0) t1 (cCore c 35) np) (cCore c 34) 1) s

/-- Poison that a drain read (R278). -/
def viewPoison (s : State) (v : View) : Bool :=
  v.cores.any (fun c => poisonRegions s v c != 0) || (v.pin && (linesOf v.part (4 * v.rows * v.cols)).any (poisoned s))

/-- Non-finite values of x (R279). -/
def viewNonFinite (s : State) (v : View) : Nat := ((List.range (v.rows * v.cols)).filter (fun n => notFinite (viewVal s v n).1)).length

def viewCore0 (v : View) : Nat := v.cores.getD 0 0

/-- MODE 0 advances the counter of CORE0's stream by R × C (R273). -/
def advanceWgb (s : State) (v : View) : State :=
  if v.mode = 0 then updCore s (viewCore0 v) (fun k => { k with posWgb := k.posWgb + BitVec.ofNat 48 (v.rows * v.cols) }) else s

def moveViewFields : List (Nat × Nat × Nat) := [(8, 0, 64), (16, 0, 1)] ++ viewFields

/-- The destination of a view's MOVE, none in MODE 3: its pointer, the reserved bits of the command, and its fields (R274). -/
def viewTarget (s : State) (d : Line) : Except Status (Option TD) :=
  if (viewOf d).mode = 3 then (if bodyOk d moveViewFields then .ok none else .error .format)
  else match ptrFail (bytesAt d 8 8) 128 with
    | some e => .error e
    | none =>
      match descAt s (bytesAt d 8 8) with
      | .error e => .error e
      | .ok (raw, t) => if !bodyOk d moveViewFields || tdBad raw t then .error .format else .ok (some t)

/-- Checks of R274 for a MOVE: the destination's own, Table 06.5, its extents, its aliases. -/
def moveViewDst (s : State) (d : Line) : Except Status (Option TD) :=
  let v := viewOf d
  match viewTarget s d with
  | .error e => .error e
  | .ok t =>
    match viewFail s v t with
    | some e => .error e
    | none =>
      match t with
      | none => .ok none
      | some x =>
        let part : List (Nat × Nat × (Int × Int)) := if v.pin then [(0, 0, ((v.part : Int), (v.part + 4 * v.rows * v.cols - 1 : Nat)))] else []
        if extentBad x then .error .range
        else if !denseDst x || dstHits x part then .error .alias_
        else .ok (some x)

/-- Destination lines of a view, without their values. -/
def viewDstLines (v : View) (t : TD) : List (Nat × LineW) :=
  (List.range (v.rows * v.cols)).foldl (fun w n =>
    let w1 := putElem' w t (dstIdx v n) 0 false
    if t.bsh = 0 then w1 else putScale w1 t (dstIdx v n) 0) []

def viewExts (v : View) (dst : Option TD) : List (Nat × Nat) :=
  devExts dst.toList ++ if v.pin then [(v.part, v.part + 4 * v.rows * v.cols - 1)] else []

/-- A job that only holds the extents of a view's command (R419). -/
def viewJob (ring slot : Nat) (v : View) (dst : Option TD) : MoveJob :=
  ⟨ring, slot, dst.getD ⟨0, 0, 0, 1, 0, 0, 0, [], [], []⟩, [], [], false, false, false, 0, 0x7F, [], viewExts v dst, 0, 0⟩

/-- A view's lines and blocks of the device range: those it writes, and those of its partial tensor. -/
def viewLinesHere (v : View) (dst : Option TD) : List Nat :=
  (match dst with
    | some t => if t.space = 0 then (viewDstLines v t).map (·.1) else []
    | none => []) ++ if v.pin then linesOf v.part (4 * v.rows * v.cols) else []
def viewBlocks (v : View) (dst : Option TD) : List Nat := ((viewLinesHere v dst).map blockOfLine).eraseDups

/-- A MOVE with a view that has started takes its locks (R275). Stage 4 waits for the drain, stage 5 for remote lines that it fills in part or
adds to. -/
def resumeView (s : State) (ring slot : Nat) (v : View) (dst : Option TD) : State :=
  if anyCopy s (viewBlocks v dst) || viewBusy s v then s
  else if !(heldByHost s (viewLinesHere v dst)).isEmpty then recallFromHost s (heldByHost s (viewLinesHere v dst))
  else
    let s1 := lockView s v true
    match dst.filter (fun t => t.space == 2) with
    | some t =>
      let need := if v.mode = 2 then (viewDstLines v t).map (·.1) else partLines (viewDstLines v t)
      if need.isEmpty then setPhase s1 ring slot (.busy 4) else setPhase (remoteReadAll s1 ring slot t.dev need) ring slot (.busy 5)
    | none => setPhase s1 ring slot (.busy 4)

/-- The destination of a view's job, none in MODE 3. -/
def viewDst (v : View) (j : MoveJob) : Option TD := if v.mode = 3 then none else some j.dst

/-- Bytes of the destination's descriptor that a MOVE with a view reads of host memory. -/
def viewHost (s : State) (d : Line) : Nat :=
  if (viewOf d).mode = 3 || (ptrFail (bytesAt d 8 8) 128).isSome || !(descAt s (bytesAt d 8 8)).isOk then 0 else hostBytes [(bytesAt d 8 8, 128)]

/-- A MOVE with a view after its checks up to 5: its start (R419), the checks of its blocks, and the locks (R274, R275). -/
def moveViewTo (s : State) (ring slot : Nat) (d : Line) (r : Except Status (Option TD)) : State :=
  let v := viewOf d
  match r with
  | .error e => rejectMove (countRead s 1 (viewHost s d)) ring slot e
  | .ok dst =>
    if interlocked s (viewExts v dst) then lockWait s ring slot
    else
      let t := lockEnd (countRead s 1 (viewHost s d)) ring slot
      let here := match dst with
        | some x => if x.space = 0 then (viewDstLines v x).map (fun e => blockOfLine e.1) else []
        | none => []
      if (partBlocks v).any (fun b => !mapped t b) then rejectMove t ring slot .page
      else if !roomFor t here then rejectMove t ring slot .range
      else if noRouteTo t ((dst.filter (fun x => x.space == 2)).map (·.dev)) then turnAway t ring slot .absent
      else resumeView (addJob (keepRoom t ring slot here) (viewJob ring slot v dst)) ring slot v dst

/-- MOVE with a view: its checks, then the locks (R274, R275). The host gives back the lines of the descriptor first (R619). -/
def moveView (s : State) (ring slot : Nat) (d : Line) : State :=
  hostFirst s (if (viewOf d).mode = 3 then [] else structLines (bytesAt d 8 8) 128) (moveViewTo s ring slot d (moveViewDst s d))

/-- The host refuses a destination line of a view's MOVE (R632) (log 83). -/
def viewRefused (s : State) (dst : TD) (l : List (Nat × LineW)) : Bool := dst.space == 1 && l.any (fun e => hostRefuses s (64 * e.1) 64)

/-- What a drain tells once it has formed its values: events, reports, cleared tiles, positions (R273, R276, R278, R279). -/
def drainTell (s : State) (ring slot : Nat) (v : View) (e : Ev) : State :=
  advanceWgb (clearView (tsReport (bumpEv (markCmd s ring slot false (viewPoison s v)) (cCore (viewCore0 v) 0) e) 0 (viewNonFinite s v)) v) v

/-- The lines of a view and the events of their values. -/
def viewTable (s : State) (v : View) (t : TD) (rb : RBuf) : Table LineW × Ev :=
  let k := coreOf s (viewCore0 v)
  let n := v.rows * v.cols
  if v.mode = 0 then viewLines0 s v t k.seed.toNat k.posWgb.toNat (List.range (n / 32)) ([], {}) else viewLines1 s v t rb (List.range n) ([], {})

/-- Bytes that a drain reads besides the regions: its partial tensor, and what MODE 2 adds to (Tables 09.10, 14.11). -/
def drainReads (s : State) (v : View) (t : TD) : State :=
  let n := 4 * (v.rows * v.cols)
  bumpIf (v.mode == 2 && t.space == 1) (bumpIf (v.mode == 2) (bumpIf v.pin s 7 n) 7 n) 57 n

/-- The drain of a MOVE's view (R269). A block in COPY, or a line that the host holds, is waited for. -/
def drainMove (s : State) (ring slot : Nat) (d : Line) : State :=
  let v := viewOf d
  let rb := readBuf s ring slot
  let dst := (jobOf s ring slot).bind (viewDst v)
  if anyCopy s (viewBlocks v dst) then s
  else if !(heldByHost s (viewLinesHere v dst)).isEmpty then recallFromHost s (heldByHost s (viewLinesHere v dst))
  else match dst with
    | none => finishMove (drainTell s ring slot v (viewEvents s v)) ring slot
    | some t =>
      let x := viewTable s v t rb
      if viewRefused s t x.1 then setPhase s ring slot (.busy 7)
      else
        let s1 := drainTell (drainReads s v t) ring slot v x.2
        let s2 := (viewBlocks v (some t)).foldl moverTranslate (mapAll s1 (viewBlocks v (some t)))
        settleRemote (emitLines s2 ring slot t rb (lostBuf s ring slot) x.1) ring slot

/-! ### The rows -/

/-- What follows of the checks of a mover command (R417). Remote indices are read first; the row then acts again. -/
def startMove (s : State) (ring slot : Nat) (xp : Bool) : GRes → State
  | .fail e lists host => rejectMove (countLists s lists host) ring slot e
  | .need dev l =>
    if anyRoute s dev then setPhase (remoteReadAll s ring slot dev l) ring slot (.busy 5) else turnAway s ring slot .absent
  | .job j => startJob s xp j

/-- MOVE (R394), with pieces or with a view; one that has started goes on with what it read (R378). The host gives back the lines of its structures
first (R619). -/
def moveRun (s : State) (ring slot : Nat) (d : Line) : State :=
  match jobOf s ring slot with
  | some j => if mvView d then resumeView s ring slot (viewOf d) (viewDst (viewOf d) j) else resumeJob s j
  | none =>
    if mvView d then moveView s ring slot d
    else hostFirst s (heldStructs s (moveStructs s d)) (startMove s ring slot (mvXpose d) (moveJob s ring slot d))

def execMove (ring slot : Nat) (s : State) : Host.Outcome State Fault Refusal := .next (withCmd s ring slot 0x20 (moveRun s ring slot))

end Sys2Proof.Machine
end

