-- ==== Sys2Proof/Machine/Gather.lean ====
section
/-!
DEFINITION. GATHER and SCATTER (R405 to R416, R776), by index tensor or by block-coordinate list.
-/
namespace Sys2Proof.Machine

def gForm (d : Line) : Bool := fld d 40 0 1 == 1
def gDim (d : Line) : Nat := fld d 40 1 3
def gRed (d : Line) : Bool := fld d 40 4 1 == 1

def gatherFields (scatter : Bool) : List (Nat × Nat × Nat) :=
  [(8, 0, 64), (16, 0, 64), (24, 0, 64), (32, 0, 64), (40, 0, if scatter then 5 else 4)]

/-- The indices (R405): their data is part of the checks (R774), so a poisoned, refused or unmapped line rejects the command. -/
def idxFail (s : State) (rb : RBuf) (t : TD) (n : Nat) : Option Status :=
  let l := ((List.range n).flatMap (fun j => elemLines t [j, 0, 0, 0, 0, 0])).eraseDups
  if t.space = 0 then
    if l.any (fun x => !mapped s (blockOfLine x)) then some .page else if l.any (poisoned s) then some .dataDropped else none
  else if t.space = 1 then
    if l.any (fun x => hostRefuses s (64 * x) 64 || hostPoisoned s x) then some .dataDropped else none
  else if rb.any (fun e => l.contains e.1 && e.2.2) then some .dataDropped else none

def idxVals (s : State) (rb : RBuf) (t : TD) (n : Nat) : List Int :=
  (List.range n).map (fun j => sgnOf 32 (elemRead s rb t [j, 0, 0, 0, 0, 0]).1)

def setAt (l : List Nat) (d v : Nat) : List Nat := (List.range 6).map (fun i => if i = d then v else l.getD i 0)

def strictAsc : List Int → Bool
  | a :: b :: t => decide (a < b) && strictAsc (b :: t)
  | _ => true


/-- The aligned 8-byte units of the scales of a slice (R416). -/
def scaleUnits (tbl : TD) (sizes : List Nat) (gdim : Nat) (v : Int) : List Nat :=
  if tbl.bsh = 0 then [] else ((allIdx sizes).map (fun i => scaleAddr tbl (setAt i gdim v.toNat) / 8)).eraseDups

/-- The slices of FORM 0 that may go narrow (R416): `e` the byte of slice 0, `nb` the bytes of a slice; a gather from a block-scaled table
reads its slices' scales too. -/
def narrowOf (tbl : TD) (gdim : Nat) (scatter red : Bool) (vals : List Int) : List Narrow :=
  let w := fmtBits tbl.fmt
  let sizes := setAt tbl.sizes gdim 1
  let nb := prodOf sizes * w / 8
  let slice : TD := { tbl with sizes := sizes, bsh := 0 }
  if red || tbl.space != 0 || (scatter && tbl.bsh != 0) || prodOf sizes * w % 8 != 0 || !(nb == 8 || nb == 16 || nb == 32 || nb == 64) ||
      !nonOverlap sizes tbl.strides then []
  else match elemExtent slice with
    | none => []
    | some e =>
      if e.2 - e.1 + 1 ≠ nb then []
      else vals.flatMap (fun v =>
        let a := (e.1 + v * tbl.strides.getD gdim 0 * w / 8).toNat
        if a % nb ≠ 0 then [] else [⟨a, scatter, scatter && nb != 64, scaleUnits tbl sizes gdim v⟩])

/-- Reverse lexicographic order of block coordinates: C5 first (R414). -/
def coordLt : List Nat → List Nat → Bool
  | a :: as, b :: bs => if as = bs then decide (a < b) else coordLt as bs
  | _, _ => false
def coordsAsc : List (List Nat) → Bool
  | a :: b :: t => coordLt a b && coordsAsc (b :: t)
  | _ => true

def entryOf (list m : Nat) : List Nat := (List.range 6).map (fun i => bitsAt list (32 + 32 * m + 4 * i) 0 32)

/-- The copies of FORM 1: element q of the other tensor lies at its block's place in the blocked tensor (R412). -/
def blockPlace (r : Nat) (bs : List Nat) (es : List (List Nat)) (q : List Nat) : List Nat :=
  let e := es.getD (q.getD r 0) []
  (List.range 6).map (fun i => if i < r then e.getD i 0 * bs.getD i 0 + q.getD i 0 else 0)

/-- What both forms check of the two tensors and the fields (check 2). -/
def gatherCommon (d : Line) (scatter red : Bool) (sv : Nat) (src : TD) (dv : Nat) (dst : TD) : Bool :=
  !bodyOk d (gatherFields scatter) || tdBad sv src || tdBad dv dst || src.fmt != dst.fmt || src.bsh != dst.bsh ||
  (red && (dst.space == 1 || !redFmt dst.fmt || dst.bsh != 0))

/-- FORM 1 (R411 to R415), its pointers checked and its tensors read; `h0` is what was read of host memory. -/
def gatherList (s : State) (ring slot : Nat) (d : Line) (scatter red : Bool) (sv : Nat) (src : TD) (dv : Nat) (dst : TD) (h0 : Nat) : GRes :=
  let tp := bytesAt d 32 8
  let tbl := if scatter then dst else src
  let oth := if scatter then src else dst
  match structAt s tp 32 with
  | .error e => .fail e 0 h0
  | .ok hdr =>
    let nb := bitsAt hdr 24 0 32
    if ptrRangeBad tp (32 + 32 * nb) then .fail .range 32 (h0 + hostBytes [(tp, 32)])
    else match structAt s tp (32 + 32 * nb) with
      | .error e => .fail e 32 (h0 + hostBytes [(tp, 32)])
      | .ok list =>
        let n := 32 + 32 * nb
        let h := h0 + hostBytes [(tp, n)]
        let bs := (List.range 6).map (fun i => bitsAt list (4 * i) 0 32)
        let es := (List.range nb).map (entryOf list)
        let r := tbl.rank
        let p := ptrOf tp
        let lext : Nat × Nat × (Int × Int) := (if p.host then 1 else 0, 0, ((p.addr : Int), (p.addr + n - 1 : Nat)))
        match firstFail
          [(bytesAt d 24 8 != 0 || gDim d != 0 || gatherCommon d scatter red sv src dv dst || sidesBad [src] dst || bitsAt list 28 0 32 != 0 ||
            (List.range nb).any (fun m => bitsAt list (32 + 32 * m + 24) 0 64 != 0) || (tbl.bsh != 0 && bs.getD (tbl.bsh - 1) 0 % 32 != 0), .format),
           (decide (5 < r) || oth.rank != r + 1 || sizeAt oth r != nb || bs.any (fun b => b == 0) ||
            (List.range r).any (fun i => sizeAt oth i != bs.getD i 0), .shape),
           (extentBad src || extentBad dst ||
            es.any (fun e => (List.range 6).any (fun i => decide (sizeAt tbl i < (e.getD i 0 + 1) * bs.getD i 0))), .range),
           ((!red && !denseDst dst) || dstHits dst (lext :: extentsIn src) || (scatter && !red && !coordsAsc es), .alias_)] with
        | some e => .fail e n h
        | none =>
          let copies := if scatter then (allIdx src.sizes).map (fun q => Copy.mk (blockPlace r bs es q) src q)
            else (allIdx dst.sizes).map (fun q => Copy.mk q src (blockPlace r bs es q))
          .job ⟨ring, slot, dst, copies, [], red, false, false, 0, 0x7F, [], devExts [dst, src] ++ listExt tp n, n, h⟩

/-- The checks of FORM 0 that its indices decide, and its job (R408 to R410). -/
def gatherIdx (s : State) (rb : RBuf) (ring slot : Nat) (d : Line) (scatter red : Bool) (src dst idx : TD) (h0 : Nat) : GRes :=
  let gdim := gDim d
  let tbl := if scatter then dst else src
  let n := sizeAt idx 0
  match idxFail s rb idx n with
  | some e => .fail e 0 h0
  | none =>
    let vals := idxVals s rb idx n
    let h := h0 + if idx.space = 1 then 4 * n else 0
    match firstFail
      [(vals.any (fun v => decide (v < 0) || decide ((sizeAt tbl gdim : Int) ≤ v)), .range),
       ((!red && !denseDst dst) || dstHits dst (extentsIn idx ++ extentsIn src) || (scatter && !red && !strictAsc vals), .alias_)] with
    | some e => .fail e (4 * n) h
    | none =>
      let at_ (q : List Nat) : List Nat := setAt q gdim (vals.getD (q.getD gdim 0) 0).toNat
      let copies := if scatter then (allIdx src.sizes).map (fun q => Copy.mk (at_ q) src q)
        else (allIdx dst.sizes).map (fun q => Copy.mk q src (at_ q))
      .job ⟨ring, slot, dst, copies, [], red, false, false, 0, 0x7F, narrowOf tbl gdim scatter red vals, devExts [dst, src, idx], 4 * n, h⟩

/-- FORM 0 (R405 to R410), its pointers checked and its two tensors read. -/
def gatherIndex (s : State) (rb : RBuf) (ring slot : Nat) (d : Line) (scatter red : Bool) (sv : Nat) (src : TD) (dv : Nat) (dst : TD) (h0 : Nat) : GRes :=
  let gdim := gDim d
  let tbl := if scatter then dst else src
  let oth := if scatter then src else dst
  match descFor s ring slot (bytesAt d 24 8) with
  | .error e => .fail e 0 h0
  | .ok (iv, idx) =>
    let n := sizeAt idx 0
    let h := h0 + hostBytes [(bytesAt d 24 8, 128)]
    match firstFail
      [(bytesAt d 32 8 != 0 || gatherCommon d scatter red sv src dv dst || tdBad iv idx || sidesBad [src, idx] dst || idx.fmt != 9 || idx.bsh != 0 ||
        (tbl.bsh != 0 && gdim == tbl.bsh - 1), .format),
       ((idx.sizes.drop 1).any (fun z => z != 1) || decide (tbl.rank ≤ gdim) || oth.rank != tbl.rank || sizeAt oth gdim != n ||
        (List.range 6).any (fun i => i != gdim && sizeAt oth i != sizeAt tbl i), .shape),
       (extentBad src || extentBad dst || extentBad idx, .range)] with
    | some e => .fail e 0 h
    | none =>
      let il := ((List.range n).flatMap (fun j => elemLines idx [j, 0, 0, 0, 0, 0])).eraseDups
      if idx.space = 2 ∧ il.any (fun l => !rb.any (fun e => e.1 == l)) then .need idx.dev il
      else gatherIdx s rb ring slot d scatter red src dst idx h

/-- Checks 1 to 5 of a GATHER or SCATTER (log 15). -/
def gatherJob (s : State) (rb : RBuf) (ring slot : Nat) (d : Line) (scatter : Bool) : GRes :=
  let form := gForm d
  let tp := if form then bytesAt d 32 8 else bytesAt d 24 8
  match seqFail [ptrFail (bytesAt d 8 8) 128, ptrFail (bytesAt d 16 8) 128, ptrFail tp (if form then 32 else 128)] with
  | some e => .fail e 0 0
  | none =>
    match descFor s ring slot (bytesAt d 8 8) with
    | .error e => .fail e 0 0
    | .ok (sv, src) =>
      match descFor s ring slot (bytesAt d 16 8) with
      | .error e => .fail e 0 (hostBytes [(bytesAt d 8 8, 128)])
      | .ok (dv, dst) =>
        let h0 := hostBytes [(bytesAt d 8 8, 128), (bytesAt d 16 8, 128)]
        if form then gatherList s ring slot d scatter (scatter && gRed d) sv src dv dst h0
        else gatherIndex s rb ring slot d scatter (scatter && gRed d) sv src dv dst h0

/-- The structures of a GATHER or SCATTER: two descriptors, and its list or the descriptor of its indices (R417). -/
def gatherStructs (s : State) (d : Line) : List (Nat × Nat) :=
  let tp := if gForm d then bytesAt d 32 8 else bytesAt d 24 8
  if (seqFail [ptrFail (bytesAt d 8 8) 128, ptrFail (bytesAt d 16 8) 128, ptrFail tp (if gForm d then 32 else 128)]).isSome then []
  else
    [(bytesAt d 8 8, 128), (bytesAt d 16 8, 128)] ++
    if gForm d then (match structAt s tp 32 with
      | .ok hdr => [(tp, 32), (tp, 32 + 32 * bitsAt hdr 24 0 32)]
      | .error _ => [(tp, 32)])
    else [(tp, 128)]

/-- Lines of a GATHER's or SCATTER's structures that the host holds, then those of its index tensor (R619). -/
def gatherHeld (s : State) (ring slot : Nat) (d : Line) : List Nat :=
  let l := heldStructs s ((gatherStructs s d).filter (fun x => (snapOf s ring slot (.desc x.1)).isNone))
  if !l.isEmpty || gForm d then l
  else match seqFail ((gatherStructs s d).map (fun x => failOf (descFor s ring slot x.1))), descFor s ring slot (bytesAt d 24 8) with
    | none, .ok (_, idx) =>
      if idx.space != 0 || extentBad idx then [] else heldByHost s (((List.range (sizeAt idx 0)).flatMap (fun j => elemLines idx [j, 0, 0, 0, 0, 0])).eraseDups)
    | _, _ => []
where
  failOf : Except Status (Nat × TD) → Option Status
    | .error e => some e
    | .ok _ => none

/-- GATHER and SCATTER up to their copy; one that has started goes on with what it read (R378). The host gives back the lines of the structures
first (R619). -/
def gatherRun (s : State) (ring slot : Nat) (d : Line) (scatter : Bool) : State :=
  match jobOf s ring slot with
  | some j => resumeJob s j
  | none =>
    let g := gatherJob s (readBuf s ring slot) ring slot d scatter
    hostFirst s (gatherHeld s ring slot d)
      (startMove (if waitsIdx g then keepDescs s ring slot [bytesAt d 8 8, bytesAt d 16 8, bytesAt d 24 8] else s) ring slot false g)
where
  /-- The indices have to come from another device first. -/
  waitsIdx : GRes → Bool
    | .need _ _ => true
    | _ => false

/-- GATHER (R406, R412). -/
def execGather (ring slot : Nat) (s : State) : Host.Outcome State Fault Refusal :=
  .next (withCmd s ring slot 0x21 (fun d => gatherRun s ring slot d false))

/-- SCATTER (R407, R412). -/
def execScatter (ring slot : Nat) (s : State) : Host.Outcome State Fault Refusal :=
  .next (withCmd s ring slot 0x22 (fun d => gatherRun s ring slot d true))

end Sys2Proof.Machine
end

