-- ==== Sys2Proof/Machine/Training.lean ====
section
/-!
DEFINITION. Steps and the Test strip (13): STEP_BEGIN, the check of a step, and the Test strip's WAITC on its post flag.
-/
namespace Sys2Proof.Machine

/-! ### STEP_BEGIN (R570 to R574, R590, R591) -/

def sbOp (d : Line) : Nat := fld d 8 0 2
def sbStep (d : Line) : Nat := bytesAt d 12 4
def sbFields : List (Nat × Nat × Nat) := [(8, 0, 3), (12, 0, 32)]

/-- f64 to f255 of a core's flags. -/
def progFlags (f : BitVec 256) : BitVec 256 := f &&& ~~~ 0xFFFFFFFFFFFFFFFF#256

/-- The snapshot of a segment header (R574): core flags f64 to f255 of each core. -/
def snapshot (s : State) : Snapshot :=
  { step := s.tr.step, tg := s.fx.groups.map (fun e => (e.1, e.2.t.toNat)), slots := s.fb.slots.map (fun e => (e.1, (e.2.exp, e.2.lateValid))),
    mean := s.tr.mean, var := s.tr.var, samples := s.tr.samples, cf := s.sh.cf, flags := s.cores.map (fun e => (e.1, progFlags e.2.flags)) }

/-- The header of the open step's segment, 32 KiB, is written with the snapshot (R574); the spec gives it no layout, so its bytes are free (log 47). -/
def writeHeader (s : State) : State :=
  (List.range 512).foldl (fun t i => logWrite t ((logAddr s + 262144 * (s.tr.step % 8)) / 64 + i) (Config.logHeader s.freeIx i))
    { s with freeIx := s.freeIx + 1 }

/-- An OPEN is appended to the segment of the open step: its own, which it has just begun, or, when it is rejected, the one before (R575). -/
def logOpen (s : State) (d : Line) (ring slot : Nat) : State :=
  match cmdOf s ring slot with
  | some m => if logEn s && (m.replayed || ringLogs s ring) then logAppend s d ring else s
  | none => s

/-- A new segment takes the place of the step eight before it (R573). -/
def openSegment (s0 : State) (d : Line) (ring slot : Nat) : State :=
  let g : LogSeg := ⟨s0.tr.step, [], false, false, snapshot s0⟩
  let s := writeHeader s0
  let s1 := { s with tr := { s.tr with segs := s.tr.segs.filter (fun h => h.step % 8 != s.tr.step % 8) ++ [g] } }
  logOpen s1 d ring slot

/-- Why an OPEN is rejected (R570, R571). -/
def openFail (s : State) (d : Line) : Option Status :=
  firstFail
    [(!bodyOk d sbFields || decide (2 ≤ sbOp d) || fld d 8 2 1 != 0, .format),
     ((match s.tr.expect with
       | some e => e != sbStep d
       | none => false), .range),
     (s.tr.held && holdWait s, .alias_)]

/-- Step `n` is open: nothing of it is reported, checked or discarded yet. -/
def openStep (t : Training) (cfg : BitVec 64) (n : Nat) : Training :=
  { t with step := n, expect := some ((n + 1) % 2 ^ 32), cfg := cfg, nf := [], loss := none, checked := false,
           discarded := t.discarded.filter (fun k => k != n) }

/-- An OPEN that is rejected, or opens its step; both are logged. -/
def openOr (s : State) (ring slot : Nat) (d : Line) : Option Status → State
  | some e => finishCmd (logOpen s d ring slot) ring slot e 0
  | none =>
    let s1 := { s with tr := openStep s.tr (reg64 s 0x140) (sbStep d) }
    finishCmd (if logEn s then openSegment s1 d ring slot else s1) ring slot .ok 0

/-- STEP_BEGIN_OPEN (R570 to R574, R585, R604); the reserved OPs are rejected here. -/
def stepOpen (s : State) (ring slot : Nat) (d : Line) : State := openOr s ring slot d (openFail s d)

def execStepBeginOpen (ring slot : Nat) (s : State) : Host.Outcome State Fault Refusal :=
  .next (withCmd s ring slot 0x40 (fun d => if sbOp d = 1 then s else stepOpen s ring slot d))

/-- STEP_BEGIN_RESOLVE (R590, R591). -/
def stepResolve (s : State) (ring slot : Nat) (d : Line) : State :=
  checked s ring slot
    [(!bodyOk d sbFields, .format), (!s.tr.held || s.tr.vstep != sbStep d, .range)]
    (finishCmd (if fld d 8 2 1 = 1 then discardStep s else { s with tr := { s.tr with held := false } }) ring slot .ok 0)

def execStepBeginResolve (ring slot : Nat) (s : State) : Host.Outcome State Fault Refusal :=
  .next (withCmd s ring slot 0x40 (fun d => if sbOp d = 1 then stepResolve s ring slot d else s))

/-! ### The WAITC on POST_CF (R586) -/

def stripWaits (s : State) : Bool := s.sh.waiters.any (fun w => w.who == .tstrip)
/-- The pending WAITC is withdrawn; it consumes no flag. -/
def stripWithdraw (s : State) : State := { s with sh := { s.sh with waiters := s.sh.waiters.filter (fun w => w.who != .tstrip) } }
/-- A WAITC is placed on POST_CF; a flag already set completes it, and the next one waits. -/
def stripPlace (s : State) : State :=
  if flagGet s (.chip (postCf s)) then stripWait (stripPost (flagPut s (.chip (postCf s)) false)) else stripWait s

/-- CFG_TSTRIP takes a value; EN and POST_CF act at once on the pending WAITC (R586, R604). -/
def setTstrip (s : State) (v : BitVec 64) : State :=
  let old := reg64 s 0x140
  let s1 := setReg64 s 0x140 (v &&& 0xE0FFFFFFFFFFF000)
  let new := reg64 s1 0x140
  if !new.getLsbD 63 then stripWithdraw s1
  else if old.getLsbD 63 && field64 old 23 12 == field64 new 23 12 && stripWaits s1 then s1
  else stripPlace (stripWithdraw s1)

/-- TSTRIP_CONFIG_WRITE (R586). -/
def execTstripConfigWrite (v : BitVec 64) (s : State) : Host.Outcome State Fault Refusal :=
  .next (if s.pw.off then s else setTstrip s v)

end Sys2Proof.Machine
end

