-- ==== Sys2Proof/Machine/FixerStep.lean ====
section
/-!
DEFINITION. UPDATE STEP (R446 to R469): its checks, the blocks it updates under each rule, embedding rows, and the working copy.
-/
namespace Sys2Proof.Machine

/-! ### Reading blocks -/

/-- `n` values of `w` bytes from address `a`, and whether a line of them is poisoned. -/
def rdList (s : State) (a w n : Nat) : List Nat × Bool :=
  let x := spaceBytes s [] 0 a (w * n)
  (unpackBits (8 * w) n x.1, x.2)

def blockElems (r b : Nat) : Nat := min 32 (grP r - 32 * b)

/-- A block as the Fixer reads it: its elements, whether a line of it is poisoned, and the events of decoding it. -/
structure Blk where
  (vals : List Nat) (pois : Bool) (ev : Ev)
  deriving DecidableEq, Repr
/-- A gradient block, decoded (R449). -/
abbrev Grad := Blk

def decBlock (scale : Nat) (pois : Bool) (codes : List Nat) : Blk := ⟨codes.map (dec16 scale), pois, evSum (codes.map (dec16Ev scale))⟩
/-- A decoded BF16 block of the tensor pair i, i + 1 (log 36). -/
def rdBf16 (s : State) (r i b : Nat) : Blk :=
  let x := rdList s (grAddr r i + 64 * b) 2 (blockElems r b)
  let y := rdList s (grAddr r (i + 1) + b) 1 1
  decBlock (y.1.getD 0 0) (x.2 || y.2) x.1
def rdMaster (s : State) (r b : Nat) : Blk := let x := rdList s (grAddr r 0 + 128 * b) 4 (blockElems r b); ⟨x.1, x.2, {}⟩

/-- The stack that holds a block's master (R425). -/
def fixStack (s : State) (r b : Nat) : Nat :=
  match (dirOf s (blockOf (grAddr r 0 + 128 * b))).home with
  | .stack p => p
  | _ => 0

/-! ### Writing blocks -/

/-- Random bits of element `i` of a block for use q (R451), in stream form: the stream cancels. -/
def fixRnd (on : Bool) (seed n b q i : Nat) : Option Nat :=
  if on then some (srBits ((seed + n) % 2 ^ 64) 0 ((4 * (32 * b + i) + q) % 2 ^ 48)) else none

def putList (t : Table LineW) (bit w : Nat) : List Nat → Table LineW
  | [] => t
  | x :: l => putList (putBits t bit w x false) (bit + w) w l

/-- A moment of the tensor pair i, i + 1. -/
def putEnc (t : Table LineW) (r i b : Nat) (e : Enc) : Table LineW :=
  putBits (putList t (8 * (grAddr r i + 64 * b)) 16 e.codes) (8 * (grAddr r (i + 1) + b)) 8 e.scale false
def putMaster (t : Table LineW) (r b : Nat) (w : List Nat) : Table LineW := putList t (8 * (grAddr r 0 + 128 * b)) 32 w

/-- The working copy of a block (R454); the rest of the last packing group is 0 (R58). `sr` allows stochastic rounding. -/
def putWc (t : Table LineW) (r n b : Nat) (sr : Bool) (w : List Nat) : Table LineW × Ev :=
  let f := grWcFmt r
  let rd (i : Nat) : Option Nat := fixRnd (sr && grSr r / 2 % 2 == 1) (grSeed r) n b 2 i
  let bit := 8 * grAddr r 9 + fmtBits f * 32 * b
  if f = 0 then (putList t bit 32 w, {})
  else
    let y := if grWcBs r then convBlock f rd 0 (w.map val32) else
      let z := convPlain f rd 0 (w.map val32)
      (0, z.1, z.2)
    let g := packGroup f
    let pad := (g - w.length % g) % g
    let t1 := putList t bit (fmtBits f) (y.2.1 ++ List.replicate pad 0)
    (if grWcBs r then putBits t1 (8 * (grAddr r 10 + wcsOff r b)) 8 y.1 false else t1, y.2.2)

/-- A line of the Fixer's own stack `p` is taken out of its cache slice before the base die touches it (R311, R455). -/
def fixRecall (p : Nat) (s : State) (l : Nat) : State := if (dirOf s (blockOfLine l)).home = .stack p then recallLine s p l else s

/-- The Fixer touches a line: it recalls it, and the access waits at the line's channel (R291, R311). -/
def fixTouch (p : Nat) (write : Bool) (s : State) (l : Nat) : State := queueLine (fixRecall p s l) l write

/-- The lines of block b in tensor i that a STEP reads. -/
def stepLines (r b i : Nat) : List Nat :=
  let n := blockElems r b
  if i = 0 then linesOf (grAddr r 0 + 128 * b) (4 * n) else if i % 2 = 1 then linesOf (grAddr r i + 64 * b) (2 * n) else linesOf (grAddr r i + b) 1

/-- The state of a STEP under way: blocks skipped for non-finite values, and whether one was skipped for poison. -/
structure StepRun where
  (s : State) (nf : Nat) (pois : Bool)

def skipNf (x : StepRun) (p n : Nat) : StepRun := { x with s := bump x.s (cStack p 9) n, nf := x.nf + n }
def skipPoison (x : StepRun) (p n : Nat) : StepRun := { x with s := bump x.s (cStack p 10) n, pois := true }
/-- The lines of a block that a STEP reads, its gradient's among them. -/
def blockLines (r b : Nat) : List Nat := ((List.range 9).filter (usesTensor r)).flatMap (stepLines r b)
/-- The Fixer of stack `p` reads the lines of a block (R311). -/
def recallBlockOf (r p b : Nat) (x : StepRun) : StepRun := { x with s := (blockLines r b).foldl (fixTouch p false) x.s }
/-- Lines of a block reach memory (log 32); those among `narrow` have gone by the narrow path. -/
def writeBlock (x : StepRun) (p : Nat) (narrow : List Nat) (t : Table LineW) : StepRun :=
  { x with s := writeLinesW (t.foldl (fun s e => if narrow.contains e.1 then s else fixTouch p true s e.1) x.s) t }
/-- Numeric events of the Fixer in stack p (Table 02.8, log 36). -/
def addEvents (x : StepRun) (p : Nat) (e : Ev) : StepRun := { x with s := bumpEv x.s (cStack p 0) e }
/-- `n` blocks are updated and written, with their events. -/
def countBlocks (x : StepRun) (p n : Nat) (e : Ev) : StepRun := let y := addEvents x p e; { y with s := bump y.s (cStack p 8) n }

/-- What becomes of a block: skipped for poison, skipped for a value that is not finite, or written; the events of what was computed. -/
inductive BlockRes where | poison | skip (e : Ev) | write (t : Table LineW) (e : Ev)

def applyRes (x : StepRun) (p n : Nat) : BlockRes → StepRun
  | .poison => skipPoison x p n
  | .skip e => skipNf (addEvents x p e) p n
  | .write t e => countBlocks (writeBlock x p [] t) p n e

/-! ### Rules 0 and 1 -/

/-- The block's moments as stored, its new masters and the events, from gradient, master and moments (R456, R457). -/
def ruleBlock (rule : Nat) (h : Hyper) (rd : Nat → Nat → Option Nat) (g w m v : List Nat) : Enc × Option Enc × Vals :=
  if rule = 0 then
    let y := sgdMoment h g m
    let m1 := encMoment (rd 0) y.1
    let w2 := sgdMaster h w g m1.vals
    (m1, none, w2.1, evSum [y.2, m1.ev, w2.2])
  else
    let y := adamM h g m
    let z := adamV h g v
    let m1 := encMoment (rd 0) y.1
    let m2 := encMoment (rd 1) z.1
    let u := adamDir h w m1.vals m2.vals
    let w2 := adamMaster h w u.1
    (m1, some m2, w2.1, evSum [y.2, z.2, m1.ev, m2.ev, u.2, w2.2])

def stepRnd (r n b q i : Nat) : Option Nat := fixRnd (grSr r % 2 == 1) (grSeed r) n b q i

/-- What one block under rule 0 or 1 comes to, after `k` skipped updates (R452, R453). -/
def blockRes (r n : Nat) (h : Hyper) (k : Nat) (gr : Grad) (b : Nat) (s : State) : BlockRes :=
  let w := rdMaster s r b
  let m := rdBf16 s r 1 b
  let v := if grRule r = 1 then rdBf16 s r 3 b else ⟨m.vals.map (fun _ => 0), false, {}⟩
  let e0 := evSum [gr.ev, m.ev, v.ev]
  if gr.pois || w.pois || m.pois || v.pois then .poison
  else if !(allFinite gr.vals && allFinite m.vals && allFinite v.vals) then .skip e0
  else
    let g := scaleGrad h gr.vals
    let c := catchUp (grRule r) h k w.vals m.vals v.vals
    let y := ruleBlock (grRule r) h (stepRnd r n b) g.1 c.1 c.2.1 c.2.2.1
    let e1 := evSum [e0, g.2, c.2.2.2, y.2.2.2]
    if !allFinite y.2.2.1 then .skip e1
    else
      let t1 := putEnc (putMaster [] r b y.2.2.1) r 1 b y.1
      let t2 := match y.2.1 with
        | some m2 => putEnc t1 r 3 b m2
        | none => t1
      let t3 := putWc t2 r n b true y.2.2.1
      .write t3.1 (evAdd e1 t3.2)

/-- One block under rule 0 or 1. -/
def stepBlock (r n : Nat) (h : Hyper) (k : Nat) (gr : Grad) (b : Nat) (x0 : StepRun) : StepRun :=
  let p := fixStack x0.s r b
  let x := recallBlockOf r p b x0
  applyRes x p 1 (blockRes r n h k gr b x.s)

/-! ### Rule 2 -/

/-- Totals of a segment, exact. -/
structure SegSum where
  (seg : Nat) (w2 u2 : Exact)
  deriving DecidableEq, Repr

def addSeg (k : Nat) (w u : Exact) : List SegSum → List SegSum
  | [] => [⟨k, w, u⟩]
  | e :: t => if e.seg = k then ⟨k, (nadd e.w2 w).1, (nadd e.u2 u).1⟩ :: t else e :: addSeg k w u t

/-- Pass 1 of a block: its moments, and its part of the segment totals. The blocks skipped are listed. -/
def pass1 (r n : Nat) (h : Hyper) (gr : Nat → State → Grad) : List Nat → StepRun × List SegSum × List Nat → StepRun × List SegSum × List Nat
  | [], y => y
  | b :: bs, (x0, sums, skips) =>
    let p := fixStack x0.s r b
    let x := recallBlockOf r p b x0
    let s := x.s
    let w := rdMaster s r b
    let m := rdBf16 s r 1 b
    let v := rdBf16 s r 3 b
    let g0 := gr b s
    let e0 := evSum [g0.ev, m.ev, v.ev]
    if g0.pois || w.pois || m.pois || v.pois then pass1 r n h gr bs (skipPoison x p 1, sums, b :: skips)
    else if !(allFinite g0.vals && allFinite m.vals && allFinite v.vals) then pass1 r n h gr bs (skipNf (addEvents x p e0) p 1, sums, b :: skips)
    else
      let g := scaleGrad h g0.vals
      let y := adamM h g.1 m.vals
      let z := adamV h g.1 v.vals
      let m1 := encMoment (stepRnd r n b 0) y.1
      let m2 := encMoment (stepRnd r n b 1) z.1
      let u := adamDir h w.vals m1.vals m2.vals
      let x1 := addEvents (writeBlock x p [] (putEnc (putEnc [] r 1 b m1) r 3 b m2)) p (evSum [e0, g.2, y.2, z.2, m1.ev, m2.ev, u.2])
      let sums1 := if allFinite u.1 then addSeg (32 * b / grHyper r 6) (dotExact w.vals w.vals) (dotExact u.1 u.1) sums else sums
      pass1 r n h gr bs (x1, sums1, skips)

/-- r of a segment, from its totals rounded once (R459). -/
def sumRatio (r : Nat) (e : SegSum) : Nat × Ev :=
  let w := fexOp {} (e.w2, false)
  let u := fexOp {} (e.u2, false)
  let q := trustRatio (grHyper r 5) w.1 u.1
  (q.1, evSum [w.2, u.2, q.2])
def segRatio (r : Nat) (sums : List SegSum) (k : Nat) : Nat :=
  match sums.find? (fun e => e.seg == k) with
  | some e => (sumRatio r e).1
  | none => fOne

/-- Every Fixer of the device forms the ratios of the segments (R459). -/
def ratioEvents (r : Nat) (sums : List SegSum) (x : StepRun) : StepRun :=
  (List.range x.s.fit.nStacks).foldl (fun y p => addEvents y p (evSum (sums.map (fun e => (sumRatio r e).2)))) x

def pass2 (r n : Nat) (h : Hyper) (sums : List SegSum) (b : Nat) (x : StepRun) : StepRun :=
  let s := x.s
  let p := fixStack s r b
  let w := rdMaster s r b
  let m := rdBf16 s r 1 b
  let v := rdBf16 s r 3 b
  let u := adamDir h w.vals m.vals v.vals
  let w2 := trustMaster h (segRatio r sums (32 * b / grHyper r 6)) w.vals u.1
  let e := evSum [m.ev, v.ev, u.2, w2.2]
  if !(allFinite u.1 && allFinite w2.1) then applyRes x p 1 (.skip e)
  else
    let t := putWc (putMaster [] r b w2.1) r n b true w2.1
    applyRes x p 1 (.write t.1 (evAdd e t.2))

def stepNorm (r n : Nat) (h : Hyper) (gr : Nat → State → Grad) (x : StepRun) : StepRun :=
  let l := List.range (grBlocks r)
  let y := pass1 r n h gr l (x, [], [])
  (l.filter (fun b => !y.2.2.contains b)).foldl (fun x b => pass2 r n h y.2.1 b x) (ratioEvents r y.2.1 y.1)

/-! ### Rule 3 -/

/-- Rows of a matrix as read. -/
structure RowsIn where
  (mat : Mat) (pois : Bool) (ev : Ev)
def rows32 (f : Nat → Blk) (bb : Nat) : RowsIn :=
  let l := (List.range 32).map (fun i => f (32 * bb + i))
  ⟨l.map (·.vals), l.any (·.pois), evSum (l.map (·.ev))⟩
def RowsIn.finite (x : RowsIn) : Bool := x.mat.all allFinite

/-- Rows as stored, and their events. -/
def encRows (rd : Nat → Nat → Option Nat) (bb : Nat) (m : Mat) : List Enc :=
  (List.range 32).map (fun i => encMoment (rd (32 * bb + i)) (m.getD i []))
def encEv (l : List Enc) : Ev := evSum (l.map (·.ev))
def putRows (r i bb : Nat) (t : Table LineW) (l : List Enc) : Table LineW :=
  (List.range 32).foldl (fun t k => putEnc t r i (32 * bb + k) (l.getD k ⟨0, [], [], {}⟩)) t

/-- One preconditioner block of 32 parameter blocks (R460 to R462). -/
def stepPre (r n : Nat) (h : Hyper) (gr : Nat → State → Grad) (bb : Nat) (x0 : StepRun) : StepRun :=
  let p := fixStack x0.s r (32 * bb)
  let x := (List.range 32).foldl (fun y i => recallBlockOf r p (32 * bb + i) y) x0
  let s := x.s
  let inv := n % grHyper r 7 == 0
  let w := rows32 (rdMaster s r) bb
  let mo := rows32 (rdBf16 s r 1) bb
  let st := rows32 (rdBf16 s r 3) bb
  let ax := if inv then ⟨[], false, {}⟩ else rows32 (rdBf16 s r 5) bb
  let g0 := rows32 (fun b => gr b s) bb
  let e0 := evSum [g0.ev, mo.ev, st.ev, ax.ev]
  if w.pois || mo.pois || st.pois || ax.pois || g0.pois then applyRes x p 32 .poison
  else if !(g0.finite && mo.finite && st.finite && ax.finite) then applyRes x p 32 (.skip e0)
  else
    let g := matRun (g0.mat.map (fun l => l.map (fun v => .mul (.val h.gscale) (.val v))))
    let rd (q b i : Nat) : Option Nat := stepRnd r n b q i
    let pm := preMoment h mo.mat g.1
    let ps := preStat h st.mat g.1
    let m1 := encRows (rd 0) bb pm.1
    let l1 := encRows (rd 1) bb ps.1
    let iv := dampedInverse (l1.map (·.vals)) 4 (grHyper r 4) 0 {}
    let a1 := encRows (rd 3) bb iv.mat
    let s1 := if inv then bumpIf (iv.diag != 0) (bumpIf (iv.esc != 0) (bump s (cStack p 11) 1) (cStack p 12) iv.esc) (cStack p 13) 1 else s
    let w2 := preMaster h w.mat (m1.map (·.vals)) (if inv then a1.map (·.vals) else ax.mat)
    let x1 := { x with s := s1 }
    let e1 := evSum ([e0, g.2, pm.2, ps.2, encEv m1, encEv l1, w2.2] ++ if inv then [iv.ev, encEv a1] else [])
    if !w2.1.all allFinite then applyRes x1 p 32 (.skip e1)
    else
      let t1 := putRows r 3 bb (putRows r 1 bb [] m1) l1
      let t2 := if inv then putRows r 5 bb t1 a1 else t1
      let t3 := (List.range 32).foldl (fun (y : Table LineW × Ev) k =>
        let z := putWc (putMaster y.1 r (32 * bb + k) (w2.1.getD k [])) r n (32 * bb + k) true (w2.1.getD k [])
        (z.1, evAdd y.2 z.2)) (t2, {})
      applyRes x1 p 32 (.write t3.1 (evAdd e1 t3.2))

/-! ### Embedding rows (R463 to R465) -/

/-- One access on the narrow path of the stack that homes its address (R465). -/
def touchAt (s : State) (addr : Nat) (write small : Bool) : State :=
  match narrowAt s addr with
  | some p => narrowTouch s p (lineOf addr) write small
  | none => s

/-- The narrow accesses of block b: 64 bytes of master or moment elements, 8 bytes of scales, read or written (log 36). -/
def rowTouch (write : Bool) (r b : Nat) (s : State) : State :=
  ((List.range 5).filter (usesTensor r)).foldl (fun t i => (stepLines r b i).foldl (fun u l => touchAt u (64 * l) write (write && i != 0 && i % 2 == 0)) t) s

def growsLines (t : TD) (j c : Nat) : List Nat := ((List.range 32).flatMap (fun i => elemLines t [32 * c + i, j, 0, 0, 0, 0])).eraseDups
/-- The gradient of block c of row j of GROWS. -/
def growsBlock (s : State) (rb : RBuf) (t : TD) (j c : Nat) : Grad :=
  let l := (List.range 32).map (fun i => (elemRead s rb t [32 * c + i, j, 0, 0, 0, 0]))
  let sc := scaleRead s rb t [32 * c, j, 0, 0, 0, 0]
  decBlock sc.1 (l.any (·.2) || sc.2) (l.map (·.1))

/-- Block b of a row, its gradient block c of row j of GROWS: `pois` when the row's record is poisoned. Its masters and moments go by the narrow
path (R465). -/
def embedBlock (r n : Nat) (h : Hyper) (k : Nat) (rb : RBuf) (t : TD) (pois : Bool) (j c b : Nat) (x0 : StepRun) : StepRun :=
  let p := fixStack x0.s r b
  let s0 := if t.space = 0 then (growsLines t j c).foldl (fixTouch p false) x0.s else x0.s
  let x := { x0 with s := rowTouch false r b s0 }
  let g := growsBlock x.s rb t j c
  match blockRes r n h k { g with pois := g.pois || pois } b x.s with
  | .write w e => countBlocks (writeBlock { x with s := rowTouch true r b x.s } p (blockLines r b) w) p 1 e
  | q => applyRes x p 1 q

def embedRow (r n : Nat) (h : Hyper) (rb : RBuf) (t : TD) (j row : Nat) (x0 : StepRun) : StepRun :=
  let a := grAddr r 11 + 8 * row
  let x := { x0 with s := touchAt x0.s a false false }
  let rec_ := rdList x.s a 4 2
  let last := rec_.1.getD 0 0
  let cnt := rec_.1.getD 1 0
  let k := if grCatchup r then (n + 2 ^ 32 - last % 2 ^ 32) % 2 ^ 32 else 0
  let h1 := { h with t := if grCatchup r then n + 1 else cnt + 1 }
  let nb := grRowLen r / 32
  let b0 := row * nb
  let p := fixStack x.s r b0
  let x1 := (List.range nb).foldl (fun y c => embedBlock r n h1 k rb t rec_.2 j c (b0 + c) y) x
  let s1 := touchAt (bumpIf (k != 0) (bump x1.s (cStack p 14) 1) (cStack p 15) k) a true true
  { x1 with s := writeLineW s1 (a / 64) (tget noLineW (putBits (putBits [] (8 * a) 32 ((n + 1) % 2 ^ 32) false) (8 * a + 32) 32 ((cnt + 1) % 2 ^ 32) false) (a / 64)) }

def embedRows (r n : Nat) (h : Hyper) (rb : RBuf) (t : TD) : Nat → List Int → StepRun → StepRun
  | _, [], x => x
  | j, v :: vs, x => embedRows r n h rb t (j + 1) vs (embedRow r n h rb t j v.toNat x)

/-! ### The command -/

/-- The schedule words of a group, as one number. -/
def schedRaw (s : State) (g : Nat) : Nat := packBits 32 ((List.range 8).map (fun k => (reg32 s (0x3000 + 32 * g + 4 * k)).toNat))
/-- The fields of Table 10.8. -/
def schedFrom (x : Nat) : Sched :=
  let w (k : Nat) : Nat := bitsAt x (4 * k) 0 32
  ⟨w 0, w 1, w 2, w 3, w 4, w 5, w 6, w 7 / 256 % 16, w 7 / 16 % 2 == 1, w 7 / 4 % 4, w 7 / 2 % 2⟩
/-- The schedule that a STEP works under: as it latched it when it started (R467, R469), else as the registers have it. -/
def schedOf (s : State) (ring slot g : Nat) : Sched := schedFrom ((snapOf s ring slot .sched).getD (schedRaw s g))

/-- The indices that a STEP has kept (R437). -/
def keptIdx (s : State) (ring slot n : Nat) : Option (List Int) := (snapOf s ring slot .idx).map (fun x => (unpackBits 32 n x).map (sgnOf 32))

/-- What an EMBED STEP has read: its index tensor, gradient rows and indices. -/
structure EmbedIn where
  (rows : TD) (idx : List Int)
  deriving DecidableEq, Repr

/-- What the checks of a STEP come to: a status, with the bytes of structures read from host memory; lines of another device that are needed
first, with the indices if they have been read; or the update, with those bytes. -/
inductive StepIn where | fail (e : Status) (host : Nat) | need (dev : Nat) (lines : List Nat) (idx : Option (List Int)) | go (e : Option EmbedIn) (host : Nat)

def tdExt (t : TD) : List (Nat × Nat) := if t.space = 0 then (extentsOf t).map (fun e => (e.1.toNat, (e.2 - e.1 + 1).toNat)) else []

/-- The lines among `l` that a command has still to fetch from device `dev`. -/
def unfetched (s : State) (ring slot dev : Nat) (l : List Nat) : List Nat := l.filter (fun x => !(readFrom s ring slot dev).any (fun q => q.1 == x))

/-- Lines of an index tensor of `n` indices. -/
def idxLines (t : TD) (n : Nat) : List Nat := ((List.range n).flatMap (fun j => elemLines t [j, 0, 0, 0, 0, 0])).eraseDups
/-- Lines of the gradient rows. -/
def rowLines (t : TD) : List Nat := ((allIdx t.sizes).flatMap (elemLines t)).eraseDups

/-- The checks of an EMBED STEP on its indices, once they have been read. -/
def rowChecks (s : State) (ring slot r : Nat) (it gt : TD) (vals : List Int) (h : Nat) : StepIn :=
  let gl := rowLines gt
  let gneed := if gt.space = 2 then unfetched s ring slot gt.dev gl else []
  if vals.any (fun v => decide (v < 0) || decide ((grRows r : Int) ≤ v)) then .fail .range h
  else if !strictAsc vals || (tdExt it ++ tdExt gt).any (fun a => (spansOf r ((homedTensors r).filter (fun i => i != 7 && i != 8 && i != 9 && i != 10))).any (spansMeet a))
    then .fail .alias_ h
  else if gt.space = 0 && gl.any (fun x => !mapped s (blockOfLine x)) then .fail .page h
  else if gt.space = 1 && gl.any (fun x => hostRefuses s (64 * x) 64) then .fail .dataDropped h
  else if !gneed.isEmpty then .need gt.dev gneed (some vals)
  else .go (some ⟨gt, vals⟩) h

/-- The checks of an EMBED STEP once both descriptors are read, from SHAPE on; `h` is what was read of host memory. -/
def embedChecks (s : State) (ring slot r : Nat) (it gt : TD) (h : Nat) : StepIn :=
  let n := sizeAt it 0
  let il := idxLines it n
  let kept := keptIdx s ring slot n
  let ineed := if it.space = 2 && kept.isNone then unfetched s ring slot it.dev il else []
  let h1 := h + if it.space = 1 then 4 * n else 0
  if (it.sizes.drop 1).any (fun z => z != 1) || sizeAt gt 0 != grRowLen r || sizeAt gt 1 != n then .fail .shape h
  else if extentBad it || extentBad gt then .fail .range h
  else if (!ineed.isEmpty && !anyRoute s it.dev) || (gt.space == 2 && !(unfetched s ring slot gt.dev (rowLines gt)).isEmpty && !anyRoute s gt.dev)
    then .fail .absent h
  else if !ineed.isEmpty then .need it.dev ineed none
  else match kept with
    | some vals => rowChecks s ring slot r it gt vals h1
    | none =>
      let rb := readFrom s ring slot it.dev
      match idxFail s rb it n with
      | some x => .fail x h
      | none => rowChecks s ring slot r it gt (idxVals s rb it n) h1

/-- The FORMAT line of IDX and of GROWS. -/
def idxBad (x : Nat × TD) : Bool := tdBad x.1 x.2 || x.2.fmt != 9 || x.2.bsh != 0
def rowsBad (x : Nat × TD) : Bool := tdBad x.1 x.2 || x.2.fmt != 2 || x.2.bsh != 1 || x.2.rank != 2

/-- The first FORMAT line of Table 10.6. -/
def stepFormat (s : State) (ring slot : Nat) (d : Line) (g r : Nat) : Bool :=
  let unused := if grEmbed r then bytesAt d 24 8 != 0 else bytesAt d 24 8 != 0 || bytesAt d 32 8 != 0 || bytesAt d 40 8 != 0
  !bodyOk d upFields || unused || (decide (g < 60) && upLr d != 0) || !finite32 (upLr d) || !finite32 (upGscale d) ||
    (decide (g < 60) && schedBad (schedOf s ring slot g))

/-- The descriptors of an EMBED STEP that it reads. -/
def stepPtrs (d : Line) : List (Nat × Nat) := [(bytesAt d 32 8, 128), (bytesAt d 40 8, 128)].filter (fun x => (ptrFail x.1 x.2).isNone)

/-- Checks of Table 10.6 from the third line on (log 37): a descriptor whose pointer R377 refuses is not read, and the lines on the other come
first. -/
def stepChecks (s : State) (ring slot : Nat) (d : Line) (g r : Nat) : StepIn :=
  if stepFormat s ring slot d g r then .fail .format 0
  else if !grEmbed r then
    let l := (if usesTensor r 7 then blocksOf (grAddr r 7) (tensorBytes r 7) ++ blocksOf (grAddr r 8) (tensorBytes r 8) else [])
    if l.any (fun b => !mapped s b) then .fail .page 0 else .go none 0
  else
    let ip := (ptrFail (bytesAt d 32 8) 128).isNone
    let gp := (ptrFail (bytesAt d 40 8) 128).isNone
    let i := descFor s ring slot (bytesAt d 32 8)
    let gr := descFor s ring slot (bytesAt d 40 8)
    let h := hostBytes ((stepPtrs d).filter (fun x => match descFor s ring slot x.1 with
      | .ok _ => true
      | .error _ => false))
    match ip, gp, i, gr with
    | true, true, .ok i, .ok gr => if idxBad i || rowsBad gr then .fail .format h else embedChecks s ring slot r i.2 gr.2 h
    | true, _, .error x, _ => .fail x h
    | _, true, _, .error x => .fail x h
    | true, false, .ok i, _ =>
      if idxBad i then .fail .format h else if (i.2.sizes.drop 1).any (fun z => z != 1) then .fail .shape h else .fail .range h
    | false, true, _, .ok gr => if rowsBad gr then .fail .format h else if sizeAt gr.2 0 != grRowLen r then .fail .shape h else .fail .range h
    | false, false, _, _ => .fail .range h

/-- Lines of the structures of an EMBED STEP that the host holds: of its descriptors, then of its index tensor (R619). -/
def stepHeld (s : State) (ring slot : Nat) (d : Line) (g r : Nat) : List Nat :=
  if !grEmbed r || stepFormat s ring slot d g r then []
  else
    let l := heldStructs s ((stepPtrs d).filter (fun x => (snapOf s ring slot (.desc x.1)).isNone))
    if !l.isEmpty || (ptrFail (bytesAt d 32 8) 128).isSome then l
    else match descFor s ring slot (bytesAt d 32 8) with
      | .ok i => if idxBad i || i.2.space != 0 || extentBad i.2 || (snapOf s ring slot .idx).isSome then [] else heldByHost s (idxLines i.2 (sizeAt i.2 0))
      | .error _ => []

/-- Lines of the group that the host holds, and its blocks in COPY, settle first (R619, R470). -/
def groupHeld (s : State) (r : Nat) : List Nat := s.m.snoop.filter (fun l => (spansOf r (usedTensors r)).any (spansMeet (64 * l, 64)))
def groupCopy (s : State) (r : Nat) : Bool := s.m.moves.any (fun v => v.copy && (spansOf r (usedTensors r)).any (spansMeet (65536 * v.block, 65536)))

def gradBlock (r : Nat) (b : Nat) (s : State) : Grad := rdBf16 s r 7 b

/-- The learning rate of update index n (R466). -/
def stepLr (s : State) (ring slot : Nat) (d : Line) (g n : Nat) : Nat := if g < 60 then sched (schedOf s ring slot g) n else upLr d

/-- Bytes of gradient rows that a STEP reads from host memory: the elements, and a scale for each 32 of them. -/
def rowHost (e : Option EmbedIn) : Nat :=
  match e with
  | some q => if q.rows.space = 1 then prodOf q.rows.sizes * 2 + prodOf q.rows.sizes / 32 else 0
  | none => 0

/-- The update itself (R447). Lost lines of the gradient rows end it with DATA_DROPPED (R547). -/
def runStep (s : State) (ring slot : Nat) (d : Line) (g r : Nat) (e : Option EmbedIn) : State :=
  let x := groupOf s g
  let n := x.t.toNat
  let lr := stepLr s ring slot d g n
  let h : Hyper := ⟨grHyper r 0, grHyper r 1, grHyper r 2, grHyper r 3, lr, upGscale d, n + 1, grNesterov r⟩
  let z : StepRun := ⟨s, 0, false⟩
  let y := match e with
    | some q => embedRows r n h (readFrom s ring slot q.rows.dev) q.rows 0 q.idx z
    | none =>
      if grRule r = 2 then stepNorm r n h (gradBlock r) z
      else if grRule r = 3 then (List.range (grBlocks r / 32)).foldl (fun x bb => stepPre r n h (gradBlock r) bb x) z
      else (List.range (grBlocks r)).foldl (fun x b => stepBlock r n h 0 (gradBlock r b x.s) b x) z
  let s1 := setGroup (tsReport y.s 2 y.nf) g { x with t := x.t + 1, lastLr := BitVec.ofNat 32 lr }
  finishCmd (dropReads s1 ring slot) ring slot (if cmdLost s ring slot then .dataDropped else if y.pois then .poisonSkip else .ok)
    (BitVec.ofNat 64 (n % 2 ^ 32))

/-- A STEP starts: it latches its schedule and reads its structures (R378, R437, R467). -/
def latchStep (s : State) (ring slot : Nat) (d : Line) (g r : Nat) (idx : Option (List Int)) : State :=
  let s1 := keepSnap s ring slot .sched (schedRaw s g)
  let s2 := if grEmbed r then keepDescs s1 ring slot [bytesAt d 32 8, bytesAt d 40 8] else s1
  match idx with
  | some l => keepSnap s2 ring slot .idx (packBits 32 (l.map (fun v => (v % 2 ^ 32).toNat)))
  | none => s2

/-- Lines of this device's range that the gradient rows of an EMBED STEP take. -/
def embedLines (e : Option EmbedIn) : List Nat :=
  match e with
  | some q => if q.rows.space = 0 then rowLines q.rows else []
  | none => []

/-- What follows of the checks of a STEP. What it reads of host memory counts once, as it ends its checks (Table 14.11). -/
def stepNext (s : State) (ring slot : Nat) (d : Line) (g r : Nat) (q : StepIn) : State :=
  match q with
  | .fail e h => finishCmd (dropReads (countRead s 1 h) ring slot) ring slot e 0
  | .need dev l idx => setPhase (remoteReadAll (latchStep s ring slot d g r idx) ring slot dev l) ring slot (.busy 5)
  | .go e h =>
    let held := groupHeld s r ++ heldByHost s (embedLines e)
    if groupCopy s r then latchStep s ring slot d g r (e.map (·.idx))
    else if !held.isEmpty then recallFromHost (latchStep s ring slot d g r (e.map (·.idx))) held
    else runStep (countRead s 1 (h + rowHost e)) ring slot d g r e

/-- UPDATE_STEP (R43, R446, R447, R588 to R591): the check of its step was made when its wait selector completed. A step that is held waits, one
that is discarded ends its STEPs. -/
def updateStep (s : State) (ring slot : Nat) (d : Line) : State :=
  let g := upGroup d
  let x := groupOf s g
  let r := x.record.toNat
  if s.tr.held && s.tr.vstep == stepOf s ring slot then s
  else if groupBusy s ring slot g then s
  else if s.tr.discarded.contains (stepOf s ring slot) then finishCmd s ring slot .dataDropped 0
  else if !x.defined then finishCmd s ring slot .range 0
  else if grFrozen r then finishCmd s ring slot .frozenSkip 0
  else hostFirst s (stepHeld s ring slot d g r) (stepNext s ring slot d g r (stepChecks s ring slot d g r))

def execUpdateStep (ring slot : Nat) (s : State) : Host.Outcome State Fault Refusal :=
  .next (withCmd s ring slot 0x42 (fun d => if upOp d = 0 then updateStep s ring slot d else s))

end Sys2Proof.Machine
end

