-- ==== Sys2Proof/Machine/Routes.lean ====
section
/-!
DEFINITION. The computation of routes (R656, R661, R669, Table 15.6) and the sending of bring-up messages before and after routes exist.
-/
namespace Sys2Proof.Machine

/-! ### Positions and partners (R656) -/

def ownEntry (t : SysTab) (s : State) : Option SysEntry := t.entries.find? (fun e => e.serial == s.nv.serial)
def entryAt (t : SysTab) (pos : Nat) : Option SysEntry := t.entries.find? (fun e => e.pos == pos)
/-- The device's position in the cabling. -/
def ownPos (s : State) : Option Nat := (s.bu.table.bind (fun t => ownEntry t s)).map (fun e => e.pos)

/-- Ports of the part (R6). -/
def ownPorts (s : State) : Nat := 8 * s.fit.iodies
def isUp (s : State) (p : Nat) : Bool := portPresent s p && (portOf s p).st == .up

/-- In a full mesh of `n`, the port of position `x` toward position `y`. -/
def meshPort (n x y : Nat) : Nat := (y + n - x) % n - 1

/-! ### Table 15.6 -/

/-- Relays of a mesh from `x` to `y`: the first three positions after `y` whose links to both are UP. -/
def meshRelays (n x y : Nat) (up : Nat → Nat → Bool) : List Nat :=
  let link (a b : Nat) : Bool := up a (meshPort n a b) && up b (meshPort n b a)
  (((List.range (n - 1)).map (fun i => (y + 1 + i) % n)).filter (fun r => r != x && r != y && link x r && link r y)).take 3

/-- Route `m` of a mesh, as its port and route bytes. -/
def meshRoute (n x y m : Nat) (up : Nat → Nat → Bool) : Option (Nat × List Nat) :=
  if m = 0 then (if up x (meshPort n x y) then some (meshPort n x y, []) else none)
  else (meshRelays n x y up)[m - 1]?.map (fun r => (meshPort n x r, [meshPort n r y]))

/-- Route `m` of a Clos; `q` is the smaller number of ports of the two. -/
def closRoute (t : SysTab) (q x y m : Nat) (up : Nat → Nat → Bool) : Option (Nat × List Nat) :=
  let k := (x + y + m * ((q + 3) / 4)) % q
  if up x k && up y k then
    some (k, if x / t.d = y / t.d then [y % t.d] else [t.u + (x + y) % t.s, y / t.d, y % t.d])
  else none

/-- Route `m` from position `x` to position `y`; `up a p` says that port `p` of position `a` is UP. -/
def routeTo (t : SysTab) (ports : Nat → Nat) (up : Nat → Nat → Bool) (x y m : Nat) : Option (Nat × List Nat) :=
  if x = y then none
  else if t.topo = 1 then meshRoute t.entries.length x y m up
  else if t.topo = 2 then closRoute t (min (ports x) (ports y)) x y m up
  else none

/-- A word of CFG_BXL_ROUTE (Table 12.17). -/
def routeCode (r : Option (Nat × List Nat)) : BitVec 64 :=
  match r with
  | some (p, l) => BitVec.ofNat 64 (2 ^ 63 + p * 2 ^ 58 + l.length * 2 ^ 55 + l.foldr (fun b n => b + 256 * n) 0)
  | none => 0

/-! ### Bring-up messages (R661) -/

/-- The position of a device number: by the roster in use, else by the system table. -/
def posOfDev (s : State) (dev : Nat) : Option Nat :=
  match s.bu.roster.bind (fun r => r.recs.find? (fun e => e.number == dev && (e.state == 1 || e.state == 3))) with
  | some e => some e.pos
  | none => (s.bu.table.bind (fun t => t.entries.find? (fun e => e.devnum == dev))).map (fun e => e.pos)

/-- The tentative route `k`: as though every port of every other device were UP, over an UP port of this one (R661) (log 57). -/
def tentativeRoute (s : State) (dst k : Nat) : Option (Nat × List Nat) :=
  match s.bu.table, ownPos s, posOfDev s dst with
  | some t, some x, some y => routeTo t (fun _ => ownPorts s) (fun a p => a != x || isUp s p) x y k
  | _, _, _ => none

/-- Route `k` for a bring-up message: the tentative one until the roster has come, then the written one when it is usable (R661). -/
def ctrlRoute (s : State) (dst k : Nat) : Option (Nat × List Nat) :=
  if s.bu.roster.isSome && routeUsable s dst k then some (routePort s dst k, routeHops s dst k) else tentativeRoute s dst k

/-- Body bytes of a bring-up message (log 61). -/
def ctrlLen : Nat := 64
def ctrlPacket (s : State) (dst : Nat) (route : List Nat) (m : CtrlMsg) : Packet :=
  { vc := 1, hops := route.length, hidx := 0, dst := dst, src := devNum s, route := route, tseq := 0, len := ctrlLen, body := .ctrl m }

/-- Sends a message on route `k`; without that route it is left to the next resend. One to this device itself is its own. -/
def sendCtrlOn (s : State) (dst k : Nat) (m : CtrlMsg) : State :=
  if dst = devNum s then { s with fb := { s.fb with inbox := s.fb.inbox ++ [ctrlPacket s dst [] m] } }
  else match ctrlRoute s dst k with
    | some (p, l) => enqueue s p (ctrlPacket s dst l m)
    | none => s
def sendCtrl (s : State) (dst : Nat) (m : CtrlMsg) : State := sendCtrlOn s dst 0 m

/-- A message that is resent until it is acknowledged, on route 0 first (R661). -/
def sendKept (s : State) (dst : Nat) (m : CtrlMsg) : State :=
  let s1 := sendCtrl s dst m
  if dst = devNum s then s1 else { s1 with bu := { s1.bu with unacked := s1.bu.unacked ++ [(dst, m, 0)] } }

end Sys2Proof.Machine
end

