-- ==== Sys2Proof/Machine/Link.lean ====
section
/-!
DEFINITION. The link layer (12): flits, credits, retry, recovery, lanes, and the packets a port accepts, relays or discards.
-/
namespace Sys2Proof.Machine

/-! ### Sending (R521 to R530) -/

/-- A field of CFG_BXL whose 0 acts as 1 (Table 12.14). -/
def atLeast1 (n : Nat) : Nat := if n = 0 then 1 else n
def retryLimit (s : State) : Nat := atLeast1 (field64 (cfgBxl s) 39 32)
def vcWeight2 (s : State) : Nat := atLeast1 (field64 (cfgBxl s) 15 12)
def vcWeight3 (s : State) : Nat := atLeast1 (field64 (cfgBxl s) 11 8)

/-- The virtual channel holds bytes and credit (log 42). -/
def vcReady (x : Port) (i : Nat) : Bool := !(x.queue.getD i []).isEmpty && decide (0 < x.credits.getD i 0)

/-- The virtual channel of the next sub-flit, and the port with its round and window counts moved on (R529) (log 42). -/
def pickVc (w2 w3 : Nat) (x : Port) : Option Nat × Port :=
  let wait := vcReady x 2 || vcReady x 3
  let y := { x with sinceVc1 := min 8 (x.sinceVc1 + 1) }
  if vcReady x 0 then (some 0, y)
  else if vcReady x 1 && (!wait || decide (7 ≤ x.sinceVc1)) then (some 1, { x with sinceVc1 := 0 })
  else if !wait then (none, y)
  else
    let z := if (vcReady x 2 && decide (0 < y.rr2)) || (vcReady x 3 && decide (0 < y.rr3)) then y else { y with rr2 := w2, rr3 := w3 }
    if vcReady x 2 && decide (0 < z.rr2) then (some 2, { z with rr2 := z.rr2 - 1 }) else (some 3, { z with rr3 := z.rr3 - 1 })

/-- Fills `cap` bytes from a queue: the parts taken, and what is left; with too few bytes a NULL packet ends the virtual channel's bytes (R522). -/
def fillSub : Nat → List (Packet × Nat) → List Part × List (Packet × Nat)
  | cap, [] => (if cap = 0 then [] else [⟨nullPacket, 0, cap⟩], [])
  | cap, (p, n) :: t =>
    if cap = 0 then ([], (p, n) :: t)
    else if n ≤ cap then
      let r := fillSub (cap - n) t
      (⟨p, 16 + p.len - n, n⟩ :: r.1, r.2)
    else ([⟨p, 16 + p.len - n, cap⟩], (p, n - cap) :: t)

def idleSub : SubFlit := ⟨true, 0, []⟩

/-- The sub-flits of a flit, by their payload bytes (Table 12.2); each takes a credit of its virtual channel (R528). -/
def fillSubs (w2 w3 : Nat) : List Nat → Port → Port × List SubFlit
  | [], x => (x, [])
  | cap :: cs, x =>
    match pickVc w2 w3 x with
    | (none, y) =>
      let r := fillSubs w2 w3 cs y
      (r.1, idleSub :: r.2)
    | (some v, y) =>
      let f := fillSub cap (y.queue.getD v [])
      let z := { y with queue := y.queue.setIfInBounds v f.2, credits := y.credits.setIfInBounds v (y.credits.getD v 0 - 1) }
      let r := fillSubs w2 w3 cs z
      (r.1, ⟨false, BitVec.ofNat 2 v, f.1⟩ :: r.2)

/-- The credit return of a flit: the lowest virtual channel with credits owed, at most 15 (log 41). -/
def creditVc (x : Port) : Nat := ((List.range 4).find? (fun v => decide (0 < x.owed.getD v 0))).getD 0

/-- The flit that go-back-N sends next (R525). -/
def nextResend (x : Port) : Option RetryFlit := x.retry[x.retry.length - x.resend]?
/-- The number that a new flit carries: the next of its own, or while flits are resent that of the next of them, which the partner expects. -/
def flitSeq (x : Port) : BitVec 12 :=
  match nextResend x with
  | some r => r.f.seq
  | none => x.txSeq

/-- A flit of these sub-flits with the port's acknowledgement, NAK and credits (Table 12.3) (log 41). -/
def makeFlit (x : Port) (ctrl : Bool) (subs : List SubFlit) : Flit × Port :=
  let v := creditVc x
  let n := min 15 (x.owed.getD v 0)
  (⟨flitSeq x, x.rxSeq - 1, ctrl, x.nakDue, BitVec.ofNat 2 v, BitVec.ofNat 4 n, subs⟩,
   { x with owed := x.owed.setIfInBounds v (x.owed.getD v 0 - n), nakDue := false })

def countSubs (s : State) (p : Nat) : List SubFlit → State
  | [] => s
  | f :: t => countSubs (bumpIf (!f.idle) s (cPort p (2 + f.vc.toNat)) 1) p t

/-- A flit goes out on a port; the count to the next 128th runs over every flit (R523). -/
def putFlit (s : State) (p : Nat) (x : Port) (f : Flit) : State :=
  countSubs (bump (setPort s p { x with last := some f, sinceCtrl := (x.sinceCtrl + 1) % 128 }) (cPort p 0) 1) p f.subs

/-- A flit has been resent as often as RETRY_LIMIT allows (R526). -/
def retryDone (s : State) (x : Port) : Bool := x.retry.any (fun r => decide (retryLimit s ≤ r.resends))

/-- Relayed packets whose last byte has gone out leave the relay share of their buffers (R536). -/
def freeSent (s : State) (f : Flit) : State := ((f.subs.flatMap (·.parts)).filter (·.ends)).foldl (fun t a => freeHeld t a.pkt) s

/-- FLIT_TRANSMIT (R525, R529): the next flit to be resent, else one filled from the queues. Every 128th flit is left to CONTROL_FLIT
(R523), and with nothing to send or a full retry buffer so is each. -/
def flitTransmit (s : State) (p : Nat) : State :=
  let x := portOf s p
  if x.st != .up || decide (127 ≤ x.sinceCtrl) then s
  else if 0 < x.resend then
    match nextResend x with
    | some r =>
      if retryDone s x then s
      else
        let i := x.retry.length - x.resend
        bump (putFlit s p { x with retry := x.retry.set i { r with resends := r.resends + 1 }, resend := x.resend - 1 } r.f) (cPort p 9) 1
    | none => s
  else if 1024 ≤ x.retry.length then s
  else
    let b := fillSubs (vcWeight2 s) (vcWeight3 s) subCaps x
    if b.2.all (·.idle) then s
    else
      let f := makeFlit b.1 false b.2
      freeSent (putFlit s p { f.2 with txSeq := x.txSeq + 1, retry := x.retry ++ [⟨f.1, 0⟩] } f.1) f.1

def execFlitTransmit (port : Nat) (s : State) : Host.Outcome State Fault Refusal := .next (flitTransmit s port)

/-- A control flit is due, or nothing else may be sent (R523, R525). -/
def controlDue (s : State) (x : Port) : Bool :=
  decide (127 ≤ x.sinceCtrl) ||
  (decide (x.resend = 0) && (decide (1024 ≤ x.retry.length) || (fillSubs (vcWeight2 s) (vcWeight3 s) [59] x).2.all (·.idle)))

/-- CONTROL_FLIT (R523). It carries the number that the partner expects next and is not kept for retry, since it goes out while the buffer is full (R525) (log 41). -/
def controlFlit (s : State) (p : Nat) : State :=
  let x := portOf s p
  if x.st == .up && controlDue s x then
    let f := makeFlit x true [idleSub, idleSub, idleSub, idleSub]
    putFlit s p f.2 f.1
  else s

def execControlFlit (port : Nat) (s : State) : Host.Outcome State Fault Refusal := .next (controlFlit s port)

/-! ### Receiving (R524, R531 to R536, R548) -/

/-- The virtual channel of a body (Table 12.8); NULL goes on any. -/
def bodyVc : Payload → Option Nat
  | .null => none
  | .flagOp _ _ | .flagAck _ => some 0
  | .ctrl _ | .segAck _ _ | .segAbort _ _ | .window _ => some 1
  | .redData .. => some 2
  | .write .. | .readReq .. | .readData .. => some 3

/-- Traffic whose arrival wakes the device (R728). -/
def wakes : Payload → Bool
  | .flagOp _ _ | .write .. | .readReq .. | .redData .. => true
  | _ => false

/-- A packet whose last byte has arrived in a sub-flit of virtual channel `v`: discarded, accepted, relayed or misrouted (R533, R535,
R536) (log 41). Beside the state, the packet that stays in the buffer: in the inbox, or in the relay share until it is sent on. -/
def takePacket (s : State) (v : BitVec 2) (k : Packet) : State × Option Packet :=
  if k.bad || k.vc != v || bodyVc k.body != some v.toNat || decide (6 < k.hops) || decide (1088 < k.len) then (bump s 20 1, none)
  else if k.dst = devNum s then
    if k.hidx = k.hops then
      let s1 := { s with fb := { s.fb with inbox := s.fb.inbox ++ [k] } }
      (if wakes k.body then wakeUp (if asleep s then holdPacket s1 k else s1) else s1, some k)
    else (bump s 21 1, none)
  else if k.hidx + 1 = k.hops then
    let o := k.route.getD k.hidx 255
    let q := { k with hidx := k.hidx + 1 }
    if portPresent s o && (portOf s o).st == .up then (bump (enqueue s o q) 22 1, some q) else (bump s 21 1, none)
  else (bump s 21 1, none)

/-- `n` sub-flits of a port's buffer hold a packet, or are free again. -/
def occupy (s : State) (p v : Nat) (k : Option Packet) (n : Nat) : State :=
  match k with
  | some q => let x := portOf s p; setPort s p { x with rxHeld := x.rxHeld ++ [(q, n)] }
  | none => creditBack s p v n

/-- The parts of a sub-flit that arrived; `h` sub-flits, this one among them, hold the packet being received. What is left of them at the end
holds a packet still to come. A NULL ends the sub-flit (R522). -/
def takeParts (p : Nat) (v : BitVec 2) : State → Nat → List Part → State × Nat
  | s, h, [] => (s, h)
  | s, h, a :: t =>
    if a.pkt.body == .null then (creditBack s p v.toNat h, 0)
    else if a.ends = false then (s, h)
    else
      let more := t.any (fun b => b.pkt.body != .null)
      let r := takePacket s v a.pkt
      takeParts p v (occupy r.1 p v.toNat r.2 (if more then h - 1 else h)) (if more then 1 else 0) t

/-- One sub-flit that arrived: it takes a place of its virtual channel's buffer (R528). -/
def takeSub (s : State) (p : Nat) (f : SubFlit) : State :=
  if f.idle then s
  else
    let v := f.vc.toNat
    let r := takeParts p f.vc s ((portOf s p).rxPart.getD v 0 + 1) f.parts
    let x := portOf r.1 p
    setPort r.1 p { x with rxPart := x.rxPart.setIfInBounds v r.2 }

def takeSubs (s : State) (p : Nat) : List SubFlit → State
  | [] => s
  | f :: t => takeSubs (takeSub s p f) p t

/-- Credits kept back are returned where nothing keeps them back any more. -/
def freeCredits (s : State) : State :=
  { s with fb := { s.fb with ports := s.fb.ports.map (fun e =>
    (e.1, { e.2 with
      owed := Vector.ofFn (fun i => e.2.owed.getD i.val 0 + if withholds s i.val then 0 else e.2.withheld.getD i.val 0),
      withheld := Vector.ofFn (fun i => if withholds s i.val then e.2.withheld.getD i.val 0 else 0) })) } }

/-- Flits of the retry buffer that an ACK covers. -/
def ackedFlits (x : Port) (ack : BitVec 12) : Nat :=
  match x.retry with
  | [] => 0
  | r :: _ =>
    let n := (ack - r.f.seq + 1).toNat
    if n ≤ x.retry.length then n else 0

/-- ACK frees the retry buffer, NAK resends what is left, credits come back (R524, R525, R528). -/
def takeHeader (x : Port) (f : Flit) : Port :=
  let r := x.retry.drop (ackedFlits x f.ack)
  let v := f.crvc.toNat
  { x with retry := r, resend := if f.nak then r.length else min x.resend r.length,
           credits := x.credits.setIfInBounds v (x.credits.getD v 0 + f.crcnt.toNat) }

/-- The codewords of the flit are decoded (R518): up to 15 symbol errors of a codeword are corrected, and each symbol counts; a codeword with more
counts as uncorrectable. -/
def takeWords (s : State) (p : Nat) (x : Port) (c : RxCheck) : State :=
  let l := decodeWords x c
  let sym := (l.filter (fun q => decide (q.2.2 ≤ 15))).foldl (fun n q => n + q.2.2) 0
  let unc := (l.filter (fun q => decide (15 < q.2.2))).length
  let first := (flitWords x.width x.rxFlits).headD 0
  bumpIf (unc != 0) (bumpIf (sym != 0) (setPort s p { x with rxFlits := x.rxFlits + 1, rxWords := x.rxWords.filter (fun q => decide (first ≤ q.2.1)) ++ l })
    (cPort p 6) sym) (cPort p 7) unc
/-- A flit with bytes in an uncorrectable codeword fails (R518). -/
def wordsGood (x : Port) (c : RxCheck) : Bool :=
  (x.rxWords ++ decodeWords x c).all (fun q => decide (q.2.2 ≤ 15) || !(flitWords x.width x.rxFlits).contains q.2.1)

/-- FLIT_RECEIVE (R518, R524): a flit in order and intact is accepted; any other is discarded, and the first of them draws a NAK (log 41). -/
def flitReceive (s : State) (p : Nat) (f : Flit) (c : RxCheck) : State :=
  let x := portOf s p
  if x.st != .up then s
  else
    let s1 := takeWords s p x c
    let x1 := portOf s1 p
    if c.crcOk && wordsGood x c && f.seq == x.rxSeq then
      takeSubs (bump (setPort s1 p { takeHeader x1 f with nakSent := false, rxSeq := if f.ctrl then x.rxSeq else x.rxSeq + 1 }) (cPort p 1) 1) p f.subs
    else bump (setPort s1 p { x1 with nakSent := true, nakDue := x.nakDue || !x.nakSent }) (cPort p 8) 1

def execFlitReceive (port : Nat) (flit : Flit) (check : RxCheck) (s : State) : Host.Outcome State Fault Refusal :=
  .next (flitReceive s port flit check)

/-! ### Recovery, lanes and going DOWN (R520, R526, R527) -/

/-- Ports that are UP, as a mask. -/
def upMask (s : State) : BitVec 32 := (List.range 32).foldl (fun m p => if (portOf s p).st == .up then putBit m p true else m) 0

def isLinkNote : CtrlMsg → Bool
  | .linkNote _ _ => true
  | _ => false

/-- A READY device tells the coordinator its new mask of UP ports (R671); a note that is still unacknowledged is out of date (log 65). -/
def noteLinks (s : State) : State :=
  match s.bu.roster with
  | some r =>
    if s.bu.state = 3 then
      sendKept { s with bu := { s.bu with unacked := s.bu.unacked.filter (fun u => !isLinkNote u.2.1) } } r.coord (.linkNote (devNum s) (upMask s))
    else s
  | none => s

/-- Every port that may train is UP or DOWN: P3 has ended; with P2 ended too, P5 begins (R662, Table 15.7). -/
def settleP3 (s : State) : State :=
  if s.bu.state = 2 ∧ s.bu.phase = 3 ∧ s.bu.localDone = true ∧ (List.range 32).all (fun p => (portOf s p).st != .training) = true then
    { s with bu := { s.bu with phase := if s.bu.claimK.isSome then 6 else 5 } }
  else s

/-- Remote flag operations that a failed route may have lost are resent by firmware, in order, and with them the operations to their
destination that have not been sent (R503); `lost` names the first: those sent on the route, and those that went to its destination over the
firmware path. -/
def resendRemotes (s : State) (lost : RemoteOp → Bool) : State :=
  let l := (s.sh.remote.filter (fun o => o.sent && lost o)).map (·.dst)
  pumpRemotes { s with sh := { s.sh with remote := s.sh.remote.map (fun o =>
    if (o.sent && lost o) || (!o.sent && l.contains o.dst) then { o with fw := true, sent := false, resend := true } else o) } }

/-- The routes through a port fail. -/
def routeFailed (s : State) (p : Nat) : State :=
  resendRemotes s (fun o => if o.fw then (List.range 4).any (fun k => routeValid s o.dst k && routePort s o.dst k == p)
    else o.port == p)

/-- Chunks of collectives that went out on a port and are not acknowledged go again on another route (R560). -/
def resendChunks (s : State) (p : Nat) : State :=
  let s1 := { s with fb := { s.fb with outSegs := s.fb.outSegs.map (fun o =>
    if o.vc == 2 && o.port == some p && !o.aborted then { o with port := none } else o) } }
  pumpSegs s1 s1.fb.outSegs

/-- A port goes DOWN (R527, R642): its retry buffer and queues are discarded and its link starts afresh when it next trains (log 41, log 84). One that
was training may have been the last that P3 waited for (R662). -/
def portDown (s : State) (p : Nat) : State :=
  let x := portOf s p
  if x.st == .down then s
  else
    let y : Port := { x with st := .down, width := 0, retry := [], resend := 0, queue := Vector.replicate 4 [], txSeq := 0, rxSeq := 0,
                             nakSent := false, nakDue := false, credits := #v[64, 256, 4096, 4096], owed := Vector.replicate 4 0,
                             withheld := Vector.replicate 4 0, sinceCtrl := 0, sinceVc1 := 8, rr2 := 0, rr3 := 0, rxFlits := 0,
                             rxWords := [], rxHeld := [], rxPart := Vector.replicate 4 0, frame := none }
    let lost := (List.range 4).flatMap (fun v => (x.queue.getD v []).map (·.1))
    let t := noteLinks (resendChunks (routeFailed (raiseEvent (bump (lost.foldl freeHeld (setPort s p y)) (cPort p 11) 1) 4) p) p)
    if x.st == .training then settleP3 t else t

/-- RECOVERY (R526): the lanes train again. -/
def recovery (s : State) (p : Nat) : State :=
  let x := portOf s p
  if x.st == .up && retryDone s x then bump (setPort s p { x with st := .recovery, locked := false }) (cPort p 10) 1 else s
def execRecovery (port : Nat) (s : State) : Host.Outcome State Fault Refusal := .next (recovery s port)

/-- RECOVERY_COMPLETE (R526): the lanes have locked again (LANE_LOCK), and the port resends from the last acknowledged flit. -/
def recoveryComplete (s : State) (p : Nat) : State :=
  let x := portOf s p
  if x.st == .recovery && x.locked then
    pumpRoutes (setPort s p { x with st := .up, retry := x.retry.map (fun r => { r with resends := 0 }), resend := x.retry.length, rxFlits := 0, rxWords := [] })
  else s
def execRecoveryComplete (port : Nat) (s : State) : Host.Outcome State Fault Refusal := .next (recoveryComplete s port)

/-- RECOVERY_TIMEOUT (R526, R527). -/
def execRecoveryTimeout (port : Nat) (s : State) : Host.Outcome State Fault Refusal :=
  .next (if (portOf s port).st == .recovery then portDown s port else s)

/-- X4_OK of CFG_BXL_PORT (Table 12.15). -/
def x4Ok (s : State) (p : Nat) : Bool := (reg32 s (0x2100 + 4 * p)).getLsbD 3
def portEn (s : State) (p : Nat) : Bool := (reg32 s (0x2100 + 4 * p)).getLsbD 0

/-- Lanes a port may use: all eight, a whole half under X4_OK, or none (R520). -/
def usableWidth (s : State) (p : Nat) (bad : BitVec 8) : Nat :=
  if bad = 0 then 8 else if x4Ok s p && (bad.toNat % 16 == 0 || bad.toNat / 16 == 0) then 4 else 0

/-- LANE_FAILURE (R520). -/
def laneFailure (s : State) (p lane : Nat) : State :=
  let x := portOf s p
  if x.st == .down || decide (8 ≤ lane) then s
  else
    let bad := putBit x.laneFail lane true
    let s1 := setPort s p { x with laneFail := bad }
    if usableWidth s p bad = 0 then portDown s1 p
    else if x.width = 0 then s1 else setPort s1 p { portOf s1 p with width := usableWidth s p bad }
def execLaneFailure (port lane : Nat) (s : State) : Host.Outcome State Fault Refusal := .next (laneFailure s port lane)

end Sys2Proof.Machine
end

