-- ==== Sys2Proof/Machine/Reduce.lean ====
section
/-!
DEFINITION. Collectives (12, 13): slots, runs, contributions and results, and the leader's window.
-/
namespace Sys2Proof.Machine

def slotDefault (_ : Nat) : Slot := {}
def slotOf (s : State) (k : Nat) : Slot := tget slotDefault s.fb.slots k
def setSlot (s : State) (k : Nat) (x : Slot) : State := { s with fb := { s.fb with slots := tset slotDefault s.fb.slots k x } }
def updSlot (s : State) (k : Nat) (f : Slot → Slot) : State := setSlot s k (f (slotOf s k))

/-! ### The slot record (Table 12.11) -/

def srBitsAt (x : Slot) (n b w : Nat) : Nat := bitsAt x.record.toNat n b w
def srColl (x : Slot) : Nat := srBitsAt x 0 0 8
def srDefer (x : Slot) : Bool := srBitsAt x 1 0 8 == 1
def srNorm (x : Slot) : Bool := srBitsAt x 2 0 8 == 1
def srMin (x : Slot) : Nat := srBitsAt x 6 0 16 + 1
def srWindow (x : Slot) : Nat := srBitsAt x 8 0 32
def srMult (x : Slot) : Nat := srBitsAt x 12 0 32
def srLateScale (x : Slot) : Nat := srBitsAt x 16 0 32
def srE (x : Slot) : Nat := srBitsAt x 24 0 64
def srLate (x : Slot) : Nat := srBitsAt x 48 0 64
def srRecord (x : Slot) : Nat := srBitsAt x 56 0 64
def slotN (x : Slot) : Nat := x.members.length

/-- Elements of a chunk, and those of chunk `j` (R552). -/
def chunkOf (e n : Nat) : Nat := 32 * ((e + 32 * n - 1) / (32 * n))
def chunkC (x : Slot) : Nat := chunkOf (srE x) (slotN x)
def chunkLen (x : Slot) (j : Nat) : Nat := min (chunkC x) (srE x - j * chunkC x)

def rankOf (x : Slot) (dev : Nat) : Option Nat := (List.range (slotN x)).find? (fun r => x.members.getD r 4096 == dev)
/-- This device's rank. -/
def ownRank (s : State) (x : Slot) : Nat := (rankOf x (devNum s)).getD 0
def leads (s : State) (x : Slot) : Bool := x.members.headD 4096 == devNum s
def leaderDev (x : Slot) : Nat := x.members.headD 0

/-- The check that READY carries (R553): bytes 0 to 31 of the record, then the member list. -/
def slotCrc (x : Slot) : Nat :=
  crc32 (32 + 2 * slotN x) (x.record.toNat % 2 ^ 256 + 2 ^ 256 * packBits 16 x.members)

/-- Device extents of a slot: destination, late buffer, record area. -/
def slotSpans (x : Slot) (t : TD) : List (Nat × Nat) :=
  tdExt' t ++ (if srDefer x then [(srLate x, 4 * srE x)] else []) ++ [(srRecord x, 4608)]
where
  tdExt' (t : TD) : List (Nat × Nat) := if t.space = 0 then (extentsOf t).map (fun e => (e.1.toNat, (e.2 - e.1 + 1).toNat)) else []

/-- Lines of a slot's own tensors that the host holds come back first (R619), and copies of their blocks end (R357). -/
def slotSettle (s : State) (x : Slot) (more : List Nat) : Option State :=
  let spans := match x.dst with
    | some t => slotSpans x t
    | none => []
  let held := s.m.snoop.filter (fun l => more.contains l || spans.any (spansMeet (64 * l, 64)))
  if !held.isEmpty then some (recallFromHost s held)
  else if s.m.moves.any (fun v => v.copy && spans.any (spansMeet (65536 * v.block, 65536))) then some s
  else none

/-- Elements that a RUN contributes: E, or C for an all-gather (R553). -/
def wantElems (x : Slot) : Nat := if srColl x = 2 then chunkC x else srE x

/-! ### Window messages -/

/-- Body bytes of a window message: CLOSE and HOLD carry an n-bit map (R554, R563) (log 40). -/
def winLen (x : Slot) : WinMsg → Nat
  | .close .. | .hold .. => 16 + (slotN x + 7) / 8
  | _ => 16
/-- Sends a window message of slot `x` on VC1 (Table 12.8). -/
def sendWin (s : State) (x : Slot) (dst : Nat) (m : WinMsg) : State := sendLow s 1 dst 0 (winLen x m) (.window m)

/-! ### Elements of a tensor in row-major order (R551) -/

def elemIdx (t : TD) (n : Nat) : List Nat := idxAt t.sizes n

/-- FP32 values and poisoned positions of `n` elements of a source from element `a` (R84, R555). -/
def readVals (s : State) (rb : RBuf) (t : TD) (a n : Nat) : List (BitVec 32) × List Nat :=
  let l := (List.range n).map (fun i =>
    let ix := elemIdx t (a + i)
    let e := elemRead s rb t ix
    if t.bsh = 0 then (f32 (decodeNum t.fmt e.1), e.2)
    else
      let c := scaleRead s rb t ix
      (f32 (scaled t.fmt c.1 (decodeNum t.fmt e.1)), e.2 || c.2))
  (l.map (fun x => BitVec.ofNat 32 x.1), (List.range n).filter (fun i => match l[i]? with
    | some x => x.2
    | none => false))

/-- Lines that a RUN gives its own tensors: those that find no block are lost (R773). -/
def storeLines (s : State) : List (Nat × LineW) → State × Nat
  | [] => (s, 0)
  | (l, x) :: t =>
    match autoMap s (blockOfLine l) with
    | none =>
      let r := storeLines s t
      (r.1, r.2 + 1)
    | some _ => storeLines (writeLineW s l x) t

/-- The lines before the first that the host refuses: with a refusal the writing stops (R632). -/
def untilRefused (s : State) (w : List (Nat × LineW)) : List (Nat × LineW) := w.takeWhile (fun e => !hostRefuses s (64 * e.1) 64)

/-- The run has lost data that no line of its destination shows as zeros (R546, R632, R773). -/
def slotLost (s : State) (k : Nat) (b : Bool) : State := if b then updSlot s k (fun x => { x with lost := true }) else s

/-- Lines for a slot's destination, in its space (log 82). -/
def storeDst (s : State) (k : Nat) (t : TD) (w : List (Nat × LineW)) : State :=
  if t.space = 1 then slotLost (hostLinesW s (untilRefused s w)) k ((untilRefused s w).length != w.length)
  else if t.space = 2 then remoteWriteAll s (.red k) t.dev (w.map (fun e => (e.1, e.2.data, e.2.poison)))
  else slotLost (storeLines s w).1 k ((storeLines s w).2 != 0)

/-! ### Results: element codes, each with its block's scale (R79, R555, R556, R775) -/

/-- The first element of the block that holds element `e` of a destination: 32 consecutive indices of dimension 0 under BSH 1, and 32 elements
where there is no scale (R79, R556). -/
def blockStart (t : TD) (e : Nat) : Nat := if t.bsh = 0 then e - e % 32 else e - e % max 1 (sizeAt t 0) % 32
/-- Elements from `e` to the end of its block. -/
def blockLeft (t : TD) (e : Nat) : Nat :=
  if t.bsh = 0 then 32 - e % 32 else let i := e % max 1 (sizeAt t 0); min (32 - i % 32) (max 1 (sizeAt t 0) - i)

/-- Values from element `e` of a destination on, block by block, each with its first element. -/
def cutBlocks (t : TD) : Nat → Nat → List Nat → List (Nat × List Nat)
  | 0, _, _ => []
  | n + 1, e, l => if l.isEmpty then [] else (e, l.take (blockLeft t e)) :: cutBlocks t n (e + blockLeft t e) (l.drop (blockLeft t e))

/-- What result elements come to: codes, the scale of each element's block, and the poisoned positions, counted from element `a`. -/
structure Encoded where
  (bits : List (BitVec 32)) (scales pois : List Nat)

/-- Encodes FP32 values to a destination format; a block with a poisoned element is zeros with its scale, and poisoned (log 38). The numeric
events of a collective are counted nowhere: Table 02.8 names no source in the reduction engine (log 38). -/
def encodeBlocks (t : TD) (pois : List Nat) (a : Nat) : List (Nat × List Nat) → Encoded
  | [] => ⟨[], [], []⟩
  | (e, b) :: bs =>
    let r := encodeBlocks t pois a bs
    let n := b.length
    let bad := pois.any (fun p => decide (e ≤ a + p) && decide (a + p < e + n))
    let y : Nat × List Nat := if bad then (0x7F, b.map (fun _ => 0))
      else if t.bsh = 0 then (0x7F, b.map (fun v => (roundNum t.fmt none (val32 v)).1))
      else
        let z := convBlock t.fmt (fun _ => none) 0 (b.map val32)
        (z.1, z.2.1)
    ⟨y.2.map (BitVec.ofNat 32) ++ r.bits, List.replicate n y.1 ++ r.scales, (if bad then (List.range n).map (fun i => e - a + i) else []) ++ r.pois⟩
/-- The encoding of values that a destination takes from element `a` on. -/
def encodeAt (t : TD) (a : Nat) (pois vals : List Nat) : Encoded := encodeBlocks t pois a (cutBlocks t vals.length a vals)

/-- Lines of a destination that take result elements from element `a` on. -/
def resultLines (t : TD) (a : Nat) (bits : List (BitVec 32)) (scales pois : List Nat) : Table LineW :=
  (List.range bits.length).foldl (fun w i =>
    let ix := elemIdx t (a + i)
    let w1 := putElem' w t ix ((bits.getD i 0).toNat) (pois.contains i)
    if t.bsh != 0 then putScale w1 t ix (scales.getD i 0x7F) else w1) []

/-- First element of chunk `j` in this member's destination. -/
def dstBase (x : Slot) (j : Nat) : Nat := if srColl x = 1 then 0 else j * chunkC x

/-- Adds numbers to a list, once each. -/
def addNew (a b : List Nat) : List Nat := b.foldl (fun l x => if l.contains x then l else l ++ [x]) a

/-- Lines of the destination that elements `l` of chunk `j` lie on. -/
def dstLines (x : Slot) (j : Nat) (l : List Nat) : List Nat :=
  match x.dst with
  | some t => addNew [] (l.flatMap (fun e => bitLines (elemBitN t (elemIdx t (dstBase x j + e))) (fmtBits t.fmt)))
  | none => []

/-- Writes result elements of chunk `j` from element `off` of it (log 38). -/
def storeResult (s : State) (k j off : Nat) (bits : List (BitVec 32)) (scales pois : List Nat) : State :=
  let x := slotOf s k
  match x.dst with
  | none => s
  | some t =>
    let s1 := updSlot s k (fun x => { x with
      poisonBlocks := addNew x.poisonBlocks (pois.map (fun p => blockStart t (dstBase x j + off + p))) })
    storeDst s1 k t (resultLines t (dstBase x j + off) bits scales pois)

/-! ### Sending chunks (RED_DATA, VC2) -/

/-- Elements of a segment: 1,024 lines of 16 (R544). -/
def pieceLen : Nat := 16384
/-- Key block of a collective segment, piece `n` of a chunk: no block of the range has this number. -/
def redBlock (k chunk n : Nat) : Nat := 2 ^ 24 + 4096 * k + chunk + 2 ^ 20 * n
/-- Slot, chunk and piece of such a block. -/
def redKey (block : Nat) : Nat × Nat × Nat := ((block - 2 ^ 24) / 4096 % 64, (block - 2 ^ 24) % 4096, (block - 2 ^ 24) / 2 ^ 20)

/-- The packets of a piece: 256 elements each, the last with the number of 16-element lines; `base` is the piece's first element. -/
def redBodies (k inst seg chunk base : Nat) (res : Bool) (y : Encoded) : Nat → Nat → List (Payload × Nat)
  | 0, _ => []
  | n + 1, off =>
    let b := (y.bits.drop off).take 256
    let last := n == 0
    (.redData k inst seg chunk (base + off) (if last then some ((y.bits.length + 15) / 16) else none) res b ((y.scales.drop off).take 256)
      ((y.pois.filter (fun p => decide (off ≤ p) && decide (p < off + 256))).map (· - off)), 24 + 4 * b.length + 16) ::
    redBodies k inst seg chunk base res y n (off + 256)

def cutPois (pois : List Nat) (a n : Nat) : List Nat := (pois.filter (fun p => decide (a ≤ p) && decide (p < a + n))).map (· - a)

/-- Sends a chunk to a member, a segment for each 1,024 lines (R544). -/
def sendPieces (s : State) (k inst chunk dst : Nat) (res : Bool) (y : Encoded) : List Nat → State
  | [] => s
  | i :: is =>
    let n := s.fb.segNext
    let z : Encoded := ⟨(y.bits.drop (pieceLen * i)).take pieceLen, (y.scales.drop (pieceLen * i)).take pieceLen, cutPois y.pois (pieceLen * i) pieceLen⟩
    let s1 := sendSeg (takeSeg s) ⟨⟨devNum s, n, redBlock k chunk i⟩, dst, .red k, 2, List.range ((z.bits.length + 15) / 16),
      redBodies k inst n chunk (pieceLen * i) res z ((z.bits.length + 255) / 256) 0, false, none⟩
    sendPieces s1 k inst chunk dst res y is
def sendChunk (s : State) (k inst chunk dst : Nat) (res : Bool) (y : Encoded) : State :=
  sendPieces s k inst chunk dst res y (List.range ((y.bits.length + pieceLen - 1) / pieceLen))

/-! ### A member's contribution (R555, R557) -/

/-- The contribution of a run: the drained view, or the source tensor. -/
def contribution (s : State) (x : Slot) (r : RedRun) : Option (List (BitVec 32) × List Nat) :=
  match r.contrib, r.src with
  | some c, _ => some c
  | none, some t => some (readVals s (readBuf s r.ring r.slot) t 0 (wantElems x))
  | none, none => none

/-- Lines of a source tensor in this device. -/
def sourceLines (t : TD) : List Nat := if t.space = 0 then ((allIdx t.sizes).flatMap (elemLines t)).eraseDups else []

/-- Bytes of a source tensor in host memory that a contribution reads: its elements, and a scale for each block (Table 14.11). -/
def sourceHost (r : RedRun) : Nat :=
  match r.contrib, r.src with
  | none, some t => if t.space = 1 then prodOf t.sizes * fmtBits t.fmt / 8 + (if t.bsh = 0 then 0 else prodOf (scaleSizes t)) else 0
  | _, _ => 0

def addPart (s : State) (k : Nat) (p : RedPart) : State := updSlot s k (fun x => { x with recv := x.recv ++ [p] })

/-- Sends the contribution's chunks to their owners; the chunk of this owner stays here. -/
def sendContribs (s : State) (k inst : Nat) (bits : List (BitVec 32)) (pois : List Nat) : List Nat → State
  | [] => s
  | j :: js =>
    let x := slotOf s k
    let a := j * chunkC x
    let n := chunkLen x j
    let b := (bits.drop a).take n
    let p := cutPois pois a n
    let s1 := if j = ownRank s x then addPart s k ⟨inst, j, j, 0, false, b, [], p⟩ else sendChunk s k inst j (x.members.getD j 0) false ⟨b, [], p⟩
    sendContribs s1 k inst bits pois js

/-- Sends this member's own chunk of an all-gather to every member, and writes it here: of its C elements those that the chunk has (R552, R555)
(log 38). -/
def sendGather (s : State) (k inst : Nat) (src : List (BitVec 32)) (bad : List Nat) : State :=
  let x := slotOf s k
  let me := ownRank s x
  let bits := src.take (chunkLen x me)
  let pois := cutPois bad 0 (chunkLen x me)
  match x.dst with
  | none => s
  | some t =>
    let y := encodeAt t (dstBase x me) pois (bits.map BitVec.toNat)
    let s1 := storeResult s k me 0 y.bits y.scales y.pois
    let s2 := addPart s1 k ⟨inst, me, me, 0, true, y.bits, [], []⟩
    ((List.range (slotN x)).filter (fun r => r != me)).foldl (fun s r => sendChunk s k inst me (x.members.getD r 0) true y) s2

/-- The late buffer, all zeros while LATE_VALID is 0. -/
def lateVals (s : State) (x : Slot) (n : Nat) : List Nat × List Nat :=
  if x.lateValid then
    let y := spaceBytes s [] 0 (srLate x) (4 * n)
    (unpackBits 32 n y.1, (List.range n).filter (fun i => poisoned s ((srLate x + 4 * i) / 64)))
  else (List.replicate n 0, [])

/-- A late contribution is added to the late buffer (R557) (log 73); the events of the sums are counted nowhere (log 38). -/
def deferLate (s : State) (k : Nat) (bits : List (BitVec 32)) (pois : List Nat) : State :=
  let x := slotOf s k
  let n := bits.length
  let l := lateVals s x n
  let bad := pois ++ l.2
  let vals := map2 (fun o c => f32 (nadd (val32 o) (nmul (val32 (srLateScale x)) (val32 c)).1).1) l.1 (bits.map BitVec.toNat)
  let w := (List.range n).foldl (fun t i => putBits t (8 * (srLate x + 4 * i)) 32 (if bad.contains i then 0 else vals.getD i 0) (bad.contains i)) []
  let r := storeLines s w
  bump (slotLost (updSlot r.1 k (fun x => { x with lateValid := true, deferrals := x.deferrals + 1 })) k (r.2 != 0)) 28 1

/-- A member in the set sends its contribution; one outside it defers or drops it (R555, R557). -/
def giveContrib (s : State) (k : Nat) (x : Slot) (r : RedRun) (c : CloseMsg) (b : List (BitVec 32) × List Nat) : State :=
  let mark (s : State) (n : Nat) : State := updSlot s k (fun x => { x with run := some { r with handled := true, folded := n } })
  let read := countRead s 1 (sourceHost r)
  if c.set.contains (ownRank s x) then
    if srColl x = 2 then sendGather (mark read 0) k r.inst b.1 b.2
    else if x.lateValid then
      let l := lateVals s x b.1.length
      let v := (map2 fAdd (b.1.map BitVec.toNat) l.1).map (BitVec.ofNat 32)
      let s1 := updSlot (mark read x.deferrals) k (fun x => { x with lateValid := false, deferrals := 0 })
      sendContribs s1 k r.inst v (b.2 ++ l.2) (List.range (slotN x))
    else sendContribs (mark read 0) k r.inst b.1 b.2 (List.range (slotN x))
  else if srDefer x then deferLate (mark read 0) k b.1 b.2
  else bump (mark s 0) 29 1

/-- The contribution reads or writes the slot's own tensors: an all-gather's chunk in the destination, the late buffer. -/
def givesHere (s : State) (x : Slot) (c : CloseMsg) : Bool := if c.set.contains (ownRank s x) then srColl x == 2 || x.lateValid else srDefer x

/-- The lines of its source that a contribution reads now. -/
def givesFrom (s : State) (x : Slot) (r : RedRun) (c : CloseMsg) : List Nat :=
  match r.contrib, r.src with
  | none, some t => if c.set.contains (ownRank s x) || srDefer x then sourceLines t else []
  | _, _ => []

/-- What has to settle before a contribution is given: blocks that it writes are not in COPY (R357), and the host gives lines back (R619). -/
def giveSettle (s : State) (x : Slot) (r : RedRun) (c : CloseMsg) : Option State :=
  if givesHere s x c then slotSettle s x (givesFrom s x r c)
  else if (heldByHost s (givesFrom s x r c)).isEmpty then none
  else some (recallFromHost s (heldByHost s (givesFrom s x r c)))

/-- What a member does with its contribution once CLOSE is known. Where it has to wait, RUN_COMPLETE tries it again. -/
def contribute (s : State) (k : Nat) : State :=
  let x := slotOf s k
  match x.run, x.close with
  | some r, some c =>
    if c.inst != r.inst || r.handled then s
    else match contribution s x r with
      | none => s
      | some b =>
        match giveSettle s x r c with
        | some w => w
        | none => giveContrib s k x r c b
  | _, _ => s

/-- CLOSE reaches a member (R554); a repeat of the CLOSE it knows changes nothing, and a FAILED slot obeys none (R583). -/
def memberClose (s : State) (k : Nat) (c : CloseMsg) : State :=
  let x := slotOf s k
  if !x.defined || x.failed || x.close == some c then s
  else
    contribute (setSlot s k { x with close := some c, gone := [], given := [], summed := none }) k

/-! ### The leader's window (R561 to R564, R579, R601) -/

/-- The record of an instance in the record area: contribution set and reason (Table 12.12). -/
def recordAddr (x : Slot) (inst : Nat) : Nat := srRecord x + 576 * (inst % 8)
def recordSet (s : State) (x : Slot) (inst : Nat) : List Nat :=
  (List.range (slotN x)).filter (fun r => readBytes s (recordAddr x inst + 64 + r / 8) 1 / 2 ^ (r % 8) % 2 == 1)

/-- The window's instance is a replayed one (R601). -/
def replayedWin (x : Slot) : Bool := decide (x.winInst < x.replayTo)

/-- CLOSE goes to every member, and the window is in HOLD of the next instance. -/
def closeWindow (s : State) (k : Nat) (c : CloseMsg) : State :=
  let x := slotOf s k
  let n := slotN x
  let s1 := setSlot s k { x with win := .hold, winInst := (x.winInst + 1) % 2 ^ 32, ready := [], doneFrom := x.early, early := [], grant := 0, due := false,
                                 closes := x.closes ++ [c] }
  let s2 := bumpIf (c.set.length < n) s1 30 (n - c.set.length)
  let me := ownRank s x
  memberClose (((List.range n).filter (fun r => r != me)).foldl (fun s r => sendWin s x (x.members.getD r 0) (.close k c.inst c.reason c.set)) s2) k c

/-- Closes the window when Table 12.13 lets it (log 39). -/
def tryClose (s : State) (k : Nat) (reason : Nat) : State :=
  let x := slotOf s k
  let c := x.ready.length
  let set := (List.range (slotN x)).filter (fun r => x.ready.contains r)
  if x.win != .open_ then s
  else if replayedWin x then
    let want := recordSet s x x.winInst
    if want.all (fun r => x.ready.contains r) then closeWindow s k ⟨x.winInst, readBytes s (recordAddr x x.winInst + 6) 1, want⟩ else s
  else if c = slotN x then closeWindow s k ⟨x.winInst, 0, set⟩
  else if x.due && decide (srMin x ≤ c) then closeWindow s k ⟨x.winInst, reason, set⟩
  else s

/-- The window opens; with no time to wait its deadline has come (R562). -/
def openWindow (s : State) (k : Nat) : State :=
  let x := slotOf s k
  tryClose (setSlot s k { x with win := .open_, due := srWindow x == 0 && x.grant == 0 && !replayedWin x }) k 1

/-- Members whose DONE the leader awaits (log 80). -/
def awaited (x : Slot) : List Nat := (List.range (slotN x)).filter (fun r => !x.doneFrom.contains r)

/-- HOLD to a member whose READY is kept; the leader's own RUN needs none (R563). -/
def sendHold (s : State) (k r : Nat) : State :=
  let x := slotOf s k
  if r = ownRank s x then updSlot s k (fun x => { x with run := x.run.map (fun q => { q with awaited := awaited x }) })
  else sendWin s x (x.members.getD r 0) (.hold k x.winInst (awaited x))

/-- A view whose drain will not happen is unlocked (R276). -/
def dropView (s : State) (ring slot : Nat) : State :=
  withBusy s ring slot 0x41 4 (fun d => dropJob (lockView s (viewOf d) false) ring slot)

/-- A RUN ends as a non-contributor, outside the set (R553, R564) (log 39). -/
def memberMismatch (s : State) (k inst : Nat) : State :=
  let x := slotOf s k
  match x.run with
  | some r =>
    if r.inst = inst ∧ r.handled = false then
      let s1 := dropView (setSlot s k { x with run := none, exp := (inst + 1) % 2 ^ 32, lostLines := 0, poisonBlocks := [], lost := false }) r.ring r.slot
      let s2 := finishCmd (dropReads (bump (bump s1 25 1) 27 1) r.ring r.slot) r.ring r.slot .format 0
      if leads s x then s2 else sendWin s2 x (leaderDev x) (.done k inst (ownRank s x))
    else s
  | none => s

/-- READY reaches the leader (R553, R561, R563) (log 39). -/
def leaderReady (s : State) (k inst rank crc : Nat) : State :=
  let x := slotOf s k
  let me := ownRank s x
  if !x.defined || !leads s x then s
  else if crc != slotCrc x then
    if rank = me then memberMismatch s k inst else sendWin s x (x.members.getD rank 0) (.mismatch k inst)
  else match x.closes.find? (fun c => c.inst == inst) with
    | some c => if rank = me then memberClose s k c else sendWin s x (x.members.getD rank 0) (.close k c.inst c.reason c.set)
    | none =>
      if inst != x.winInst || x.ready.contains rank then s
      else
        let s1 := setSlot s k { x with ready := x.ready ++ [rank] }
        match x.win with
        | .hold => sendHold s1 k rank
        | .idle => openWindow s1 k
        | .open_ => tryClose s1 k 2

/-- DONE reaches the leader (R561): with the last one HOLD ends. A DONE of the window's own instance comes from a member that is already through
with it (R553), and is kept. -/
def leaderDone (s : State) (k inst rank : Nat) : State :=
  let x := slotOf s k
  if !x.defined || !leads s x then s
  else if inst = x.winInst then setSlot s k { x with early := if x.early.contains rank then x.early else x.early ++ [rank] }
  else if x.win != .hold || (inst + 1) % 2 ^ 32 != x.winInst || x.doneFrom.contains rank then s
  else
    let y := { x with doneFrom := x.doneFrom ++ [rank] }
    if !(awaited y).isEmpty then setSlot s k y
    else if y.ready.isEmpty then setSlot s k { y with win := .idle } else openWindow (setSlot s k y) k

def extCfg (s : State) (k : Nat) : BitVec 64 := reg64 s (0x2800 + 8 * k)

/-- EXTEND reaches the leader (R579): a READY that is kept in HOLD is not counted yet. -/
def leaderExtend (s : State) (k inst rank req : Nat) : State :=
  let x := slotOf s k
  let cap := field64 (extCfg s k) 15 0
  if !x.defined || !leads s x || !(extCfg s k).getLsbD 63 || inst != x.winInst || (x.win != .hold && x.ready.contains rank) || replayedWin x then bump s 54 1
  else bumpIf (decide (cap < req)) (bump (setSlot s k { x with grant := max x.grant (min cap req), due := false }) 52 1) 53 1

/-! ### DEFINE and RELEASE (R549 to R551, R581) -/

def redOp (d : Line) : Nat := fld d 8 0 2
def redSlot (d : Line) : Nat := fld d 8 2 6
def redView (d : Line) : Bool := fld d 9 0 1 == 1
def redInst (d : Line) : Nat := bytesAt d 12 4
def redFields (d : Line) : List (Nat × Nat × Nat) :=
  [(8, 0, 8), (9, 0, 1), (12, 0, 32), (16, 0, 64)] ++ if redView d then viewFields else [(24, 0, 64)]
/-- Operations of a slot are serialized (R551). -/
def slotBusy (s : State) (ring slot k : Nat) : Bool := earlier s ring slot (fun d => dOpcode d == 0x41 && redSlot d == k)

/-- The FORMAT line of R550 for the record's own fields (log 73, log 82). -/
def slotRecordBad (x : Slot) : Bool :=
  decide (2 < srColl x) || decide (1 < srBitsAt x 1 0 8) || decide (1 < srBitsAt x 2 0 8) || srBitsAt x 3 0 8 != 0 || srBitsAt x 20 0 32 != 0 ||
  decide (4095 < srBitsAt x 4 0 16) || !finite32 (srMult x) || !finite32 (srLateScale x) || (srDefer x && srColl x == 2) ||
  decide (srBitsAt x 4 0 16 < srBitsAt x 6 0 16)

def dstFmtOk (t : TD) : Bool := (t.fmt == 0 && t.bsh == 0) || (t.fmt == 2 && (t.bsh == 0 || t.bsh == 1))

def hasDup : List Nat → Bool
  | [] => false
  | a :: t => t.contains a || hasDup t

/-- Bytes of host memory that a structure takes. -/
def hostLen (v n : Nat) : Nat := if (ptrOf v).host then n else 0

/-- The slot that a record gives, before its lists are read. -/
def slotBare (raw : Nat) : Slot := { record := BitVec.ofNat 512 raw }
def srMembers (x : Slot) : Nat := srBitsAt x 4 0 16 + 1
def srDst (x : Slot) : Nat := srBitsAt x 40 0 64
def srList (x : Slot) : Nat := srBitsAt x 32 0 64

/-- The destination of a slot, and its own checks. -/
def slotDst (s : State) (x : Slot) : Except Status TD :=
  match descAt s (srDst x) with
  | .error e => .error e
  | .ok (tv, t) =>
    if tdBad tv t || !dstFmtOk t then .error .format
    else if prodOf t.sizes != (if srColl x = 1 then chunkOf (srE x) (srMembers x) else srE x) then .error .shape
    else .ok t

/-- The structures of a slot that its checks come to, each a pointer and its length: the record, the destination's descriptor, the member list. -/
def slotPtrs (s : State) (v : Nat) : List (Nat × Nat) :=
  match structAt s v 64 with
  | .error _ => [(v, 64)]
  | .ok raw =>
    let x := slotBare raw
    if slotRecordBad x then [(v, 64)]
    else match slotDst s x with
      | .error _ => [(v, 64), (srDst x, 128)]
      | .ok _ => [(v, 64), (srDst x, 128), (srList x, 2 * srMembers x)]

/-- Reads and checks a slot: its record, its destination, its member list; with it the bytes of host memory that were read. -/
def readSlot (s : State) (v : Nat) : Nat × Except Status Slot :=
  match structAt s v 64 with
  | .error e => (0, .error e)
  | .ok raw =>
    let x := slotBare raw
    let h := hostLen v 64
    if slotRecordBad x then (h, .error .format)
    else if (ptrFail (srDst x) 128).isSome then (h, .error .range)
    else
      let h1 := h + if (descAt s (srDst x)).isOk then hostLen (srDst x) 128 else 0
      match slotDst s x with
      | .error e => (h1, .error e)
      | .ok t =>
        if (ptrFail (srList x) (2 * srMembers x)).isSome then (h1, .error .range)
        else match structAt s (srList x) (2 * srMembers x) with
          | .error e => (h1, .error e)
          | .ok mv => (h1 + hostLen (srList x) (2 * srMembers x), slotLists s x t (unpackBits 16 (srMembers x) mv))
where
  srLateBad (x : Slot) : Bool := srDefer x && (srLate x % 64 != 0 || !inRange40 (srLate x) (4 * srE x))
  slotLists (s : State) (x : Slot) (t : TD) (ms : List Nat) : Except Status Slot :=
    if extentBad t || !ms.contains (devNum s) || srLateBad x || srRecord x % 64 != 0 || !inRange40 (srRecord x) 4608 then .error .range
    else if hasDup ms || anyTwo spansMeet ((slotSpans x t).filter (fun q => q.2 != 0)) then .error .alias_
    else if ms.any (fun m => m != devNum s && !anyRoute s m) then .error .absent
    else .ok { x with defined := true, members := ms, dst := some t }

/-- Deferrals of a slot that are given up (R581). -/
def abandonLate (s : State) (x : Slot) : State := bumpIf (x.lateValid && x.deferrals != 0) s 55 x.deferrals

def reduceDefine (s : State) (ring slot : Nat) (d : Line) : State :=
  let k := redSlot d
  if slotBusy s ring slot k then s
  else
    checked s ring slot
      [(!bodyOk d (redFields d), .format), ((slotOf s k).defined, .alias_), ((ptrFail (bytesAt d 16 8) 64).isSome, .range)]
      (hostFirst s (heldStructs s (slotPtrs s (bytesAt d 16 8)))
        (let r := readSlot s (bytesAt d 16 8)
         match r.2 with
         | .error e => finishCmd (countRead s 1 r.1) ring slot e 0
         | .ok x => finishCmd (setSlot (abandonLate (countRead s 1 r.1) (slotOf s k)) k x) ring slot .ok 0))

/-- REDUCE_DEFINE (R549, R550). -/
def execReduceDefine (ring slot : Nat) (s : State) : Host.Outcome State Fault Refusal :=
  .next (withCmd s ring slot 0x41 (fun d => if redOp d = 1 then reduceDefine s ring slot d else s))

def reduceRelease (s : State) (ring slot : Nat) (d : Line) : State :=
  let k := redSlot d
  if slotBusy s ring slot k then s
  else
    checked s ring slot [(!bodyOk d (redFields d), .format), (!(slotOf s k).defined, .range)]
      (finishCmd (setSlot (abandonLate s (slotOf s k)) k {}) ring slot .ok 0)

/-- REDUCE_RELEASE (R551, R581). -/
def execReduceRelease (ring slot : Nat) (s : State) : Host.Outcome State Fault Refusal :=
  .next (withCmd s ring slot 0x41 (fun d => if redOp d = 2 then reduceRelease s ring slot d else s))

end Sys2Proof.Machine
end

