-- ==== Sys2Proof/Machine/ReduceRun.lean ====
section
/-!
DEFINITION. The rows of a collective run (12, 13): REDUCE RUN, the WGB drain, window messages, the owner's sum, completion, timeouts.
-/
namespace Sys2Proof.Machine

/-! ### REDUCE RUN (R551, R553) -/

inductive SrcIn where | fail (e : Status) | need (dev : Nat) (lines : List Nat) | src (t : TD)

/-- The checks of a source tensor (R553): `n` elements in FP32 or BF16 (log 82); `ring` and `slot` are its command's. -/
def sourceIn (s : State) (ring slot : Nat) (rb : RBuf) (v n : Nat) : SrcIn :=
  match ptrFail v 128 with
  | some e => .fail e
  | none =>
    match descFor s ring slot v with
    | .error e => .fail e
    | .ok (raw, t) =>
      if tdBad raw t || !dstFmtOk t then .fail .format
      else if prodOf t.sizes != n then .fail .shape
      else if extentBad t then .fail .range
      else
        let l := ((allIdx t.sizes).flatMap (elemLines t)).eraseDups
        if t.space = 0 && l.any (fun x => !mapped s (blockOfLine x)) then .fail .page
        else if t.space = 1 && l.any (fun x => hostRefuses s (64 * x) 64) then .fail .dataDropped
        else if t.space = 2 && !anyRoute s t.dev then .fail .absent
        else if t.space = 2 && l.any (fun x => !rb.any (fun q => q.1 == x)) then .need t.dev l
        else .src t

/-- The run begins: READY goes to the leader, and a CLOSE that came first is obeyed (R553, R557). What is left of older instances goes. -/
def beginRun (s : State) (k : Nat) (r : RedRun) : State :=
  let x := slotOf s k
  let known := match x.close with
    | some c => c.inst == r.inst
    | none => false
  let y := { x with run := some r, recv := x.recv.filter (fun p => p.inst == r.inst), close := if known then x.close else none,
                    gone := if known then x.gone else [], given := if known then x.given else [], summed := if known then x.summed else none }
  let s1 := setSlot s k y
  let me := ownRank s x
  let s2 := if leads s x then leaderReady s1 k r.inst me (slotCrc x)
    else sendWin s1 x (leaderDev x) (.ready k r.inst me (BitVec.ofNat 32 (slotCrc x)))
  contribute s2 k

/-- A RUN with a view: the checks of Table 06.5, then the locks; the drain is the next stage (R274, R275, R280). -/
def runView (s : State) (ring slot k : Nat) (d : Line) : State :=
  let x := slotOf s k
  let v := viewOf d
  match viewFail s v none with
  | some e => finishCmd s ring slot e 0
  | none =>
    if v.mode ≠ 0 then finishCmd s ring slot .format 0
    else if v.rows * v.cols ≠ wantElems x then finishCmd s ring slot .shape 0
    else if (partBlocks v).any (fun b => !mapped s b) then finishCmd s ring slot .page 0
    else if viewBusy s v || anyCopy s (partBlocks v) then s
    else match slotSettle s x (if v.pin then linesOf v.part (4 * v.rows * v.cols) else []) with
    | some w => w
    | none => beginRun (setPhase (lockView (addJob s (viewJob ring slot v none)) v true) ring slot (.busy 4)) k ⟨ring, slot, redInst d, none, none, false, 0, []⟩

/-- What follows of the checks of a source. -/
def runSource (s : State) (ring slot k inst : Nat) : SrcIn → State
  | .fail e => finishCmd (dropReads s ring slot) ring slot e 0
  | .need dev l => setPhase (remoteReadAll s ring slot dev l) ring slot (.busy 5)
  | .src t =>
    match slotSettle s (slotOf s k) (sourceLines t) with
    | some w => w
    | none => beginRun (setPhase s ring slot (.busy 9)) k ⟨ring, slot, inst, some t, none, false, 0, []⟩

/-- A RUN reads its source's descriptor once, which the host gives back first, and keeps it while it waits (R619, R774). -/
def latchSource (s : State) (ring slot v : Nat) : State :=
  if (snapOf s ring slot (.desc v)).isSome || (ptrFail v 128).isSome || !(descAt s v).isOk then s
  else keepDescs (countRead s (ptrSpace v) 128) ring slot [v]

def reduceRun (s : State) (ring slot : Nat) (d : Line) : State :=
  let k := redSlot d
  let x := slotOf s k
  if slotBusy s ring slot k then s
  else if !bodyOk d (redFields d) || redOp d == 3 then finishCmd s ring slot .format 0
  else if !x.defined then finishCmd s ring slot .range 0
  else if x.failed then finishCmd s ring slot .dataDropped 0
  else if redInst d != x.exp then finishCmd s ring slot .range 0
  else if redView d then runView s ring slot k d
  else if (snapOf s ring slot (.desc (bytesAt d 24 8))).isNone && !(heldByHost s (structLines (bytesAt d 24 8) 128)).isEmpty then
    recallFromHost s (heldByHost s (structLines (bytesAt d 24 8) 128))
  else
    let s1 := latchSource s ring slot (bytesAt d 24 8)
    runSource s1 ring slot k (redInst d) (sourceIn s1 ring slot (readBuf s ring slot) (bytesAt d 24 8) (wantElems x))

/-- REDUCE_RUN (R551, R553); the reserved OP 3 is rejected here. -/
def execReduceRun (ring slot : Nat) (s : State) : Host.Outcome State Fault Refusal :=
  .next (withCmd s ring slot 0x41 (fun d => if redOp d = 1 ∨ redOp d = 2 then s else reduceRun s ring slot d))

/-! ### The WGB drain (R269, R276, R280) -/

/-- The drain of a collective's view: its blocks, decoded, are the contribution; the regions are cleared and unlocked (R276), and what it read
poisoned marks the command (R278). -/
def drainReduce (s : State) (ring slot : Nat) (d : Line) : State :=
  let v := viewOf d
  let k := redSlot d
  let c := coreOf s (viewCore0 v)
  let bl := (List.range (v.rows * v.cols / 32)).map (viewBlock s v c.seed.toNat c.posWgb.toNat)
  let bits := bl.flatMap (fun y => y.2.1.map (fun e => BitVec.ofNat 32 (dec16 y.1 e)))
  let pois := (List.range bits.length).filter (fun i => match bl[i / 32]? with
    | some y => y.2.2.1
    | none => false)
  let ev := bl.foldl (fun e y => evAdd e y.2.2.2) {}
  let s1 := lockView (drainTell s ring slot v ev) v false
  let s2 := setPhase (dropJob s1 ring slot) ring slot (.busy 9)
  contribute (updSlot s2 k (fun x => { x with run := x.run.map (fun r => { r with contrib := some (bits, pois) }) })) k

/-- WGB_DRAIN (R267 to R280): the drain of a MOVE's or of a REDUCE's view. -/
def execWgbDrain (ring slot : Nat) (s : State) : Host.Outcome State Fault Refusal :=
  .next (
    let s1 := withBusy s ring slot 0x20 4 (drainMove s ring slot)
    withBusy s1 ring slot 0x41 4 (drainReduce s1 ring slot))

/-! ### Window messages (R553, R554, R561 to R563, R579) -/

def illFormed : Host.Outcome State Fault Refusal := .fault .illFormed
/-- A packet that has been acted on leaves the inbox (log 75). -/
def takeFrom (s : State) (p : Packet) : State := fromInbox s (fun q => q == p)

/-- READY at the leader. -/
def execReady (p : Packet) (s : State) : Host.Outcome State Fault Refusal :=
  match p.body with
  | .window (.ready k inst rank crc) => .next (leaderReady (takeFrom s p) k inst rank crc.toNat)
  | _ => illFormed

/-- MISMATCH at a member. -/
def execMismatch (p : Packet) (s : State) : Host.Outcome State Fault Refusal :=
  match p.body with
  | .window (.mismatch k inst) => .next (memberMismatch (takeFrom s p) k inst)
  | _ => illFormed

/-- CLOSE at a member. -/
def execClose (p : Packet) (s : State) : Host.Outcome State Fault Refusal :=
  match p.body with
  | .window (.close k inst reason set) => .next (memberClose (takeFrom s p) k ⟨inst, reason, set⟩)
  | _ => illFormed

/-- DONE at the leader. -/
def execDone (p : Packet) (s : State) : Host.Outcome State Fault Refusal :=
  match p.body with
  | .window (.done k inst rank) => .next (leaderDone (takeFrom s p) k inst rank)
  | _ => illFormed

/-- HOLD at a member (R563): the timeout of R583 starts again, and the map names whom the leader awaits. -/
def execHold (p : Packet) (s : State) : Host.Outcome State Fault Refusal :=
  match p.body with
  | .window (.hold k inst who) => .next (updSlot (takeFrom s p) k (fun x => { x with run := x.run.map (fun r =>
      if r.inst = inst then { r with awaited := who } else r) }))
  | _ => illFormed

/-- EXTEND at the leader. -/
def execExtend (p : Packet) (s : State) : Host.Outcome State Fault Refusal :=
  match p.body with
  | .window (.extend k inst rank req) => .next (leaderExtend (takeFrom s p) k inst rank req)
  | _ => illFormed

/-- WINDOW_DEADLINE (R561, R562): the deadline of an open window. A replayed instance has none (R601). -/
def execWindowDeadline (slot : Nat) (s : State) : Host.Outcome State Fault Refusal :=
  .next (
    let x := slotOf s slot
    if x.defined && leads s x && x.win == .open_ && !x.due && !replayedWin x then tryClose (setSlot s slot { x with due := true }) slot 1 else s)

/-- HOLD_RESEND (R563). -/
def execHoldResend (slot : Nat) (s : State) : Host.Outcome State Fault Refusal :=
  .next (
    let x := slotOf s slot
    if x.defined && leads s x && x.win == .hold then x.ready.foldl (fun t r => sendHold t slot r) s else s)

/-- EXTEND_SEND (R578): once for an instance, while its RUN is held at its wait selector; the leader's own needs no message (log 39). -/
def extendSend (s : State) (d : Line) : State :=
  let k := redSlot d
  let x := slotOf s k
  let req := field64 (extCfg s k) 31 16
  if !x.defined || !(extCfg s k).getLsbD 63 || x.extSent.contains (redInst d) then s
  else
    let s1 := setSlot s k { x with extSent := x.extSent ++ [redInst d] }
    if leads s x then leaderExtend s1 k (redInst d) (ownRank s x) req
    else bump (sendWin s1 x (leaderDev x) (.extend k (redInst d) (ownRank s x) req)) 51 1

def execExtendSend (ring slot : Nat) (s : State) : Host.Outcome State Fault Refusal :=
  .next (match cmdOf s ring slot with
    | some m => if m.phase = .held ∧ dOpcode m.desc = 0x41 ∧ redOp m.desc = 0 then extendSend s m.desc else s
    | none => s)

/-! ### The owner's sum (R555, R556, R560) -/

/-- Elements of a chunk that have arrived from a rank. -/
def partsOf (x : Slot) (inst chunk src : Nat) (res : Bool) : List RedPart :=
  x.recv.filter (fun p => p.inst == inst && p.chunk == chunk && p.src == src && p.result == res)
/-- Element `e` of a chunk is among parts. -/
def hasElem (l : List RedPart) (e : Nat) : Bool := l.any (fun p => decide (p.off ≤ e) && decide (e < p.off + p.bits.length))
/-- The elements of a chunk that have not come from a rank. -/
def lackElems (x : Slot) (inst chunk src : Nat) (res : Bool) : List Nat :=
  let l := partsOf x inst chunk src res
  (List.range (chunkLen x chunk)).filter (fun e => !hasElem l e)
def covered (x : Slot) (inst chunk src : Nat) (res : Bool) : Bool := (lackElems x inst chunk src res).isEmpty

/-- An element of a contribution: its FP32 encoding and whether it is poisoned; one that never came is zero and poisoned. -/
def partElem (l : List RedPart) (e : Nat) : Nat × Bool :=
  match l.find? (fun p => decide (p.off ≤ e) && decide (e < p.off + p.bits.length)) with
  | some p => if p.poison.contains (e - p.off) then (0, true) else ((p.bits.getD (e - p.off) 0).toNat, false)
  | none => (0, true)

/-- MULT, or MULT × n ÷ c rounded once (R555). -/
def sumScale (x : Slot) (c : Nat) : Nat :=
  if srNorm x then f32 (ndiv (nmul (val32 (srMult x)) (.fin false (slotN x) 0)).1 (.fin false c 0)).1 else srMult x

/-- The exact sum over the set, rounded once, times the scale; its numeric events are counted nowhere (log 38). -/
def sumElem (x : Slot) (c : CloseMsg) (own e : Nat) : Nat × Bool :=
  let v := c.set.map (fun r => partElem (partsOf x c.inst own r false) e)
  (fMul (f32 (v.foldl (fun a y => (nadd a (val32 y.1)).1) (.fin true 0 0))) (sumScale x c.set.length), v.any (·.2))

/-- Every contribution to this owner's chunk is here or given up. -/
def sumReady (x : Slot) (c : CloseMsg) (own : Nat) : Bool :=
  x.summed != some c.inst && srColl x != 2 && c.set.all (fun r => covered x c.inst own r false || x.gone.contains r)

/-- OWNER_SUM (R555, R556) (log 82). -/
def ownerSum (s : State) (k : Nat) : State :=
  let x := slotOf s k
  let me := ownRank s x
  match x.close, x.dst with
  | some c, some t =>
    if !x.defined || x.failed || !sumReady x c me then s
    else match slotSettle s x [] with
    | some w => w
    | none =>
      let v := (List.range (chunkLen x me)).map (sumElem x c me)
      let pois := (List.range v.length).filter (fun i => match v[i]? with
        | some y => y.2
        | none => false)
      let y := encodeAt t (dstBase x me) pois (v.map (·.1))
      let nf := ((List.range v.length).filter (fun i => !y.pois.contains i && !finite32 ((v.map (·.1)).getD i 0))).length
      let s1 := storeResult s k me 0 y.bits y.scales y.pois
      let s2 := updSlot (tsReport s1 1 nf) k (fun x => { x with
        summed := some c.inst,
        recv := x.recv.filter (fun p => p.inst != c.inst || p.result) ++ [⟨c.inst, me, me, 0, true, y.bits, [], []⟩] })
      if srColl x = 0 then
        ((List.range (slotN x)).filter (fun r => r != me)).foldl (fun s r => sendChunk s k c.inst me (x.members.getD r 0) true y) s2
      else s2
  | _, _ => s

def execOwnerSum (slot : Nat) (s : State) : Host.Outcome State Fault Refusal := .next (ownerSum s slot)

/-! ### Completion (R558, R559, R564) -/

/-- Chunks whose results this member waits for. -/
def wantChunks (x : Slot) (c : CloseMsg) (me : Nat) : List Nat :=
  if srColl x = 0 then List.range (slotN x) else if srColl x = 1 then [me] else c.set
def resultsIn (x : Slot) (c : CloseMsg) (me : Nat) : Bool :=
  (wantChunks x c me).all (fun j => x.given.contains j || covered x c.inst j j true)

/-- R558. -/
def runDone (s : State) (k : Nat) (x : Slot) (r : RedRun) (c : CloseMsg) : Bool :=
  let me := ownRank s x
  c.inst == r.inst && r.handled && !segsLeft s (.red k) && (srColl x == 2 || x.summed == some c.inst) && resultsIn x c me

def runStatus (x : Slot) (c : CloseMsg) (lost pois : Bool) : Status :=
  if x.lostLines != 0 || x.lost || c.reason == 3 || lost then .dataDropped else if !x.poisonBlocks.isEmpty || pois then .poisonSkip
  else if c.set.length < slotN x then .partial_ else .ok

/-- The collective record as 576 bytes (Table 12.12) (log 39). -/
def recordValue (x : Slot) (r : RedRun) (c : CloseMsg) (me : Nat) (st : Status) : Nat :=
  r.inst + 2 ^ 32 * (statusCode st + 2 ^ 16 * ((if c.reason = 3 then 1 else c.reason) + 2 ^ 8 * ((if c.set.contains me then 1 else 0) +
    (if r.folded = 0 then 0 else 2)))) + 2 ^ 64 * (slotN x + 2 ^ 16 * (c.set.length + 2 ^ 16 * (r.folded % 2 ^ 32))) +
  2 ^ 128 * (x.lostLines % 2 ^ 64 + 2 ^ 64 * (x.poisonBlocks.length % 2 ^ 64)) + 2 ^ 512 * (c.set.foldl (fun m b => m + 2 ^ b) 0)

def slotRecordLines (a v : Nat) : List (Nat × LineW) :=
  (List.range 9).map (fun i => (a / 64 + i, ⟨BitVec.allOnes 512, BitVec.ofNat 512 (v / 2 ^ (512 * i)), false⟩))

/-- RUN_COMPLETE (R558, R559, R564). -/
def finishRun (s : State) (k : Nat) (x : Slot) (r : RedRun) (c : CloseMsg) : State :=
  let me := ownRank s x
  let a := recordAddr x r.inst
  let st0 := runStatus x c (cmdLost s r.ring r.slot) (cmdPois s r.ring r.slot)
  let w := storeLines s (slotRecordLines a (recordValue x r c me st0))
  let st := runStatus x c (cmdLost s r.ring r.slot || w.2 != 0) (cmdPois s r.ring r.slot)
  let s1 := setSlot w.1 k { x with run := none, exp := (r.inst + 1) % 2 ^ 32, lostLines := 0, poisonBlocks := [], lost := false,
                                   recv := x.recv.filter (fun p => p.inst != r.inst) }
  let s2 := bumpIf (!c.set.contains me) (bumpIf (st == .partial_) (bump s1 25 1) 26 1) 27 1
  let s3 := finishCmd (dropReads s2 r.ring r.slot) r.ring r.slot st (BitVec.ofNat 64 (r.inst + 2 ^ 32 * c.set.length))
  if leads s x then leaderDone s3 k r.inst me else sendWin s3 x (leaderDev x) (.done k r.inst me)

def runComplete' (s : State) (ring slot k : Nat) : State :=
  let x := slotOf s k
  match x.run, x.close with
  | some r, some c =>
    if !(r.ring = ring ∧ r.slot = slot) then s
    else if !r.handled then contribute s k
    else if !runDone s k x r c then s
    else match slotSettle s x [] with
      | some w => w
      | none => finishRun s k x r c
  | _, _ => s

/-- RUN_COMPLETE (R558); a contribution that waited for a copy or for the host is given first (R357, R619). -/
def execRunComplete (ring slot : Nat) (s : State) : Host.Outcome State Fault Refusal :=
  .next (withBusy s ring slot 0x41 9 (fun d => runComplete' s ring slot (redSlot d)))

/-! ### Timeouts (R582, R583, R601) -/

/-- Lines of the destination with elements of a chunk that have not come. -/
def missingLines (x : Slot) (inst chunk src : Nat) (res : Bool) : Nat := (dstLines x chunk (lackElems x inst chunk src res)).length

/-- Elements `l` of result chunk `j` are written as zeros and poisoned. -/
def loseElems (s : State) (k j : Nat) (l : List Nat) : State :=
  let x := slotOf s k
  match x.dst with
  | none => s
  | some t =>
    storeDst s k t (l.foldl (fun w e =>
      let ix := elemIdx t (dstBase x j + e)
      let w1 := putElem' w t ix 0 true
      if t.bsh = 0 then w1 else putScale w1 t ix 0x7F) [])

/-- Result elements that never came are written as zeros and poisoned. -/
def loseChunk (s : State) (k inst j : Nat) : State := loseElems s k j (lackElems (slotOf s k) inst j j true)

/-- CONTRIBUTION_TIMEOUT (R582): what has not come is given up, once the slot's lines may be written (R357, R619); a member whose RUN of the instance has completed waits for nothing more (log 80). -/
def contributionTimeout (s : State) (k : Nat) : State :=
  let x := slotOf s k
  let me := ownRank s x
  match x.close, slotSettle s x [] with
  | none, _ => s
  | some _, some w => w
  | some c, none =>
    let late := if srColl x = 2 || x.summed == some c.inst then []
      else c.set.filter (fun r => r != me && !covered x c.inst me r false && !x.gone.contains r)
    let lost := if c.inst != x.exp then []
      else (wantChunks x c me).filter (fun j => j != me && !covered x c.inst j j true && !x.given.contains j)
    let n := late.foldl (fun n r => n + missingLines x c.inst me r false) 0 + lost.foldl (fun n j => n + missingLines x c.inst j j true) 0
    let s1 := bumpIf (n != 0) (setSlot s k { x with gone := x.gone ++ late, given := x.given ++ lost, lostLines := x.lostLines + n }) 24 n
    lost.foldl (fun s j => loseChunk s k c.inst j) s1

def execContributionTimeout (slot : Nat) (s : State) : Host.Outcome State Fault Refusal := .next (contributionTimeout s slot)

/-- CLOSE_TIMEOUT (R583). -/
def closeTimeout (s : State) (k : Nat) : State :=
  let x := slotOf s k
  match x.run with
  | some r =>
    if (match x.close with
        | some c => c.inst == r.inst
        | none => false) then s
    else
      let s1 := dropView s r.ring r.slot
      bump (finishCmd (dropReads (setSlot s1 k { x with run := none, failed := true }) r.ring r.slot) r.ring r.slot .dataDropped 0) 56 1
  | none => s

def execCloseTimeout (slot : Nat) (s : State) : Host.Outcome State Fault Refusal := .next (closeTimeout s slot)

/-- REPLAY_READY_TIMEOUT (R601): the leader closes with the members present; reason 3 tells every member that data was dropped. -/
def execReplayReadyTimeout (slot : Nat) (s : State) : Host.Outcome State Fault Refusal :=
  .next (
    let x := slotOf s slot
    if x.defined && leads s x && x.win == .open_ && replayedWin x then
      closeWindow s slot ⟨x.winInst, 3, (recordSet s x x.winInst).filter (fun r => x.ready.contains r)⟩
    else s)

end Sys2Proof.Machine
end

