-- ==== Sys2Proof/Machine/Start.lean ====
section
/-!
DEFINITION. How a command starts (14, 11): the checks of its header, its wait selector, and the limits on commands in progress. The
ring command processors and REPLAY use it.
-/
namespace Sys2Proof.Machine

/-- The opcodes of Table 14.6. -/
def opcodes : List Nat :=
  [0x01, 0x02, 0x10, 0x11, 0x20, 0x21, 0x22, 0x30, 0x31, 0x40, 0x41, 0x42, 0x43, 0x44, 0x45, 0x50, 0x51, 0x60, 0x70]

/-- A selector breaks R493. -/
def selectorBad (en : Bool) (sel : Nat) : Bool := if en then decide (4096 ≤ sel) else sel != 0

/-- The header fails (R630). -/
def headerBad (d : Line) (ring : Nat) : Bool :=
  !opcodes.contains (dOpcode d) || dFlags d / 8 != 0 || selectorBad (dWaitEn d) (dWaitSel d) || selectorBad (dSetEn d) (dSetSel d) ||
  (dOpcode d == 0x60 && ring != 0)

/-- Commands in progress on a ring. -/
def inFlight (s : State) (r : Nat) : Nat := (ringCmds s r).length
/-- A FENCE of the ring has not completed (R631). -/
def fenced (s : State) (r : Nat) : Bool := (ringCmds s r).any (fun m => dOpcode m.desc == 0x02)
/-- An OPEN whose wait selector has completed has still to act: its snapshot is taken before any later command starts (R574). -/
def openDue (s : State) : Bool := s.cm.cmds.any (fun m => dOpcode m.desc == 0x40 && sbOp m.desc != 1 && m.phase == .ready)
/-- The ring may have one more command in progress (R574, R629, R631). -/
def roomInRing (s : State) (r : Nat) : Bool := decide (inFlight s r < 16) && decide (s.cm.cmds.length < 1024) && !fenced s r && !openDue s

/-- A POWER in progress keeps every other command from starting, and so do an entry and an exit (R726). -/
def startsCommands (s : State) : Bool := !s.pw.off && (s.pw.st == 0 || s.pw.st == 1 || s.pw.st == 2 || s.pw.st == 3) && s.pw.cmd.isNone

/-- Places a command in progress. -/
def placeCmd (s : State) (ring slot : Nat) (d : Line) (ph : CmdPhase) (replayed : Bool) : State :=
  { s with cm := { s.cm with
      cmds := s.cm.cmds ++ [{ ring := ring, slot := slot, desc := d, phase := ph, order := s.cm.cmdNext, logged := false, replayed := replayed }],
      cmdNext := s.cm.cmdNext + 1 } }

/-- Starts a command (R494, R575, R629, R630): a bad header completes it with FORMAT; otherwise it waits at its wait selector, or is ready
for its checks and its work. -/
def startCmd (s : State) (ring slot : Nat) (d : Line) (replayed : Bool) : State :=
  if headerBad d ring then placeCmd s ring slot d (.done .format 0) replayed
  else if dWaitEn d then
    let s1 := placeCmd s ring slot d .held replayed
    let r := flagWaitc s1 (.chip (dWaitSel d)) (.ring ring slot)
    if r.2 then setPhase (logCmd r.1 ring slot (ringLogs s ring)) ring slot .ready else r.1
  else logCmd (placeCmd s ring slot d .ready replayed) ring slot (ringLogs s ring)

/-- The slot number of a replayed command: its position among the replayed ones, above every ring's slots (log 46). -/
def replaySlot (p : Nat) : Nat := 65536 + p

/-- Starts the replayed commands that may start, in logged order, under the rules of the rings, in D0 (R600, R726). -/
def pumpReplayGo (s : State) : List (Line × Nat × Nat) → State × List (Line × Nat × Nat) × Nat
  | [] => (s, [], 0)
  | (d, r, p) :: t =>
    if roomInRing s r && startsCommands s && s.pw.st == 0 then
      let x := pumpReplayGo (startCmd s r (replaySlot p) d true) t
      (x.1, x.2.1, x.2.2 + 1)
    else (s, (d, r, p) :: t, 0)

/-- Logged commands that wait in an idle state wake the device (R728). -/
def pumpReplay (s : State) : State :=
  match s.tr.replay with
  | none => s
  | some q =>
    let x := pumpReplayGo s q.todo
    let s1 : State := { x.1 with tr := { x.1.tr with replay := some { q with todo := x.2.1, started := q.started + x.2.2 } } }
    if stopped s && !q.todo.isEmpty then wakeUp s1 else s1

end Sys2Proof.Machine
end

