-- ==== Sys2Proof/Machine/Sheet.lean ====
section
/-!
DEFINITION. Contact sheets (R593 to R598): the layout of a sheet, the granules its tensors are stored in, and CHECKPOINT.
-/
namespace Sys2Proof.Machine

/-! ### Byte strings, as a value with a length -/

structure Bytes where
  (len val : Nat)
  deriving DecidableEq, Repr

def bcat (a b : Bytes) : Bytes := ⟨a.len + b.len, a.val % 2 ^ (8 * a.len) + 2 ^ (8 * a.len) * b.val⟩
def bnat (n v : Nat) : Bytes := ⟨n, v % 2 ^ (8 * n)⟩
def bempty : Bytes := ⟨0, 0⟩
/-- Joins strings pairwise. -/
def bjoin (l : List Bytes) : Bytes := l.foldr bcat bempty
/-- Zeros up to a multiple of `n` bytes. -/
def bpad (n : Nat) (b : Bytes) : Bytes := ⟨(b.len + n - 1) / n * n, b.val⟩
/-- Elements of `w` bits, packed and filled up to whole bytes. -/
def bpack (w : Nat) (l : List Nat) : Bytes := ⟨(w * l.length + 7) / 8, l.foldr (fun x a => x % 2 ^ w + 2 ^ w * a) 0⟩
def bslice (v off n : Nat) : Nat := v / 2 ^ (8 * off) % 2 ^ (8 * n)

/-! ### Granules (R325, Table 07.9) -/

/-- Byte values by how often they occur, most frequent first, then in ascending order. -/
def insertByCount (f : Nat → Nat) (x : Nat) : List Nat → List Nat
  | [] => [x]
  | y :: t => if f y < f x then x :: y :: t else y :: insertByCount f x t
def byCount (his : List Nat) : List Nat := (List.range 256).foldl (fun l x => insertByCount (fun v => his.count v) x l) []

/-- The size of the table that needs the fewest bytes. -/
def planeSize (his : List Nat) : Nat :=
  let c := highCounts his
  let cost (t : Nat) : Nat := t + (512 - (c.take t).foldl (· + ·) 0)
  (List.range 15).foldl (fun m i => if cost (i + 1) < cost m then i + 1 else m) 1

def sparseEnc (w : Nat) (els : List Nat) : Bytes :=
  bjoin [bnat 1 1, bnat 1 w, bpack 1 (els.map (fun e => if e = 0 then 0 else 1)), bpack (8 * w) (els.filter (fun e => e != 0))]

def planeEnc (els : List Nat) : Bytes :=
  let his := els.map (fun e => e / 256)
  let t := planeSize his
  let tab := (byCount his).take t
  let ix (h : Nat) : Nat := (tab.findIdx? (fun x => x == h)).getD 15
  bjoin [bnat 1 2, bnat 1 t, bpack 8 tab, bpack 4 (his.map ix), bpack 8 (his.filter (fun h => !tab.contains h)), bpack 8 (els.map (fun e => e % 256))]

/-- Size code and stored bytes of a granule; `raw` keeps it as it is (log 35). -/
def granEnc (raw : Bool) (w v : Nat) : Nat × Bytes :=
  if raw then (15, bnat 1024 v)
  else
    let els := unpackBits (8 * w) (1024 / w) v
    let a := sparseEnc w els
    let b := planeEnc els
    let best := if w = 2 ∧ (b.len + 63) / 64 < (a.len + 63) / 64 then b else a
    let c := granCode w v
    if c = 0 then (0, bempty) else if c = 15 then (15, bnat 1024 v) else (c, bpad 64 best)

def sparseDec (w : Nat) : List Nat → List Nat → List Nat
  | [], _ => []
  | 0 :: t, l => 0 :: sparseDec w t l
  | _ :: t, l => l.headD 0 :: sparseDec w t l.tail

def planeHighs (tab : List Nat) : List Nat → List Nat → List Nat
  | [], _ => []
  | i :: t, esc => if i < tab.length then tab.getD i 0 :: planeHighs tab t esc else esc.headD 0 :: planeHighs tab t esc.tail

/-- The 1,024 bytes that a stored granule holds. -/
def granDec (code v : Nat) : Nat :=
  if code = 0 then 0
  else if code = 15 then v % 2 ^ 8192
  else if v % 256 = 1 then
    let w := if v / 256 % 256 = 4 then 4 else 2
    let n := 1024 / w
    let els := sparseDec w (unpackBits 1 n (v / 2 ^ 16)) (unpackBits (8 * w) n (v / 2 ^ (16 + n)))
    (bpack (8 * w) els).val
  else
    let t := v / 256 % 256
    let tab := unpackBits 8 t (v / 2 ^ 16)
    let ix := unpackBits 4 512 (v / 2 ^ (16 + 8 * t))
    let esc := (ix.filter (fun i => decide (t ≤ i))).length
    let o := 16 + 8 * t + 2048
    let his := planeHighs tab ix (unpackBits 8 esc (v / 2 ^ o))
    (bpack 16 (map2 (fun h l => 256 * h + l) his (unpackBits 8 512 (v / 2 ^ (o + 8 * esc))))).val

/-! ### Section bodies (Table 13.5) -/

/-- Element width of a tensor of a section; scale tensors are raw. -/
def sheetW (i : Nat) : Nat := if i = 0 ∨ i = 7 then 4 else 2
def sheetRaw (i : Nat) : Bool := i == 2 || i == 4 || i == 6
/-- The TENSOR numbers of Table 13.5 by the numbers of Table 10.2. -/
def sheetTensors : List (Nat × Nat) := [(0, 0), (1, 1), (2, 2), (3, 3), (4, 4), (5, 5), (6, 6), (7, 11)]

/-- Granules that `n` bytes take. -/
def granules (n : Nat) : Nat := (n + 1023) / 1024
def tensorLines (n : Nat) : Nat := (n + 63) / 64

/-- The body of a tensor of `n` bytes at `a`: size codes, poison bitmap, stored bytes; bytes past its end are 0 (log 45). -/
def tensorBody (s : State) (raw : Bool) (w a n : Nat) : Bytes :=
  let gs := (List.range (granules n)).map (fun g => granEnc raw w (readBytes s (a + 1024 * g) (min 1024 (n - 1024 * g))))
  let pm := (List.range (tensorLines n)).map (fun l => if poisoned s ((a + 64 * l) / 64) then 1 else 0)
  bcat (bpack 4 (gs.map (·.1))) (bcat (bpack 1 pm) (bjoin (gs.map (·.2))))

def tensorPois (s : State) (a n : Nat) : Bool := (List.range (tensorLines n)).any (fun l => poisoned s ((a + 64 * l) / 64))

structure Section where
  (kind index tensor : Nat) (body : Bytes)
  deriving DecidableEq, Repr

def schedBody (s : State) : Bytes :=
  bjoin ((List.range 480).map (fun k => bnat 4 (reg32 s (0x3000 + 4 * k)).toNat))
/-- The DEVICE section; `step` is the sheet's (log 45). -/
def deviceBody (s : State) (step : Nat) : Bytes :=
  bcat (bjoin [bnat 4 step, bnat 4 s.tr.mean, bnat 4 s.tr.var, bnat 4 s.tr.samples]) (schedBody s)

def definedGroups (s : State) : List Nat := (List.range 64).filter (fun g => (groupOf s g).defined)
def definedSlots (s : State) : List Nat := (List.range 64).filter (fun k => (slotOf s k).defined)

def groupSections (s : State) (g : Nat) : List Section :=
  let r := (groupOf s g).record.toNat
  ⟨1, g, 0, bcat (bnat 256 r) (bnat 8 (groupOf s g).t.toNat)⟩ ::
  (sheetTensors.filter (fun x => usesTensor r x.2)).map (fun x =>
    ⟨2, g, x.1, tensorBody s (sheetRaw x.1) (sheetW x.1) (grAddr r x.2) (tensorBytes r x.2)⟩)

def slotSections (s : State) (k : Nat) : List Section :=
  let x := slotOf s k
  ⟨3, k, 0, bjoin [bnat 4 (slotCrc x), bnat 4 x.exp, bnat 4 (if x.lateValid then 1 else 0), bnat 4 x.deferrals]⟩ ::
  (if srDefer x && x.lateValid then [⟨4, k, 0, tensorBody s false 4 (srLate x) (4 * srE x)⟩] else [])

def sheetSections (s : State) (step : Nat) : List Section :=
  ⟨0, 0, 0, deviceBody s step⟩ :: (definedGroups s).flatMap (groupSections s) ++ (definedSlots s).flatMap (slotSections s)

/-- Lines that a sheet carries. -/
def sheetSpans (s : State) : List (Nat × Nat) :=
  (definedGroups s).flatMap (fun g =>
    let r := (groupOf s g).record.toNat
    (sheetTensors.filter (fun x => usesTensor r x.2)).map (fun x => (grAddr r x.2, tensorBytes r x.2))) ++
  ((definedSlots s).filter (fun k => srDefer (slotOf s k) && (slotOf s k).lateValid)).map (fun k => (srLate (slotOf s k), 4 * srE (slotOf s k)))
def sheetPois (s : State) : Bool := (sheetSpans s).any (fun x => tensorPois s x.1 x.2)

/-! ### Layout (Table 13.4) -/

/-- Sections follow one another from a multiple of 64 bytes each: offsets and the end (log 45). -/
def layOut : Nat → List Section → List (Section × Nat) × Nat
  | o, [] => ([], o)
  | o, x :: t =>
    let r := layOut (o + (x.body.len + 63) / 64 * 64) t
    ((x, o) :: r.1, r.2)

def tableEntry (x : Section × Nat) : Bytes :=
  bjoin [bnat 1 x.1.kind, bnat 1 x.1.index, bnat 1 x.1.tensor, bnat 1 0, bnat 8 x.2, bnat 8 x.1.body.len, bnat 4 (crc32 x.1.body.len x.1.body.val),
    bnat 8 0]

/-- A sheet: header and section table, then the sections, filled up to whole lines; and its length. `step` is the step number when the
CHECKPOINT started (Table 13.4). -/
def sheetBytes (s : State) (step seq : Nat) : Bytes × Bytes × Nat :=
  let secs := sheetSections s step
  let first := 64 * ((64 + 32 * secs.length + 63) / 64)
  let l := layOut first secs
  let head := bjoin [bnat 2 1, bnat 2 secs.length, bnat 4 step, bnat 4 seq, bnat 2 (devNum s), bnat 2 0, bnat 8 l.2]
  let tab := bjoin (l.1.map tableEntry)
  let x := bcat head tab
  (bpad 64 (bjoin [head, bnat 4 (crc32 x.len x.val), bnat 36 0, tab]), bjoin (l.1.map (fun e => bpad 64 e.1.body)), l.2)

/-- The lines of a byte string from line `l`. -/
def bytesLines (l : Nat) (b : Bytes) : List (Nat × Line × Bool) :=
  (List.range (b.len / 64)).map (fun i => (l + i, BitVec.ofNat 512 (bslice b.val (64 * i) 64), false))
def asWrites (l : List (Nat × Line × Bool)) : List (Nat × LineW) := l.map (fun e => (e.1, ⟨BitVec.allOnes 512, e.2.1, e.2.2⟩))

/-! ### CFG_CSHEET (Table 13.11) -/

def csBuddyEn (s : State) : Bool := (reg64 s 0x160).getLsbD 63
def csHostEn (s : State) : Bool := (reg64 s 0x160).getLsbD 62
def csBuddy (s : State) : Nat := field64 (reg64 s 0x160) 51 40
def csBuddyAddr (s : State) : Nat := field64 (reg64 s 0x160) 39 16 * 65536
def csBlocks (s : State) : Nat := field64 (reg64 s 0x168) 63 32
def csHostAddr (s : State) : Nat := field64 (reg64 s 0x170) 51 16 * 65536
/-- Offset of sheet slot `k`, 0 for A. -/
def csOffset (s : State) (k : Nat) : Nat := k * csBlocks s * 65536

/-! ### CHECKPOINT (R593 to R596) -/

def cpEvery (d : Line) : Nat := bytesAt d 8 2
def cpBuddy (d : Line) : Bool := fld d 10 0 1 == 1
def cpHost (d : Line) : Bool := fld d 10 1 1 == 1

/-- A command is a STEP that runs: it has latched its schedule (R467), or it reads remote lines. -/
def isRunningStep (s : State) (m : Cmd) : Bool :=
  dOpcode m.desc == 0x42 && upOp m.desc == 0 && (m.phase == .busy 5 || (snapOf s m.ring m.slot .sched).isSome)

/-- A command is a STEP before the given one that the Test strip does not hold and that has still to run. -/
def isEarlierStep (s : State) (ring slot : Nat) (m : Cmd) : Bool :=
  !(s.tr.held && s.tr.vstep == m.step) && dOpcode m.desc == 0x42 && upOp m.desc == 0 && m.phase == .ready &&
  match cmdOf s ring slot with
  | some c => decide (m.order < c.order)
  | none => false

/-- Groups whose STEP runs, or has still to run before the command. -/
def stepGroups (s : State) (ring slot : Nat) : List Nat :=
  (s.cm.cmds.filter (fun m => isRunningStep s m || isEarlierStep s ring slot m)).map (fun m => upGroup m.desc)

def stepRuns (s : State) (ring slot : Nat) : Bool := !(stepGroups s ring slot).isEmpty

/-- The sheet is written; each destination written counts, with its bytes (R596). With one written, the next sheet takes the next SEQ. -/
def finishSheet (s : State) (ring slot : Nat) : State :=
  match s.tr.sheet, cmdOf s ring slot with
  | some q, some m =>
    let n := (if cpBuddy m.desc && !m.lost then 1 else 0) + (if cpHost m.desc then 1 else 0)
    let s1 := { s with tr := { s.tr with sheet := none } }
    let s2 := if n = 0 then s1 else bump (bump { s1 with tr := { s1.tr with sheetSeq := q.seq } } 48 n) 49 (n * q.bytes)
    if m.lost then finishCmd s2 ring slot .dataDropped 0
    else finishCmd s2 ring slot (if q.pois then .poisonSkip else .ok) (BitVec.ofNat 64 q.seq)
  | _, _ => s

/-- Every segment of a sheet sent so far is acknowledged: the header follows the sections, then the sheet is done. -/
def sheetSettled (s : State) (ring slot : Nat) : State :=
  match s.tr.sheet with
  | some q =>
    if q.ring != ring || q.slot != slot || segsLeft s (.cmd ring slot) then s
    else if cmdLost s ring slot || q.hdr.isEmpty then finishSheet s ring slot
    else setPhase (remoteWriteAll { s with tr := { s.tr with sheet := some { q with hdr := [] } } } (.cmd ring slot) (csBuddy s) q.hdr) ring slot (.busy 11)
  | none => s

/-- The sheet goes to its destinations: host memory at once, the buddy in two parts (log 45). -/
def writeSheet (s : State) (ring slot : Nat) (d : Line) (seq : Nat) (b : Bytes × Bytes × Nat) : State :=
  let o := csOffset s (seq % 2)
  let s1 := if cpHost d then
      hostLinesW s (asWrites (bytesLines ((csHostAddr s + o + b.1.len) / 64) b.2.1) ++ asWrites (bytesLines ((csHostAddr s + o) / 64) b.1)) else s
  let hdr := if cpBuddy d then bytesLines ((csBuddyAddr s + o) / 64) b.1 else []
  let s2 := { s1 with tr := { s1.tr with sheet := some ⟨ring, slot, seq, b.2.2, hdr, sheetPois s⟩ } }
  if cpBuddy d then
    setPhase (remoteWriteAll s2 (.cmd ring slot) (csBuddy s) (bytesLines ((csBuddyAddr s + o + b.1.len) / 64) b.2.1)) ring slot (.busy 6)
  else finishSheet s2 ring slot

/-- A sheet that exceeds its slot leaves the slot's header zero (R607), unless the host refuses (R632) (log 45). -/
def spoilSheet (s : State) (ring slot : Nat) (d : Line) (seq : Nat) : State :=
  let o := csOffset s (seq % 2)
  let z : Bytes := bnat 64 0
  let no := cpHost d && hostRefuses s (csHostAddr s + o) 64
  let s1 := if cpHost d && !no then hostLinesW s (asWrites (bytesLines ((csHostAddr s + o) / 64) z)) else s
  if no then finishCmd s1 ring slot .dataDropped 0 else
  let s2 := if cpBuddy d then remoteWriteAll s1 (.cmd ring slot) (csBuddy s) (bytesLines ((csBuddyAddr s + o) / 64) z) else s1
  finishCmd s2 ring slot .format 0

def checkpoint (s : State) (ring slot : Nat) (d : Line) : State :=
  checked s ring slot
    [(!bodyOk d [(8, 0, 16), (10, 0, 2)] || !(cpBuddy d || cpHost d) || (cpBuddy d && !csBuddyEn s) || (cpHost d && !csHostEn s), .format)]
    (if cpEvery d != 0 && stepOf s ring slot % cpEvery d != 0 then finishCmd s ring slot .ok 0
     else if stepRuns s ring slot || s.tr.sheet.isSome then s
     else
       let held := s.m.snoop.filter (fun l => (sheetSpans s).any (spansMeet (64 * l, 64)))
       if !held.isEmpty then recallFromHost s held
       else
         let seq := (s.tr.sheetSeq + 1) % 2 ^ 32
         let b := sheetBytes s (stepOf s ring slot) seq
         if csBlocks s * 65536 < b.2.2 then spoilSheet s ring slot d seq
         else if cpHost d && hostRefuses s (csHostAddr s + csOffset s (seq % 2)) b.2.2 then setPhase s ring slot (.busy 7)
         else writeSheet s ring slot d seq b)

/-- CHECKPOINT (R593). -/
def execCheckpoint (ring slot : Nat) (s : State) : Host.Outcome State Fault Refusal := .next (withCmd s ring slot 0x43 (checkpoint s ring slot))

end Sys2Proof.Machine
end

