-- ==== Sys2Proof/Machine/Restore.lean ====
section
/-!
DEFINITION. RESTORE (R597, R598): reading and checking a sheet, and what it puts back.
-/
namespace Sys2Proof.Machine

/-! ### Reading a sheet -/

def rsHost (d : Line) : Bool := fld d 8 0 1 == 1
def rsSheet (d : Line) : Nat := fld d 8 1 2

structure SecIn where
  (kind index tensor len val crc : Nat) (inside : Bool)
  deriving DecidableEq, Repr

/-- A sheet read from a slot: its fields, its sections, and whether every CRC verifies. -/
structure SheetIn where
  (version step seq dev : Nat) (secs : List SecIn) (valid : Bool)
  deriving DecidableEq, Repr

/-- `n` bytes from offset `o` of the region, from host memory or from the lines read of the buddy; and whether one of them cannot be read. -/
def sheetRead (s : State) (rb : RBuf) (host : Bool) (base o n : Nat) : Nat × Bool :=
  let x := spaceBytes s rb (if host then 1 else 2) (base + o) n
  (x.1, x.2 || (host && hostRefuses s (base + o) n))

/-- NSECT and BYTES of a header can be those of a sheet in its slot. -/
def sheetFits (s : State) (h : Nat) : Bool :=
  decide (64 + 32 * bitsAt h 2 0 16 ≤ bitsAt h 16 0 64) && decide (bitsAt h 16 0 64 ≤ csBlocks s * 65536)

def parseSheet (s : State) (rb : RBuf) (host : Bool) (base : Nat) : SheetIn :=
  let h := sheetRead s rb host base 0 64
  let n := bitsAt h.1 2 0 16
  let len := bitsAt h.1 16 0 64
  if h.2 || !sheetFits s h.1 then ⟨0, 0, 0, 0, [], false⟩
  else
    let all := sheetRead s rb host base 0 len
    let sec (j : Nat) : SecIn :=
      let e := bslice all.1 (64 + 32 * j) 32
      let o := bitsAt e 4 0 64
      let l := bitsAt e 12 0 64
      ⟨bitsAt e 0 0 8, bitsAt e 1 0 8, bitsAt e 2 0 8, l, bslice all.1 o (min l len), bitsAt e 20 0 32, decide (o + l ≤ len)⟩
    let secs := (List.range n).map sec
    let hc := bcat ⟨24, bslice all.1 0 24⟩ ⟨32 * n, bslice all.1 64 (32 * n)⟩
    ⟨bitsAt h.1 0 0 16, bitsAt h.1 4 0 32, bitsAt h.1 8 0 32, bitsAt h.1 12 0 16, secs,
     !all.2 && crc32 hc.len hc.val == bitsAt h.1 24 0 32 && secs.all (fun x => x.inside && crc32 x.len x.val == x.crc)⟩

def rsBase (s : State) (d : Line) : Nat := if rsHost d then csHostAddr s else csBuddyAddr s
/-- The sheet slots that a RESTORE reads. -/
def rsSlots (d : Line) : List Nat := if rsSheet d = 0 then [0, 1] else [rsSheet d - 1]

/-- Lines of the buddy still to be read: the headers first, then the whole of each sheet that can be one. -/
def sheetNeed (s : State) (rb : RBuf) (d : Line) : List Nat :=
  if rsHost d then []
  else
    let have_ (l : Nat) : Bool := rb.any (fun e => e.1 == l)
    (rsSlots d).flatMap (fun k =>
      let b := csBuddyAddr s + csOffset s k
      if !have_ (b / 64) then [b / 64]
      else
        let h := sheetRead s rb false b 0 64
        if h.2 || !sheetFits s h.1 then [] else (linesOf b (bitsAt h.1 16 0 64)).filter (fun l => !have_ l))

/-- The sheet chosen: of the valid ones the one with the highest SEQ (log 45). -/
def chosenSheet (s : State) (rb : RBuf) (d : Line) : Option SheetIn :=
  ((rsSlots d).map (fun k => parseSheet s rb (rsHost d) (rsBase s d + csOffset s k))).foldl (fun m x =>
    if !x.valid then m
    else match m with
      | none => some x
      | some y => if y.seq < x.seq then some x else m) none

/-! ### Checks (Table 13.6) -/

def secRecord (x : SecIn) : Nat := bslice x.val 0 256
def groupsOf (h : SheetIn) : List SecIn := h.secs.filter (fun x => x.kind == 1)
def newGroups (s : State) (h : SheetIn) : List SecIn := (groupsOf h).filter (fun x => !(groupOf s x.index).defined)
/-- The record of the group that a section belongs to. -/
def recordOf (h : SheetIn) (g : Nat) : Nat :=
  match (groupsOf h).find? (fun x => x.index == g) with
  | some x => secRecord x
  | none => 0
def tensorOf (i : Nat) : Nat :=
  match sheetTensors.find? (fun x => x.1 == i) with
  | some x => x.2
  | none => 0

/-- Address and length of what a section restores. -/
def secSpan (s : State) (h : SheetIn) (x : SecIn) : Nat × Nat :=
  if x.kind = 2 then (grAddr (recordOf h x.index) (tensorOf x.tensor), tensorBytes (recordOf h x.index) (tensorOf x.tensor))
  else if x.kind = 4 then (srLate (slotOf s x.index), 4 * srE (slotOf s x.index))
  else (0, 0)
def secSpans (s : State) (h : SheetIn) : List (Nat × Nat) := (h.secs.map (secSpan s h)).filter (fun x => x.2 != 0)
def spanBlocks (l : List (Nat × Nat)) : List Nat := (l.flatMap (fun x => blocksOf x.1 x.2)).eraseDups

def sheetMismatch (s : State) (h : SheetIn) : Bool :=
  h.secs.any (fun x =>
    (x.kind == 1 && (groupOf s x.index).defined && (groupOf s x.index).record.toNat != secRecord x) ||
    (x.kind == 3 && (!(slotOf s x.index).defined || slotCrc (slotOf s x.index) != bslice x.val 0 4)))

/-- The DEFINE checks of the groups to be defined, in ascending order. -/
def newGroupFail (s : State) (h : SheetIn) : Option Status := (newGroups s h).findSome? (fun x => defineFail s x.index (secRecord x))

/-- A STEP of a group that the sheet covers runs: the RESTORE starts after it completes (R470). -/
def stepCovered (s : State) (ring slot : Nat) (h : SheetIn) : Bool :=
  (stepGroups s ring slot).any (fun g => (groupsOf h).any (fun x => x.index == g))

/-- Table 13.6. A STEP that runs here is one of a group that the sheet does not cover (log 37). -/
def restoreFail (s : State) (ring slot : Nat) (h : SheetIn) : Option Status :=
  if h.version != 1 || h.dev != devNum s then some .format
  else if sheetMismatch s h then some .format
  else match newGroupFail s h with
    | some e => some e
    | none =>
      if stepRuns s ring slot || s.tr.replay.isSome then some .alias_
      else if !roomFor s (spanBlocks (secSpans s h)) then some .range
      else none

/-! ### What it puts back (R598) -/

/-- Writes a tensor body of `n` bytes at `a`, poisoned lines included; and whether one was poisoned. -/
def restoreTensor (s : State) (a n v : Nat) : State × Bool :=
  let g := granules n
  let codes := unpackBits 4 g v
  let o1 := (g + 1) / 2
  let pm := unpackBits 1 (tensorLines n) (v / 2 ^ (8 * o1))
  let o2 := o1 + (tensorLines n + 7) / 8
  let dec := (codes.foldl (fun (x : List Nat × Nat) c => (x.1 ++ [granDec c (bslice v x.2 (64 * codeBursts c))], x.2 + 64 * codeBursts c)) ([], o2)).1
  let lines := (List.range (tensorLines n)).map (fun i =>
    let w := min 64 (n - 64 * i)
    ((a + 64 * i) / 64,
     (⟨BitVec.ofNat 512 (2 ^ (8 * w) - 1), BitVec.ofNat 512 (bslice (dec.getD (i / 16) 0) (64 * (i % 16)) w), pm.getD i 0 == 1⟩ : LineW)))
  (writeLinesW s lines, pm.any (fun b => b == 1))

def restoreSec (h : SheetIn) (x : State × Bool) (q : SecIn) : State × Bool :=
  let s := x.1
  if q.kind = 0 then
    let s1 := { s with tr := { s.tr with step := bslice q.val 0 4, expect := some ((h.step + 1) % 2 ^ 32), mean := bslice q.val 4 4,
                                         var := bslice q.val 8 4, samples := bslice q.val 12 4 } }
    ((List.range 480).foldl (fun t k =>
      setReg32 t (0x3000 + 4 * k) (BitVec.ofNat 32 (bslice q.val (16 + 4 * k) 4) &&& (if k % 8 = 7 then 0xF1E else 0xFFFFFFFF))) s1, x.2)
  else if q.kind = 1 then
    (setGroup s q.index { groupOf s q.index with t := BitVec.ofNat 64 (bslice q.val 256 8) }, x.2)
  else if q.kind = 2 ∨ q.kind = 4 then
    let p := secSpan s h q
    let r := restoreTensor s p.1 p.2 q.val
    (r.1, x.2 || r.2)
  else if q.kind = 3 then
    (updSlot s q.index (fun y => { y with exp := bslice q.val 4 4, lateValid := bslice q.val 8 4 == 1, deferrals := bslice q.val 12 4, failed := false,
                                          winInst := bslice q.val 4 4, win := .idle, ready := [], doneFrom := [], early := [], close := none,
                                          closes := [], recv := [] }), x.2)
  else x

/-- The working copy of a group from its master; a block whose master is poisoned keeps its own (R598) (log 45). -/
def restoreWc (s : State) (g : Nat) : State :=
  let x := groupOf s g
  let r := x.record.toNat
  let t := x.t.toNat
  ((List.range (grBlocks r)).foldl (fun (z : StepRun) b =>
    let w := rdMaster z.s r b
    if w.pois then z
    else
      let y := putWc [] r (t - 1) b (decide (0 < t)) w.vals
      let z1 := writeBlock z (fixStack z.s r b) [] y.1
      { z1 with s := bumpEv z1.s (cStack (fixStack z1.s r b) 0) y.2 }) ⟨s, 0, false⟩).s

/-- The restored state (R598). Lines of the source that were lost end the command with DATA_DROPPED (R547). -/
def applySheet (s : State) (ring slot : Nat) (h : SheetIn) : State :=
  let x := h.secs.foldl (restoreSec h) ({ s with tr := { s.tr with sheetSeq := h.seq } }, false)
  let s1 := (groupsOf h).foldl (fun t q => restoreWc t q.index) x.1
  finishCmd (dropReads (bump s1 50 1) ring slot) ring slot (if cmdLost s ring slot then .dataDropped else if x.2 then .poisonSkip else .ok)
    (BitVec.ofNat 64 h.step)

/-- Lines that the host holds and blocks in COPY settle first, and the moves of new groups. -/
def restoreSettle (s : State) (ring slot : Nat) (h : SheetIn) : State :=
  let spans := secSpans s h ++ (groupsOf h).flatMap (fun x => spansOf (secRecord x) [9, 10])
  let held := s.m.snoop.filter (fun l => spans.any (spansMeet (64 * l, 64)))
  if movesLeft s ring slot || anyCopy s (spanBlocks spans) then setPhase s ring slot (.busy 12)
  else if !held.isEmpty then setPhase (recallFromHost s held) ring slot (.busy 12)
  else applySheet s ring slot h

/-- Host bytes that a RESTORE reads: each header, and the whole of a sheet that can be one. -/
def hostSheetBytes (s : State) (d : Line) : Nat :=
  (rsSlots d).foldl (fun n k =>
    let h := sheetRead s [] true (csHostAddr s + csOffset s k) 0 64
    n + if h.2 || !sheetFits s h.1 then 64 else bitsAt h.1 16 0 64) 0

def rejectRestore (s : State) (ring slot : Nat) (e : Status) : State := finishCmd (dropReads s ring slot) ring slot e 0

def restore (s : State) (ring slot : Nat) (d : Line) : State :=
  let rb := readBuf s ring slot
  if !bodyOk d [(8, 0, 3)] || rsSheet d == 3 || (if rsHost d then !csHostEn s else !csBuddyEn s) then rejectRestore s ring slot .format
  else if !rsHost d && !anyRoute s (csBuddy s) then rejectRestore s ring slot .dataDropped
  else
    let need := sheetNeed s rb d
    if !need.isEmpty then setPhase (remoteReadAll s ring slot (csBuddy s) need) ring slot (.busy 5)
    else
      let s1 := bumpIf (rsHost d) s 57 (hostSheetBytes s d)
      match chosenSheet s rb d with
      | none => rejectRestore s1 ring slot .dataDropped
      | some h =>
        if stepCovered s ring slot h then s
        else match restoreFail s ring slot h with
        | some e => rejectRestore s1 ring slot e
        | none =>
          if groupCopyAny s h then s
          else
            let s2 := if s1.tr.held then discardStep s1 else s1
            restoreSettle (keepRoom ((newGroups s2 h).foldl (fun t x => defineGroup t ring slot x.index (secRecord x)) s2) ring slot (spanBlocks (secSpans s h))) ring slot h
where
  /-- A block of a group to be defined is being copied. -/
  groupCopyAny (s : State) (h : SheetIn) : Bool := (newGroups s h).any (fun x => groupCopy s (secRecord x))

/-- RESTORE (R597, R598). -/
def execRestore (ring slot : Nat) (s : State) : Host.Outcome State Fault Refusal :=
  .next (match cmdOf s ring slot with
    | some m =>
      if dOpcode m.desc != 0x44 then s
      else if m.phase = .ready then (if unitRests s 0x44 then wakeUp s else restore s ring slot m.desc)
      else if m.phase = .busy 12 then
        match chosenSheet s (readBuf s ring slot) m.desc with
        | some h => restoreSettle s ring slot h
        | none => s
      else s
    | none => s)

end Sys2Proof.Machine
end

