-- ==== Sys2Proof/Machine/Replay.lean ====
section
/-!
DEFINITION. REPLAY (R599 to R601): its checks, the state it goes back to, and its completion.
-/
namespace Sys2Proof.Machine

def rpFrom (d : Line) : Nat := bytesAt d 8 4
def rpTo (d : Line) : Nat := bytesAt d 12 4

/-- Segments of the steps to re-run, in step order; none when one is not in the log (log 46). -/
def replaySegs (s : State) (a b : Nat) : Option (List LogSeg) :=
  if b < a ∨ 8 ≤ b - a then none else ((List.range (b - a + 1)).map (fun i => segOf s (a + i))).mapM id

def coresRun (s : State) : Bool := s.cores.any (fun e => e.2.run.isSome)
def otherCmds (s : State) (ring slot : Nat) : Bool := s.cm.cmds.any (fun m => !(m.ring == ring && m.slot == slot))

def groupMoved (s : State) (q : Snapshot) : Bool :=
  (definedGroups s).any (fun g => (groupOf s g).t.toNat != tget zeroN q.tg g)

def noSlot (_ : Nat) : Nat × Bool := (0, false)
/-- The instances of slot `k` that the RUNs of log segments name, counted from the snapshot's. -/
def loggedRuns (l : List LogSeg) (q : Snapshot) (k : Nat) : List Nat :=
  ((l.flatMap (·.cmds)).filter (fun e => dOpcode e.1 == 0x41 && redOp e.1 == 0 && redSlot e.1 == k)).map (fun e =>
    (redInst e.1 + 2 ^ 32 - (tget noSlot q.slots k).1) % 2 ^ 32)
/-- How many instances a list of them holds one after another from the first. -/
def runLength (l : List Nat) : Nat := ((List.range 9).takeWhile l.contains).length
/-- How far a slot has advanced since the snapshot of step `a`: to the INSTANCE expected now, or, where a RESTORE has set that back, as far as
the RUNs in the log went. -/
def advanced (s : State) (q : Snapshot) (a k : Nat) : Nat :=
  max (((slotOf s k).exp + 2 ^ 32 - (tget noSlot q.slots k).1) % 2 ^ 32) (runLength (loggedRuns (s.tr.segs.filter (fun g => decide (a ≤ g.step))) q k))
/-- FLAGS bit 0 of the record of an instance (Table 12.12). -/
def wasIn (s : State) (x : Slot) (inst : Nat) : Bool := readBytes s (recordAddr x inst + 7) 1 % 2 == 1
/-- Reason 5: `l` are the segments to re-run, whose RUNs are the replayed instances. -/
def slotStuck (s : State) (l : List LogSeg) (q : Snapshot) (a : Nat) : Bool :=
  (definedSlots s).any (fun k =>
    let x := slotOf s k
    decide (8 < advanced s q a k) ||
    (srDefer x && ((tget noSlot q.slots k).2 ||
      (List.range (runLength (loggedRuns l q k))).any (fun i => !wasIn s x (((tget noSlot q.slots k).1 + i) % 2 ^ 32)))))

def wgbDirty (s : State) : Bool := (presentCores s).any (fun c => (coreOf s c).wgbDirty != 0)

/-- The reason of the first check of Table 13.7 that fails, or the segments to re-run. -/
def replayCheck (s : State) (ring slot : Nat) (d : Line) : Except Nat (List LogSeg) :=
  if coresRun s || otherCmds s ring slot || s.tr.held then .error 7
  else match replaySegs s (rpFrom d) (rpTo d) with
    | none => .error 1
    | some l =>
      if l.any (·.overflow) then .error 2
      else if l.any (·.noreplay) then .error 3
      else match l.head? with
        | none => .error 1
        | some g =>
          if groupMoved s g.snap then .error 4
          else if slotStuck s l g.snap (rpFrom d) then .error 5
          else if wgbDirty s then .error 6
          else .ok l

/-- The commands to re-run with their rings and logged positions. -/
def numbered : Nat → List (Line × Nat) → List (Line × Nat × Nat)
  | _, [] => []
  | n, (d, r) :: t => (d, r, n) :: numbered (n + 1) t

def zeroF (_ : Nat) : BitVec 256 := 0

/-- f0 to f63 stay; f64 to f255 become those of the snapshot (log 46). -/
def backFlags (q : Snapshot) (s : State) (c : Nat) : State :=
  updCore s c (fun k => { k with flags := (k.flags &&& 0xFFFFFFFFFFFFFFFF#256) ||| tget zeroF q.flags c })

/-- A slot goes back to its expected INSTANCE at the snapshot; a leader closes the instances that the segments to re-run hold with their recorded
sets (R601). -/
def backSlot (l : List LogSeg) (q : Snapshot) (s : State) (k : Nat) : State :=
  updSlot s k (fun x =>
    let e := (tget noSlot q.slots k).1
    { x with exp := e, close := none, recv := [], gone := [], given := [], summed := none, lostLines := 0, poisonBlocks := [], lost := false, win := .idle,
             winInst := e, ready := [], doneFrom := [], early := [], grant := 0, due := false,
             closes := x.closes.filter (fun c => decide (c.inst < e)), replayTo := if leads s x then e + runLength (loggedRuns l q k) else x.replayTo })

/-- The state that a REPLAY starts from (R600) (log 46). -/
def goBack (s : State) (l : List LogSeg) (q : Snapshot) (a : Nat) : State :=
  let s1 := (List.range s.fit.grade).foldl (backFlags q) { s with sh := { s.sh with cf := q.cf } }
  let s2 := (definedSlots s1).foldl (backSlot l q) s1
  let s3 := { s2 with tr := { s2.tr with mean := q.mean, var := q.var, samples := q.samples, step := (a + 2 ^ 32 - 1) % 2 ^ 32, expect := some a } }
  if stripWaits s3 then stripPlace (stripWithdraw s3) else s3

/-- STS_REPLAY takes the outcome of a REPLAY, which completes (log 46). -/
def endReplay (s : State) (ring slot : Nat) (st : Status) (reason at_ : Nat) : State :=
  finishCmd { s with tr := { s.tr with rStatus := statusCode st, rReason := reason, rFailedAt := at_ } } ring slot st (BitVec.ofNat 64 at_)

/-- A REPLAY whose commands have all completed completes with the first status other than OK (R600). -/
def settleReplay (s : State) : State :=
  match s.tr.replay with
  | none => s
  | some q =>
    if !q.todo.isEmpty || s.cm.cmds.any (·.replayed) then s
    else
      let s1 := bump (bump { s with tr := { s.tr with replay := none } } 46 1) 47 q.started
      match q.bad with
      | some b => endReplay s1 q.ring q.slot b.1 0 b.2
      | none => endReplay s1 q.ring q.slot .ok 0 0

/-- A replayed command has completed. -/
def noteReplayed (s : State) (slot : Nat) (st : Status) : State :=
  match s.tr.replay with
  | none => s
  | some q =>
    let p := slot - 65536
    let b := if st == .ok then q.bad else match q.bad with
      | none => some (st, p)
      | some x => if p < x.2 then some (st, p) else some x
    { s with tr := { s.tr with replay := some { q with bad := b } } }

def replay (s : State) (ring slot : Nat) (d : Line) : State :=
  checked s ring slot [(!bodyOk d [(8, 0, 64)], .format)]
    (match replayCheck s ring slot d with
     | .error r => endReplay s ring slot .range r 0
     | .ok l =>
       match l.head? with
       | none => s
       | some g =>
         let s1 := setPhase (goBack s l g.snap (rpFrom d)) ring slot (.busy 10)
         settleReplay (pumpReplay { s1 with tr := { s1.tr with
           replay := some ⟨ring, slot, rpTo d, numbered 0 (l.flatMap (·.cmds)), none, 0⟩ } }))

/-- REPLAY (R599, R600). -/
def execReplay (ring slot : Nat) (s : State) : Host.Outcome State Fault Refusal := .next (withCmd s ring slot 0x45 (replay s ring slot))

end Sys2Proof.Machine
end

