-- ==== Sys2Proof/Machine/Delivery.lean ====
section
/-!
DEFINITION. Delivery of remote data (R544 to R548): what WRITE, READ_REQ, READ_DATA, SEG_ACK, SEG_ABORT and RED_DATA packets do, and the
timeouts of segments and reads.
-/
namespace Sys2Proof.Machine

/-! ### Packets that wait -/

/-- What has to happen first: the device leaves an idle state (R548, R728), what was held there is applied in arrival order, flag operations
among it (R548, R730), the host
gives lines back (R619), copies end (R357). -/
def settleFirst (s : State) (p : Packet) (lines : List Nat) (writes : Bool) : Option State :=
  if asleep s then some (wakeUp (holdPacket (keepPacket s p) p))
  else if s.fb.held.contains p && (s.fb.held.head? != some p || s.sh.flagQ.any (·.late)) then some s
  else if !(heldByHost s lines).isEmpty then some (recallFromHost (keepPacket s p) (heldByHost s lines))
  else if writes && anyCopy s ((lines.map blockOfLine).eraseDups) then some (keepPacket s p)
  else none

/-! ### Lines of a group (Table 12.9) -/

/-- The line numbers that a mask names, in ascending order. -/
def maskLines (group : Nat) (mask : BitVec 16) : List Nat := ((List.range 16).filter (fun i => mask.getLsbD i)).map (fun i => 16 * group + i)
def pairLines (pmask : BitVec 16) : List Nat → List Line → List (Nat × Line × Bool)
  | l :: ls, d :: ds => (l, d, pmask.getLsbD (l % 16)) :: pairLines pmask ls ds
  | _, _ => []

/-! ### The destination's map of an open segment (R544) -/

def inSegOf (s : State) (k : SegKey) : InSeg :=
  match s.fb.inSegs.find? (fun q => q.key == k) with
  | some q => if q.total.isSome && decide (q.total.getD 0 ≤ q.got.length) then ⟨k, [], [], none⟩ else q
  | none => ⟨k, [], [], none⟩
def putInSeg (s : State) (q : InSeg) : State :=
  { s with fb := { s.fb with inSegs := s.fb.inSegs.filter (fun x => x.key != q.key) ++ [q] } }
/-- Adds lines to a map, once each. -/
def addLines (a b : List Nat) : List Nat := a ++ b.filter (fun x => !a.contains x)

def ackLen : Nat := 16
/-- Answers a segment (VC1). -/
def sendSegAck (s : State) (k : SegKey) (dropped : Nat) : State := sendLow s 1 k.src 0 ackLen (.segAck k dropped)

/-- Lines of a segment arrive: with END and all of them here, the segment is acknowledged (log 43). -/
def segArrive (s : State) (k : SegKey) (lines lost : List Nat) (total : Option Nat) : State :=
  let q := inSegOf s k
  let q1 : InSeg := ⟨k, addLines q.got lines, addLines q.dropped lost, if total.isSome then total else q.total⟩
  let s1 := putInSeg s q1
  if q1.total == some q1.got.length then sendSegAck s1 k q1.dropped.length else s1

/-- Writes the lines of a packet; those that find no block are not written (R773) (log 43). -/
def writeArrived (s : State) : List (Nat × Line × Bool) → State × List Nat
  | [] => (s, [])
  | (l, d, p) :: t =>
    match autoMap s (blockOfLine l) with
    | none =>
      let r := writeArrived (bump s 24 1) t
      (r.1, l % 1024 :: r.2)
    | some _ => writeArrived (writeLineW s l ⟨BitVec.allOnes 512, d, p⟩) t

/-- WRITE (R544). -/
def execWritePacket (p : Packet) (s : State) : Host.Outcome State Fault Refusal :=
  match p.body with
  | .write group segid mask pmask last lines =>
    let ls := maskLines group mask
    if ls.length != lines.length then illFormed
    else .next (match settleFirst s p ls true with
      | some t => t
      | none =>
        let r := writeArrived (takeFrom s p) (pairLines pmask ls lines)
        segArrive r.1 ⟨p.src, segid, group / 64⟩ (ls.map (· % 1024)) r.2 last)
  | _ => illFormed

/-! ### Reads (R547) -/

/-- READ_REQ: the mapped lines go back; a line of an unmapped block is not returned (log 81). -/
def execReadReq (p : Packet) (s : State) : Host.Outcome State Fault Refusal :=
  match p.body with
  | .readReq group mask tag =>
    let ls := (maskLines group mask).filter (fun l => mapped s (blockOfLine l))
    .next (match settleFirst s p ls false with
      | some t => t
      | none =>
        let s1 := takeFrom s p
        if ls.isEmpty then s1
        else
          let f := groupFields (ls.map (fun l => (l, readLine s1 l, poisoned s1 l)))
          sendSpread s1 tag 3 p.src (lineLen ls.length) (.readData group tag f.1 f.2.1 f.2.2))
  | _ => illFormed

/-- Every line a command asked for is here or given up: it goes on (stage 5) (log 81). -/
def readsDone (s : State) (ring slot : Nat) : State :=
  if readsLeft s ring slot then s
  else match cmdOf s ring slot with
    | none => s
    | some m =>
      if m.phase != .busy 5 then s
      else match jobOf s ring slot with
        | some j =>
          if dOpcode m.desc = 0x20 ∧ mvView m.desc = true then setPhase s ring slot (.busy 4) else resumeJob (setPhase s ring slot .ready) j
        | none => setPhase s ring slot .ready

/-- The reader takes lines of a read, once each. -/
def takeRead (s : State) (dev group tag : Nat) (l : List (Nat × Line × Bool)) : State :=
  match s.fb.reads.find? (fun r => r.dev == dev && r.group == group && r.tag == tag) with
  | none => s
  | some r =>
    let new := l.filter (fun e => r.mask.getLsbD (e.1 % 16) && !r.got.any (fun g => g.1 == e.1))
    let s1 := { s with fb := { s.fb with reads := s.fb.reads.map (fun q =>
      if q.dev == dev && q.group == group && q.tag == tag then { q with got := q.got ++ new } else q) } }
    readsDone s1 r.ring r.slot

/-- READ_DATA (R547). -/
def execReadData (p : Packet) (s : State) : Host.Outcome State Fault Refusal :=
  match p.body with
  | .readData group tag mask pmask lines =>
    let ls := maskLines group mask
    if ls.length != lines.length then illFormed
    else .next (takeRead (takeFrom s p) p.src group tag (pairLines pmask ls lines))
  | _ => illFormed

/-- READ_TIMEOUT (R547): lines not returned are zeros and poisoned, and the command has lost data (log 81). -/
def readTimeout (s : State) (group tag : Nat) : State :=
  match s.fb.reads.find? (fun r => r.group == group && r.tag == tag) with
  | none => s
  | some r =>
    let miss := (maskLines group r.mask).filter (fun l => !r.got.any (fun e => e.1 == l))
    if miss.isEmpty then s
    else
      let s1 := markCmd (bump s 24 miss.length) r.ring r.slot true false
      let s2 := { s1 with fb := { s1.fb with reads := s1.fb.reads.map (fun q =>
        if q.group == group && q.tag == tag then { q with lost := q.lost ++ miss } else q) } }
      takeRead s2 r.dev group tag (miss.map (fun l => (l, 0, true)))
def execReadTimeout (group tag : Nat) (s : State) : Host.Outcome State Fault Refusal := .next (readTimeout s group tag)

/-! ### Acknowledgements at the source (R544 to R546) -/

/-- Lines of a segment were lost. -/
def ownerLost (s : State) (o : SegOwner) (n : Nat) : State :=
  match o with
  | .cmd r i => markCmd s r i true false
  | .red k => updSlot s k (fun x => { x with lostLines := x.lostLines + n, lost := true })

/-- A command whose segments are all acknowledged goes on. -/
def ownerSettled (s : State) (o : SegOwner) : State :=
  match o with
  | .red _ => s
  | .cmd r i =>
    if segsLeft s o then s
    else match cmdOf s r i with
      | none => s
      | some m =>
        if dOpcode m.desc = 0x43 then (if m.phase == .busy 6 || m.phase == .busy 11 then sheetSettled s r i else s)
        else if m.phase == .busy 6 then finishMove s r i else s

def dropOutSeg (s : State) (k : SegKey) : State := { s with fb := { s.fb with outSegs := s.fb.outSegs.filter (fun o => o.key != k) } }
def outSegOf (s : State) (k : SegKey) (dst : Nat) : Option OutSeg := s.fb.outSegs.find? (fun o => o.key == k && o.dst == dst)

/-- The segment is over, with `n` lines lost. -/
def endSeg (s : State) (o : OutSeg) (lost : Bool) (n : Nat) : State :=
  ownerSettled (if lost then ownerLost (dropOutSeg s o.key) o.owner n else dropOutSeg s o.key) o.owner

/-- The segment belongs to a mover command. -/
def ofMover (s : State) : SegOwner → Bool
  | .cmd r i =>
    match cmdOf s r i with
    | some m => 0x20 ≤ dOpcode m.desc && dOpcode m.desc ≤ 0x22
    | none => false
  | .red _ => false

/-- SEG_ACK (R544, R546): the lines that the destination zeroed count for a mover command (Table 09.10). -/
def execSegAck (p : Packet) (s : State) : Host.Outcome State Fault Refusal :=
  match p.body with
  | .segAck k dropped => .next (
    let s1 := takeFrom s p
    match outSegOf s1 k p.src with
    | some o => endSeg (bumpIf (dropped != 0 && ofMover s1 o.owner) s1 13 dropped) o (dropped != 0) dropped
    | none => s1)
  | _ => illFormed

def abortLen : Nat := 136

/-- SEG_TIMEOUT (R545): the source asks the destination to abort (log 43). -/
def segTimeout (s : State) (k : SegKey) (dst : Nat) : State :=
  match outSegOf s k dst with
  | some o =>
    if o.aborted then s
    else
      let s1 := { s with fb := { s.fb with outSegs := s.fb.outSegs.map (fun q => if q.key == k && q.dst == dst then { q with aborted := true, bodies := [] } else q) } }
      sendLow (bump s1 23 1) 1 dst 0 abortLen (.segAbort k o.lines)
  | none => s
def execSegTimeout (k : SegKey) (dst : Nat) (s : State) : Host.Outcome State Fault Refusal := .next (segTimeout s k dst)

/-- SEG_ABORT_TIMEOUT (R546): the abort could not be delivered; the destination lines stay as they are. -/
def execSegAbortTimeout (k : SegKey) (dst : Nat) (s : State) : Host.Outcome State Fault Refusal :=
  .next (match outSegOf s k dst with
    | some o => if o.aborted then endSeg s o true 0 else s
    | none => s)

/-! ### SEG_ABORT at the destination (R545, R560) -/

/-- A line number within a block, as a line of the range. -/
def lineAt (block l : Nat) : Nat := 1024 * block + l

/-- Elements of its chunk that a line of a collective segment carries. -/
def pieceElems (x : Slot) (block l : Nat) : List Nat :=
  let a := pieceLen * (redKey block).2.2 + 16 * l
  (List.range (min 16 (chunkLen x (redKey block).2.1 - a))).map (a + ·)

/-- Lines of the destination that the lost lines of a collective segment make zeros (R560). -/
def lostLinesOf (s : State) (block : Nat) (lines : List Nat) : List Nat :=
  let x := slotOf s (redKey block).1
  dstLines x (redKey block).2.1 (lines.flatMap (pieceElems x block))

/-- The chunk lines that a collective segment lost: the elements are zeros and poisoned (log 81). -/
def loseLines (s : State) (src block : Nat) (lines : List Nat) : State :=
  let k := (redKey block).1
  let j := (redKey block).2.1
  let x := slotOf s k
  match rankOf x src with
  | none => s
  | some r =>
    let me := ownRank s x
    let part (l : Nat) : RedPart :=
      let e := pieceElems x block l
      ⟨x.exp, r, j, e.headD 0, j != me, List.replicate e.length 0, [], List.range e.length⟩
    let s1 := updSlot s k (fun x => { x with lostLines := x.lostLines + (lostLinesOf s block lines).length })
    let s2 := if j = me then s1 else loseElems s1 k j (lines.flatMap (pieceElems x block))
    lines.foldl (fun t l => addPart t k (part l)) s2

/-- The lines of an aborted segment that have not come. -/
def missing (s : State) (k : SegKey) (lines : List Nat) : List Nat :=
  match s.fb.inSegs.find? (fun q => q.key == k) with
  | some q => lines.filter (fun l => !q.got.contains l)
  | none => lines
def droppedBefore (s : State) (k : SegKey) : List Nat :=
  match s.fb.inSegs.find? (fun q => q.key == k) with
  | some q => q.dropped
  | none => []

/-- The destination lines of this device that a lost collective segment writes as zeros. -/
def lostHere (s : State) (block : Nat) (lines : List Nat) : List Nat :=
  let x := slotOf s (redKey block).1
  match x.dst with
  | some t => if t.space == 0 && (redKey block).2.1 != ownRank s x then lostLinesOf s block lines else []
  | none => []

/-- SEG_ABORT (R545, R560): a collective's lost elements count by the lines of the destination that they make zeros. -/
def execSegAbort (p : Packet) (s : State) : Host.Outcome State Fault Refusal :=
  match p.body with
  | .segAbort k lines =>
    let miss := missing s k lines
    let mem := decide (k.block < 2 ^ 24)
    let here := if mem then miss.map (lineAt k.block) else lostHere s k.block miss
    .next (match settleFirst s p here true with
      | some t => t
      | none =>
        let n := if mem then miss.length else (lostLinesOf s k.block miss).length
        let s1 := bumpIf (n != 0) (takeFrom s p) 24 n
        let s2 := if miss.isEmpty then s1
          else if mem then writeLinesW s1 (miss.map (fun l => (lineAt k.block l, ⟨BitVec.allOnes 512, 0, true⟩)))
          else loseLines s1 k.src k.block miss
        let d := addLines (droppedBefore s k) miss
        sendSegAck (putInSeg s2 ⟨k, lines, d, some lines.length⟩) k (if mem then d.length else (lostLinesOf s k.block d).length))
  | _ => illFormed

/-! ### RED_DATA (R555, R558) -/

/-- Lines of this device that a result's elements go to. -/
def resultAt (s : State) (k chunk off : Nat) (res : Bool) (bits : List (BitVec 32)) (scales pois : List Nat) : List Nat :=
  match (slotOf s k).dst with
  | some t => if res && t.space == 0 then (resultLines t (dstBase (slotOf s k) chunk + off) bits scales pois).map (·.1) else []
  | none => []

/-- What becomes of the elements of a RED_DATA packet. -/
inductive RedUse where | keep | wait | drop
  deriving DecidableEq, Repr

/-- A result of the instance that runs waits for its CLOSE, without which the destination is left unchanged (R558, R583); a FAILED slot and an
instance that is over take nothing (log 82). -/
def redUse (x : Slot) (inst : Nat) (res : Bool) : RedUse :=
  let known := match x.close with
    | some c => c.inst == inst
    | none => false
  if x.failed then .drop else if !res || known then .keep else if inst = x.exp then .wait else .drop

def redArrive (s : State) (p : Packet) (k inst seg chunk off : Nat) (total : Option Nat) (res : Bool) (bits : List (BitVec 32))
    (scales pois : List Nat) : State :=
  let s0 := takeFrom s p
  let x := slotOf s0 k
  match rankOf x p.src with
  | none => s0
  | some r =>
    let use := redUse x inst res == .keep
    let s1 := if use && res then storeResult s0 k chunk off bits scales pois else s0
    let s2 := if use then addPart s1 k ⟨inst, r, chunk, off, res, bits, scales, pois⟩ else s1
    segArrive s2 ⟨p.src, seg, redBlock k chunk (off / pieceLen)⟩ ((List.range ((bits.length + 15) / 16)).map (· + off % pieceLen / 16)) [] total

def execRedData (p : Packet) (s : State) : Host.Outcome State Fault Refusal :=
  match p.body with
  | .redData k inst seg chunk off total res bits scales pois =>
    .next (match settleFirst s p (resultAt s k chunk off res bits scales pois) true with
      | some t => t
      | none =>
        if (rankOf (slotOf s k) p.src).isSome && redUse (slotOf s k) inst res == .wait then keepPacket s p
        else redArrive s p k inst seg chunk off total res bits scales pois)
  | _ => illFormed

end Sys2Proof.Machine
end

