-- ==== Sys2Proof/Machine/Ring.lean ====
section
/-!
DEFINITION. Command rings (14): doorbells, descriptors, completion records, enabling and disabling, refusals of the host, and the commands
NOP, FENCE and QUERY_COUNTERS.
-/
namespace Sys2Proof.Machine

def ringReg (r : Nat) : Nat := 0x4000 + 32 * r
/-- 2ⁿ slots. -/
def ringSize (x : Ring) : Nat := 2 ^ field64 x.w3 4 0
def ringPresent (r : Nat) : Bool := decide (r < 256)

/-- A ring enters ERROR (R622, R632). -/
def ringError (s : State) (r code : Nat) : State :=
  raiseEvent (setRing s r { ringOf s r with st := .error, err := code, todo := 0 }) 0

/-! ### Set-up (R620, R628) -/

/-- EN goes from 0 to 1: the other fields take effect. In recovery (R649), and while the ring drains or is in ERROR, EN stays 0 and the other fields
are written (log 48). -/
def ringEnable (s : State) (r : Nat) (w3 : BitVec 64) : State :=
  let x := ringOf s r
  let v := (w3 &&& 0x7FFF00000000001F) ||| 0x8000000000000000
  if s.pw.off || !s.bu.cfgReady || !ringPresent r then s
  else if s.bu.state == 6 || x.st != .disabled then
    (if (reg64 s (ringReg r + 24)).getLsbD 63 then s else setReg64 s (ringReg r + 24) (putBit v 63 false))
  else
    let n := field64 v 4 0
    let s1 := setReg64 s (ringReg r + 24) v
    let s2 := setRing s1 r { st := .running, phase := true, descBase := (reg64 s (ringReg r)).toNat, cplBase := (reg64 s (ringReg r + 8)).toNat,
                             dbAddr := (reg64 s (ringReg r + 16)).toNat, w3 := v, restart := true }
    if n < 4 ∨ 16 < n then ringError s2 r 3 else s2

/-- RING_ENABLE (R622). -/
def execRingEnable (ring : Nat) (w3 : BitVec 64) (s : State) : Host.Outcome State Fault Refusal := .next (ringEnable s ring w3)

/-- Held commands of a ring are withdrawn (log 48, log 77). -/
def withdrawHeld (s : State) (r : Nat) : State :=
  let held := (ringCmds s r).filter heldCmd
  let s1 := { s with sh := { s.sh with waiters := s.sh.waiters.filter (fun w => match w.who with
    | .ring q i => !(q == r && held.any (fun m => m.slot == i))
    | _ => true) } }
  held.foldl (fun t m => finishCmd t r m.slot .dataDropped 0) s1

/-- A draining ring without commands is disabled, and leaves its sync domain (R505, R628). -/
def ringDrained (s : State) (r : Nat) : State :=
  if (ringOf s r).st == .draining && inFlight s r == 0 then setRing s r { ringOf s r with st := .disabled, todo := 0, dbHeld := false } else s

/-- EN goes from 1 to 0 (log 48, log 79). -/
def ringDisable (s : State) (r : Nat) : State :=
  let x := ringOf s r
  if s.pw.off || !(x.st == .running || x.st == .error) then s
  else
    let s1 := setReg64 s (ringReg r + 24) (reg64 s (ringReg r + 24) &&& 0x7FFFFFFFFFFFFFFF)
    withdrawHeld (setRing s1 r { x with st := .draining, todo := 0 }) r

/-- RING_DISABLE (R628). -/
def execRingDisable (ring : Nat) (s : State) : Host.Outcome State Fault Refusal := .next (ringDisable s ring)
/-- RING_DRAINED (R628). -/
def execRingDrained (ring : Nat) (s : State) : Host.Outcome State Fault Refusal := .next (ringDrained s ring)

/-! ### What may start (R651, R652, R713, R726) -/

/-- Local bring-up is done (R651). -/
def localUp (s : State) : Bool := s.bu.localDone

/-- The device is in C1, C2 or C3. -/
def idleState (s : State) : Bool := s.pw.st == 1 || s.pw.st == 2 || s.pw.st == 3

/-- A command that needs neither the compute dies nor the stacks: no selector, and work on IO0 alone. -/
def io0Only (d : Line) : Bool :=
  (dOpcode d == 0x01 || dOpcode d == 0x02 || dOpcode d == 0x60 || (dOpcode d == 0x70 && (ptrOf (bytesAt d 8 8)).host)) && !dWaitEn d && !dSetEn d

/-- The debug port has halted the ring's command processor (R700). -/
def ringHalted (s : State) (r : Nat) : Bool := s.sec.zdpHalted.contains (.ringCp r)

/-! ### Doorbells (R622, R623, R728) -/

/-- A snoop takes the doorbell line of every ring whose word lies in it. -/
def doorbellSnoop (s : State) (line : Nat) : State :=
  let hit (x : Ring) : Bool := x.st == .running && x.dbHeld && x.dbAddr / 64 == line
  if s.cm.rings.any (fun e => hit e.2) then
    wakeUp { s with cm := { s.cm with rings := s.cm.rings.map (fun e => (e.1, if hit e.2 then { e.2 with dbHeld := false } else e.2)) } }
  else s

/-- DOORBELL_SNOOP (R623). -/
def execDoorbellSnoop (line : Nat) (s : State) : Host.Outcome State Fault Refusal := .next (doorbellSnoop s line)

/-- The value of a doorbell word: the new descriptors, or an error (R622). -/
def takeDoorbell (s : State) (r : Nat) (v : BitVec 64) : State :=
  let x := ringOf s r
  let n := ringSize x
  let p := field64 v 15 0
  let g := v.getLsbD 16
  if n ≤ p ∨ v.toNat / 2 ^ 17 ≠ 0 then ringError s r 1
  else
    let new : Int := if g == x.cg then (p : Int) - x.ci else (p : Int) + n - x.ci
    if new < 0 ∨ (n : Int) < new then ringError s r 2
    else setRing s r { x with ci := p, cg := g, todo := x.todo + new.toNat }

/-- DOORBELL_READ (R622): the device reads its doorbell line again; `none` is a read that the host refused (log 48). -/
def doorbellRead (s : State) (r : Nat) (v : Option (BitVec 64)) : State :=
  let x := ringOf s r
  if x.st != .running || x.dbHeld || s.pw.off || ringHalted s r then s
  else
    let s1 := bumpIf (!x.restart) (setRing s r { x with dbHeld := true, restart := false }) (cRing r 2) 1
    match v with
    | none => ringError s1 r 4
    | some w => takeDoorbell (bump s1 57 64) r w

def execDoorbellRead (ring : Nat) (value : Option (BitVec 64)) (s : State) : Host.Outcome State Fault Refusal := .next (doorbellRead s ring value)

/-! ### Descriptors (R629 to R632, R652, R726) -/

/-- Back in D0, what was held in an idle state is applied before any descriptor is read (R730). -/
def heldFirst (s : State) : Bool := s.pw.st == 0 && (!s.fb.held.isEmpty || s.sh.flagQ.any (·.late))

/-- DESCRIPTOR_READ: the next descriptor of a ring is read and its command started; in an idle state one that needs more than IO0 wakes the
device (R713, R728) and waits; `none` is a read that the host refused. -/
def descriptorRead (s : State) (r : Nat) (desc : Option Line) : State :=
  let x := ringOf s r
  let own := match desc with
    | some d => io0Only d || headerBad d r
    | none => true
  if x.st != .running || x.todo == 0 || !roomInRing s r || !startsCommands s || ringHalted s r || heldFirst s || !(own || localUp s) then s
  else if idleState s && !own then wakeUp s
  else
    let i := x.fetch
    let s1 := setRing s r { x with todo := x.todo - 1, fetch := (i + 1) % ringSize x }
    match desc with
    | some d => startCmd (bump s1 57 64) r i d false
    | none => ringError (placeCmd s1 r i 0 (.done .dataDropped 0) false) r 4

def execDescriptorRead (ring : Nat) (desc : Option Line) (s : State) : Host.Outcome State Fault Refusal := .next (descriptorRead s ring desc)

/-! ### Completion (R495, R496, R625, R626, R641) -/

/-- The completion record (Table 14.4). -/
def recordOf' (m : Cmd) (st : Status) (info : BitVec 64) (phase : Bool) : Nat :=
  statusCode st + 2 ^ 16 * (dTag m.desc + 2 ^ 16 * (m.slot % 2 ^ 16 + 2 ^ 16 * (dOpcode m.desc + 2 ^ 8 * (if phase then 1 else 0)))) +
  2 ^ 64 * info.toNat

def failed (st : Status) : Bool := decide (0x10 ≤ statusCode st)

/-- The set selector takes effect; a flag already set makes the status FLAG_OVER. -/
def setFlagOf (s : State) (m : Cmd) (st : Status) : State × Status :=
  if dSetEn m.desc && !failed st then
    let r := flagApply s (.chip (dSetSel m.desc)) .set
    (r.1, if r.2.isSome then .flagOver else st)
  else (s, st)

/-- The record goes to the ring's completion index; a record the host refuses is lost and the ring enters ERROR (log 48). -/
def writeCompletion (s : State) (m : Cmd) (st : Status) (info : BitVec 64) : State :=
  let x := ringOf s m.ring
  let a := x.cplBase + 16 * x.cplPi
  let wrap := x.cplPi + 1 == ringSize x
  let s1 := setRing s m.ring { x with cplPi := if wrap then 0 else x.cplPi + 1, phase := if wrap then !x.phase else x.phase }
  if hostRefuses s a 16 then ringError s1 m.ring 5
  else
    let s2 := writeHost s1 a 16 (recordOf' m st info x.phase)
    if dIrq m.desc && x.w3.getLsbD 54 then msixSend s2 (field64 x.w3 53 48) else s2

def dropCmd (s : State) (ring slot : Nat) : State := setCmds s (s.cm.cmds.filter (fun m => !(m.ring == ring && m.slot == slot)))

/-- COMMAND_COMPLETE: a command that is done sets its flag, which waits while its holder rests (R721, R728), writes its record and is no longer in
progress. A replayed one writes no
record (R600). -/
def commandComplete (s : State) (ring slot : Nat) : State :=
  match cmdOf s ring slot with
  | none => s
  | some m =>
    match m.phase with
    | .done st0 info =>
      if dSetEn m.desc && !failed st0 && blockRests s (holderBlock (.chip (dSetSel m.desc))) then wakeUp s else
      let r := setFlagOf s m st0
      let st := r.2
      let s1 := dropReads (dropCmd r.1 ring slot) ring slot
      if m.replayed then settleReplay (pumpReplay (noteReplayed s1 slot st))
      else bumpIf (failed st) (bump (writeCompletion s1 m st info) (cRing ring 0) 1) (cRing ring 1) 1
    | _ => s

def execCommandComplete (ring slot : Nat) (s : State) : Host.Outcome State Fault Refusal := .next (commandComplete s ring slot)

/-! ### NOP and FENCE (R631, R633) -/

def execNop (ring slot : Nat) (s : State) : Host.Outcome State Fault Refusal :=
  .next (withCmd s ring slot 0x01 (fun d => checked s ring slot [(!bodyOk d [], .format)] (finishCmd s ring slot .ok 0)))

/-- An earlier command of the ring has not completed. -/
def earlierInRing (s : State) (ring slot : Nat) : Bool :=
  match cmdOf s ring slot with
  | some m => (ringCmds s ring).any (fun q => decide (q.order < m.order))
  | none => false

def execFence (ring slot : Nat) (s : State) : Host.Outcome State Fault Refusal :=
  .next (withCmd s ring slot 0x02 (fun d => checked s ring slot [(!bodyOk d [], .format)]
    (if earlierInRing s ring slot then s else finishCmd s ring slot .ok 0)))

/-! ### QUERY_COUNTERS (R638, R772) -/

def qcFirst (d : Line) : Nat := bytesAt d 16 4
def qcCount (d : Line) : Nat := bytesAt d 20 4
def qcLen (d : Line) : Nat := bytesAt d 24 4
def qcClear (d : Line) : Bool := fld d 28 0 1 == 1
/-- The counter map ends here (R771). -/
def mapEnd : Nat := 0xA800

/-- Lines that take 8 bytes for each counter. -/
def qcLines (s : State) (d : Line) : List (Nat × LineW) :=
  (List.range (qcCount d)).foldl (fun t i => putBits t (8 * ((ptrOf (bytesAt d 8 8)).addr + 8 * i)) 64 (counter s (qcFirst d + i)) false) ([] : Table LineW)

def clearCounters (s : State) (a n : Nat) : State :=
  { s with cm := { s.cm with counters := tclear s.cm.counters (fun k => decide (a ≤ k) && decide (k < a + n)) } }

def queryCounters (s : State) (ring slot : Nat) (d : Line) : State :=
  let p := bytesAt d 8 8
  checked s ring slot
    [(!bodyOk d [(8, 0, 64), (16, 0, 32), (20, 0, 32), (24, 0, 32), (28, 0, 1)] || ptrSpaceBad p, .format),
     (decide (qcLen d < 8 * qcCount d) || decide (mapEnd < qcFirst d + qcCount d) || ptrRangeBad p (qcLen d), .range)]
    (let l := qcLines s d
     if (ptrOf p).host && hostRefuses s (ptrOf p).addr (8 * qcCount d) then setPhase s ring slot (.busy 7)
     else if !(ptrOf p).host && !(heldByHost s (l.map (·.1))).isEmpty then recallFromHost s (heldByHost s (l.map (·.1)))
     else if !(ptrOf p).host && anyCopy s ((l.map (fun e => blockOfLine e.1)).eraseDups) then s
     else
       let s1 := if qcClear d then clearCounters s (qcFirst d) (qcCount d) else s
       let s2 := if (ptrOf p).host then hostLinesW s1 l else writeLinesW s1 l
       finishCmd s2 ring slot .ok (BitVec.ofNat 64 (qcCount d)))

/-- QUERY_COUNTERS (R638) (log 11, log 32, log 78). -/
def execQueryCounters (ring slot : Nat) (s : State) : Host.Outcome State Fault Refusal := .next (withCmd s ring slot 0x70 (queryCounters s ring slot))

/-! ### A host that refuses (R632) -/

/-- A line not yet written when the refusal is seen may have been in flight: which ones are written is open (log 10). -/
def inTime (s : State) (l : Nat) : Bool := Config.writtenBefore s.freeIx l

/-- Host lines that are written before the refusal is seen. -/
def hostInTime (s : State) (l : List (Nat × LineW)) : List (Nat × LineW) := l.filter (fun e => !hostRefuses s (64 * e.1) 64 && inTime s e.1)

/-- A source line of a copy is refused. -/
def copyRefused (s : State) (c : Copy) : Bool := c.src.space == 1 && (elemLines c.src c.si).any (fun l => hostRefuses s (64 * l) 64)

/-- Destination lines that are not written. -/
def lostLine (s : State) (j : MoveJob) (l : Nat) : Bool :=
  !inTime s l || (j.dst.space == 1 && hostRefuses s (64 * l) 64) ||
  j.copies.any (fun c => copyRefused s c && (writtenLines j.dst c.di).contains l)

def deadLine : LineW := ⟨BitVec.allOnes 512, 0, true⟩

/-- What a refused command has read and how far its narrow accesses went, as far as its lines were written (Table 09.10). -/
def countRefused (s : State) (j : MoveJob) : State :=
  let q := { j with copies := j.copies.filter (fun c => !(writtenLines j.dst c.di).any (lostLine s j)),
                    pads := j.pads.filter (fun i => !(writtenLines j.dst i).any (lostLine s j)), narrow := j.narrow.filter (fun x => inTime s (lineOf x.addr)) }
  countMove s q

/-- Destination lines not written are zeroed and poisoned in a device's range (R421, R632). -/
def deadLines (s : State) (j : MoveJob) (l : List Nat) : State :=
  let w := l.map (fun x => (x, deadLine))
  if j.dst.space = 1 then s
  else
    let s1 := bumpIf (!l.isEmpty) s 13 l.length
    if j.dst.space = 2 then remoteWriteAll s1 (.cmd j.ring j.slot) j.dst.dev (w.map (fun e => (e.1, 0, true))) else writeLinesW s1 w

/-- A mover command that the host refuses: lines written stay, device lines not written are zeroed and poisoned (R421, R632). -/
def refuseJob (s : State) (j : MoveJob) : State :=
  let s0 := countRefused (translateAll (markCmd (nextFree s) j.ring j.slot true false) j) j
  let rb := readBuf s j.ring j.slot
  let l := j.copies.map (readCopy s rb j.lossy)
  if j.red then
    let ls := (j.copies.map (fun c => elemBitN j.dst c.di / 512)).eraseDups
    let live := ls.filter (fun x => !lostLine s j x)
    let n := (j.copies.filter (fun c => live.contains (elemBitN j.dst c.di / 512))).length
    let s1 := redLines j.dst l live (bump s0 8 (n * fmtBits j.dst.fmt / 8))
    settleRemote (deadLines s1 j (ls.filter (lostLine s j))) j.ring j.slot
  else
    let x := moveLines s0 j (stepOf s j.ring j.slot) l
    let live := x.2.filter (fun e => !lostLine s j e.1)
    let s1 := emitLines (grinderRecall x.1 j live) j.ring j.slot j.dst rb (lostDst s j) live
    settleRemote (deadLines s1 j ((x.2.filter (fun e => lostLine s j e.1)).map (·.1))) j.ring j.slot

/-- A view's MOVE to host memory that the host refuses: what the drain formed counts, its regions are cleared, and the command ends (R276, log 83). -/
def refuseView (s : State) (ring slot : Nat) (d : Line) (j : MoveJob) : State :=
  let v := viewOf d
  let x := viewTable s v j.dst []
  let live := hostInTime s x.1
  let s1 := drainTell (drainReads (markCmd (nextFree s) ring slot true false) v j.dst) ring slot v x.2
  finishMove (emitLines s1 ring slot j.dst [] [] live) ring slot

/-- A sheet's host copy that the host refuses. -/
def refuseSheet (s : State) (ring slot : Nat) : State :=
  let seq := (s.tr.sheetSeq + 1) % 2 ^ 32
  let b := sheetBytes s (stepOf s ring slot) seq
  let a := csHostAddr s + csOffset s (seq % 2)
  finishCmd (hostLinesW (nextFree s) (hostInTime s (asWrites (bytesLines ((a + b.1.len) / 64) b.2.1)))) ring slot .dataDropped 0

/-- HOST_ACCESS_REFUSED (R632): a command whose host access is refused (stage 7) ends with DATA_DROPPED. A copy that began after stage 7 holds
its writes: the row acts again after the COMMIT (R357, R420) (log 34). -/
def hostAccessRefused (s : State) (ring slot : Nat) : State :=
  match cmdOf s ring slot with
  | none => s
  | some m =>
    let d := m.desc
    if m.phase != .busy 7 then s
    else if dOpcode d = 0x43 then refuseSheet s ring slot
    else if dOpcode d = 0x70 then finishCmd (hostLinesW (nextFree s) (hostInTime s (qcLines s d))) ring slot .dataDropped 0
    else match jobOf s ring slot with
      | none => finishCmd s ring slot .dataDropped 0
      | some j =>
        if dOpcode d = 0x20 ∧ mvView d = true then refuseView s ring slot d j
        else if anyCopy s (srcBlocks j ++ dstBlocks j) then s
        else refuseJob s j

def execHostAccessRefused (ring slot : Nat) (s : State) : Host.Outcome State Fault Refusal := .next (hostAccessRefused s ring slot)

end Sys2Proof.Machine
end

