-- ==== Sys2Proof/Machine/Insert.lean ====
section
/-!
DEFINITION. Program images (R200, R201) and the STOPs that LOAD_PROGRAM inserts (R705, R706).
-/
namespace Sys2Proof.Machine

/-! ### The image header (Table 04.18) -/

structure ImgHdr where
  (version flags aBase aSize xBase xSize aEntry xEntry : Nat)
  deriving DecidableEq, Repr

def hdrOf (v : Nat) : ImgHdr :=
  let f (i : Nat) : Nat := v / 2 ^ (16 * i) % 2 ^ 16
  ⟨f 0, f 1, f 2, f 3, f 4, f 5, f 6, f 7⟩

def apart (a n b m : Nat) : Bool := decide (a + n ≤ b) || decide (b + m ≤ a)

/-- The conditions of R201 on a header at `h`, but for the alignment of `h`. -/
def hdrOk (h : Nat) (i : ImgHdr) : Bool :=
  i.version == 1 && i.flags == 0 && [i.aBase, i.aSize, i.xBase, i.xSize, i.aEntry, i.xEntry].all (fun x => x % 2 == 0) &&
  decide (2 ≤ i.aSize) && decide (2 ≤ i.xSize) && decide (i.aEntry < i.aSize) && decide (i.xEntry < i.xSize) &&
  decide (i.aBase + i.aSize ≤ 65536) && decide (i.xBase + i.xSize ≤ 65536) &&
  apart i.aBase i.aSize i.xBase i.xSize && apart i.aBase i.aSize h 16 && apart i.xBase i.xSize h 16

/-! ### CFG_STOP_CTL and CFG_STOP_INSERT (Table 16.14) -/

def stopCtl (s : State) : BitVec 64 := reg64 s 0x70
def insertEn (s : State) : Bool := (stopCtl s).getLsbD 63
def dumpEn (s : State) : Bool := (stopCtl s).getLsbD 62
def stopHold (s : State) : Bool := (stopCtl s).getLsbD 61
def dumpTiles (s : State) : Bool := (stopCtl s).getLsbD 60

/-- A STOP to insert: its STOPID and the address of the bundle it goes before. -/
structure StopAt where
  (id src : Nat)
  deriving DecidableEq, Repr

/-- The enabled entries of a stream, in order (log 51). -/
def stopEntries (s : State) (x : Bool) : List StopAt :=
  ((List.range 16).map (fun k => reg32 s (0x80 + 4 * k))).filterMap (fun w =>
    if w.getLsbD 31 && w.getLsbD 30 == x then some ⟨w.toNat / 2 ^ 16 % 2 ^ 14, w.toNat % 2 ^ 16⟩ else none)

/-! ### A region with STOPs inserted -/

/-- Bytes `n` from store address `a` of an image loaded at `dest`. -/
def imgAt (v dest a n : Nat) : Nat := bslice v (a - dest) n

/-- The bundles of a region, by address. A bundle's length follows from its SLOTS mask. -/
def bundlesFrom (v dest stop : Nat) : Nat → Nat → List (Nat × Nat)
  | 0, _ => []
  | k + 1, a =>
    if stop ≤ a then []
    else
      let n := min (bundleLen (BitVec.ofNat 16 (imgAt v dest a 2))) (stop - a)
      (a, n) :: bundlesFrom v dest stop k (a + n)

/-- Where a branch to `t` goes: to the first STOP before the bundle there, in a region that moves from `base` to `new`. -/
def newAddr (l : List StopAt) (base new : Int) (t : Int) : Int := new + (t - base) + 6 * ((l.filter (fun e => decide ((e.src : Int) < t))).length : Int)
def stopsAt (l : List StopAt) (a : Nat) : List StopAt := l.filter (fun e => e.src == a)
/-- Where the bundle at `a` itself goes. -/
def newBundle (l : List StopAt) (base new : Int) (a : Nat) : Int := newAddr l base new a + 6 * ((stopsAt l a).length : Int)

/-- The slot is a branch with a 16-bit OFF. -/
def isBranch (i : Nat) (w : Word) : Bool :=
  if i = 0 then match (decScalar w).1 with
    | some (.bc _) => true
    | some (.jmp _) => true
    | _ => false
  else if i = 3 then match (decAccess w).1 with
    | some (.bra _) => true
    | some (.jmpa _) => true
    | _ => false
  else if i = 4 then match (decSync w).1 with
    | some (.brx _) => true
    | _ => false
  else false

/-- A branch slot with its OFF corrected; none when it does not fit. -/
def fixSlot (l : List StopAt) (base new : Int) (a i : Nat) (w : Word) : Option Nat :=
  if isBranch i w then
    let off := (newAddr l base new ((a : Int) + 2 * sgnOf 16 (w.toNat % 2 ^ 16)) - newBundle l base new a) / 2
    if off < -32768 ∨ 32767 < off then none else some (w.toNat / 2 ^ 16 * 2 ^ 16 + (off % 65536).toNat)
  else some w.toNat

/-- Header and slots of a bundle, with its branches corrected. -/
def fixBundle (l : List StopAt) (v dest : Nat) (base new : Int) (a n : Nat) : Option Bytes :=
  let h := BitVec.ofNat 16 (imgAt v dest a 2)
  if n < bundleLen h then some ⟨n, imgAt v dest a n⟩
  else
    match ((List.range 5).filter (fun i => h.getLsbD i)).mapM (fun i => fixSlot l base new a i (BitVec.ofNat 32 (imgAt v dest (a + slotAt h i) 4))) with
    | none => none
    | some ws => some (bjoin (bnat 2 h.toNat :: ws.map (bnat 4)))

/-- The 6-byte STOP bundle (R705). -/
def stopBundle (e : StopAt) : Bytes := bcat (bnat 2 0x30) (bnat 4 (0x40000000 + e.id * 2 ^ 10))

/-- The bundle at `a` holds a STOP of the program's own. -/
def ownStop (v dest a : Nat) : Bool :=
  let h := BitVec.ofNat 16 (imgAt v dest a 2)
  h.getLsbD 4 && match (decSync (BitVec.ofNat 32 (imgAt v dest (a + slotAt h 4) 4))).1 with
    | some (.stop _) => true
    | _ => false

/-- A region rewritten at `new`, with where its STOPs stand, inserted or its own, and their addresses in the image as loaded. -/
def fixRegion (l : List StopAt) (v dest base size new : Nat) : Option (Bytes × List (Nat × Nat)) :=
  let bs := bundlesFrom v dest (base + size) size base
  match bs.mapM (fun b => fixBundle l v dest base new b.1 b.2) with
  | none => none
  | some out =>
    let body := bjoin ((bs.zip out).map (fun x => bcat (bjoin ((stopsAt l x.1.1).map stopBundle)) x.2))
    let marks := bs.flatMap (fun b => (List.range ((stopsAt l b.1).length + if ownStop v dest b.1 then 1 else 0)).map (fun i =>
      ((newAddr l base new b.1).toNat + 6 * i, b.1)))
    some (body, marks)

/-- What LOAD_PROGRAM puts into each program store: bytes by address, and where its STOPs came from. -/
structure Loaded where
  (parts : List (Nat × Bytes)) (marks : List (Nat × Nat))
  deriving DecidableEq, Repr

/-- Regions of the image lie within its bytes. -/
def regionsInside (dest len : Nat) (i : ImgHdr) : Bool :=
  decide (dest ≤ i.aBase) && decide (i.aBase + i.aSize ≤ dest + len) && decide (dest ≤ i.xBase) && decide (i.xBase + i.xSize ≤ dest + len)

/-- The image with its STOPs (R705), or why it is rejected (R706) (log 51). -/
def insertStops (s : State) (v dest len : Nat) : Except Status Loaded :=
  let i := hdrOf v
  if len < 16 ∨ hdrOk dest i = false ∨ regionsInside dest len i = false then .error .format
  else
    let la := stopEntries s false
    let lx := stopEntries s true
    let starts (base size : Nat) : List Nat := (bundlesFrom v dest (base + size) size base).map (·.1)
    if la.any (fun e => !(starts i.aBase i.aSize).contains e.src) || lx.any (fun e => !(starts i.xBase i.xSize).contains e.src) then .error .format
    else
      let na := dest + 16
      let sa := i.aSize + 6 * la.length
      let nx := (na + sa + 15) / 16 * 16
      let sx := i.xSize + 6 * lx.length
      if 65536 < nx + sx then .error .range
      else match fixRegion la v dest i.aBase i.aSize na, fixRegion lx v dest i.xBase i.xSize nx with
        | some a, some x =>
          let ea := (newAddr la i.aBase na (i.aBase + i.aEntry : Nat) - na).toNat
          let ex := (newAddr lx i.xBase nx (i.xBase + i.xEntry : Nat) - nx).toNat
          .ok ⟨[(dest, bjoin ([1, 0, na, sa, nx, sx, ea, ex].map (bnat 2))), (na, a.1), (nx, x.1)], a.2 ++ x.2⟩
        | _, _ => .error .range

end Sys2Proof.Machine
end

