-- ==== Sys2Proof/Machine/Launch.lean ====
section
/-!
DEFINITION. Programs and runs (14, 08): LOAD_PROGRAM, LAUNCH with its work map, the start and the completion of a run, and stopped
cores (R191, R707).
-/
namespace Sys2Proof.Machine

/-! ### LOAD_PROGRAM (R634) -/

def lpLen (d : Line) : Nat := bytesAt d 16 4
def lpDest (d : Line) : Nat := bytesAt d 20 2
def lpFirst (d : Line) : Nat := bytesAt d 24 2
def lpCount (d : Line) : Nat := bytesAt d 26 2
def lpAll (d : Line) : Bool := fld d 28 0 1 == 1
def lpCores (s : State) (d : Line) : List Nat := if lpAll d then presentCores s else (List.range (lpCount d)).map (fun i => lpFirst d + i)

/-- Header and regions of the program that runs on a core. -/
def runSpans (s : State) (c : Nat) : List (Nat × Nat) :=
  let k := coreOf s c
  match k.run with
  | some r =>
    (match cmdOf s r.ring r.slot with
     | some m => [(bytesAt m.desc 8 2, 16)]
     | none => []) ++ [(k.ae.base, k.ae.size), (k.xe.base, k.xe.size)]
  | none => []

/-- The written bytes meet a running program (R202) (log 49). -/
def loadMeets (s : State) (cores : List Nat) (parts : List (Nat × Nat)) : Bool :=
  cores.any (fun c => (runSpans s c).any (fun q => parts.any (fun p => decide (0 < p.2) && spansMeet p q)))

def putParts (t : Table Byte) (l : List (Nat × Bytes)) : Table Byte := l.foldl (fun t p => writeN t p.1 p.2.len p.2.val) t

/-- An image enters a core's program store; what stood at the written addresses before is forgotten. -/
def loadCore (x : Loaded) (s : State) (c : Nat) : State :=
  updCore s c (fun k => { k with
    store := putParts k.store x.parts,
    stopSrc := x.marks.foldl (fun t m => tset id t m.1 m.2)
      (tclear k.stopSrc (fun a => x.parts.any (fun p => decide (p.1 ≤ a) && decide (a < p.1 + p.2.len)))) })

def finishLoad (s : State) (ring slot : Nat) (d : Line) (x : Loaded) : State :=
  if loadMeets s (lpCores s d) (x.parts.map (fun p => (p.1, p.2.len))) then finishCmd s ring slot .alias_ 0
  else finishCmd ((lpCores s d).foldl (loadCore x) s) ring slot .ok 0

def loadProgram (s : State) (ring slot : Nat) (d : Line) : State :=
  let p := bytesAt d 8 8
  let n := lpLen d
  checked s ring slot
    [(!bodyOk d [(8, 0, 64), (16, 0, 32), (20, 0, 16), (24, 0, 16), (26, 0, 16), (28, 0, 1)] || ptrSpaceBad p || lpDest d % 16 != 0 || n % 16 != 0 ||
      (lpAll d && (lpFirst d != 0 || lpCount d != 0)), .format),
     (decide (65536 < lpDest d + n) || ptrRangeBad p n, .range),
     ((lpCores s d).any (fun c => !present s c), .absent)]
    (let held := if (ptrOf p).host then [] else heldByHost s (linesOf (ptrOf p).addr n)
     if !held.isEmpty then recallFromHost s held
     else if insertEn s && mgmtHalted s then s
     else if !insertEn s && loadMeets s (lpCores s d) [(lpDest d, n)] then finishCmd s ring slot .alias_ 0
     else match structAt s p n with
       | .error e => finishCmd s ring slot e 0
       | .ok v =>
         let s1 := countRead s (ptrSpace p) n
         if insertEn s then
           match insertStops s v (lpDest d) n with
           | .error e => finishCmd s1 ring slot e 0
           | .ok x => finishLoad s1 ring slot d x
         else finishLoad s1 ring slot d ⟨[(lpDest d, ⟨n, v⟩)], []⟩)

/-- LOAD_PROGRAM (R634, R705, R706): firmware inserts STOPs, and so waits while it is halted (R701). -/
def execLoadProgram (ring slot : Nat) (s : State) : Host.Outcome State Fault Refusal := .next (withCmd s ring slot 0x10 (loadProgram s ring slot))

/-! ### LAUNCH (R635, R366) -/

def lnHdr (d : Line) : Nat := bytesAt d 8 2
def lnGrid (d : Line) : Nat := bytesAt d 10 2
def lnMode (d : Line) : Nat := fld d 12 0 2
def lnDomEn (d : Line) : Bool := fld d 12 2 1 == 1
def lnDomain (d : Line) : Nat := fld d 13 0 6
def lnMap (d : Line) : Nat := bytesAt d 16 8
def lnAff (d : Line) : Nat := bytesAt d 24 8
def lnAffBytes (d : Line) : Nat := bytesAt d 32 4
def lnSeed (d : Line) : Nat := bytesAt d 40 8
def lnArg (d : Line) : Nat := fld d 48 0 40
def lnFields : List (Nat × Nat × Nat) :=
  [(8, 0, 16), (10, 0, 16), (12, 0, 3), (13, 0, 6), (16, 0, 64), (24, 0, 64), (32, 0, 32), (40, 0, 64), (48, 0, 40)]

def isReplayed (s : State) (ring slot : Nat) : Bool :=
  match cmdOf s ring slot with
  | some m => m.replayed
  | none => false

/-- The map is read from MAP_ADDR: GIVEN, and a replayed CHOOSE, which runs with its first map (R368). -/
def mapGiven (s : State) (ring slot : Nat) (d : Line) : Bool := lnMode d == 1 || (lnMode d == 0 && isReplayed s ring slot)

def setMap (s : State) (ring slot : Nat) (l : List Nat) : State :=
  setCmds s (s.cm.cmds.map (fun m => if m.ring == ring && m.slot == slot then { m with map := l } else m))

/-- A LAUNCH with a map waits for its cores (stage 13). -/
def awaitCores (s : State) (ring slot : Nat) (l : List Nat) : State := setPhase (setMap s ring slot l) ring slot (.busy 13)

/-- The checks of the cores a map names. -/
def takeMap (s : State) (ring slot : Nat) (l : List Nat) : State :=
  checked s ring slot [(l.any (fun c => !present s c), .absent), (hasDup l, .alias_)] (awaitCores s ring slot l)

def launch (s : State) (ring slot : Nat) (d : Line) : State :=
  let g := lnGrid d
  let m := lnMode d
  checked s ring slot
    [(!bodyOk d lnFields, .format),
     (g == 0 || decide ((presentCores s).length < g) || (decide (m < 2) && (lnMap d % 2 != 0 || !inRange40 (lnMap d) (2 * g))) ||
      (m == 0 && !inRange40 (lnAff d) (g * lnAffBytes d)), .range),
     (m == 3, .format)]
    (if mapGiven s ring slot d then
       let held := heldByHost s (linesOf (lnMap d) (2 * g))
       if !held.isEmpty then recallFromHost s held
       else match structFault s false (lnMap d) (2 * g) with
         | some e => finishCmd s ring slot e 0
         | none => takeMap s ring slot (unpackBits 16 g (readBytes s (lnMap d) (2 * g)))
     else if m = 2 then takeMap s ring slot (List.range g)
     else awaitCores s ring slot [])

/-- LAUNCH (R366, R635): its checks, without waiting for cores. -/
def execLaunch (ring slot : Nat) (s : State) : Host.Outcome State Fault Refusal := .next (withCmd s ring slot 0x11 (launch s ring slot))

/-! #### The planner's map (R367) -/

def coreFree (s : State) (c : Nat) : Bool := (coreOf s c).run.isNone
def freeCores (s : State) : List Nat := (presentCores s).filter (coreFree s)

/-- Bytes of `n` bytes from `a` whose block's home satisfies `p`. -/
def bytesHomed (s : State) (a n : Nat) (p : Home → Bool) : Nat :=
  ((blocksOf a n).filter (fun b => p (dirOf s b).home)).foldl (fun t b => t + (min (a + n) (65536 * (b + 1)) - max a (65536 * b))) 0

def insertQ (w : Nat → Nat) (q : Nat) : List Nat → List Nat
  | [] => [q]
  | r :: t => if w r < w q then q :: r :: t else r :: insertQ w q t

/-- The core that choose() of R367 gives tile `t` among the free ones (log 49). -/
def chooseCore (s : State) (a n t : Nat) (free : List Nat) : Option Nat :=
  let inLs (c : Nat) (h : Home) : Bool := match h with
    | .ls k _ => k == c
    | _ => false
  match free.find? (fun c => decide (0 < n) && decide (n ≤ 2 * bytesHomed s a n (inLs c))) with
  | some c => some c
  | none =>
    let w (q : Nat) : Nat := bytesHomed s a n (fun h => inQuad s h q)
    let order := [t % 4, (t + 1) % 4, (t + 2) % 4, (t + 3) % 4].foldl (fun l q => insertQ w q l) []
    order.findSome? (fun q => free.find? (fun c => coreQuad s c == q))

/-- Tiles in ascending order, each to a core not given away (log 49). -/
def chooseMap (s : State) (d : Line) : List Nat → List Nat → List Nat
  | [], _ => []
  | t :: ts, free =>
    match chooseCore s (lnAff d + t * lnAffBytes d) (lnAffBytes d) t free with
    | some c => c :: chooseMap s d ts (free.erase c)
    | none => []

/-! #### Starting the cores -/

/-- Requests of an earlier run that still hold slots: a prefetch goes on, the rest is orphaned. -/
def oldReqs (k : Core) : List Req := (k.reqs.filter holdsSlot).map (fun r => if r.kind == .pf then r else { r with orphan := true })

/-- A core at the start of a run (R68, R120, R140, R141, R173, R203, R210, R475, R769). Store, flags from f64 on, WGB, translations and
counters stay. A flag operation posted in an earlier run whose stores were never performed never takes effect (R114). -/
def freshCore (k : Core) (ra : BitVec 32) : Core :=
  { k with a := [], sr := [], pr := 0, v := [], lq := [], sq := [], fillNext := k.sqNext, brx := [], brxHead := k.brxHead + k.brx.length,
           predictor := [], reqs := oldReqs k, heldFault := none, flags := progFlags k.flags, posVec := 0, posDrain := 0, posWgb := 0,
           tiles := [], acc := [], mops := [], coll := [], runahead := ra, faultBlock := none, faults := [], stopReported := false,
           posted := [], unacked := k.unacked - k.posted.length, rep := none, twin := false }

/-- Core `c` starts tile `t` (R635). -/
def startCore (d : Line) (ring slot : Nat) (s : State) (t c : Nat) : State :=
  updCore s c (fun k0 =>
    let i := hdrOf (readN k0.store (lnHdr d) 16)
    let k := freshCore k0 (reg32 s 0x100)
    let w (n : Nat) : Word := BitVec.ofNat 32 n
    let k1 := setS (setS (setS (setS k 0 (w t)) 1 (w (lnGrid d))) 2 (w (lnArg d))) 3 (w (lnArg d / 2 ^ 32))
    let k2 := setA (setA k1 0 (BitVec.ofNat 48 t)) 1 (BitVec.ofNat 48 (lnArg d))
    { k2 with seed := BitVec.ofNat 64 (lnSeed d + t),
              ae := { st := .running, pc := i.aBase + i.aEntry, base := i.aBase, size := i.aSize },
              xe := { st := .running, pc := i.xBase + i.xEntry, base := i.xBase, size := i.xSize },
              run := some { ring := ring, slot := slot, tile := t, domain := if lnDomEn d then some (lnDomain d) else none, poisonSeen := false } })

def startTiles (d : Line) (ring slot : Nat) (s : State) : List (Nat × Nat) → State
  | [] => s
  | (t, c) :: l => startTiles d ring slot (startCore d ring slot s t c) l

/-- The image is good in a core's store (R201). -/
def imageOk (s : State) (d : Line) (c : Nat) : Bool := lnHdr d % 16 == 0 && hdrOk (lnHdr d) (hdrOf (readN (coreOf s c).store (lnHdr d) 16))

def mapLines (d : Line) (l : List Nat) : List (Nat × LineW) :=
  (l.foldl (fun (x : Table LineW × Nat) c => (putBits x.1 (8 * (lnMap d + 2 * x.2)) 16 c false, x.2 + 1)) (([] : Table LineW), 0)).1

/-- A LAUNCH whose cores are free: the image checks, the map, the start. While a core of it rests it is held (R721). -/
def startRun (s : State) (ring slot : Nat) (d : Line) (l : List Nat) (write : Bool) : State :=
  let ls := if write then mapLines d l else []
  if l.any (blockRests s) then wakeUp s
  else if l.any (fun c => !imageOk s d c) then finishCmd s ring slot .range 0
  else if !(heldByHost s (ls.map (·.1))).isEmpty then recallFromHost s (heldByHost s (ls.map (·.1)))
  else if anyCopy s ((ls.map (fun e => blockOfLine e.1)).eraseDups) then s
  else
    let s1 := setPhase (setMap (writeLinesW s ls) ring slot l) ring slot (.busy 8)
    startTiles d ring slot s1 ((List.range l.length).zip l)

/-- LAUNCH_CORES_START (R367, R635): under CHOOSE the planner forms the map, unless it is halted (R701). -/
def coresStart (s : State) (ring slot : Nat) (d : Line) : State :=
  match cmdOf s ring slot with
  | none => s
  | some m =>
    if lnMode d = 0 ∧ m.replayed = false then
      if (freeCores s).length < lnGrid d ∨ mgmtHalted s = true then s else startRun s ring slot d (chooseMap s d (List.range (lnGrid d)) (freeCores s)) true
    else if m.map.all (coreFree s) then startRun s ring slot d m.map false else s

def execLaunchCoresStart (ring slot : Nat) (s : State) : Host.Outcome State Fault Refusal :=
  .next (withBusy s ring slot 0x11 13 (coresStart s ring slot))

/-! ### Completion (R636, R199, R603) -/

def runOn (s : State) (ring slot c : Nat) : Option Run :=
  match (coreOf s c).run with
  | some r => if r.ring = ring ∧ r.slot = slot then some r else none
  | none => none

/-- The status that a cause code carries (Table 04.17). -/
def codeStatus (n : Nat) : Status :=
  if n < 0x10 then .format else if n < 0x18 then .range else if n < 0x20 then .shape else if n < 0x28 then .page else if n < 0x30 then .absent
  else if n = 0x30 then .flagOver else .flagUnder

/-- The fault record of a core: the X-stream entry when it is filled, else that of the A-stream (R199). -/
def coreFault (k : Core) : Option (Bool × BitVec 64) :=
  if k.xe.frec.getLsbD 63 then some (true, k.xe.frec) else if k.ae.frec.getLsbD 63 then some (false, k.ae.frec) else none

def faultInfo (t c : Nat) (f : Bool × BitVec 64) : Nat :=
  t + 2 ^ 16 * (c + 2 ^ 10 * ((if f.1 then 1 else 0) + 2 * (field64 f.2 34 32 + 8 * (field64 f.2 15 8 + 2 ^ 8 * field64 f.2 31 16))))

/-- The faulted tile with the lowest index. -/
def firstFaulted (s : State) (l : List (Nat × Nat)) : Option (Nat × Nat × (Bool × BitVec 64)) :=
  l.findSome? (fun x => match coreFault (coreOf s x.2) with
    | some f => some (x.1, x.2, f)
    | none => none)

def wasStalled (k : Core) : Bool := k.ae.st == .stalled || k.xe.st == .stalled
def sawPoison (k : Core) : Bool :=
  match k.run with
  | some r => r.poisonSeen
  | none => false

def launchStatus (s : State) (l : List (Nat × Nat)) : Status × Nat :=
  match firstFaulted s l with
  | some f => (codeStatus (field64 f.2.2.2 15 8), faultInfo f.1 f.2.1 f.2.2)
  | none =>
    if l.any (fun x => wasStalled (coreOf s x.2)) then (.stall, 0)
    else if l.any (fun x => sawPoison (coreOf s x.2)) then (.poisonSkip, 0)
    else (.ok, 0)

def runOver (s : State) (ring slot c : Nat) : Bool :=
  match runOn s ring slot c with
  | some r => r.complete
  | none => false

def freeCore (s : State) (c : Nat) : State :=
  updCore s c (fun k => { k with run := none, ae := { k.ae with st := .idle, hold := .none }, xe := { k.xe with st := .idle, hold := .none } })

/-- LAUNCH_COMPLETE (R636): every core of the map has completed its run. -/
def launchComplete (s : State) (ring slot : Nat) : State :=
  match cmdOf s ring slot with
  | none => s
  | some m =>
    if m.map.all (runOver s ring slot) then
      let r := launchStatus s ((List.range m.map.length).zip m.map)
      finishCmd (m.map.foldl freeCore s) ring slot r.1 (BitVec.ofNat 64 r.2)
    else s

def execLaunchComplete (ring slot : Nat) (s : State) : Host.Outcome State Fault Refusal :=
  .next (withBusy s ring slot 0x11 8 (fun _ => launchComplete s ring slot))

/-! ### Stopped cores (R191 to R193, R701, R707) -/

def stopId (e : Engine) : Nat :=
  match e.st with
  | .stopped i => i.toNat
  | _ => 0
def stopReason (e : Engine) : Nat :=
  match e.st with
  | .ended => 1
  | .faulted => 2
  | _ => 0
def atStop (e : Engine) : Bool :=
  match e.st with
  | .stopped _ => true
  | _ => false
/-- Address of the bundle a stream stopped at. -/
def stopAddr (e : Engine) : Nat := if e.st == .faulted then field64 e.frec 31 16 else e.last

def tstateCode : TState → Nat
  | .empty => 0 | .loading => 1 | .writing => 2 | .draining => 3 | .full => 4

def tileWord (t : Tile) : Nat :=
  let b (x : Bool) : Nat := if x then 1 else 0
  tstateCode t.st + 2 ^ 3 * (t.fmt % 16) + 2 ^ 7 * (t.bsh % 4) + 2 ^ 9 * b t.trans + 2 ^ 10 * b t.poison + 2 ^ 11 * b t.spec + 2 ^ 12 * t.mask.toNat

/-- A row holds what was written to it since its tile was EMPTY; what it held before is not defined (R210). -/
def rowDefined (x : Tile) (r : Nat) : Bool :=
  match x.st with
  | .empty | .draining => false
  | .loading => if x.trans then x.mask == 0xFFFF else x.mask.getLsbD r
  | .writing => x.mask.getLsbD r
  | .full => true

/-- A row of a tile; one that is not defined is a free value (R210) (log 51). -/
def dumpRow (s : State) (t : Nat) (x : Tile) (r : Nat) : Nat :=
  (if rowDefined x r then tget zeroL x.rows r else Config.emptyTile s.freeIx t r).toNat

/-- The stop record (Table 16.11) (log 51). -/
def stopRecord (s : State) (c : Nat) : Bytes :=
  let k := coreOf s c
  let src (e : Engine) : Nat := if atStop e then tget id k.stopSrc (stopAddr e) else 0
  let head := bjoin ([s.sec.seq % 2 ^ 32].map (bnat 4) ++ [c, 0, stopId k.ae, stopId k.xe, stopAddr k.ae, stopAddr k.xe, src k.ae, src k.xe].map (bnat 2) ++
    [bnat 1 (stopReason k.ae + 4 * stopReason k.xe), bnat 43 0])
  let regs := bjoin ((List.range 32).map (fun i => bnat 4 (getS k (BitVec.ofNat 5 i)).toNat) ++ (List.range 16).map (fun i => bnat 8 (getA k (BitVec.ofNat 4 i)).toNat) ++
    [bnat 64 k.pr.toNat] ++ (List.range 16).map (fun i => bnat 4 (tileWord (tileOf k i))) ++ [bnat 1600 0] ++
    (List.range 32).map (fun i => bnat 64 (getV k i).toNat))
  let tiles := if dumpTiles s then bjoin ((List.range 16).flatMap (fun t => (List.range 16).map (fun r => bnat 64 (dumpRow s t (tileOf k t) r)))) else bempty
  bcat (bcat head regs) tiles

/-- Lines of a stop record; one beyond the device range is not written. -/
def stopLines (s : State) (c : Nat) : List (Nat × LineW) :=
  let b := stopRecord s c
  let n := max 1 (field64 (stopCtl s) 55 40)
  let a := field64 (stopCtl s) 39 12 * 4096 + b.len * (s.sec.seq % n)
  (asWrites (bytesLines (a / 64) b)).filter (fun e => decide (e.1 < 2 ^ 34))

/-- A stop that firmware does not hold: the record, then the core goes on (log 51). -/
def dumpStop (s : State) (c : Nat) : State :=
  let s1 := writeLinesW s (stopLines s c)
  bump { nextFree s1 with sec := { s1.sec with seq := s1.sec.seq + 1 } } 73 1

/-- A core that firmware has handled: it goes on, or stays reported where neither stream is at a STOP. -/
def afterStop (s : State) (c : Nat) : State :=
  if atStop (coreOf s c).ae || atStop (coreOf s c).xe then resumeCore s c else updCore s c (fun k => { k with stopReported := true })

/-- CORE_STOPPED (R191, R707): firmware handles a stopped core, unless the debug port has halted it (R701). A record whose block is in COPY waits
for the commit (R357) (log 51). -/
def coreStopped (s : State) (c : Nat) : State :=
  let k := coreOf s c
  if !coreIsStopped k || k.stopReported || mgmtHalted s then s
  else
    let hold := stopHold s && s.sec.zdpOpen
    let lines := if dumpEn s && !hold then (stopLines s c).map (·.1) else []
    if !(heldByHost s lines).isEmpty then recallFromHost s (heldByHost s lines)
    else if anyCopy s (lines.map blockOfLine) then s
    else
      let s1 := bump s 72 1
      if hold then updCore s1 c (fun k => { k with stopReported := true })
      else afterStop (if dumpEn s then dumpStop s1 c else s1) c

/-- CORE_RESUME (R193, R707): firmware resumes a core whose stop it has handled, unless it holds it for the open port or is halted (R701)
(log 51). -/
def execCoreResume (c : Nat) (s : State) : Host.Outcome State Fault Refusal :=
  let k := coreOf s c
  .next (if coreIsStopped k && k.stopReported && !(stopHold s && s.sec.zdpOpen) && !mgmtHalted s then resumeCore s c else s)

def execCoreStopped (c : Nat) (s : State) : Host.Outcome State Fault Refusal := .next (coreStopped s c)

end Sys2Proof.Machine
end

