-- ==== Sys2Proof/Machine/HostRows.lean ====
section
/-!
DEFINITION. What the host does besides commands (14, 15): CXL.mem accesses and back-invalidations, ATS invalidations, configuration
requests, Function Level Reset and PERST#.
-/
namespace Sys2Proof.Machine

/-! ### The HDM window (R617 to R619) -/

/-- The window serves an access: in D0, with the stacks up (R651, R728) (log 55). -/
def hdmOpen (s : State) : Bool := !s.pw.off && s.pw.st == 0 && s.bu.localDone

/-- An access that is not served yet; in an idle state it is a wake event (R728). -/
def hdmWait (s : State) : State := if s.pw.off then s else wakeUp s

/-- The window's translation of a mapped block (R342, R344, R617): none when it must be asked for. A translation that names a former home is
answered by its tombstone with a forward, which replaces it (R358). -/
def hdmTranslate (s : State) (b : Nat) : Option State :=
  match tcTouch s.m.mtc b with
  | some (e, l) =>
    if (dirOf s b).mig || e.home == (dirOf s b).home then some { s with m := { s.m with mtc := l } }
    else some (replaceMtc s b)
  | none => none

/-- A CXL.mem write that finds no room: discarded, logged and counted (R773) (log 88). -/
def hdmDiscard (s : State) (addr : Nat) : State :=
  let s1 := bump s 86 1
  { s1 with m := { s1.m with rasLog := s1.m.rasLog ++ [addr] } }

/-- The snoop filter has no room for a line (R619) (log 55). -/
def snoopFull (s : State) (line : Nat) : Bool := !hostHolds s line && decide (65536 ≤ s.m.snoop.length)

/-- A line that the host reads with a cacheable request is recorded. -/
def record (s : State) (line : Nat) : State :=
  if hostHolds s line then s else { s with m := { s.m with snoop := s.m.snoop ++ [line] } }

/-- The answer of a CXL.mem read. -/
def hdmAnswer (s : State) (addr : Nat) (cacheable : Bool) : State :=
  let l := lineOf addr
  let s1 := if cacheable then record s l else s
  bump { s1 with resp := .hdm addr (readLine s l) (poisoned s l) } 59 1

/-- HDM_READ (R618, R619) (log 55). -/
def hdmRead (s : State) (addr : Nat) (cacheable : Bool) : State :=
  let l := lineOf addr
  let b := blockOf addr
  if addr % 64 ≠ 0 ∨ 2 ^ 40 ≤ addr then s
  else if !hdmOpen s then hdmWait s
  else if cacheable && snoopFull s l then
    match s.m.snoop with
    | o :: _ => sendBisnp s o
    | [] => s
  else if !mapped s b then hdmAnswer (bump s 61 1) addr cacheable
  else match hdmTranslate s b with
    | some s1 => hdmAnswer s1 addr cacheable
    | none => askDirectory s .mover b false

def execHdmRead (addr : Nat) (cacheable : Bool) (s : State) : Host.Outcome State Fault Refusal := .next (hdmRead s addr cacheable)

/-- HDM_WRITE (R618, R352, R773, R357): during COPY the write is held (log 55). -/
def hdmWrite (s : State) (addr : Nat) (data : Line) (mask : BitVec 64) : State :=
  let b := blockOf addr
  if addr % 64 ≠ 0 ∨ 2 ^ 40 ≤ addr then s
  else if !hdmOpen s then hdmWait s
  else if !mapped s b then
    match autoMap s b with
    | some s1 => bump (writeLineMasked s1 (lineOf addr) mask data) 60 1
    | none => bump (hdmDiscard s addr) 60 1
  else if inCopy s b then s
  else match hdmTranslate s b with
    | some s1 => bump (writeLineMasked s1 (lineOf addr) mask data) 60 1
    | none => askDirectory s .mover b false

def execHdmWrite (addr : Nat) (data : Line) (mask : BitVec 64) (s : State) : Host.Outcome State Fault Refusal :=
  .next (hdmWrite s addr data mask)

/-- BISNP_RESPONSE (R619): the host no longer holds the line; dirty data goes to its home first, as a write that a copy of its block holds (R357), and
then what the log and the Test strip have for the line goes on (log 32, log 55). -/
def bisnpResponse (s : State) (line : Nat) (dirty : Option Line) : State :=
  if !s.m.bisnp.contains line || (dirty.isSome && inCopy s (blockOfLine line)) then s
  else
    let s1 : State := { s with m := { s.m with bisnp := s.m.bisnp.filter (fun l => l != line), snoop := s.m.snoop.filter (fun l => l != line) } }
    match dirty with
    | none => pumpLog s1
    | some d =>
      match autoMap s1 (blockOfLine line) with
      | some s2 => pumpLog (writeLine s2 line d)
      | none => pumpLog (hdmDiscard s1 (64 * line))

def execBisnpResponse (line : Nat) (dirty : Option Line) (s : State) : Host.Outcome State Fault Refusal := .next (bisnpResponse s line dirty)

/-! ### ATS and configuration (R611, R650) -/

/-- ATS_INVALIDATION (R611, R615): the device forgets its translations of the pages and completes the request (log 62). -/
def execAtsInvalidation (tag : Nat) (pages : List Nat) (s : State) : Host.Outcome State Fault Refusal :=
  .next (if s.pw.off then s else
    { s with host := { s.host with atc := s.host.atc.filter (fun e => !pages.contains e.1) }, resp := .atsDone tag })

/-- Function 0 is there once the IO0 rail and the boot ROM run (R649, Table 15.2). -/
def io0Runs (s : State) : Bool := !s.pw.off && decide (3 ≤ s.bu.rails) && !s.bu.inReset

/-- A 32-bit word of function 0's configuration space: BAR0 is 64-bit, non-prefetchable, of 16 MiB (R611); the bits that advertise a feature of
Table 14.2 read as absent (R612); where they lie, and every other word, is PCIe's and CXL's to say (log 10). -/
def configRead (reg : Nat) : Word :=
  if reg = 4 then (Config.configWord reg &&& 0xFF000000) ||| 4 else Config.configWord reg &&& ~~~ Config.unsupportedBits reg

/-- CONFIGURATION_REQUEST (R612, R650): only function 0 exists; before it is ready it answers with Configuration Request Retry Status. -/
def configurationRequest (s : State) (fn reg : Nat) : State :=
  if s.pw.off || s.bu.inReset || s.bu.perst then s
  else if fn ≠ 0 then { s with resp := .unsupported }
  else if s.bu.cfgReady then { s with resp := .cfg false (configRead reg) }
  else if io0Runs s then { s with bu := { s.bu with cfgReady := true }, resp := .cfg false (configRead reg) }
  else { s with resp := .cfg true 0 }

def execConfigurationRequest (fn reg : Nat) (s : State) : Host.Outcome State Fault Refusal := .next (configurationRequest s fn reg)

/-! ### Function Level Reset (R614, R727, R767) -/

/-- CFG_ registers that keep their values: CFG_SYSTAB, CFG_SHUTTER, CFG_BXL, CFG_BXL_PORT and CFG_BXL_ROUTE (log 54). -/
def flrKeeps (w : Nat) : Bool :=
  let o := 4 * w
  o == 0x28 || o == 0x2C || o == 0x124 || o == 0x130 || o == 0x134 || (decide (0x2100 ≤ o) && decide (o < 0x2180)) || decide (0x100000 ≤ o)

def noChan (_ : Nat) : Chan := {}
/-- The channels as a reset leaves them, those given MAPPED_OUT. -/
def mappedOutChans (l : List Nat) : Table Chan := l.foldl (fun t k => tset noChan t k { ({} : Chan) with st := .mappedOut }) []
/-- Channels that a reset finds MAPPED_OUT (R300): those of the repair record, and those that failed training. -/
def chansAfter (s : State) : Table Chan := mappedOutChans (s.fit.repair ++ (s.m.chans.filter (fun e => e.2.st == .mappedOut)).map (·.1))

/-- Remote flag operations that are on their way: nobody waits for their answers any more (log 54). -/
def remoteAfter (s : State) : List RemoteOp := (s.sh.remote.filter (fun o => o.sent || o.resend)).map (fun o => { o with who := .tstrip })
/-- The next number toward a device once the operations never sent are gone (R502) (log 54). -/
def txAfter (s : State) : Table Nat :=
  (s.sh.remote.filter (fun o => !(o.sent || o.resend))).foldl (fun t o => tset zeroN t o.dst ((seqOf t o.dst + 65535) % 65536)) s.sh.txSeq

def isCtrl : Payload → Bool
  | .ctrl _ => true
  | _ => false

/-- What a Function Level Reset leaves. The fabric's links, roster, routes, numbers of pairs and firmware state stay; everything else is as
after reset, in D0 (log 54). -/
def flrState (s : State) : State :=
  { State.reset with
    pending := s.pending, fit := s.fit, nv := s.nv, host := { s.host with atc := [] }, freeIx := s.freeIx, resp := s.resp, bu := s.bu,
    m := { State.reset.m with chans := chansAfter s },
    sh := { State.reset.sh with
      remote := remoteAfter s, txSeq := txAfter s, rxSeq := s.sh.rxSeq, rxAck := s.sh.rxAck, path := s.sh.path },
    cm := { State.reset.cm with regs := s.cm.regs.filter (fun e => flrKeeps e.1), cmdNext := s.cm.cmdNext },
    fb := { State.reset.fb with
      ports := s.fb.ports, inbox := s.fb.inbox.filter (fun p => isCtrl p.body), fwOut := s.fb.fwOut, fwHeld := s.fb.fwHeld, segNext := s.fb.segNext },
    sec := { s.sec with keys := Vector.replicate 4 none, fwState := 0, fwStatus := 0, seq := 0 },
    pw := { State.reset.pw with top := s.pw.top, topUnknown := s.pw.topUnknown, off := s.pw.off } }

/-- FUNCTION_LEVEL_RESET (log 54). -/
def functionLevelReset (s : State) : State :=
  if s.pw.off then s else freeCredits ((s.fb.inbox.filter (fun p => !isCtrl p.body)).foldl freeHeld (flrState s))
def execFunctionLevelReset (s : State) : Host.Outcome State Fault Refusal := .next (functionLevelReset s)

/-- PERST (R644, R650): as a Function Level Reset; the function answers again after PERST# is released (log 76). -/
def perstAssert (s : State) : State :=
  if s.pw.off then s else
    let t := functionLevelReset s
    { t with bu := { t.bu with perst := true, cfgReady := false } }
def execPerst (s : State) : Host.Outcome State Fault Refusal := .next (perstAssert s)

/-- PERST_RELEASE (R650): the link retrains; configuration requests are answered once IO0 runs. -/
def perstRelease (s : State) : State := if s.pw.off then s else { s with bu := { s.bu with perst := false, cfgReady := io0Runs s } }
def execPerstRelease (s : State) : Host.Outcome State Fault Refusal := .next (perstRelease s)

end Sys2Proof.Machine
end

