-- ==== Sys2Proof/Machine/Power.lean ====
section
/-!
DEFINITION. Power states and the governor (17): POWER, the handshake of an entry, wakes and exits, the quota of R732, tokens, and Off.
-/
namespace Sys2Proof.Machine

/-! ### Blocks and their answers (R719 to R722) -/

/-- Kinds of block IDs (Table 17.2). -/
def kindBase (k : Nat) : Nat := 4096 * k

/-- The blocks asked in a tier. -/
def tierBlocks (s : State) (tier : Nat) : List Nat :=
  if tier = 1 then (List.range s.fit.grade).filter (present s)
  else if tier = 2 then
    [kindBase 1, kindBase 2] ++ (List.range s.fit.iodies).map (kindBase 3 + ·) ++ (List.range s.fit.nStacks).map (kindBase 4 + ·)
  else if tier = 3 then (List.range 48).map (kindBase 5 + ·)
  else if tier = 4 then (List.range s.fit.nStacks).map (kindBase 6 + ·)
  else (List.range s.fit.iodies).map (kindBase 7 + ·)

/-- The last tier asked for a state. -/
def lastTier (target : Nat) : Nat := if target = 3 then 5 else 3

/-- What Table 17.3 lets a block answer: the first REFUSE that applies, else DELAY, else ACK. -/
inductive Ready where | ack | delay | refuse (reason : Nat)
  deriving DecidableEq, Repr

def pickAnswer (refusals : List (Bool × Nat)) (delay : Bool) : Ready :=
  match refusals.find? (·.1) with
  | some r => .refuse r.2
  | none => if delay then .delay else .ack

/-- An engine is stopped at a STOP. -/
def stoppedAt (e : Engine) : Bool :=
  match e.st with
  | .stopped _ => true
  | _ => false

/-- A block homed in the local store of a core, or in the home partition of a slice. -/
def homesIn (s : State) (h : Home → Bool) : Bool := s.m.dir.any (fun e => h e.2.home)
def inStoreOf (c : Nat) : Home → Bool
  | .ls d _ => d == c
  | _ => false
def inSlice (i : Nat) : Home → Bool
  | .carafe j _ _ => j == i
  | _ => false

/-- A committed tile load is in flight: it has lines to come and has not stopped at a page fault (R241). -/
def tileLoading (k : Core) : Bool :=
  k.tiles.any (fun e => e.2.st == .loading && committed k e.2.level && !e.2.load.any (fun l => l.stopped.isSome))

def coreAnswer (s : State) (c target : Nat) : Ready :=
  let k := coreOf s c
  let running := match k.run with
    | some r => !r.complete
    | none => false
  let paged := k.ae.st == .pageFault || k.xe.st == .pageFault
  let atStop := stoppedAt k.ae || stoppedAt k.xe
  let hold := (reg64 s 0x70).getLsbD 61 && s.sec.zdpOpen
  pickAnswer
    [(running && !paged && !atStop, 0x01), (decide (target = 3) && running && paged, 0x01), (atStop && hold, 0x09),
     (decide (2 ≤ target) && (k.acc.any (fun e => e.2.holding) || mqUsed k != 0), 0x02), (decide (target = 3) && k.wgbDirty != 0, 0x03),
     (decide (target = 3) && homesIn s (inStoreOf c), 0x04), (decide (target = 3) && k.flags != 0, 0x06)]
    (atStop || tileLoading k)

/-- A command that has started its work and is not done. -/
def working (s : State) (ops : List Nat) : Bool :=
  s.cm.cmds.any (fun m => ops.contains (dOpcode m.desc) && (match m.phase with
    | .ready | .busy _ => true
    | _ => false))

/-- A Fixer operation runs; a STEP that the Test strip holds has not started (R470, R590). -/
def fixerRuns (s : State) : Bool :=
  s.cm.cmds.any (fun m => dOpcode m.desc == 0x42 && (match m.phase with
    | .ready => !(s.tr.held && upOp m.desc == 0 && s.tr.vstep == m.step)
    | .busy _ => true
    | _ => false))

/-- An access or atomic of a core is in flight at a slice. -/
def accessAt (s : State) (i : Nat) : Bool :=
  s.cores.any (fun e => e.2.reqs.any (fun r => (r.phase == .flight || r.phase == .heldAt) && atomSlice s (lineOf r.addr) == some i))

def sliceAnswer (s : State) (i target : Nat) : Ready :=
  let chip (f : FlagRef) : Bool := match f with
    | .chip n => n % 48 == i
    | .core _ _ => false
  pickAnswer
    [(decide (target = 3) && homesIn s (inSlice i), 0x05),
     (decide (target = 3) && ((List.range 86).any (fun j => s.sh.cf.getLsbD (i + 48 * j)) || s.sh.waiters.any (fun w => chip w.flag)), 0x06)]
    (s.sh.flagQ.any (fun m => chip m.flag) || accessAt s i ||
     (decide (target = 3) && s.m.carafe.any (fun e => e.1 / 2048 == i && e.2.any (fun l => l.dirty))))

def stackBusy (s : State) (p : Nat) : Bool :=
  s.m.chans.any (fun e => e.1 / 32 == p && decide (0 < e.2.wq)) || !(tget noMerge s.m.mergeBuf p).isEmpty

def endpointBusy (s : State) (m : Nat) : Bool :=
  (List.range 8).any (fun j =>
    let x := portOf s (8 * m + j)
    x.st == .training || x.st == .recovery || !x.retry.isEmpty) || s.sh.remote.any (fun o => o.sent)

/-- Table 17.3 (log 53). -/
def blockAnswer (s : State) (id target : Nat) : Ready :=
  let i := id % 4096
  match id / 4096 with
  | 0 => coreAnswer s i target
  | 1 => pickAnswer [] (working s [0x20, 0x21, 0x22, 0x43, 0x44])
  | 2 => pickAnswer [(s.m.chans.any (fun e => e.2.st == .draining), 0x0A)] (!s.m.moves.isEmpty || !s.m.waitMoves.isEmpty)
  | 3 => pickAnswer [(s.fb.slots.any (fun e => e.2.run.isSome), 0x08)] false
  | 4 => pickAnswer [(decide (target = 3) && fixerRuns s, 0x07)] (fixerRuns s)
  | 5 => sliceAnswer s i target
  | 6 => pickAnswer [] (stackBusy s i)
  | _ => pickAnswer [] (endpointBusy s i)

/-! ### Entries (R717, R718, R720, R724 to R726) -/

def pwState (d : Line) : Nat := fld d 8 0 3

/-- The handshake starts at tier 1 (log 53). -/
def beginEntry (s : State) (target : Nat) : State :=
  { s with pw := { s.pw with st := 4, prev := s.pw.st, target := target, tier := 1, asked := tierBlocks s 1, committed := false, delays := [],
                             wake := false, next := 0 } }

/-- An exit begins; it goes on to state `next`. -/
def beginExit (s : State) (next : Nat) : State := { s with pw := { s.pw with prev := s.pw.st, st := 5, next := next } }

/-- The POWER in progress completes (log 53). -/
def powerDone (s : State) (st : Status) (info : BitVec 64) : State :=
  match s.pw.cmd with
  | some (r, i) => finishCmd { s with pw := { s.pw with cmd := none } } r i st info
  | none => s

/-- An earlier POWER has not completed. -/
def earlierPower (s : State) (ring slot : Nat) : Bool :=
  match cmdOf s ring slot with
  | some m => s.cm.cmds.any (fun q => dOpcode q.desc == 0x60 && decide (q.order < m.order))
  | none => false

/-- A POWER that passed its checks (R717) (log 53). -/
def powerGo (s : State) (ring slot target : Nat) : State :=
  if earlierPower s ring slot then s
  else if target = s.pw.st then finishCmd s ring slot .ok 0
  else if s.pw.st = 0 then beginEntry (setPhase { s with pw := { s.pw with cmd := some (ring, slot) } } ring slot (.busy 14)) target
  else if idleState s then
    let s1 := setPhase { s with pw := { s.pw with cmd := some (ring, slot) } } ring slot (.busy 14)
    if target < s.pw.st then beginExit s1 target else beginEntry s1 target
  else s

def powerCmd (s : State) (ring slot : Nat) (d : Line) : State :=
  checked s ring slot
    [(!bodyOk d [(8, 0, 3)] || decide (4 ≤ pwState d) || (pwState d != 0 && dSetEn d), .format)]
    (powerGo s ring slot (pwState d))

/-- POWER_D0 (R717). -/
def execPowerD0 (ring slot : Nat) (s : State) : Host.Outcome State Fault Refusal :=
  .next (withCmd s ring slot 0x60 (fun d => if pwState d = 0 then powerCmd s ring slot d else s))
/-- POWER_ENTER (R717, R718, R720). -/
def execPowerEnter (ring slot : Nat) (s : State) : Host.Outcome State Fault Refusal :=
  .next (withCmd s ring slot 0x60 (fun d => if pwState d = 0 then s else powerCmd s ring slot d))

/-! ### Held work (R721, R728, R730) -/

/-- Page faults whose moves have committed while their core was held. -/
def resumeFaults (s : State) : State :=
  ((s.cores.flatMap (fun e => e.2.faults)).eraseDups.filter (fun b => mapped s b && !inCopy s b)).foldl (fun t b => resolveFaults t b true) s

/-- What was held goes on in D0: page faults, what waits for routes and credits, and a REPLAY. Held packets are then applied by their rows in the order
in which they came (R730). -/
def wakeHeld (s : State) : State :=
  if s.pw.st ≠ 0 then s else pumpReplay (freeCredits (pumpRoutes (resumeFaults s)))

/-- The entry is cancelled: the device is in the state it was in. -/
def cancelEntry (s : State) (block reason : Nat) : State :=
  let w := s.pw.wake
  let s1 := { s with pw := { s.pw with st := s.pw.prev, tier := 0, asked := [], delays := [], wake := false, committed := false,
                                       lastReason := reason, lastRefuser := block, lastState := s.pw.target } }
  let s2 := wakeHeld (powerDone s1 .powerRefused (BitVec.ofNat 64 (block + reason * 65536)))
  if w then wakeUp s2 else s2

/-- ACK of a block; the last of a tier opens the next one, the last of all commits (R720, R725). -/
def takeAck (s : State) (block : Nat) : State :=
  let l := s.pw.asked.filter (fun b => b != block)
  if !l.isEmpty then { s with pw := { s.pw with asked := l } }
  else if s.pw.tier = lastTier s.pw.target then { s with pw := { s.pw with asked := [], committed := true } }
  else { s with pw := { s.pw with tier := s.pw.tier + 1, asked := tierBlocks s (s.pw.tier + 1) } }

/-- A slice that delays a C3 entry writes its dirty lines back meanwhile (R313). -/
def cleanMeanwhile (s : State) (block : Nat) : State := if block / 4096 = 5 ∧ s.pw.target = 3 then cleanSlice s (block % 4096) else s

/-- POWER_ANSWER (R722 to R725): a block answers as Table 17.3 has it (log 53). -/
def powerAnswer (s : State) (block : Nat) (ans : PwrAnswer) : State :=
  if s.pw.off || s.pw.st ≠ 4 || !s.pw.asked.contains block then s
  else match blockAnswer s block s.pw.target, ans with
    | .ack, .ack => takeAck s block
    | .delay, .delay _ => cleanMeanwhile { s with pw := { s.pw with delays := block :: s.pw.delays } } block
    | .refuse r, .refuse q => if r = q then cancelEntry (bump s (77 + (s.pw.target - 1)) 1) block r else s
    | _, _ => s

def execPowerAnswer (block : Nat) (ans : PwrAnswer) (s : State) : Host.Outcome State Fault Refusal := .next (powerAnswer s block ans)

/-- ENTRY_LIMIT_TIMEOUT (R724). -/
def entryLimitTimeout (s : State) : State :=
  match s.pw.delays with
  | b :: t =>
    if s.pw.st = 4 ∧ s.pw.committed = false ∧ (b :: t).any (fun x => s.pw.asked.contains x) = true then
      cancelEntry (bump s (80 + (s.pw.target - 1)) 1) b 0xFE
    else s
  | [] => s

def execEntryLimitTimeout (s : State) : Host.Outcome State Fault Refusal := .next (entryLimitTimeout s)

/-- POWER_STATE_REACHED (R725, R729). -/
def powerStateReached (s : State) : State :=
  if s.pw.st = 4 ∧ s.pw.committed = true then
    let w := s.pw.wake
    let s1 := powerDone (bump { s with pw := { s.pw with st := s.pw.target, committed := false, tier := 0, wake := false, delays := [] } }
      (74 + (s.pw.target - 1)) 1) .ok 0
    if w then beginExit (bump s1 83 1) 0 else pumpReplay s1
  else s

def execPowerStateReached (s : State) : Host.Outcome State Fault Refusal := .next (powerStateReached s)

/-! ### Wake and exit (R715, R728 to R730) -/

/-- WAKE. -/
def execWake (ev : WakeEv) (s : State) : Host.Outcome State Fault Refusal :=
  .next (if s.pw.off then s else match ev with
    | .doorbell => if s.cm.rings.any (fun e => e.2.st == .running) then wakeUp s else s
    | _ => wakeUp s)

/-- The fault records stay (R769), and IO0 keeps how a complete run ended until its LAUNCH completes (log 85). -/
def coldCore (k : Core) : Core :=
  let run := k.run.filter (·.complete)
  let cold (e : Engine) : Engine := { ({} : Engine) with frec := e.frec, st := if run.isSome then e.st else .idle }
  { ({} : Core) with ae := cold k.ae, xe := cold k.xe, run := run }

/-- The compute dies return from C3 (R715) (log 85). -/
def computeReset (s : State) : State :=
  { s with cores := s.cores.foldl (fun t e => tset coreDefault t e.1 (coldCore e.2)) [], sh := { s.sh with cf := 0 },
           m := { s.m with mtc := [], carafe := [] } }

/-- EXIT_COMPLETE (R717, R730). -/
def exitComplete (s : State) : State :=
  if s.pw.st ≠ 5 then s
  else
    let n := s.pw.next
    let s1 := if s.pw.prev = 3 then computeReset s else s
    let s2 : State := { s1 with pw := { s1.pw with st := 0, next := 0, tier := 0 } }
    if n = 0 then wakeHeld (powerDone s2 .ok 0) else beginEntry (wakeHeld s2) n

def execExitComplete (s : State) : Host.Outcome State Fault Refusal := .next (exitComplete s)

/-! ### Limits and the governor (R731 to R733) -/

/-- The limit of the latched top (Table 18.5). -/
def topLimit (s : State) : Nat := if s.pw.topUnknown then 1150 else if s.pw.top = 1 then 1500 else if s.pw.top = 2 then 1800 else 1150
/-- The limit in force. -/
def limitW (s : State) : Nat :=
  if (reg64 s 0x40).getLsbD 63 then min (topLimit s) (max 600 (field64 (reg64 s 0x40) 47 32)) else topLimit s

/-- The power controller runs (Table 15.2, R713). -/
def governs (s : State) : Bool := !s.pw.off && decide (2 ≤ s.bu.rails)

/-- GOVERNOR_SAMPLE: INPUT_W is the mean of the last 100 samples (log 63). -/
def governorSample (s : State) (watts tj : Nat) : State :=
  if !governs s then s
  else
    let l := (watts :: s.pw.samples).take 100
    let x := if 110 * limitW s < 100 * watts then s.pw.overN + 1 else 0
    { s with pw := { s.pw with samples := l, inputW := min 65535 (l.foldl (· + ·) 0 / l.length), tj := tj, overN := x } }

def execGovernorSample (watts tj : Nat) (s : State) : Host.Outcome State Fault Refusal := .next (governorSample s watts tj)

/-- GOVERNOR_ADJUST (log 67). -/
def governorAdjust (s : State) : State :=
  if !governs s then s
  else if 95 < s.pw.tj then bump { s with pw := { s.pw with quota := max 8 (s.pw.quota - 4) } } 85 1
  else if limitW s < s.pw.inputW then { s with pw := { s.pw with quota := max 8 (s.pw.quota - 4) } }
  else if 100 * s.pw.inputW < 97 * limitW s then { s with pw := { s.pw with quota := min 64 (s.pw.quota + 1) } }
  else s

def execGovernorAdjust (s : State) : Host.Outcome State Fault Refusal := .next (governorAdjust s)

/-- FAST_CLAMP: five samples in a row above the limit by 10 %. -/
def fastClamp (s : State) : State :=
  if governs s && decide (5 ≤ s.pw.overN) then bump { s with pw := { s.pw with quota := max 8 (s.pw.quota / 2), overN := 0 } } 84 1 else s

def execFastClamp (s : State) : Host.Outcome State Fault Refusal := .next (fastClamp s)

/-- TOKEN_REFILL: every core gains q tokens, up to 64. -/
def tokenRefill (s : State) : State :=
  if s.pw.off || !(s.pw.st == 0 || s.pw.st == 4) then s
  else (s.cores.map (·.1)).foldl (fun t c => updCore t c (fun k => { k with tokens := min 64 (k.tokens + s.pw.quota) })) s

def execTokenRefill (s : State) : Host.Outcome State Fault Refusal := .next (tokenRefill s)

/-! ### Off (R716) -/

/-- The whole module is without power; OTP and SPI NOR remain, and the channels of the repair record are MAPPED_OUT (R300). -/
def offState (s : State) : State :=
  { State.reset with pending := s.pending, fit := s.fit, nv := s.nv, host := s.host, freeIx := s.freeIx, pw := { off := true },
                     m := { State.reset.m with chans := mappedOutChans s.fit.repair } }

/-- POWER_OFF_TRIP: the rails are removed for any of the three causes. -/
def execPowerOffTrip (_cause : OffCause) (s : State) : Host.Outcome State Fault Refusal := .next (if s.pw.off then s else offState s)

end Sys2Proof.Machine
end

