-- ==== Sys2Proof/Machine/Sign.lean ====
section
/-!
DEFINITION. Identity and signing (16): the identity in use, HSS journals, signature pairs, and the results of the checks of a firmware image.
-/
namespace Sys2Proof.Machine

/-! ### Signatures (R688 to R692) -/

/-- KIND of the identity in use (R688). -/
def kindOf (s : State) : Bool := s.nv.debugOpened
def journalOf (s : State) : Journal := if kindOf s then s.nv.dbgJournal else s.nv.prod
def setJournal (s : State) (j : Journal) : State :=
  { s with nv := if kindOf s then { s.nv with dbgJournal := j } else { s.nv with prod := j } }

/-- Entries of a half of 512 KiB (R689). -/
def halfEntries : Nat := 32768

/-- The entry that holds an index (R689): INDEX, its complement, 0, CRC-32. -/
def journalEntry (n : Nat) : Nat :=
  let w := n % 2 ^ 32 + (2 ^ 32 - 1 - n % 2 ^ 32) * 2 ^ 32
  w + crc32 12 w * 2 ^ 96
/-- The INDEX of a valid entry: its complement and its CRC check. -/
def entryIndex (w : Nat) : Option Nat :=
  if w / 2 ^ 32 % 2 ^ 32 = 2 ^ 32 - 1 - w % 2 ^ 32 ∧ w / 2 ^ 96 = crc32 12 (w % 2 ^ 96) then some (w % 2 ^ 32) else none
/-- The INDEX of each valid entry of a journal. -/
def indexes (j : Journal) : List Nat := j.cells.filterMap (fun c => entryIndex c.2)
/-- The next index of a journal: the largest valid INDEX plus 1 (R689). -/
def nextIndex (j : Journal) : Option Nat := (indexes j).max?.map (· + 1)

/-- Position `i` of the half in use, in the region. -/
def Journal.at (j : Journal) (i : Nat) : Nat := (if j.half then halfEntries else 0) + i
/-- A journal with an entry at position `i` of the half in use. -/
def putEntry (j : Journal) (i n : Nat) : Journal := { j with cells := j.cells ++ [(j.at i, journalEntry n)], used := i + 1 }

/-- Stores the entry of index `n` at the next position, or at the one after it (R690): the journal afterwards, and whether the entry is stored. A
position whose store failed holds no valid entry (log 64). -/
def storeEntry (j : Journal) (n : Nat) : Journal × Bool :=
  if halfEntries ≤ j.used then (j, false)
  else if j.badStores = 0 then (putEntry j j.used n, true)
  else if j.badStores = 1 ∧ j.used + 2 ≤ halfEntries then ({ putEntry j (j.used + 1) n with badStores := 0 }, true)
  else ({ j with used := min halfEntries (j.used + 2), badStores := j.badStores - 2 }, false)

/-- The next signature can be made, failing stores apart: there is an index, and a position for its entry (R690). -/
def signOk (s : State) : Bool :=
  decide ((journalOf s).used < halfEntries) && match (journalOf s).next with
  | some n => decide (n < 2 ^ 30)
  | none => false

/-- A signature pair takes the next index; none is made when the index cannot be stored (R690, R692) (log 64). -/
def signPair (s : State) : State × Option Nat :=
  let j := journalOf s
  match j.next with
  | none => (bump s 69 1, none)
  | some n =>
    if 2 ^ 30 ≤ n then (bump s 69 1, none)
    else
      let r := storeEntry j n
      if r.2 then (bump (setJournal s { r.1 with next := some (n + 1) }) 68 1, some n)
      else (bump (setJournal s r.1) 69 1, none)

/-- The other half is erased, and the next entry goes to its start (R691). -/
def switchHalf (j : Journal) : Journal :=
  { j with half := !j.half, used := 0, cells := j.cells.filter (fun c => decide (halfEntries ≤ c.1) == j.half) }

/-- The keys of the identity in use, and both its signatures of a message with index `n` (R688, R690). -/
def idKeys (s : State) : IdKeys := ((if kindOf s then s.sec.dbgKeys else s.sec.prodKeys)).getD ⟨0, []⟩
def signatures (s : State) (n : Nat) (msg : List Nat) : SignPair := signBoth (kindOf s) (idKeys s) (Config.signRandom s.freeIx) n msg

/-! ### Firmware images (R648, R681, R682, R704) -/

/-- Result of the checks of R681, as STS_BOOT records it: 1 passed, 2 signature failed, 3 rollback refused. -/
def imageResult (fuses : Nat) : Option Image → Nat
  | none => 2
  | some i => if !(i.hdrOk && decide (i.svn ≤ 128) && i.ecdsaOk && i.lmsOk) then 2 else if i.svn < fuses then 3 else 1

/-- Slot B is preferred (Table 16.3). -/
def prefB (s : State) : Bool := s.nv.pref == 1

/-- Every fuse of the production seed is blown (R703). -/
def seedBlown (s : State) : Bool := s.nv.prodSeed == BitVec.allOnes 256

/-- E3 to E5 of an unlock (R703): the fuses of the production seed, its keys and the production journal go; a debug journal without a valid entry gets
INDEX 0; DEBUG_OPENED is blown. -/
def eraseSecrets (s : State) : State :=
  let d := s.nv.dbgJournal
  { s with nv := { s.nv with prodSeed := BitVec.allOnes 256, prod := {},
                             dbgJournal := if d.next.isNone then { putEntry d d.used 0 with next := some 1 } else d,
                             debugOpened := true },
           sec := { s.sec with prodKeys := none } }

/-- A half-done unlock is finished at reset (R704). -/
def finishErase (s : State) : State := if s.nv.eraseStarted && !s.nv.debugOpened then eraseSecrets s else s

/-- The boot ROM tries the preferred slot, then the other (R648); neither is recovery (R649). -/
def bootImages (s : State) : State :=
  let ra := imageResult s.nv.svn s.nv.slotA
  let rb := imageResult s.nv.svn s.nv.slotB
  let b := if prefB s then rb = 1 else ra ≠ 1 ∧ rb = 1
  if ra = 1 ∨ rb = 1 then
    { s with bu := { s.bu with aResult := if prefB s ∧ rb = 1 then 0 else ra, bResult := if ¬ prefB s ∧ ra = 1 then 0 else rb,
                               booted := decide b, fwRunning := true } }
  else { s with bu := { s.bu with aResult := ra, bResult := rb, state := 6, fwRunning := false } }

/-- The keys of both identities are derived, and the next indexes read from the journals (R686, R689). -/
def deriveIds (s : State) : State :=
  let scan (j : Journal) : Journal := { j with next := nextIndex j }
  { s with nv := { s.nv with prod := scan s.nv.prod, dbgJournal := scan s.nv.dbgJournal },
           sec := { s.sec with prodKeys := if seedBlown s then none else some (deriveKeys false s.nv.prodSeed),
                               dbgKeys := some (deriveKeys true s.nv.dbgSeed) } }

/-- The unlock nonce is drawn (R702). -/
def drawNonce (s : State) : State := nextFree { s with sec := { s.sec with nonce := Config.nonce s.freeIx } }

/-- What the boot ROM does: it finishes a half-done unlock, keys are derived, and firmware is verified. -/
def bootRom (s : State) : State := bootImages (deriveIds (finishErase s))

end Sys2Proof.Machine
end

