-- ==== Sys2Proof/Machine/Bringup.lean ====
section
/-!
DEFINITION. The module alone (15): power-on, module reset, rails, boot, local bring-up, the system table, and the training of ports.
-/
namespace Sys2Proof.Machine

/-! ### Resets of the whole module (R644, R747) -/

/-- Everything but OTP and SPI NOR is as after reset. -/
def moduleState (s : State) : State := { offState s with pw := {} }

/-- POWER_ON (R644, R646): step 1 of the power-on order is done (log 56). -/
def powerOn (s : State) : State :=
  if s.pw.off || (decide (s.bu.rails = 0) && !s.bu.inReset) then { moduleState s with bu := { rails := 1 } } else s
def execPowerOn (s : State) : Host.Outcome State Fault Refusal := .next (powerOn s)

/-- MODULE_RESET (R747): RESET_N has been low for 1 ms, and the reset is held (log 76). -/
def moduleReset (s : State) : State := if s.pw.off then s else { moduleState s with bu := { inReset := true } }
def execModuleReset (s : State) : Host.Outcome State Fault Refusal := .next (moduleReset s)

/-- RESET_N_RELEASE (R747): phase P0 begins. -/
def execResetNRelease (s : State) : Host.Outcome State Fault Refusal :=
  .next (if !s.pw.off && s.bu.inReset then { s with bu := { s.bu with inReset := false, rails := 1 } } else s)

/-! ### Ports (R519, R566, R657 to R660) -/

/-- A port starts to train once every rail is good. -/
def trainPort (s : State) (p : Nat) : State :=
  let x := portOf s p
  if portPresent s p && decide (s.bu.rails = 6) && x.st == .down then
    setPort s p { x with st := .training, locked := false, heldDown := false, partner := .none, partnerDev := 0, partnerSw := false, frame := none }
  else s

/-- EN of a port goes from 0 to 1. -/
def enablePort (s : State) (p : Nat) : State :=
  if portPresent s p && !portEn s p then trainPort (setReg32 s (0x2100 + 4 * p) (reg32 s (0x2100 + 4 * p) ||| 1)) p else s

/-- EN of a port is set, whatever it was: a port that is DOWN trains (R657). -/
def joinPort (s : State) (p : Nat) : State := trainPort (setReg32 s (0x2100 + 4 * p) (reg32 s (0x2100 + 4 * p) ||| 1)) p
/-- EN of a port is cleared. -/
def disablePort (s : State) (p : Nat) : State :=
  if portEn s p then portDown (setReg32 s (0x2100 + 4 * p) (reg32 s (0x2100 + 4 * p) &&& 0xC)) p else s

/-- PORT_ENABLE (R566). -/
def execPortEnable (port : Nat) (s : State) : Host.Outcome State Fault Refusal := .next (if s.pw.off then s else enablePort s port)

/-- LANE_LOCK (R519, R520, R526, R658): the lanes lock, with the lanes whose polarity training found inverted and the order of the lanes found
reversed, both corrected from then on. A port in training sends its identity frame with a fresh nonce; one in RECOVERY only trains its lanes
again. -/
def laneLock (s : State) (p width : Nat) (polarity : BitVec 8) (reversed : Bool) (nonce : BitVec 256) : State :=
  let x := portOf s p
  let ok := decide (width = 8 ∧ x.laneFail = 0) || (decide (width = 4) && x4Ok s p && decide (0 < usableWidth s p x.laneFail))
  let y : Port := { x with locked := true, width := width, polarity := polarity, reversed := reversed, rxFlits := 0, rxWords := [] }
  if x.locked || !ok then s
  else if x.st == .training then setPort s p { y with myNonce := nonce, frame := some ⟨s.nv.serial, (ownPos s).getD 0, nonce⟩ }
  else if x.st == .recovery then setPort s p y
  else s

def execLaneLock (port : Nat) (lanes : LaneFinding) (nonce : BitVec 256) (s : State) : Host.Outcome State Fault Refusal :=
  .next (laneLock s port lanes.width lanes.polarity lanes.reversed nonce)

/-- A port held DOWN (R659) (log 84). -/
def holdDown (s : State) (p : Nat) : State :=
  let s1 := portDown { s with bu := { s.bu with portFail := putBit s.bu.portFail p true } } p
  settleP3 (setPort s1 p { portOf s1 p with heldDown := true })

/-- The partner that R656 requires. -/
def partnerOk (s : State) (p : Nat) (who : Partner) : Bool :=
  match s.bu.table, ownPos s with
  | some t, some x =>
    match who with
    | .t1 serial pos =>
      let y := (x + p + 1) % t.entries.length
      t.topo == 1 && pos == y && (match entryAt t y with
        | some e => e.serial == serial
        | none => false)
    | .switch plane leaf port => t.topo == 2 && plane == p && leaf == x / t.d && port == x % t.d
    | _ => false
  | _, _ => false

/-- After READY the partner must be the one recorded at bring-up (R660). -/
def partnerFits (s : State) (p : Nat) (who : Partner) : Bool :=
  if s.bu.state = 3 then who == (portOf s p).recorded && partnerOk s p who else partnerOk s p who

/-- Device number of a T1 partner. -/
def partnerNumber (s : State) : Partner → Nat
  | .t1 _ pos => match s.bu.table.bind (fun t => entryAt t pos) with
    | some e => e.devnum
    | none => 0
  | _ => 0

def isSwitch : Partner → Bool
  | .switch _ _ _ => true
  | _ => false

/-- IDENTITY_FRAME (R658 to R660). -/
def identityFrame (s : State) (p : Nat) (who : Partner) (nonce : BitVec 256) : State :=
  let x := portOf s p
  if x.st != .training || !x.locked then s
  else if partnerFits s p who then
    let s1 := setPort s p { x with st := .up, partner := who, recorded := who, peerNonce := nonce, partnerDev := partnerNumber s who,
                                   partnerSw := isSwitch who }
    if s.bu.state = 3 then pumpRemotes (pumpRoutes (noteLinks s1)) else settleP3 s1
  else holdDown (bump s 64 1) p

def execIdentityFrame (port : Nat) (who : Partner) (nonce : BitVec 256) (s : State) : Host.Outcome State Fault Refusal :=
  .next (identityFrame s port who nonce)

/-- A port that has not been UP since its EN was set: in training, or DOWN again out of training. -/
def neverUp (s : State) (p : Nat) : Bool :=
  let x := portOf s p
  x.st == .training || (x.st == .down && portEn s p && x.partner == .none && !x.heldDown && portPresent s p && decide (s.bu.rails = 6))

/-- PORT_TRAIN_TIMEOUT (R659): 3.0 s after EN (log 84). -/
def execPortTrainTimeout (port : Nat) (s : State) : Host.Outcome State Fault Refusal :=
  .next (if neverUp s port then holdDown s port else s)

/-! ### The system table (R653 to R657) -/

def distinct (l : List Nat) : Bool := l.eraseDups.length == l.length

/-- R654. -/
def tableOk (s : State) (t : SysTab) : Bool :=
  let n := t.entries.length
  let pos := t.entries.map (fun e => e.pos)
  t.wellFormed && decide (1 ≤ n) && decide (n ≤ 4096) && decide (t.topo ≤ 2) && distinct pos && distinct (t.entries.map (fun e => e.devnum)) &&
  t.entries.all (fun e => !e.spare || e.devnum == e.pos) && (t.entries.filter (fun e => e.serial == s.nv.serial)).length == 1 &&
  t.cands.any (fun c => match c with
    | some d => t.entries.any (fun e => e.devnum == d && !e.spare)
    | none => false) &&
  (t.topo != 1 || (decide (n ≤ 33) && t.entries.all (fun e => !e.spare && e.pos == e.devnum))) &&
  (t.topo != 2 || (pos.all (fun p => decide (p + 1 ≤ t.d * t.s)) && decide (t.u + t.s ≤ 256))) &&
  (t.topo != 0 || n == 1)

/-- Writes DEVNUM of CFG_BXL. -/
def setDevNum (s : State) (n : Nat) : State :=
  setReg32 s 0x134 ((reg32 s 0x134 &&& 0xFFF000FF) ||| BitVec.ofNat 32 (n % 4096 * 256))

/-- Sets REACH of every port. -/
def setReach (s : State) (lr : Bool) : State :=
  (List.range (ownPorts s)).foldl (fun t p => setReg32 t (0x2100 + 4 * p)
    (if lr then reg32 t (0x2100 + 4 * p) ||| 4 else reg32 t (0x2100 + 4 * p) &&& 0xFFFFFFFB)) s

/-- Ports that P3 enables (R657). -/
def joinPorts (s : State) (t : SysTab) : List Nat :=
  if t.topo = 1 then List.range (min (ownPorts s) (t.entries.length - 1)) else List.range (ownPorts s)

/-- A single module is READY once its local bring-up has ended (R655). -/
def settleSingle (s : State) : State :=
  match s.bu.table with
  | some t => if t.topo = 0 ∧ s.bu.state = 2 ∧ s.bu.localDone = true then freeCredits { s with bu := { s.bu with state := 3, phase := 8 } } else s
  | none => s

/-- Joins with a table (R654, R655, R657). -/
def joinWith (s : State) (t : SysTab) : State :=
  if !tableOk s t then { s with bu := { s.bu with state := 5, reason := 1 } }
  else
    match ownEntry t s with
    | none => s
    | some e =>
      let s1 := setDevNum { s with bu := { s.bu with table := some t, state := 2, reason := 0, phase := 3, claimK := none, acting := false,
                                                     gathering := false, admitted := [], reported := [], roster := none, unacked := [] } } e.devnum
      if t.topo = 0 then settleSingle s1
      else
        let others := (List.range (ownPorts s1)).filter (fun p => !(joinPorts s1 t).contains p)
        settleP3 (others.foldl disablePort ((joinPorts s1 t).foldl joinPort (setReach s1 t.reachLr)))

/-- Firmware runs and is not halted. -/
def firmware (s : State) : Bool := !s.pw.off && s.bu.fwRunning && decide (s.bu.rails = 6) && s.bu.reason != 5 && !mgmtHalted s

/-- A table in host memory (Tables 15.3, 15.4). -/
def parseTable (s : State) (a : Nat) : SysTab :=
  let b (n k : Nat) : Nat := readHost s (a + n) k
  let n := min 4096 (b 4 2)
  let cand (k : Nat) : Option Nat := if 32768 ≤ b (12 + 2 * k) 2 then some (b (12 + 2 * k) 2 % 4096) else none
  let ent (i : Nat) : SysEntry :=
    let o := 64 + 32 * i
    ⟨BitVec.ofNat 128 (b o 16), b (o + 16) 2 % 4096, b (o + 18) 2 % 4096, decide (32768 ≤ b (o + 18) 2)⟩
  let entOk (i : Nat) : Bool :=
    let o := 64 + 32 * i
    b (o + 16) 2 / 4096 == 0 && b (o + 18) 2 / 4096 % 8 == 0 && b (o + 20) 12 == 0
  let whole := readHost s a (64 + 32 * n)
  let crc := crc32 (64 + 32 * n) (whole - b 24 4 * 2 ^ 192)
  let ok := b 0 2 == 1 && b 3 1 / 4 == 0 && (List.range 4).all (fun k => b (12 + 2 * k) 2 / 4096 % 8 == 0) && b 28 36 == 0 &&
    b 4 2 == n && (List.range n).all entOk && crc == b 24 4 && b 20 2 != 0 && b 22 2 != 0 && !hostRefuses s a (64 + 32 * n) &&
    !(linesOf a (64 + 32 * n)).any (hostPoisoned s)
  ⟨ok, b 2 1, b 3 1 % 2 == 1, b 3 1 / 2 % 2 == 1, b 6 2, b 8 2, b 10 2, (List.range 4).map cand, b 20 2, b 22 2, (List.range n).map ent⟩

/-- The SPI NOR partition; an erased one is no table (R654). -/
def norTable (s : State) : SysTab := s.nv.table.getD ⟨false, 0, false, false, 0, 0, 0, [], 0, 0, []⟩

/-- SYSTAB_GO (R653): firmware reads the table that CFG_SYSTAB names, returns GO to 0 and joins (log 56). -/
def systabGo (s : State) : State :=
  let c := reg64 s 0x28
  if firmware s && c.getLsbD 63 then
    let t := if c.getLsbD 62 then parseTable s (field64 c 51 6 * 64) else norTable s
    joinWith (setReg64 s 0x28 (putBit c 63 false)) t
  else s

def execSystabGo (s : State) : Host.Outcome State Fault Refusal := .next (systabGo s)

/-! ### Rails and boot (R646 to R649, R749) -/

/-- The code of the fitted top (Table 18.5). -/
def latchTop (s : State) : State :=
  let c := s.fit.topId
  { s with pw := { s.pw with top := if c = 2 then 1 else if c = 0 then 2 else 0, topUnknown := c == 3 } }

/-- P2 begins: without GO, firmware looks for a table with AUTO in the SPI NOR (R653). -/
def beginP2 (s : State) : State :=
  let s1 : State := { s with bu := { s.bu with phase := 2 } }
  if (reg64 s 0x28).getLsbD 63 then s1
  else match s.nv.table with
    | some t => if t.auto_ then joinWith s1 t else s1
    | none => s1

/-- The power-on order goes on. -/
def railsRun (s : State) : Bool :=
  !s.pw.off && !s.bu.inReset && decide (1 ≤ s.bu.rails) && decide (s.bu.rails < 6) && s.bu.railFault == 0 && s.bu.state != 6

/-- RAIL_POWER_GOOD (R646, R648, R651, R749): with the last rail, ports whose EN is set begin to train (log 56). -/
def railPowerGood (s : State) : State :=
  if !railsRun s then s
  else
    let n := s.bu.rails + 1
    let s1 : State := { s with bu := { s.bu with rails := n } }
    if n = 2 then drawNonce (latchTop s1) else if n = 3 then bootRom s1 else if n = 6 then beginP2 ((List.range 32).foldl (fun t p => if portEn t p then trainPort t p else t) s1) else s1

def execRailPowerGood (s : State) : Host.Outcome State Fault Refusal := .next (railPowerGood s)

/-- RAIL_TIMEOUT (R647). -/
def execRailTimeout (s : State) : Host.Outcome State Fault Refusal :=
  .next (if railsRun s then { s with bu := { s.bu with railFault := s.bu.rails + 1, state := 6, reason := 5 } } else s)

/-! ### Local bring-up (R244 to R246, R300, R305, R651) -/

/-- The index of an array's spare row or column (R244). -/
def spareLine (col : Bool) : Nat := if col then 32 else 16

/-- A failing row or column takes the spare of its array, when the spare is free and has passed (`good`) (Table 05.6). The spare itself
fails without effect while it replaces nothing (log 68). -/
def takeSpare (w : BitVec 64) (array : Nat) (col good : Bool) (i : Nat) : Option (BitVec 64) :=
  let used := 16 * array + (if col then 14 else 15)
  let at_ := if col then field64 w (16 * array + 5) (16 * array) else field64 w (16 * array + 10) (16 * array + 6)
  if spareLine col ≤ i then (if w.getLsbD used then none else some w)
  else if w.getLsbD used then (if at_ = i then some w else none)
  else if !good then none
  else some (putBit (putBit w used true) (16 * array + 13) true ||| BitVec.ofNat 64 (i * 2 ^ (16 * array + (if col then 0 else 6))))

def noSpares (_ : Nat) : BitVec 64 := 0
/-- Applies the array tests: the spares afterwards and the cores whose site fails (log 56, log 68). -/
def takeSpares (good : Nat → Nat → Bool → Bool) (t : Table (BitVec 64)) : List (Nat × Nat × Bool × Nat) → Table (BitVec 64) × List Nat
  | [] => (t, [])
  | (c, a, col, i) :: l =>
    match takeSpare (tget noSpares t c) a col (good c a col) i with
    | some w => takeSpares good (tset noSpares t c w) l
    | none =>
      let r := takeSpares good t l
      (r.1, c :: r.2)

/-- HOME_WAYS of CFG_CARAFE_PART, at most 14 (R305). -/
def homeWaysOf (s : State) : Nat := min 14 ((reg32 s 0x104).toNat % 32)

/-- LOCAL_READY (R651) (log 56). -/
def localReady (s : State) (t : SelfTest) : State :=
  if !firmware s || s.bu.localDone then s
  else
    let r := takeSpares (fun c a col => !t.lines.any (fun e => e == (c, a, col, spareLine col))) s.nv.spares t.lines
    let chans := mappedOutChans (s.fit.repair ++ t.chans)
    let s1 : State := { s with
      nv := { s.nv with spares := r.1 }, fit := { s.fit with absent := (t.stores ++ r.2).eraseDups },
      m := { State.reset.m with chans := chans, homeWays := homeWaysOf s },
      bu := { s.bu with localDone := true, state := if s.bu.state = 0 then 1 else s.bu.state } }
    settleP3 (settleSingle s1)

def execLocalReady (t : SelfTest) (s : State) : Host.Outcome State Fault Refusal := .next (localReady s t)

end Sys2Proof.Machine
end

