-- ==== Sys2Proof/Machine/Join.lean ====
section
/-!
DEFINITION. Joining a system (15): the choice of a coordinator, REPORTs, rosters, routes, and rosters after READY. A message is
acknowledged by the message that answers it (log 65).
-/
namespace Sys2Proof.Machine

/-! ### Messages -/

/-- Takes a bring-up message out of the inbox (log 65). -/
def takeCtrl (s : State) (m : CtrlMsg) : State := fromInbox s (fun p => p.body == .ctrl m)

/-- Messages to a device that its answer acknowledges (log 65). -/
def acked (s : State) (dst : Nat) (f : CtrlMsg → Bool) : State :=
  { s with bu := { s.bu with unacked := s.bu.unacked.filter (fun u => !(u.1 == dst && f u.2.1)) } }

def isCall : CtrlMsg → Bool
  | .claim _ _ | .gather _ _ => true
  | _ => false
def isReportMsg : CtrlMsg → Bool
  | .report _ => true
  | _ => false
def isRosterMsg : CtrlMsg → Bool
  | .roster _ => true
  | _ => false
def sendAll (s : State) (m : CtrlMsg) : List Nat → State
  | [] => s
  | d :: t => sendAll (sendKept s d m) m t

/-- CTRL_RESEND (R661): every unacknowledged message goes out again on the next route (log 65). -/
def ctrlResend (s : State) : State :=
  s.bu.unacked.foldl (fun t u => sendCtrlOn t u.1 ((u.2.2 + 1) % 4) u.2.1)
    { s with bu := { s.bu with unacked := s.bu.unacked.map (fun u => (u.1, u.2.1, (u.2.2 + 1) % 4)) } }
def execCtrlResend (s : State) : Host.Outcome State Fault Refusal := .next (if firmware s then ctrlResend s else s)

/-! ### The coordinator (R662 to R665) -/

def cands (s : State) : List (Option Nat) := match s.bu.table with
  | some t => t.cands
  | none => []
/-- The index of the VALID CAND that names a device. -/
def candIndex (s : State) (dev : Nat) : Option Nat := (List.range (cands s).length).find? (fun k => (cands s)[k]? == some (some dev))
def systemDevs (s : State) : List Nat := match s.bu.table with
  | some t => t.entries.map (fun e => e.devnum)
  | none => []

/-- The device waits for a coordinator, or looks for one again (R664). -/
def joining (s : State) : Bool := (s.bu.state == 2 && decide (5 ≤ s.bu.phase)) || (s.bu.state == 5 && s.bu.reason == 2)

/-- The state of a device that has a coordinator. -/
def joined (s : State) : State :=
  if joining s then { s with bu := { s.bu with state := 2, reason := 0, phase := 6 } } else s

/-- Candidate `k` claims, and gathers with a fresh nonce (R662, R665). -/
def claimNow (s : State) (k : Nat) : State :=
  let me := devNum s
  let e := max s.bu.gatherEpoch s.bu.epoch + 1
  let n := Config.nonce s.freeIx
  let s1 := bumpIf (match s.bu.claimK with
    | some j => decide (k < j)
    | none => false) s 66 1
  let b := { s1.bu with acting := true, claimK := some k, coord := me, nonce := n, gatherEpoch := e, gathering := true, admitted := [],
                        unacked := [] }
  let s2 := joined (nextFree { s1 with bu := b })
  sendAll (sendAll s2 (.claim k me) ((systemDevs s).filter (fun d => d != me))) (.gather n e) (systemDevs s)

/-- CLAIM_TIMER (R662): no CLAIM of a lower index has come. -/
def claimTimer (s : State) : State :=
  match candIndex s (devNum s) with
  | some k =>
    if firmware s && joining s && !s.bu.acting && (match s.bu.claimK with
      | some j => decide (k < j)
      | none => true) then claimNow s k else s
  | none => s
def execClaimTimer (s : State) : Host.Outcome State Fault Refusal := .next (claimTimer s)

/-- The device follows a CLAIM (R663). -/
def follow (s : State) (k dev : Nat) : State :=
  let s1 := bumpIf s.bu.claimK.isSome s 66 1
  joined { s1 with bu := { s1.bu with acting := false, gathering := false, claimK := some k, coord := dev, nonce := 0, admitted := [],
                                      unacked := [] } }

/-- CLAIM (R663): the lowest index wins; a CLAIM of a device that no VALID CAND names is ignored (log 57). -/
def claimMsg (s : State) (src k dev : Nat) : State :=
  if src != dev || (cands s)[k]? != some (some dev) || dev == devNum s then s
  else match s.bu.claimK with
    | some j => if k < j then follow s k dev else s
    | none => follow s k dev

def execClaim (p : Packet) (s : State) : Host.Outcome State Fault Refusal :=
  match p.body with
  | .ctrl (.claim k dev) => .next (if firmware s then claimMsg (takeCtrl s (.claim k dev)) p.src k dev else s)
  | _ => .fault .illFormed

/-- NO_COORD_TIMEOUT (R664). -/
def execNoCoordTimeout (s : State) : Host.Outcome State Fault Refusal :=
  .next (if s.bu.state = 2 ∧ s.bu.phase = 5 ∧ s.bu.claimK.isNone = true then { s with bu := { s.bu with state := 5, reason := 2 } } else s)

/-! ### REPORTs (R665 to R667) -/

/-- T1 partners of UP ports: the device number and, in their identity frames, the nonces they sent, by port. -/
def t1Ports (s : State) : List Nat := (List.range 32).filter (fun p => isUp s p && (match (portOf s p).partner with
  | .t1 _ _ => true
  | _ => false))

/-- The device's REPORT (log 57). -/
def makeReport (s : State) (nonce : BitVec 256) (epoch : Nat) : Report :=
  ⟨s.nv.serial, (ownPos s).getD 0, devNum s, s.fit.iodies, upMask s, nonce, epoch, (t1Ports s).map (fun p => (p, (portOf s p).peerNonce)),
   kindOf s, true, true⟩

/-- COORDINATOR_GATHER (R665, R666): once its P3 has ended, a device signs at most one REPORT for each coordinator and epoch, and none that cannot
be signed (log 57). -/
def coordinatorGather (s : State) (src : Nat) (nonce : BitVec 256) (epoch : Nat) : State :=
  if s.bu.claimK.isNone || src != s.bu.coord || decide (s.bu.phase < 5) || s.bu.reported.contains (src, epoch) then s
  else
    let r := signPair s
    match r.2 with
    | none => r.1
    | some _ =>
      let m := makeReport s nonce epoch
      let goesTo := (src :: (t1Ports s).map (fun p => (portOf s p).partnerDev)).eraseDups
      sendAll { r.1 with bu := { r.1.bu with reported := r.1.bu.reported ++ [(src, epoch)] } } (.report m) goesTo

def execCoordinatorGather (p : Packet) (s : State) : Host.Outcome State Fault Refusal :=
  match p.body with
  | .ctrl (.gather n e) => .next (if firmware s then coordinatorGather (takeCtrl s (.gather n e)) p.src n e else s)
  | _ => .fault .illFormed

/-- A REPORT verifies (R688). -/
def reportOk (r : Report) : Bool := r.ecdsaOk && r.lmsOk && !r.kind

/-- The port toward the device that reports. -/
def portToward (s : State) (r : Report) : Option Nat := (List.range 32).find? (fun p => isUp s p && (match (portOf s p).partner with
  | .t1 serial _ => serial == r.serial
  | _ => false))

/-- The reporter's port toward this device (R656). -/
def reporterPort (s : State) (r : Report) : Nat :=
  match s.bu.table, ownPos s with
  | some t, some x => meshPort t.entries.length r.pos x
  | _, _ => 0

/-- A partner checks the REPORT and its own nonce (R666). -/
def partnerCheck (s : State) (r : Report) : State :=
  match portToward s r with
  | some p =>
    if reportOk r && r.partnerNonces.contains (reporterPort s r, (portOf s p).myNonce) then s else holdDown (bump s 65 1) p
  | none => s

/-- The coordinator admits a device (R667). -/
def admits (s : State) (r : Report) : Bool :=
  s.bu.gathering && reportOk r && r.nonce == s.bu.nonce && r.epoch == s.bu.gatherEpoch &&
  !s.bu.admitted.any (fun a => a.pos == r.pos) && (match s.bu.table.bind (fun t => entryAt t r.pos) with
    | some e => e.serial == r.serial
    | none => false)

/-! ### Rosters (R667, R668, R602) -/

/-- Members not admitted, and admitted spares, in table order: who takes whose number. -/
def substitutions (s : State) (t : SysTab) : List (SysEntry × SysEntry) :=
  let adm (e : SysEntry) : Bool := s.bu.admitted.any (fun a => a.pos == e.pos)
  if t.topo = 2 then (t.entries.filter (fun e => e.spare && adm e)).zip (t.entries.filter (fun e => !e.spare && !adm e)) else []

/-- The UP ports of an admitted device (Table 15.5): as it reported, this device's as they are now; under TOPO 1 those whose partner is verified:
admitted, with its own end of the link UP. -/
def rosterMask (s : State) (t : SysTab) (a : Report) : BitVec 32 :=
  let now (r : Report) : BitVec 32 := if some r.pos = ownPos s then r.up &&& upMask s else r.up
  if t.topo != 1 then now a
  else (List.range 32).foldl (fun m p =>
    let y := (a.pos + p + 1) % t.entries.length
    let far := match s.bu.admitted.find? (fun b => b.pos == y) with
      | some b => (now b).getLsbD (meshPort t.entries.length y a.pos)
      | none => false
    if (now a).getLsbD p && far then putBit m p true else m) 0

def rosterRec (s : State) (t : SysTab) (e : SysEntry) : RosterRec :=
  match s.bu.admitted.find? (fun a => a.pos == e.pos) with
  | none => ⟨e.pos, e.devnum, 0, 0, 0⟩
  | some a =>
    match (substitutions s t).find? (fun p => p.1 == e) with
    | some p => ⟨e.pos, p.2.devnum, 3, 8 * a.iodies, rosterMask s t a⟩
    | none => ⟨e.pos, e.devnum, if e.spare then 2 else 1, 8 * a.iodies, rosterMask s t a⟩

/-- Signs a roster and sends it to every admitted device; without signatures none is sent (R690). -/
def issueRoster (s : State) (epoch : Nat) (recs : List RosterRec) (goesTo : List Nat) : State :=
  let r := signPair s
  match r.2 with
  | none => r.1
  | some _ =>
    let m : Roster := ⟨epoch, devNum s, recs, s.nv.serial, kindOf s, true, true⟩
    let s1 : State := { r.1 with bu := { r.1.bu with issued := some m, unacked := r.1.bu.unacked.filter (fun u => !isRosterMsg u.2.1) } }
    sendAll s1 (.roster m) goesTo

/-- The gather ends (R667, R668). -/
def finishGather (s : State) : State :=
  match s.bu.table with
  | none => s
  | some t =>
    let goesTo := (t.entries.filter (fun e => s.bu.admitted.any (fun a => a.pos == e.pos))).map (fun e => e.devnum)
    issueRoster { s with bu := { s.bu with gathering := false } } s.bu.gatherEpoch (t.entries.map (rosterRec s t)) goesTo

/-- REPORT (R666, R667): as a partner and as the coordinator (log 57). A partner's REPORT acknowledges this device's to it (log 65). -/
def reportMsg (s : State) (r : Report) : State :=
  let s1 := acked (partnerCheck s r) r.devnum (fun m => isCall m || (isReportMsg m && r.devnum != s.bu.coord))
  if admits s1 r then
    let s2 : State := { s1 with bu := { s1.bu with admitted := s1.bu.admitted ++ [r] } }
    if s2.bu.admitted.length = (systemDevs s2).length then finishGather s2 else s2
  else s1

def execReport (r : Report) (s : State) : Host.Outcome State Fault Refusal :=
  .next (if firmware s then reportMsg (takeCtrl s (.report r)) r else s)

/-- GATHER_LIMIT (R667). -/
def execGatherLimit (s : State) : Host.Outcome State Fault Refusal := .next (if firmware s && s.bu.gathering then finishGather s else s)

/-! ### Routes (R669) -/

/-- What a roster says of a position: its ports, and which are UP. -/
def rosterPorts (r : Roster) (pos : Nat) : Nat := match r.recs.find? (fun e => e.pos == pos) with
  | some e => e.ports
  | none => 0
def rosterUp (r : Roster) (pos p : Nat) : Bool := match r.recs.find? (fun e => e.pos == pos) with
  | some e => (e.state == 1 || e.state == 3) && e.up.getLsbD p
  | none => false

/-- The words toward one destination. -/
def writeRoutes (s : State) (t : SysTab) (r : Roster) (x : Nat) (e : RosterRec) : State :=
  (List.range 4).foldl (fun u m => setReg64 u (0x100000 + 32 * e.number + 8 * m)
    (routeCode (routeTo t (rosterPorts r) (rosterUp r) x e.pos m))) s

/-- The route table: every word not computed is 0. -/
def computeRoutes (s : State) (t : SysTab) (r : Roster) (x : Nat) : State :=
  let s1 : State := { s with cm := { s.cm with regs := tclear s.cm.regs (fun w => decide (0x40000 ≤ w)) } }
  ((r.recs.filter (fun e => (e.state == 1 || e.state == 3) && e.pos != x)).foldl (fun u e => writeRoutes u t r x e) s1)

/-! ### ROSTER (R668, R670, R671) -/

/-- The signatures and the signer (R668, R688). -/
def rosterSigned (s : State) (r : Roster) : Bool :=
  r.ecdsaOk && r.lmsOk && !r.kind && r.coord == s.bu.coord && (match s.bu.table.bind (fun t => t.entries.find? (fun e => e.devnum == s.bu.coord)) with
    | some e => e.serial == r.signer
    | none => false)

/-- The route that carries an operation is withdrawn: no usable route of the new table is the one it went on, and for one on the firmware path
none that was usable before is as it was (R503). -/
def routeGone (old new : State) (o : RemoteOp) : Bool :=
  if o.fw then !(usableRoutes old o.dst).any (fun k => routeWord new o.dst k == routeWord old o.dst k && routeUsable new o.dst k)
  else !(usableRoutes new o.dst).any (fun k => routePort new o.dst k == o.port && routeHops new o.dst k == o.hops)

/-- UP ports as a roster shows them: under TOPO 1 those toward devices that it admits (Table 15.5). -/
def shownUp (s : State) (recs : List RosterRec) (pos : Nat) (up : BitVec 32) : BitVec 32 :=
  match s.bu.table with
  | some t =>
    if t.topo != 1 then up
    else (List.range 32).foldl (fun m p =>
      if up.getLsbD p && recs.any (fun e => e.pos == (pos + p + 1) % t.entries.length && e.state != 0) then putBit m p true else m) 0
  | none => up

/-- A LINK_NOTE whose mask a roster shows for the device. -/
def noteShown (s : State) (r : Roster) : CtrlMsg → Bool
  | .linkNote dev up => r.recs.any (fun e => e.number == dev && e.up == shownUp s r.recs e.pos up)
  | _ => false

/-- What a roster acknowledges: the messages to its coordinator, notes as far as it shows them, and every REPORT (log 65). -/
def rosterAcks (s : State) (r : Roster) : State :=
  { s with bu := { s.bu with unacked := s.bu.unacked.filter (fun u => !(isReportMsg u.2.1 || (u.1 == r.coord && (isCall u.2.1 || noteShown s r u.2.1)))) } }

/-- An admitted device takes its number, writes its routes, and is READY; what went on a route that it withdraws is sent again (R503). -/
def applyRoster (s : State) (t : SysTab) (r : Roster) (x : Nat) (me : RosterRec) : State :=
  let ready := s.bu.state = 3
  let s1 := if me.state = 3 then setDevNum s me.number else s
  let s2 : State := { s1 with bu := { s1.bu with roster := some r, epoch := r.epoch } }
  let s3 := computeRoutes s2 t r x
  let s4 := setReg32 s3 0x124 (reg32 s3 0x124 ||| 1)
  let s5 : State := { s4 with bu := { s4.bu with state := 3, reason := 0, phase := 8 } }
  let s6 := rosterAcks s5 r
  let s7 := freeCredits (sendCtrl (bumpIf (decide ready) s6 67 1) r.coord (.readyNote (devNum s6)))
  pumpRoutes (resendRemotes s7 (routeGone s s7))

/-- ROSTER. A roster of the epoch in use that comes again is only answered (log 57). -/
def rosterMsg (s : State) (r : Roster) : State :=
  match s.bu.table, ownPos s with
  | some t, some x =>
    if s.bu.claimK.isNone || !(s.bu.state == 2 || s.bu.state == 3 || s.bu.state == 4) then s
    else if s.bu.state = 3 ∧ r.epoch ≤ s.bu.epoch then
      (if r.epoch = s.bu.epoch then sendCtrl (rosterAcks s r) r.coord (.readyNote (devNum s)) else s)
    else if !rosterSigned s r then { s with bu := { s.bu with state := 5, reason := 3 } }
    else match r.recs.find? (fun e => e.pos == x) with
      | some me =>
        if me.state = 1 ∨ me.state = 3 then applyRoster s t r x me
        else if me.state = 2 then { s with bu := { s.bu with roster := some r, epoch := r.epoch, state := 4 } }
        else { s with bu := { s.bu with state := 5, reason := 4 } }
      | none => { s with bu := { s.bu with state := 5, reason := 3 } }
  | _, _ => s

def execRoster (r : Roster) (s : State) : Host.Outcome State Fault Refusal :=
  .next (if firmware s then rosterMsg (takeCtrl s (.roster r)) r else s)

/-- READY_NOTE (R670): it acknowledges the roster. -/
def execReadyNote (dev : Nat) (s : State) : Host.Outcome State Fault Refusal :=
  .next (if firmware s then acked (takeCtrl s (.readyNote dev)) dev isRosterMsg else s)

/-! ### Links after READY (R671, R672) -/

/-- The next roster, with the changed record, to every admitted device; a note that changes nothing is answered with the last roster (log 65). -/
def nextRoster (s : State) (r : Roster) (dev : Nat) (up : BitVec 32) : State :=
  let hit (e : RosterRec) : Bool := e.number == dev && (e.state == 1 || e.state == 3)
  let recs := r.recs.map (fun e => if hit e then { e with up := shownUp s r.recs e.pos up } else e)
  if recs == r.recs then sendCtrl s dev (.roster r)
  else issueRoster s (r.epoch + 1) recs ((recs.filter (fun e => e.state != 0)).map (fun e => e.number))

/-- LINK_NOTE: at the coordinator a new roster; at a candidate it is a note that the coordinator did not answer. -/
def linkNote (s : State) (dev : Nat) (up : BitVec 32) : State :=
  if s.bu.acting then
    match s.bu.issued with
    | some r => nextRoster s r dev up
    | none => s
  else match candIndex s (devNum s) with
    | some k => if s.bu.state = 3 then claimNow s k else s
    | none => s

def execLinkNote (dev : Nat) (up : BitVec 32) (s : State) : Host.Outcome State Fault Refusal :=
  .next (if firmware s then linkNote (takeCtrl s (.linkNote dev up)) dev up else s)

/-- The next VALID candidate after the coordinator. -/
def nextCand (s : State) (dev : Nat) : Option Nat :=
  match candIndex s dev with
  | some k => ((cands s).drop (k + 1)).findSome? id
  | none => none

/-- LINK_NOTE_TIMEOUT (R672). -/
def linkNoteTimeout (s : State) : State :=
  match s.bu.unacked.find? (fun u => isLinkNote u.2.1) with
  | some (d, m, _) =>
    match nextCand s d with
    | some c => sendKept (acked s d isLinkNote) c m
    | none => s
  | none => s

def execLinkNoteTimeout (s : State) : Host.Outcome State Fault Refusal := .next (if firmware s then linkNoteTimeout s else s)

end Sys2Proof.Machine
end

