-- ==== Sys2Proof/Machine/Registers.lean ====
section
/-!
DEFINITION. What a read of BAR0 returns (20): the registers of Table 20.1 by offset, in 32-bit words. CFG_ registers are held; STS_
registers show the state they name.
-/
namespace Sys2Proof.Machine

/-- Bits of a register from their fields: (lowest bit, value). -/
def fields (l : List (Nat × Nat)) : BitVec 64 := BitVec.ofNat 64 (l.foldl (fun n f => n + f.2 * 2 ^ f.1) 0)
def bit (b : Bool) : Nat := if b then 1 else 0
/-- Bit i for each i below `n` that satisfies `f`. -/
def mask (n : Nat) (f : Nat → Bool) : Nat := (List.range n).foldl (fun m i => if f i then m + 2 ^ i else m) 0

/-! ### The device, boot and security -/

def stsDevice (s : State) : BitVec 64 := fields [(48, 1), (32, 2 ^ s.fit.nStacks - 1), (24, 2 ^ s.fit.iodies - 1), (0, s.fit.grade)]
def stsBoot (s : State) : BitVec 64 :=
  fields [(13, s.bu.railFault), (11, s.pw.top), (6, s.bu.bResult), (4, s.bu.aResult), (1, bit (prefB s)), (0, bit s.bu.booted)]
def stsFwUpdate (s : State) : BitVec 64 := fields [(16, s.sec.fwStatus), (0, s.sec.fwState)]
def stsSecurity (s : State) : BitVec 64 :=
  fields [(63, bit s.nv.debugOpened), (62, bit s.nv.eraseStarted), (61, bit s.sec.zdpOpen), (60, bit (kindOf s)), (48, s.nv.svn),
          (30, bit (signOk s)), (0, ((journalOf s).next.getD 0) % 2 ^ 30)]
def stsBringup (s : State) (w : Nat) : BitVec 64 :=
  if w = 0 then fields [(32, s.bu.portFail.toNat), (20, s.bu.coord), (12, s.bu.reason), (8, s.bu.phase), (0, s.bu.state)] else fields [(0, s.bu.epoch)]
def stsPower (s : State) (w : Nat) : BitVec 64 :=
  if w = 0 then fields [(48, limitW s), (32, s.pw.inputW), (24, s.pw.quota), (16, s.pw.lastReason), (0, s.pw.lastRefuser)]
  else fields [(56, min 255 s.pw.tj), (7, bit s.pw.topUnknown), (5, s.pw.lastState), (0, s.pw.st)]
def stsEvent (s : State) : BitVec 64 := s.cm.event.setWidth 64

/-! ### Memory and placement -/

def inService (s : State) (p n : Nat) : Bool := decide (p < s.fit.nStacks) && (chanOf s p n).st == .inService
def stsMemCapacity (s : State) : BitVec 64 :=
  let chans := (List.range s.fit.nStacks).foldl (fun n p => n + ((List.range 32).filter (inService s p)).length) 0
  fields [(48, 12 * (presentCores s).length), (32, 96 * s.m.homeWays), (0, 36800 * chans)]
/-- A draining channel waits for capacity (R303): its next block finds no free place, or none that commands do not hold (R773). -/
def drainWait (s : State) : Bool := (drainingChans s).any (fun x =>
  s.m.dir.any (fun e => e.2.home == .stack x.1 && (homeAt s e.1).1 == x.2 && (moveOf s e.1).isNone) &&
  !(drainNext s x.1 x.2).any (fun r => mayTake s r.2))
def stsEasel (s : State) : BitVec 64 :=
  fields [(16, bit (drainWait s)), (7, min 511 s.m.waitMoves.length), (0, min 127 s.m.moves.length)]
def stsStackCh (s : State) (p : Nat) : BitVec 64 :=
  if s.fit.nStacks ≤ p then 0
  else fields [(32, mask 32 (fun n => (chanOf s p n).st == .draining)), (0, mask 32 (inService s p))]
def stsCoreMap (s : State) (c : Nat) : BitVec 64 :=
  if s.fit.grade ≤ c then 0 else fields [(31, bit (present s c)), (5, (coreSite s c).1), (0, (coreSite s c).2)]
def stsMuSpares (s : State) (c : Nat) : BitVec 64 := if s.fit.grade ≤ c then 0 else tget noSpares s.nv.spares c
def stsCoreFault (s : State) (c w : Nat) : BitVec 64 :=
  if s.fit.grade ≤ c then 0 else if w = 0 then (coreOf s c).ae.frec else (coreOf s c).xe.frec
def stsWgbState (s : State) (c w : Nat) : BitVec 64 :=
  let k := coreOf s c
  if s.fit.grade ≤ c then 0
  else if w = 0 then k.wgbDirty.setWidth 64 else if w = 1 then (k.wgbDirty >>> 64).setWidth 64
  else if w = 2 then k.wgbPoison.setWidth 64 else (k.wgbPoison >>> 64).setWidth 64

/-! ### Synchronization, fabric, Test strip, Fixer, rings -/

def stsChipFlags (s : State) (w : Nat) : BitVec 64 := (s.sh.cf >>> (64 * w)).setWidth 64
def stsSyncDomain (s : State) (d : Nat) : BitVec 64 :=
  let l := members s d
  fields [(32, tget zeroN s.sh.domLast d % 65536), (16, (l.filter (waiting s)).length), (0, l.length)]
def portCode : PortState → Nat
  | .down => 0 | .training => 1 | .up => 2 | .recovery => 3
def stsBxlPort (s : State) (p : Nat) : BitVec 64 :=
  let x := portOf s p
  if !portPresent s p then 0
  else fields [(24, x.laneFail.toNat), (12, if x.partnerSw then 0 else x.partnerDev), (11, bit x.partnerSw), (10, 1), (4, x.width), (0, portCode x.st)]
def stsTstrip (s : State) (w : Nat) : BitVec 64 :=
  if w = 0 then fields [(32, s.tr.vstep), (30, s.tr.verdict), (29, bit s.tr.held), (28, bit s.tr.spike), (20, s.tr.nfc)]
  else if w = 1 then fields [(32, s.tr.mean), (0, s.tr.var)] else fields [(32, s.tr.lastLoss), (0, s.tr.samples)]
def stsReplay (s : State) (w : Nat) : BitVec 64 :=
  if w = 0 then fields [(48, s.tr.rStatus), (40, s.tr.rReason), (0, s.tr.rFailedAt)]
  else fields [(32, (s.tr.segs.getLast?.map (fun g => g.step)).getD 0), (0, (s.tr.segs.head?.map (fun g => g.step)).getD 0)]
/-- An operation on a group is in progress (Table 10.11). -/
def opRunning (s : State) (g : Nat) : Bool := s.cm.cmds.any (fun m => dOpcode m.desc == 0x42 && fld m.desc 8 2 6 == g && (match m.phase with
  | .busy _ => true
  | _ => (snapOf s m.ring m.slot .sched).isSome))
def stsFixerGroup (s : State) (g w : Nat) : BitVec 64 :=
  let x := groupOf s g
  if w = 0 then x.t
  else fields [(32, x.lastLr.toNat), (3, bit (opRunning s g)), (2, bit (grEmbed x.record.toNat)), (1, bit (grFrozen x.record.toNat)), (0, bit x.defined)]
def ringCode : RingState → Nat
  | .disabled => 0 | .running => 1 | .draining => 2 | .error => 3
def stsRing (s : State) (r : Nat) : BitVec 64 :=
  let x := ringOf s r
  fields [(32, x.cplPi), (25, x.err), (20, min 16 (inFlight s r)), (18, ringCode x.st), (17, bit x.phase), (16, bit x.cg), (0, x.ci)]

/-! ### The map (Table 20.1) -/

/-- The 64-bit status word at an 8-byte-aligned offset; 32-bit registers lie at their place in it. None: no status register there. -/
def stsAt (s : State) (o : Nat) : Option (BitVec 64) :=
  if o = 0x00 then some (stsDevice s)
  else if o = 0x08 then some (stsBoot s + (stsFwUpdate s <<< 32))
  else if o = 0x20 then some (stsSecurity s)
  else if o = 0x30 ∨ o = 0x38 then some (stsBringup s ((o - 0x30) / 8))
  else if o = 0x50 ∨ o = 0x58 then some (stsPower s ((o - 0x50) / 8))
  else if o = 0x68 then some (stsEvent s)
  else if o = 0x118 then some (stsMemCapacity s)
  else if o = 0x128 then some s.sh.err
  else if 0x180 ≤ o ∧ o < 0x198 then some (stsTstrip s ((o - 0x180) / 8))
  else if o = 0x1A0 ∨ o = 0x1A8 then some (stsReplay s ((o - 0x1A0) / 8))
  else if o = 0x1800 then some s.cm.msixPend
  else if 0x2000 ≤ o ∧ o < 0x2040 then some (stsStackCh s ((o - 0x2000) / 8))
  else if 0x2200 ≤ o ∧ o < 0x2280 then
    some (stsBxlPort s ((o - 0x2200) / 4) + (stsBxlPort s ((o - 0x2200) / 4 + 1) <<< 32))
  else if 0x2600 ≤ o ∧ o < 0x2800 then some (stsSyncDomain s ((o - 0x2600) / 8))
  else if 0x2A00 ≤ o ∧ o < 0x2C00 then some (stsChipFlags s ((o - 0x2A00) / 8))
  else if 0x3800 ≤ o ∧ o < 0x3C00 then some (stsFixerGroup s ((o - 0x3800) / 16) (o / 8 % 2))
  else if 0x6000 ≤ o ∧ o < 0x6800 then some (stsRing s ((o - 0x6000) / 8))
  else if 0x8000 ≤ o ∧ o < 0x8880 then
    some (stsCoreMap s ((o - 0x8000) / 4) + (stsCoreMap s ((o - 0x8000) / 4 + 1) <<< 32))
  else if 0xA000 ≤ o ∧ o < 0xB100 then some (stsMuSpares s ((o - 0xA000) / 8))
  else if 0x10000 ≤ o ∧ o < 0x12200 then some (stsCoreFault s ((o - 0x10000) / 16) (o / 8 % 2))
  else if 0x20000 ≤ o ∧ o < 0x24400 then some (stsWgbState s ((o - 0x20000) / 32) (o / 8 % 4))
  else none

/-- The units of a register are not powered in recovery (R649, R766). -/
def unpowered (s : State) (o : Nat) : Bool :=
  s.bu.state == 6 && ((decide (0x100 ≤ o) && decide (o < 0x1000)) || (decide (0x2000 ≤ o) && decide (o < 0x4000)) || decide (0x8000 ≤ o))

/-- The word of CFG_BXL_PORT of a port that is absent (R566). -/
def absentPort (s : State) (o : Nat) : Bool := decide (0x2100 ≤ o) && decide (o < 0x2180) && !portPresent s ((o - 0x2100) / 4)

/-- A 32-bit word of BAR0 (R616, R760). STS_EASEL shares its 8 bytes with CFG_SHUTTER. -/
def readBar0 (s : State) (o : Nat) : Word :=
  if unpowered s o || absentPort s o then 0
  else if o = 0x120 then (stsEasel s).setWidth 32
  else match stsAt s (o / 8 * 8) with
    | some v => if o % 8 = 4 then (v >>> 32).setWidth 32 else v.setWidth 32
    | none => reg32 s o

/-! ### Output pins (Table 18.4) -/

/-- PWR_GOOD: high from step 6 of Table 15.2 until Off or a rail fault. -/
def pwrGood (s : State) : Bool := s.bu.rails == 6 && s.bu.railFault == 0 && !s.pw.off
/-- THERM_N: low while a junction sensor reads above 95 °C. -/
def thermN (s : State) : Bool := decide (s.pw.tj ≤ 95)

end Sys2Proof.Machine
end

