-- ==== Sys2Proof/Machine/Security.lean ====
section
/-!
DEFINITION. Attestation, IDE keys and firmware updates (16).
-/
namespace Sys2Proof.Machine

/-! ### SPDM (R693 to R696) -/

/-- The low `k` bytes of a number. -/
def numBytes (k v : Nat) : List Nat := (List.range k).map (fun i => v / 2 ^ (8 * i) % 256)
/-- ASCII digits of a number. -/
def digits (n : Nat) : List Nat := (Nat.toDigits 10 n).map (fun c => c.toNat)
/-- The part number of the part (R9): CKS-T1-, the grade, -S, stacks, -I, I/O dies, -, the top (log 86). -/
def partNumber (s : State) : List Nat :=
  [67, 75, 83, 45, 84, 49, 45] ++ digits s.fit.grade ++ [45, 83] ++ digits s.fit.nStacks ++ [45, 73] ++ digits s.fit.iodies ++
  [45, if s.fit.partTop = 0 then 65 else if s.fit.partTop = 1 then 73 else 76]

/-- Recovery: the boot ROM serves updates and presents the DOE mailboxes (R649, R685). -/
def inRecovery (s : State) : Bool := s.bu.state == 6 && s.bu.reason != 5 && decide (3 ≤ s.bu.rails) && !mgmtHalted s
/-- The responder is firmware, or in recovery the boot ROM (R649) (log 58). -/
def spdmServes (s : State) : Bool := ((!s.pw.off && inRecovery s) || firmware s) && !s.bu.perst
def answer (s : State) (r : SpdmResp) : State := { s with resp := .spdm r }
/-- A request that the responder serves (log 58). -/
def spdm (s : State) (f : State) : Host.Outcome State Fault Refusal := .next (if spdmServes s then f else s)
/-- A request that names a certificate slot: there is slot 0 only (Table 16.5). -/
def spdmSlot (s : State) (slot : Nat) (f : State) : Host.Outcome State Fault Refusal := spdm s (if slot = 0 then f else answer s .error)

/-- The image that runs. -/
def runningImage (s : State) : Option Image := if s.bu.booted then s.nv.slotB else s.nv.slotA
/-- The signed bytes of an image (R680). -/
def signedBytes (i : Image) : List Nat := i.bytes.take (64 + i.bytes.getD 8 0 + 2 ^ 8 * i.bytes.getD 9 0 + 2 ^ 16 * i.bytes.getD 10 0 + 2 ^ 24 * i.bytes.getD 11 0)
/-- The digest of an image's signed bytes; the bytes of the image of manufacture are not given (log 59). -/
def imageDigest (i : Image) : List Nat := if i.bytes.isEmpty then beBytes 48 Config.factoryDigest.toNat else hash384 (signedBytes i)
/-- Table 16.6; in recovery no image runs. -/
def measure (s : State) : Meas :=
  ⟨beBytes 48 Config.romDigest.toNat, ((runningImage s).map imageDigest).getD [], bit s.bu.booted, ((runningImage s).map (fun i => i.svn)).getD 0, s.nv.svn,
   s.nv.debugOpened, s.nv.eraseStarted, kindOf s, s.fit.grade, s.fit.nStacks, s.fit.iodies, s.fit.partTop, s.nv.serial, partNumber s⟩

/-- A response that carries signatures: both are made of the same message, and the HSS signature is held, or the answer is ERROR and nothing is
held (R695, R696). -/
def signedAnswer (s : State) (f : State → List Nat → SpdmResp) (g : State → State) : State :=
  let r := signPair s
  match r.2 with
  | none => answer { r.1 with sec := { r.1.sec with cosig := none } } .error
  | some n =>
    let p := signatures s n (beBytes 148 (Config.spdmMessage s.freeIx).toNat)
    answer (g (nextFree { r.1 with sec := { r.1.sec with cosig := some p.hss } })) (f r.1 p.ecdsa)

/-- GET_VERSION starts a new connection: the co-signature held goes. SPDM 1.3 is the one version. -/
def execGetVersion (s : State) : Host.Outcome State Fault Refusal :=
  spdm s (answer { s with sec := { s.sec with cosig := none, session := false, secured := false } } (.version [0x13]))
def execGetCapabilities (s : State) : Host.Outcome State Fault Refusal :=
  spdm s (answer s (.capabilities [.cert, .chal, .measSigned, .keyEx, .encrypt, .mac]))
def execNegotiateAlgorithms (s : State) : Host.Outcome State Fault Refusal :=
  spdm s (answer s (.algorithms [.ecdsaP384, .sha384, .dheSecp384r1, .aes256Gcm, .measSha384]))

/-- Bytes of the chain in slot 0, that of the identity in use (log 64). -/
def chainBytes (kind : Bool) (a n : Nat) : List Nat := (List.range n).map (fun i => (Config.chainByte kind (a + i)).toNat)
/-- GET_DIGESTS: the SHA-384 digest of the chain in slot 0. -/
def execGetDigests (s : State) : Host.Outcome State Fault Refusal :=
  spdm s (answer s (.digests (kindOf s) (hash384 (chainBytes (kindOf s) 0 (Config.chainLength (kindOf s))))))
/-- GET_CERTIFICATE: a portion of the chain, and how much is left after it (log 58). -/
def execGetCertificate (part : SlotOffset) (len : Nat) (s : State) : Host.Outcome State Fault Refusal :=
  spdmSlot s part.slot (
    let k := kindOf s
    let all := Config.chainLength k
    let n := min len (all - part.offset)
    answer s (if all ≤ part.offset then .error else .certificate k (chainBytes k part.offset n) (all - part.offset - n)))

/-- CHALLENGE (R695). -/
def execChallenge (q : SlotNonce) (s : State) : Host.Outcome State Fault Refusal :=
  spdmSlot s q.slot (signedAnswer s (fun t g => .challengeAuth q.nonce (kindOf t) g (measure t)) id)
/-- GET_MEASUREMENTS (R694, R695). -/
def execGetMeasurements (q : SlotSigned) (s : State) : Host.Outcome State Fault Refusal :=
  spdmSlot s q.slot (if q.signed then signedAnswer s (fun t g => .measurements (some g) (kindOf t) (measure t)) id
    else answer s (.measurements none (kindOf s) (measure s)))
/-- KEY_EXCHANGE (R695) begins a session (log 58). -/
def execKeyExchange (q : SlotNonce) (s : State) : Host.Outcome State Fault Refusal :=
  spdmSlot s q.slot (signedAnswer s (fun t g => .keyExchangeRsp q.nonce (kindOf t) g (measure t))
    (fun t => { t with sec := { t.sec with session := true, secured := false } }))
/-- FINISH ends the handshake of a session. -/
def execFinish (s : State) : Host.Outcome State Fault Refusal :=
  spdm s (if s.sec.session && !s.sec.secured then answer { s with sec := { s.sec with secured := true } } .finishRsp else answer s .error)
/-- END_SESSION; IDE keys stay (R698). -/
def execEndSession (s : State) : Host.Outcome State Fault Refusal :=
  spdm s (if s.sec.secured then answer { s with sec := { s.sec with session := false, secured := false } } .endSessionAck else answer s .error)

/-- A vendor-defined response (R696, Table 16.7): the PCI-SIG identifier, the vendor ID, and a payload of the request's byte 0, RESULT, LEN
and the bytes (log 58). -/
def vendorAnswer (s : State) (code result : Nat) (bytes : List Nat) : State :=
  answer s (.vendor 3 ((Config.configWord 0).toNat % 2 ^ 16) ([code, result, bytes.length % 256, bytes.length / 256] ++ bytes))

/-- GET_COSIG (Table 16.7). -/
def execGetCosig (s : State) : Host.Outcome State Fault Refusal :=
  spdm s (match s.sec.cosig with
    | some l => vendorAnswer s 1 0 l
    | none => vendorAnswer s 1 1 [])

/-- The identity record in use (Table 16.4): its public keys are those of the identity; what the identity authority signed at manufacture, and
the codes of grade and top, are free (log 64). -/
def idRecord (s : State) : List Nat :=
  let k := idKeys s
  let q := ecdsaPublic k.ecdsa
  let free (a n : Nat) : List Nat := (List.range n).map (fun i => (Config.identityByte (kindOf s) (a + i)).toNat)
  [1, 0, bit (kindOf s), 0] ++ numBytes 16 s.nv.serial.toNat ++ free 20 1 ++ [s.fit.nStacks % 256, s.fit.iodies % 256] ++ free 23 1 ++
  beBytes 48 q.1 ++ beBytes 48 q.2 ++ hssPublic k.hss ++ List.replicate 12 0 ++ free 192 1868

/-- GET_IDREC (Table 16.7): LEN is at most 1,024, and the record has 2,060 bytes (log 58). -/
def execGetIdrec (offset len : Nat) (s : State) : Host.Outcome State Fault Refusal :=
  spdm s (if 1024 < len then answer s .error else if 2060 < offset + len then vendorAnswer s 2 2 []
    else vendorAnswer s 2 0 (slice (idRecord s) offset len))

/-- JOURNAL_HALF_ERASE (R691): firmware erases the other half when the one in use is nearly full, and not while the largest index stands only in the
other one: an index is never used twice (log 64). -/
def execJournalHalfErase (identity : Bool) (s : State) : Host.Outcome State Fault Refusal :=
  .next (
    let j := if identity then s.nv.dbgJournal else s.nv.prod
    if firmware s && decide (halfEntries - j.used < 1024) && nextIndex (switchHalf j) == j.next then
      { s with nv := if identity then { s.nv with dbgJournal := switchHalf j } else { s.nv with prod := switchHalf j } }
    else s)

/-! ### IDE keys (R697, R698) -/

/-- Places of a stream's active and pending key. -/
def activeKey (cxl : Bool) : Nat := if cxl then 2 else 0
def pendingKey (cxl : Bool) : Nat := activeKey cxl + 1

/-- What a message of IDE_KM does: KEY_PROG fills the pending set, K_SET_GO makes it the active one, K_SET_STOP empties the active one (log 58). -/
def ideApply (k : Vector (Option (BitVec 256)) 4) : IdeMsg → Vector (Option (BitVec 256)) 4
  | .program c v => k.setIfInBounds (pendingKey c) (some v)
  | .go c => match k.getD (pendingKey c) none with
    | some v => (k.setIfInBounds (activeKey c) (some v)).setIfInBounds (pendingKey c) none
    | none => k
  | .stop c => k.setIfInBounds (activeKey c) none

/-- IDE_KM, inside a secure session only. -/
def execIdeKm (m : IdeMsg) (s : State) : Host.Outcome State Fault Refusal :=
  spdm s (if s.sec.secured then answer { s with sec := { s.sec with keys := ideApply s.sec.keys m } } .ideAck else answer s .error)

/-! ### Firmware updates (R683 to R685, R708) -/

def fuOp (s : State) : Nat := field64 (reg64 s 0x10) 62 61
def fuSetPref (s : State) : Bool := (reg64 s 0x10).getLsbD 60
def fuTarget (s : State) : Bool := (reg64 s 0x10).getLsbD 59
def fuLen (s : State) : Nat := field64 (reg64 s 0x10) 24 0
def fuAddr (s : State) : Nat := field64 (reg64 s 0x18) 51 6 * 64

/-- An update is under way. -/
def fuBusy (s : State) : Bool := !s.pw.off && s.sec.fwState == 1 && (firmware s || inRecovery s)

/-- The update is done: GO returns to 0 and STS_FW_UPDATE shows the status. -/
def fuDone (s : State) (st : Status) : State :=
  let s1 := setReg64 s 0x10 (putBit (reg64 s 0x10) 63 false)
  { s1 with sec := { s1.sec with fwState := 2, fwStatus := statusCode st } }

/-- Bytes of host memory, in order. -/
def hostList (s : State) (a n : Nat) : List Nat := (List.range n).map (fun i => hostByte s (a + i))
/-- Where the signature block of an image lies: the first 64-byte boundary after the body (R680). -/
def sigBlock (body : Nat) : Nat := (64 + body + 63) / 64 * 64

/-- The image in host memory (Table 16.2): its header, and the two signatures of bytes 0 to 63 + BODY_LEN by the firmware authority (R679, R681). Its
signature block ends within the LEN bytes that firmware reads (R683). -/
def readImage (s : State) : Image :=
  let b (n k : Nat) : Nat := readHost s (fuAddr s + n) k
  let body := b 8 4
  let msg := hostList s (fuAddr s) (64 + body)
  let sig (o n : Nat) : List Nat := hostList s (fuAddr s + sigBlock body + o) n
  ⟨b 0 2 == 1 && b 2 2 == 0 && decide (sigBlock body + 1868 ≤ min (fuLen s) 25165824), ecdsaVerify s.fit.fwKey.x s.fit.fwKey.y (sig 0 96) msg,
   lmsVerify 20 s.fit.fwKey.lms (sig 96 1772) msg, b 4 4, b 12 4, hostList s (fuAddr s) (fuLen s)⟩

/-- Writes a slot (log 59). -/
def setFwSlot (s : State) (b : Bool) (i : Option Image) : State := { s with nv := if b then { s.nv with slotB := i } else { s.nv with slotA := i } }

/-- FW_UPDATE_WRITE (R683, R684) (log 59). -/
def fwUpdateWrite (s : State) (readBack : Bool) : State :=
  if !fuBusy s || fuOp s == 1 then s
  else if 2 ≤ fuOp s then fuDone s .format
  else if firmware s && s.bu.booted == fuTarget s then fuDone s .alias_
  else if fuLen s = 0 ∨ 25165824 < fuLen s ∨ 2 ^ 52 < fuAddr s + fuLen s then fuDone s .range
  else if hostRefuses s (fuAddr s) (fuLen s) || (linesOf (fuAddr s) (fuLen s)).any (hostPoisoned s) then fuDone s .dataDropped
  else
    let i := readImage s
    let r := imageResult s.nv.svn (some i)
    let s0 := bump s 57 (fuLen s)
    if r = 2 then fuDone s0 .auth
    else if r = 3 then fuDone s0 .format
    else if !readBack then fuDone (setFwSlot s0 (fuTarget s) none) .dataDropped
    else
      let s1 := setFwSlot s0 (fuTarget s) (some i)
      let s2 : State := if fuSetPref s then { s1 with nv := { s1.nv with pref := if fuTarget s then 1 else 0 } } else s1
      bump (fuDone s2 .ok) 71 1

/-- The three operands say which of R681's checks of the header, of the ECDSA and of the LMS/HSS signature pass on the image read back from
the slot (R683 step 3); the slot keeps the image only when all three do. -/
def execFwUpdateWrite (hdrBack ecdsaBack lmsBack : Bool) (s : State) : Host.Outcome State Fault Refusal :=
  .next (fwUpdateWrite s (hdrBack && ecdsaBack && lmsBack))

/-- FW_UPDATE_COMMIT (R685): fuses are blown up to the SVN of the running image (log 59). -/
def fwUpdateCommit (s : State) : State :=
  if fuBusy s && firmware s && fuOp s == 1 then
    fuDone { s with nv := { s.nv with svn := max s.nv.svn (((runningImage s).map (fun i => i.svn)).getD 0) } } .ok
  else s

def execFwUpdateCommit (s : State) : Host.Outcome State Fault Refusal := .next (fwUpdateCommit s)

end Sys2Proof.Machine
end

