-- ==== Sys2Proof/Machine/Debug.lean ====
section
/-!
DEFINITION. The Zubuthar Debug Port (16) and SMBus (18).
-/
namespace Sys2Proof.Machine

/-! ### The TAP (R699) -/

/-- The TAP answers on IO0's rail. -/
def tapRuns (s : State) : Bool := !s.pw.off && decide (2 ≤ s.bu.rails)
/-- The instruction register takes the code of Table 16.8, and the instruction acts. -/
def tap (s : State) (code : BitVec 8) (f : State → State) : Host.Outcome State Fault Refusal :=
  .next (if tapRuns s then f { s with sec := { s.sec with ir := code } } else s)
def bypass (s : State) : State := { s with resp := .tap 1 0 }

/-- The boundary-scan register takes the pins, and is shifted out; under EXTEST it drives them (log 69). -/
def boundaryScan (extest : Bool) (s : State) : State :=
  let v := Config.pins s.freeIx
  nextFree { s with sec := { s.sec with boundary := v }, resp := .boundary extest (if extest then s.sec.boundary else v) }

/-- EXTEST acts as BYPASS while the port is locked. -/
def execExtest (s : State) : Host.Outcome State Fault Refusal := tap s 0x00 (fun t => if t.sec.zdpOpen then boundaryScan true t else bypass t)
def execSamplePreload (s : State) : Host.Outcome State Fault Refusal := tap s 0x01 (boundaryScan false)
def execBypass (s : State) : Host.Outcome State Fault Refusal := tap s 0xFF bypass
/-- IDCODE (Table 16.8). -/
def idcode : Nat := Config.siliconRevision.toNat * 2 ^ 28 + 0x7E11 * 2 ^ 12 + Config.jedecCode.toNat * 2 + 1
def execIdcode (s : State) : Host.Outcome State Fault Refusal := tap s 0x02 (fun t => { t with resp := .tap 32 idcode })
def execZdpNonce (s : State) : Host.Outcome State Fault Refusal := tap s 0x11 (fun t => { t with resp := .tap 256 t.sec.nonce.toNat })

/-! ### Unlock (R702, R703) -/

/-- A ring is not DISABLED, a core runs, or an update is BUSY. -/
def zdpBusy (s : State) : Bool :=
  s.cm.rings.any (fun e => e.2.st != .disabled) || s.cores.any (fun e => match e.2.run with
    | some r => !r.complete
    | none => false) || s.sec.fwState == 1

/-- Bytes of a token (Table 16.10), as a list and as a number (R13). -/
def tokenBytes (t : BitVec 15456) (a n : Nat) : List Nat := (List.range n).map (fun i => t.toNat / 2 ^ (8 * (a + i)) % 256)
def tokenNat (t : BitVec 15456) (a n : Nat) : Nat := t.toNat / 2 ^ (8 * a) % 2 ^ (8 * n)
/-- VERSION and the fields that must be 0. -/
def tokenFields (t : BitVec 15456) : Bool := tokenNat t 0 2 == 1 && tokenNat t 2 2 == 0 && tokenNat t 52 12 == 0
/-- Both signatures of bytes 0 to 63 verify under the debug authority's keys (R679). -/
def tokenSigned (k : AuthKey) (t : BitVec 15456) : Bool :=
  ecdsaVerify k.x k.y (tokenBytes t 64 96) (tokenBytes t 0 64) && lmsVerify 20 k.lms (tokenBytes t 160 1772) (tokenBytes t 0 64)

/-- The checks of a token, in order. -/
def tokenStatus (s : State) (t : BitVec 15456) : Status :=
  if zdpBusy s then .alias_
  else if !tokenFields t then .format
  else if tokenNat t 4 16 != s.nv.serial.toNat || tokenNat t 20 32 != s.sec.nonce.toNat then .auth
  else if !tokenSigned s.fit.dbgKey t then .auth
  else .ok

/-- E1 to E7. -/
def unlock (s : State) : State :=
  let s1 := if s.nv.debugOpened then s else eraseSecrets { s with nv := { s.nv with eraseStarted := true } }
  { s1 with sec := { s1.sec with keys := Vector.replicate 4 none, zdpOpen := true } }

/-- ZDP_TOKEN: a new nonce is drawn whatever the outcome. -/
def zdpToken (s : State) (t : BitVec 15456) : State :=
  let st := tokenStatus s t
  let s1 := if st = .ok then unlock s else bump s 70 1
  nextFree { s1 with sec := { s1.sec with lastStatus := statusCode st, nonce := Config.nonce s1.freeIx } }

def execZdpToken (t : BitVec 15456) (s : State) : Host.Outcome State Fault Refusal := tap s 0x12 (fun u => zdpToken u t)

/-! ### ZDP_CMD (R700, R701, R707) -/

/-- Breakpoints of a target (Table 16.9) (log 66). -/
def maxBreakpoints : ZdpTarget → Nat
  | .mgmt => 8
  | .ringCp r => if r < 256 then 4 else 0
  | _ => 0

def halts : ZdpTarget → Bool
  | .mgmt => true
  | .ringCp r => decide (r < 256)
  | _ => false

/-- A status, and a result that the next shift of ZDP_CMD reads. -/
def zdpDone (s : State) (st : Status) : State := { s with sec := { s.sec with lastStatus := statusCode st } }
def zdpRead (s : State) (v : Nat) : State :=
  let t := zdpDone s .ok
  { t with sec := { t.sec with zdpResult := v } }
/-- What the target does not allow leaves an open status (log 60). -/
def zdpRefuse (s : State) : State := nextFree { s with sec := { s.sec with lastStatus := (Config.debugStatus s.freeIx).toNat } }
/-- The command waits for its line: from the host, or for the commit of its block (R357, R619) (log 66). -/
def zdpHold (s : State) (op : ZdpOp) (a : ZdpAddr) (data : Line) : State := { s with sec := { s.sec with zdpWait := some (op, a, data) } }

/-! #### Registers and the SPI NOR -/

/-- Registers of a processor, by target and number. -/
def dbgKey (t n : Nat) : Nat := t * 2 ^ 64 + n % 2 ^ 64
/-- A register that was written through the port holds what was written, until its processor runs again; every other value is free (log 66). -/
def dbgReg (s : State) (t n : Nat) : Nat :=
  match s.sec.dbgRegs.find? (fun e => e.1 == dbgKey t n) with
  | some e => e.2
  | none => Config.debugRead s.freeIx t n
def setDbgReg (s : State) (t n v : Nat) : State :=
  { s with sec := { s.sec with dbgRegs := (dbgKey t n, v) :: s.sec.dbgRegs.filter (fun e => e.1 != dbgKey t n) } }
def dropDbgRegs (s : State) (t : Nat) : State := { s with sec := { s.sec with dbgRegs := s.sec.dbgRegs.filter (fun e => e.1 / 2 ^ 64 != t) } }
/-- The number of a target's processor. -/
def procOf : ZdpTarget → Nat
  | .ringCp r => r + 1
  | _ => 0

/-- A byte of a firmware slot; what an update did not write is erased (log 59). -/
def slotByte (i : Option Image) (a at_ : Nat) : Nat :=
  match i with
  | none => 0xFF
  | some m => if m.bytes.isEmpty then (Config.norByte at_).toNat else m.bytes.getD a 0xFF
/-- A byte of a journal. -/
def journalByte (j : Journal) (a : Nat) : Nat :=
  match j.cells.find? (fun c => c.1 == a / 16) with
  | some c => c.2 / 256 ^ (a % 16) % 256
  | none => 0xFF
/-- A byte of the SPI NOR (Table 16.3); the partitions whose contents the state does not hold byte for byte are free (log 66). -/
def norByte (s : State) (a : Nat) : Nat :=
  if a < 0x1800000 then slotByte s.nv.slotA a a
  else if a < 0x3000000 then slotByte s.nv.slotB (a - 0x1800000) a
  else if a = 0x3000000 then s.nv.pref.toNat
  else if 0x3090000 ≤ a ∧ a < 0x3190000 then journalByte s.nv.prod (a - 0x3090000)
  else if 0x3190000 ≤ a ∧ a < 0x3290000 then journalByte s.nv.dbgJournal (a - 0x3190000)
  else (Config.norByte a).toNat

/-! #### Targets -/

/-- What a stopped core shows. -/
def coreRead (s : State) (c : Nat) : ZdpAddr → Option Nat
  | .s i => some (getS (coreOf s c) i).toNat
  | .p => some (coreOf s c).pr.toNat
  | .a i => some (getA (coreOf s c) i).toNat
  | .v i => some (getV (coreOf s c) i.toNat).toNat
  | .tile t row => if t < 16 ∧ row < 16 then some (dumpRow s t (tileOf (coreOf s c) t) row) else none
  | .tileState t => if t < 16 then some (tileWord (tileOf (coreOf s c) t)) else none
  | .flag i => if i < 256 then some (bit (flagOf (coreOf s c) i)) else none
  | _ => none

/-- The core is stopped at a STOP (log 66). -/
def coreAtStop (s : State) (c : Nat) : Bool :=
  present s c && coreIsStopped (coreOf s c) && (stoppedAt (coreOf s c).ae || stoppedAt (coreOf s c).xe)

def readTarget (s : State) : ZdpTarget → ZdpAddr → State
  | .mgmt, .bar0 off => zdpRead s (readBar0 s off).toNat
  | .mgmt, .register n => zdpRead (nextFree s) (dbgReg s 0 n)
  | .mgmt, .nor n => zdpRead s (norByte s n)
  | .ringCp r, .ring => if r < 256 then zdpRead s (stsRing s r).toNat else zdpRefuse s
  | .ringCp r, .register n => if r < 256 then zdpRead (nextFree s) (dbgReg s (r + 1) n) else zdpRefuse s
  | .core c, a =>
    if coreAtStop s c then match coreRead s c a with
      | some v => zdpRead (nextFree s) v
      | none => zdpRefuse s
    else zdpRefuse s
  | .range, .line l =>
    if 2 ^ 34 ≤ l then zdpDone s .range
    else if hostHolds s l then zdpHold (sendBisnp s l) .read (.line l) 0
    else if mapped s (blockOfLine l) then zdpRead s (readLine s l).toNat else zdpDone s .page
  | _, _ => zdpRefuse s

def writeTarget (s : State) (data : Line) : ZdpTarget → ZdpAddr → State
  | .mgmt, .register n => zdpDone (setDbgReg s 0 n data.toNat) .ok
  | .ringCp r, .register n => if r < 256 then zdpDone (setDbgReg s (r + 1) n data.toNat) .ok else zdpRefuse s
  | .range, .line l =>
    if 2 ^ 34 ≤ l then zdpDone s .range
    else if hostHolds s l then zdpHold (sendBisnp s l) .write (.line l) data
    else if inCopy s (blockOfLine l) then zdpHold s .write (.line l) data
    else if mapped s (blockOfLine l) then zdpDone (writeLine s l data) .ok else zdpDone s .page
  | _, _ => zdpRefuse s

/-- A halted processor goes on: its registers are its own again, and what the management processor kept back goes out (R701). -/
def zdpGo (s : State) (t : ZdpTarget) : State :=
  let s1 := dropDbgRegs { s with sec := { s.sec with zdpHalted := s.sec.zdpHalted.filter (fun x => x != t) } } (procOf t)
  if mgmtHalted s1 then s1 else pumpRemotes { s1 with fb := { s1.fb with fwOut := s1.fb.fwOut ++ s1.fb.fwHeld, fwHeld := [] } }

/-- A command of the open port (log 60, log 66). -/
def zdpDo (s : State) (op : ZdpOp) (t : ZdpTarget) (a : ZdpAddr) (data : Line) : State :=
  match op with
  | .halt => if halts t then zdpDone { s with sec := { s.sec with zdpHalted := (t :: s.sec.zdpHalted).eraseDups } } .ok else zdpRefuse s
  | .step => if halts t && s.sec.zdpHalted.contains t then zdpDone (dropDbgRegs s (procOf t)) .ok else zdpRefuse s
  | .breakpoint =>
    if s.sec.breakpoints.count t < maxBreakpoints t then zdpDone { s with sec := { s.sec with breakpoints := t :: s.sec.breakpoints } } .ok
    else zdpRefuse s
  | .resume =>
    match t with
    | .core c => if coreAtStop s c then zdpDone (resumeCore s c) .ok else zdpRefuse s
    | _ => if halts t then zdpDone (zdpGo s t) .ok else zdpRefuse s
  | .read => readTarget s t a
  | .write => writeTarget s data t a

/-- A command that waits for its line is tried again. -/
def zdpRetry (s : State) : State :=
  match s.sec.zdpWait with
  | some (op, a, d) => zdpDo { s with sec := { s.sec with zdpWait := none } } op .range a d
  | none => s

/-- ZDP_STATUS (Table 16.8): BUSY while a command waits for its line (log 66). -/
def zdpStatus (s : State) : Nat := s.sec.lastStatus * 2 ^ 16 + bit s.sec.zdpWait.isSome * 4 + bit s.nv.debugOpened * 2 + bit s.sec.zdpOpen
def execZdpStatus (s : State) : Host.Outcome State Fault Refusal :=
  tap s 0x10 (fun t =>
    let u := zdpRetry t
    { u with resp := .tap 32 (zdpStatus u) })

/-- ZDP_CMD acts as BYPASS while the port is locked. The shift reads the result of the command before it (R700); while that one waits for its line, no
other is taken (log 66). -/
def execZdpCmd (op : ZdpOp) (t : ZdpTarget) (addr : ZdpAddr) (data : Line) (s : State) : Host.Outcome State Fault Refusal :=
  tap s 0x20 (fun u =>
    if u.sec.zdpOpen then
      let v := zdpRetry u
      let w := { v with resp := .zdp v.sec.zdpResult }
      if v.sec.zdpWait.isSome then w else zdpDo w op t addr data
    else bypass u)

/-! ### SMBus (R753, Table 18.8) -/

/-- The module answers from step 2 of Table 15.2 until Off. -/
def smbus (s : State) (l : List Nat) : Host.Outcome State Fault Refusal := .next (if tapRuns s then { s with resp := .smbus l } else s)
def execSmbusPartNumber (s : State) : Host.Outcome State Fault Refusal := smbus s ((partNumber s ++ List.replicate 32 0).take 32)
def execSmbusSerial (s : State) : Host.Outcome State Fault Refusal := smbus s (numBytes 16 s.nv.serial.toNat)
def execSmbusTopState (s : State) : Host.Outcome State Fault Refusal :=
  smbus s (numBytes 4 (s.pw.top + 4 * bit s.pw.topUnknown + 8 * s.pw.st))
def execSmbusPower (s : State) : Host.Outcome State Fault Refusal := smbus s (numBytes 4 (s.pw.inputW + 65536 * limitW s))
/-- The input voltage is the sensor's reading (R753). -/
def execSmbusThermal (volts : Nat) (s : State) : Host.Outcome State Fault Refusal := smbus s [min 255 s.pw.tj, volts % 256]

end Sys2Proof.Machine
end

