-- ==== Sys2Proof/Machine/Matrix.lean ====
section
/-!
DEFINITION. Matrix slot (Table 04.11). Each row is the issue of a bundle that holds this one slot, without a guard, at the engine's program
counter (6 bytes, R144, R145): its waits, its faults and its effect are those of Issue.
-/
namespace Sys2Proof.Machine

/-- MMUL (R172, R226, R227, R232). -/
def execMmul (c : Nat) (f : FMM) (s : State) : Host.Outcome State Fault Refusal :=
  .next (issue s c true { matrix := some (.mmul f) } 6)

/-- MDRAIN (R174 to R178). -/
def execMdrain (c : Nat) (f : FMD) (s : State) : Host.Outcome State Fault Refusal :=
  .next (issue s c true { matrix := some (.mdrain f) } 6)

/-- MZERO (R179). -/
def execMzero (c : Nat) (mask : BitVec 8) (s : State) : Host.Outcome State Fault Refusal :=
  .next (issue s c true { matrix := some (.mzero mask) } 6)

/-- MSWAP (R179). -/
def execMswap (c : Nat) (s : State) : Host.Outcome State Fault Refusal :=
  .next (issue s c true { matrix := some (.mswap) } 6)

/-- TREL (R179). -/
def execTrel (c : Nat) (mask : BitVec 16) (s : State) : Host.Outcome State Fault Refusal :=
  .next (issue s c true { matrix := some (.trel mask) } 6)

end Sys2Proof.Machine
end

