-- ==== Sys2Proof/Machine/RegWrite.lean ====
section
/-!
DEFINITION. Writes of BAR0 (14, 20): which bits of each register a write changes, and what a write sets going.
-/
namespace Sys2Proof.Machine

/-! ### RW fields (Table 20.1 and the field maps it names) -/

/-- RW bits of the registers of the first 4 KiB. -/
def rwLow (o : Nat) : Nat :=
  if o = 0x10 then 0x01FFFFFF else if o = 0x14 then 0xF8000000 else if o = 0x18 then 0xFFFFFFC0 else if o = 0x1C then 0x000FFFFF  -- CFG_FW_UPDATE
  else if o = 0x28 then 0xFFFFFFC0 else if o = 0x2C then 0xC00FFFFF                  -- CFG_SYSTAB
  else if o = 0x40 then 0xFF00 else if o = 0x44 then 0x8000FFFF                      -- CFG_POWER
  else if o = 0x60 then 0x3F3F else if o = 0x64 then 0x80000000                      -- CFG_IRQ_EVENT
  else if o = 0x70 then 0xFFFFF000 else if o = 0x74 then 0xF0FFFFFF                  -- CFG_STOP_CTL
  else if 0x80 ≤ o ∧ o < 0xC0 then 0xFFFFFFFF                                        -- CFG_STOP_INSERT
  else if o = 0x100 then 0x31F else if o = 0x104 then 0x1F else if o = 0x108 then 0xFFFF else if o = 0x10C then 0x80FFF01F
  else if o = 0x110 ∨ o = 0x114 then 0xFFFFFFFF                                      -- CFG_GRINDER_SEED
  else if o = 0x124 then 0xFF01                                                      -- CFG_SHUTTER
  else if o = 0x130 then 0xFFFFFF00 else if o = 0x134 then 0x000FFFFF                -- CFG_BXL
  else if o = 0x148 then 0xFFFFFFC0 else if o = 0x14C then 0xFF                      -- CFG_TSTRIP_POST
  else if o = 0x150 ∨ o = 0x154 then 0xFFFFFFFF                                      -- CFG_TSTRIP_SPIKE
  else if o = 0x158 then 0xFFE00000 else if o = 0x15C then 0x800000FF                -- CFG_RESIL_LOG
  else if o = 0x160 then 0xFFFF0000 else if o = 0x164 then 0xC00FFFFF                -- CFG_CSHEET word 0
  else if o = 0x16C then 0xFFFFFFFF                                                  -- word 1
  else if o = 0x170 then 0xFFFF0000 else if o = 0x174 then 0x000FFFFF                -- word 2
  else 0

/-- RW bits of a 32-bit word; CFG_TSTRIP and CFG_RING have their own ways in. -/
def rwMask (s : State) (o : Nat) : Word :=
  BitVec.ofNat 32 (
    if o < 0x1000 then rwLow o
    else if o < 0x1400 then (if o % 16 = 0 then 0xFFFFFFFC else if o % 16 = 12 then 1 else 0xFFFFFFFF)     -- MSI-X table
    else if 0x2100 ≤ o ∧ o < 0x2180 then (if portPresent s ((o - 0x2100) / 4) then 0xD else 0)             -- CFG_BXL_PORT
    else if 0x2400 ≤ o ∧ o < 0x2600 then (if o % 8 = 0 then 0xFFFFFFC0 else 0x800000FF)                    -- CFG_SYNC_DOMAIN
    else if 0x2800 ≤ o ∧ o < 0x2A00 then (if o % 8 = 0 then 0xFFFFFFFF else 0x8000FFFF)                    -- CFG_RED_EXTEND
    else if 0x3000 ≤ o ∧ o < 0x3780 then (if o % 32 = 28 then 0xF1E else 0xFFFFFFFF)                       -- CFG_FIXER_SCHED
    else if 0x100000 ≤ o ∧ o < 0x120000 then (if o % 8 = 0 then 0xFFFFFFFF else 0xFF80FFFF)                -- CFG_BXL_ROUTE
    else 0)

/-- A write changes the RW bits of a word. -/
def putWord (s : State) (o : Nat) (w : Word) : State := setReg32 s o ((reg32 s o &&& ~~~ rwMask s o) ||| (w &&& rwMask s o))

/-- The 32-bit words of an access: 4 or 8 bytes. -/
def wordsOf (off size : Nat) (v : BitVec 64) : List (Nat × Word) :=
  if size = 8 then [(off, v.setWidth 32), (off + 4, (v >>> 32).setWidth 32)] else [(off, v.setWidth 32)]

/-- A 64-bit register after the words of an access that fall in it. -/
def merged (old : BitVec 64) (base : Nat) (ws : List (Nat × Word)) : BitVec 64 :=
  ws.foldl (fun x e =>
    if e.1 = base then (x.extractLsb' 32 32 : Word) ++ e.2
    else if e.1 = base + 4 then e.2 ++ (x.extractLsb' 0 32 : Word) else x) old

/-! ### Rings (R620, R628) -/

/-- Words 0 to 2 of CFG_RING; ignored while EN is 1. -/
def putRingWord (s : State) (o : Nat) (w : Word) : State :=
  let k := o % 32
  let m : Word := if k % 8 = 4 then 0x000FFFFF else if k = 16 then 0xFFFFFFF8 else 0xFFFFF000
  if 24 ≤ k then s else setReg32 s o (w &&& m)

def ringWrite (s : State) (r : Nat) (ws : List (Nat × Word)) : State :=
  let base := ringReg r + 24
  let old := reg64 s base
  let new := merged old base ws &&& 0xFFFF00000000001F
  if old.getLsbD 63 then (if new.getLsbD 63 then s else ringDisable s r)
  else
    let s1 := setReg64 (ws.foldl (fun t e => putRingWord t e.1 e.2) s) base (putBit new 63 false)
    if new.getLsbD 63 then ringEnable s1 r new
    else if (ringOf s1 r).st == .error && touchesEn then ringDisable s1 r else s1
where
  /-- The access writes the word that holds EN: host clears EN of a ring whose drain ended in ERROR (R627). -/
  touchesEn : Bool := ws.any (fun e => e.1 % 32 == 28)

/-! ### What a write sets going -/

/-- MSI-X (R770): a vector that is unmasked while pending is sent (log 5). -/
def unmask (s : State) (o : Nat) : State :=
  let v := (o - 0x1000) / 16
  if 0x1000 ≤ o ∧ o < 0x1400 ∧ (reg32 s (0x1000 + 16 * v + 12)).getLsbD 0 = false ∧ s.cm.msixPend.getLsbD v = true then
    msixEmit { s with cm := { s.cm with msixPend := putBit s.cm.msixPend v false } } v
  else s

/-- The write of EN of a port. -/
def portWrite (s : State) (p : Nat) (w : Word) : State :=
  if !portPresent s p then s
  else
    let o := 0x2100 + 4 * p
    let s1 := setReg32 s o ((w &&& 0xC) ||| (reg32 s o &&& 1))
    if w.getLsbD 0 then enablePort s1 p
    else portDown (setReg32 s1 o (reg32 s1 o &&& 0xC)) p

/-- GO of CFG_FW_UPDATE: ignored while an update is BUSY, and for a COMMIT in recovery (R684, R685) (log 59). -/
def fwGo (s : State) (old : BitVec 64) : State :=
  let new := reg64 s 0x10
  if s.sec.fwState = 1 then setReg64 s 0x10 (putBit new 63 (old.getLsbD 63))
  else if !new.getLsbD 63 then s
  else if inRecovery s && fuOp s == 1 then setReg64 s 0x10 (putBit new 63 false)
  else { s with sec := { s.sec with fwState := 1 } }

/-- A route word is written, `old` the state before: operations sent on a route that is withdrawn are sent again, and held ones may go (R503,
R538). -/
def routeWritten (old s : State) (dst k : Nat) : State :=
  if routeUsable s dst k then pumpRemotes s
  else resendRemotes s (fun o => !o.fw && o.dst == dst && o.port == routePort old dst k && o.hops == routeHops old dst k)

/-- The plain registers: words change, then what EN bits and the like start. -/
def plainWrite (s : State) (ws : List (Nat × Word)) : State :=
  let s1 := ws.foldl (fun t e => putWord t e.1 e.2) s
  let touches (o : Nat) : Bool := ws.any (fun e => e.1 == o)
  if touches 0x14 then fwGo s1 (reg64 s 0x10)
  else if touches 0x74 then
    (if (reg32 s1 0x74).getLsbD 30 && !(reg32 s 0x74).getLsbD 30 then { s1 with sec := { s1.sec with seq := 0 } } else s1)
  else match ws with
    | (o, _) :: _ =>
      if 0x1000 ≤ o ∧ o < 0x1400 then unmask s1 o
      else if 0x2400 ≤ o ∧ o < 0x2600 then
        let d := (o - 0x2400) / 8
        if (reg64 s1 (0x2400 + 8 * d)).getLsbD 63 && !(reg64 s (0x2400 + 8 * d)).getLsbD 63 then
          { s1 with sh := { s1.sh with domCount := tset zeroN s1.sh.domCount d 0 } } else s1
      else if 0x100000 ≤ o then pumpRoutes (routeWritten s s1 ((o - 0x100000) / 32) (o % 32 / 8))
      else s1
    | [] => s1

/-- BAR0 is there (R650, R766). -/
def barOpen (s : State) : Bool := !s.pw.off && s.bu.cfgReady && !s.bu.perst

/-! ### W1C (R642, R513, R765) -/

/-- The W1C bits of an access: those of STS_EVENT, and VALID of STS_SHUTTER_ERR (log 70). -/
def clearBits (s : State) (ws : List (Nat × Word)) : State :=
  ws.foldl (fun t e =>
    if e.1 = 0x68 then { t with cm := { t.cm with event := t.cm.event &&& ~~~ (e.2.setWidth 6) } }
    else if e.1 = 0x12C ∧ e.2.getLsbD 31 = true then { t with sh := { t.sh with err := putBit t.sh.err 63 false } }
    else t) s

/-- W1C_WRITE: a 64-bit access (log 70). -/
def execW1cWrite (off : Nat) (v : BitVec 64) (s : State) : Host.Outcome State Fault Refusal :=
  .next (if barOpen s && !unpowered s off then clearBits s (wordsOf off 8 v) else s)

/-! ### REGISTER_WRITE (R616, R620, R761, R762) -/

/-- A naturally aligned access of 4 or 8 bytes. -/
def accessOk (off size : Nat) : Bool := (size == 4 || size == 8) && decide (off % size = 0) && decide (off + size ≤ 2 ^ 24)

def registerWrite (s : State) (off size : Nat) (v : BitVec 64) : State :=
  if !barOpen s || !accessOk off size || unpowered s off then s
  else
    let ws := wordsOf off size v
    if 0x4000 ≤ off ∧ off < 0x6000 then ringWrite s ((off - 0x4000) / 32) ws
    else if off = 0x140 ∨ off = 0x144 then setTstrip s (merged (reg64 s 0x140) 0x140 ws)
    else if 0x2100 ≤ off ∧ off < 0x2180 then ws.foldl (fun t e => portWrite t ((e.1 - 0x2100) / 4) e.2) s
    else plainWrite (clearBits s ws) ws

def execRegisterWrite (off size : Nat) (v : BitVec 64) (s : State) : Host.Outcome State Fault Refusal := .next (registerWrite s off size v)

/-- BAR0_UNSUPPORTED_ACCESS (R616): Unsupported Request, and no effect. -/
def execBar0UnsupportedAccess (off size : Nat) (_write : Bool) (s : State) : Host.Outcome State Fault Refusal :=
  .next (if barOpen s && !accessOk off size then { s with resp := .unsupported } else s)

end Sys2Proof.Machine
end

