-- ==== Sys2Proof/Machine/Scalar.lean ====
section
/-!
DEFINITION. Scalar slot (Table 04.3). Each row is the issue of a bundle that holds this one slot, without a guard, at the engine's program
counter (6 bytes, R144, R145): its waits, its faults and its effect are those of Issue.
-/
namespace Sys2Proof.Machine

/-- ADD, SUB, AND, OR, XOR (R94, R159). -/
def execAddSubAndOrXor (c : Nat) (op : Alu) (f : FSR) (s : State) : Host.Outcome State Fault Refusal :=
  .next (issue s c true { scalar := some (.alu op f) } 6)

/-- SHL, SHR, SRA (R159). -/
def execShlShrSra (c : Nat) (op : Shift) (f : FSR) (s : State) : Host.Outcome State Fault Refusal :=
  .next (issue s c true { scalar := some (.shift op f) } 6)

/-- MUL (R159). -/
def execMul (c : Nat) (f : FSR) (s : State) : Host.Outcome State Fault Refusal :=
  .next (issue s c true { scalar := some (.mul f) } 6)

/-- MIN, MAX, MINU, MAXU (R159). -/
def execMinMaxMinuMaxu (c : Nat) (op : MinMax) (f : FSR) (s : State) : Host.Outcome State Fault Refusal :=
  .next (issue s c true { scalar := some (.minmax op f) } 6)

/-- ADDI (R157, R159). -/
def execAddi (c : Nat) (f : FSI) (s : State) : Host.Outcome State Fault Refusal :=
  .next (issue s c true { scalar := some (.addi f) } 6)

/-- ANDI, ORI, XORI (R157). -/
def execAndiOriXori (c : Nat) (op : Logic) (f : FSI) (s : State) : Host.Outcome State Fault Refusal :=
  .next (issue s c true { scalar := some (.logi op f) } 6)

/-- SHLI, SHRI, SRAI (R159). -/
def execShliShriSrai (c : Nat) (op : Shift) (f : FSI) (s : State) : Host.Outcome State Fault Refusal :=
  .next (issue s c true { scalar := some (.shifti op f) } 6)

/-- LUI (R159). -/
def execLui (c : Nat) (f : FSI) (s : State) : Host.Outcome State Fault Refusal :=
  .next (issue s c true { scalar := some (.lui f) } 6)

/-- CMPEQ, CMPNE, CMPLT, CMPLTU (R159). -/
def execCmpReg (c : Nat) (op : Rel) (f : FSC) (s : State) : Host.Outcome State Fault Refusal :=
  .next (issue s c true { scalar := some (.cmp op f) } 6)

/-- CMPEQI, CMPNEI, CMPLTI, CMPLTUI (R159). -/
def execCmpImm (c : Nat) (op : Rel) (f : FSC) (s : State) : Host.Outcome State Fault Refusal :=
  .next (issue s c true { scalar := some (.cmpi op f) } 6)

/-- PAND, POR, PXOR, PANDN (R159). -/
def execPlogic (c : Nat) (op : PLogic) (f : FSP) (s : State) : Host.Outcome State Fault Refusal :=
  .next (issue s c true { scalar := some (.plog op f) } 6)

/-- PNOT (R159). -/
def execPnot (c : Nat) (f : FSP) (s : State) : Host.Outcome State Fault Refusal :=
  .next (issue s c true { scalar := some (.pnot f) } 6)

/-- SEL (R159). -/
def execSel (c : Nat) (f : FSR) (s : State) : Host.Outcome State Fault Refusal :=
  .next (issue s c true { scalar := some (.sel f) } 6)

/-- LQS (R102). -/
def execLqs (c : Nat) (f : FSR) (s : State) : Host.Outcome State Fault Refusal :=
  .next (issue s c true { scalar := some (.lqs f) } 6)

/-- SQS (R107, R108). -/
def execSqs (c : Nat) (f : FSR) (s : State) : Host.Outcome State Fault Refusal :=
  .next (issue s c true { scalar := some (.sqs f) } 6)

/-- SRSEED (R68, R161). -/
def execSrseed (c : Nat) (f : FSR) (s : State) : Host.Outcome State Fault Refusal :=
  .next (issue s c true { scalar := some (.srseed f) } 6)

/-- GETID (Table 04.8). -/
def execGetid (c : Nat) (f : FSI) (s : State) : Host.Outcome State Fault Refusal :=
  .next (issue s c true { scalar := some (.getid f) } 6)

/-- BC (R109, R110, R160). -/
def execBc (c : Nat) (f : FSB) (s : State) : Host.Outcome State Fault Refusal :=
  .next (issue s c true { scalar := some (.bc f) } 6)

/-- JMP (R160). -/
def execJmp (c : Nat) (f : FSB) (s : State) : Host.Outcome State Fault Refusal :=
  .next (issue s c true { scalar := some (.jmp f) } 6)

end Sys2Proof.Machine
end

