-- ==== Sys2Proof/Machine/SyncSlot.lean ====
section
/-!
DEFINITION. Sync slot (Table 04.15). Each row is the issue of a bundle that holds this one slot, without a guard, at the engine's program
counter (6 bytes, R144, R145): its waits, its faults and its effect are those of Issue.
-/
namespace Sys2Proof.Machine

/-- SET (R114, R185, R483, R484). -/
def execSet (c : Nat) (x : Bool) (f : FSF) (s : State) : Host.Outcome State Fault Refusal :=
  .next (issue s c x { sync := some (.set f) } 6)

/-- CLR (R114, R185, R483, R484). -/
def execClr (c : Nat) (x : Bool) (f : FSF) (s : State) : Host.Outcome State Fault Refusal :=
  .next (issue s c x { sync := some (.clr f) } 6)

/-- WAITC (R186, R478, R480). -/
def execWaitc (c : Nat) (x : Bool) (f : FSF) (s : State) : Host.Outcome State Fault Refusal :=
  .next (issue s c x { sync := some (.waitc f) } 6)

/-- TEST (R188). -/
def execTest (c : Nat) (x : Bool) (f : FSF) (s : State) : Host.Outcome State Fault Refusal :=
  .next (issue s c x { sync := some (.test f) } 6)

/-- BRX (R119 to R122). -/
def execBrx (c : Nat) (f : FSX) (s : State) : Host.Outcome State Fault Refusal :=
  .next (issue s c false { sync := some (.brx f) } 6)

/-- STOP (R191). -/
def execStop (c : Nat) (x : Bool) (id : BitVec 16) (s : State) : Host.Outcome State Fault Refusal :=
  .next (issue s c x { sync := some (.stop id) } 6)

/-- END (R189). -/
def execEndStream (c : Nat) (x : Bool) (s : State) : Host.Outcome State Fault Refusal :=
  .next (issue s c x { sync := some (.end_) } 6)

end Sys2Proof.Machine
end

