-- ==== Sys2Proof/Machine/Vector.lean ====
section
/-!
DEFINITION. Vector slot (Table 04.9). Each row is the issue of a bundle that holds this one slot, without a guard, at the engine's program
counter (6 bytes, R144, R145): its waits, its faults and its effect are those of Issue.
-/
namespace Sys2Proof.Machine

/-- VADD, VSUB, VMUL (R92, R93). -/
def execVaddVsubVmul (c : Nat) (op : VArith) (f : FVR) (s : State) : Host.Outcome State Fault Refusal :=
  .next (issue s c true { vector := some (.arith op f) } 6)

/-- VFMA (R92). -/
def execVfma (c : Nat) (f : FVR) (s : State) : Host.Outcome State Fault Refusal :=
  .next (issue s c true { vector := some (.fma f) } 6)

/-- VFMS (R159). -/
def execVfms (c : Nat) (f : FVR) (s : State) : Host.Outcome State Fault Refusal :=
  .next (issue s c true { vector := some (.fms f) } 6)

/-- VMIN, VMAX (R159). -/
def execVminVmax (c : Nat) (mx : Bool) (f : FVR) (s : State) : Host.Outcome State Fault Refusal :=
  .next (issue s c true { vector := some (.minmax mx f) } 6)

/-- VABS, VNEG (R159). -/
def execVabsVneg (c : Nat) (neg : Bool) (f : FVR) (s : State) : Host.Outcome State Fault Refusal :=
  .next (issue s c true { vector := some (.absneg neg f) } 6)

/-- VSQRT (R159). -/
def execVsqrt (c : Nat) (f : FVR) (s : State) : Host.Outcome State Fault Refusal :=
  .next (issue s c true { vector := some (.sqrt f) } 6)

/-- VRCP, VRSQ, VEXP2, VLOG2 (R164). -/
def execVfunc (c : Nat) (op : VFunc) (f : FVR) (s : State) : Host.Outcome State Fault Refusal :=
  .next (issue s c true { vector := some (.func op f) } 6)

/-- VAND, VOR, VXOR (R159). -/
def execVlogic (c : Nat) (op : Logic) (f : FVR) (s : State) : Host.Outcome State Fault Refusal :=
  .next (issue s c true { vector := some (.bitw op f) } 6)

/-- VSHL, VSHR, VSRA (R159). -/
def execVshift (c : Nat) (op : Shift) (f : FVR) (s : State) : Host.Outcome State Fault Refusal :=
  .next (issue s c true { vector := some (.shift op f) } 6)

/-- VCMPEQ, VCMPLT, VCMPLE (R163). -/
def execVcmp (c : Nat) (op : VRel) (f : FVR) (s : State) : Host.Outcome State Fault Refusal :=
  .next (issue s c true { vector := some (.cmp op f) } 6)

/-- VSEL (R163) (log 19). -/
def execVsel (c : Nat) (f : FVR) (s : State) : Host.Outcome State Fault Refusal :=
  .next (issue s c true { vector := some (.sel f) } 6)

/-- VREDSUM (R165). -/
def execVredsum (c : Nat) (f : FVR) (s : State) : Host.Outcome State Fault Refusal :=
  .next (issue s c true { vector := some (.redsum f) } 6)

/-- VREDMAX (R165). -/
def execVredmax (c : Nat) (f : FVR) (s : State) : Host.Outcome State Fault Refusal :=
  .next (issue s c true { vector := some (.redmax f) } 6)

/-- VANY (R163). -/
def execVany (c : Nat) (f : FVP) (s : State) : Host.Outcome State Fault Refusal :=
  .next (issue s c true { vector := some (.any f) } 6)

/-- VCVT (R167, R168, R170). -/
def execVcvt (c : Nat) (f : FVC) (s : State) : Host.Outcome State Fault Refusal :=
  .next (issue s c true { vector := some (.cvt f) } 6)

/-- VCVTBS (R169). -/
def execVcvtbs (c : Nat) (f : FVC) (s : State) : Host.Outcome State Fault Refusal :=
  .next (issue s c true { vector := some (.cvtbs f) } 6)

/-- VCVTBD (R80, R169). -/
def execVcvtbd (c : Nat) (f : FVC) (s : State) : Host.Outcome State Fault Refusal :=
  .next (issue s c true { vector := some (.cvtbd f) } 6)

/-- VCVTBB (R84, R169). -/
def execVcvtbb (c : Nat) (f : FVC) (s : State) : Host.Outcome State Fault Refusal :=
  .next (issue s c true { vector := some (.cvtbb f) } 6)

/-- LQV (R102). -/
def execLqv (c : Nat) (f : FVR) (s : State) : Host.Outcome State Fault Refusal :=
  .next (issue s c true { vector := some (.lqv f) } 6)

/-- SQV (R107, R108). -/
def execSqv (c : Nat) (f : FVR) (s : State) : Host.Outcome State Fault Refusal :=
  .next (issue s c true { vector := some (.sqv f) } 6)

/-- VBCAST (R159). -/
def execVbcast (c : Nat) (f : FVS) (s : State) : Host.Outcome State Fault Refusal :=
  .next (issue s c true { vector := some (.bcast f) } 6)

/-- VMOVS (R162). -/
def execVmovs (c : Nat) (f : FVS) (s : State) : Host.Outcome State Fault Refusal :=
  .next (issue s c true { vector := some (.movs f) } 6)

/-- VTR (R212, R213). -/
def execVtr (c : Nat) (f : FVT) (s : State) : Host.Outcome State Fault Refusal :=
  .next (issue s c true { vector := some (.vtr f) } 6)

/-- VTW (R212, R214). -/
def execVtw (c : Nat) (f : FVT) (s : State) : Host.Outcome State Fault Refusal :=
  .next (issue s c true { vector := some (.vtw f) } 6)

end Sys2Proof.Machine
end

