-- ==== Sys2Proof/Machine/Dispatch.lean ====
section
/-!
DEFINITION. One arm for each row of the table: a direct call of its meaning.
-/
namespace Sys2Proof.Machine

def exec (i : Instr) (s : State) : Host.Outcome State Fault Refusal :=
  match i with
  | .bundleIssue c x => Sys2Proof.Machine.execBundleIssue c x s
  | .addSubAndOrXor c op f => Sys2Proof.Machine.execAddSubAndOrXor c op f s
  | .shlShrSra c op f => Sys2Proof.Machine.execShlShrSra c op f s
  | .mul c f => Sys2Proof.Machine.execMul c f s
  | .minMaxMinuMaxu c op f => Sys2Proof.Machine.execMinMaxMinuMaxu c op f s
  | .addi c f => Sys2Proof.Machine.execAddi c f s
  | .andiOriXori c op f => Sys2Proof.Machine.execAndiOriXori c op f s
  | .shliShriSrai c op f => Sys2Proof.Machine.execShliShriSrai c op f s
  | .lui c f => Sys2Proof.Machine.execLui c f s
  | .cmpReg c op f => Sys2Proof.Machine.execCmpReg c op f s
  | .cmpImm c op f => Sys2Proof.Machine.execCmpImm c op f s
  | .plogic c op f => Sys2Proof.Machine.execPlogic c op f s
  | .pnot c f => Sys2Proof.Machine.execPnot c f s
  | .sel c f => Sys2Proof.Machine.execSel c f s
  | .lqs c f => Sys2Proof.Machine.execLqs c f s
  | .sqs c f => Sys2Proof.Machine.execSqs c f s
  | .srseed c f => Sys2Proof.Machine.execSrseed c f s
  | .getid c f => Sys2Proof.Machine.execGetid c f s
  | .bc c f => Sys2Proof.Machine.execBc c f s
  | .jmp c f => Sys2Proof.Machine.execJmp c f s
  | .vaddVsubVmul c op f => Sys2Proof.Machine.execVaddVsubVmul c op f s
  | .vfma c f => Sys2Proof.Machine.execVfma c f s
  | .vfms c f => Sys2Proof.Machine.execVfms c f s
  | .vminVmax c mx f => Sys2Proof.Machine.execVminVmax c mx f s
  | .vabsVneg c neg f => Sys2Proof.Machine.execVabsVneg c neg f s
  | .vsqrt c f => Sys2Proof.Machine.execVsqrt c f s
  | .vfunc c op f => Sys2Proof.Machine.execVfunc c op f s
  | .vlogic c op f => Sys2Proof.Machine.execVlogic c op f s
  | .vshift c op f => Sys2Proof.Machine.execVshift c op f s
  | .vcmp c op f => Sys2Proof.Machine.execVcmp c op f s
  | .vsel c f => Sys2Proof.Machine.execVsel c f s
  | .vredsum c f => Sys2Proof.Machine.execVredsum c f s
  | .vredmax c f => Sys2Proof.Machine.execVredmax c f s
  | .vany c f => Sys2Proof.Machine.execVany c f s
  | .vcvt c f => Sys2Proof.Machine.execVcvt c f s
  | .vcvtbs c f => Sys2Proof.Machine.execVcvtbs c f s
  | .vcvtbd c f => Sys2Proof.Machine.execVcvtbd c f s
  | .vcvtbb c f => Sys2Proof.Machine.execVcvtbb c f s
  | .lqv c f => Sys2Proof.Machine.execLqv c f s
  | .sqv c f => Sys2Proof.Machine.execSqv c f s
  | .vbcast c f => Sys2Proof.Machine.execVbcast c f s
  | .vmovs c f => Sys2Proof.Machine.execVmovs c f s
  | .vtr c f => Sys2Proof.Machine.execVtr c f s
  | .vtw c f => Sys2Proof.Machine.execVtw c f s
  | .mmul c f => Sys2Proof.Machine.execMmul c f s
  | .mdrain c f => Sys2Proof.Machine.execMdrain c f s
  | .mzero c mask => Sys2Proof.Machine.execMzero c mask s
  | .mswap c => Sys2Proof.Machine.execMswap c s
  | .trel c mask => Sys2Proof.Machine.execTrel c mask s
  | .ld c f => Sys2Proof.Machine.execLd c f s
  | .st c f => Sys2Proof.Machine.execSt c f s
  | .pf c f => Sys2Proof.Machine.execPf c f s
  | .mload c f => Sys2Proof.Machine.execMload c f s
  | .mloadt c f => Sys2Proof.Machine.execMloadt c f s
  | .amo c f => Sys2Proof.Machine.execAmo c f s
  | .addaSuba c sub f => Sys2Proof.Machine.execAddaSuba c sub f s
  | .addai c f => Sys2Proof.Machine.execAddai c f s
  | .shla c f => Sys2Proof.Machine.execShla c f s
  | .mulai c f => Sys2Proof.Machine.execMulai c f s
  | .lia c f => Sys2Proof.Machine.execLia c f s
  | .bra c f => Sys2Proof.Machine.execBra c f s
  | .jmpa c f => Sys2Proof.Machine.execJmpa c f s
  | .set c x f => Sys2Proof.Machine.execSet c x f s
  | .clr c x f => Sys2Proof.Machine.execClr c x f s
  | .waitc c x f => Sys2Proof.Machine.execWaitc c x f s
  | .test c x f => Sys2Proof.Machine.execTest c x f s
  | .brx c f => Sys2Proof.Machine.execBrx c f s
  | .stop c x id => Sys2Proof.Machine.execStop c x id s
  | .endStream c x => Sys2Proof.Machine.execEndStream c x s
  | .lqLineArrival c req => Sys2Proof.Machine.execLqLineArrival c req s
  | .writeAckReturn c req => Sys2Proof.Machine.execWriteAckReturn c req s
  | .brxResolution c => Sys2Proof.Machine.execBrxResolution c s
  | .orphanResponseDrop c req => Sys2Proof.Machine.execOrphanResponseDrop c req s
  | .directoryLookup stack => Sys2Proof.Machine.execDirectoryLookup stack s
  | .translationAnswer who => Sys2Proof.Machine.execTranslationAnswer who s
  | .flagAckReturn c => Sys2Proof.Machine.execFlagAckReturn c s
  | .coreRunComplete c => Sys2Proof.Machine.execCoreRunComplete c s
  | .coreStopped c => Sys2Proof.Machine.execCoreStopped c s
  | .coreResume c => Sys2Proof.Machine.execCoreResume c s
  | .tileLineArrival c req => Sys2Proof.Machine.execTileLineArrival c req s
  | .mmulCollectionStart c => Sys2Proof.Machine.execMmulCollectionStart c s
  | .mmulComputeStart c => Sys2Proof.Machine.execMmulComputeStart c s
  | .mmulComplete c => Sys2Proof.Machine.execMmulComplete c s
  | .mdrainStart c id => Sys2Proof.Machine.execMdrainStart c id s
  | .mdrainComplete c id => Sys2Proof.Machine.execMdrainComplete c id s
  | .mzeroExecute c => Sys2Proof.Machine.execMzeroExecute c s
  | .mswapExecute c => Sys2Proof.Machine.execMswapExecute c s
  | .trelExecute c => Sys2Proof.Machine.execTrelExecute c s
  | .bankRefusal c req => Sys2Proof.Machine.execBankRefusal c req s
  | .bankGrant c bank => Sys2Proof.Machine.execBankGrant c bank s
  | .channelRead stack ch line r => Sys2Proof.Machine.execChannelRead stack ch line r s
  | .channelWrite stack ch line data w => Sys2Proof.Machine.execChannelWrite stack ch line data w s
  | .channelTurnaround stack ch => Sys2Proof.Machine.execChannelTurnaround stack ch s
  | .bankRefresh stack ch bank => Sys2Proof.Machine.execBankRefresh stack ch bank s
  | .interfaceCalibration stack ch => Sys2Proof.Machine.execInterfaceCalibration stack ch s
  | .channelDraining stack ch byFirmware => Sys2Proof.Machine.execChannelDraining stack ch byFirmware s
  | .channelMappedOut stack ch => Sys2Proof.Machine.execChannelMappedOut stack ch s
  | .carafeAccess who line kind err => Sys2Proof.Machine.execCarafeAccess who line kind err s
  | .atomicPerform src => Sys2Proof.Machine.execAtomicPerform src s
  | .narrowAccess stack addr size data => Sys2Proof.Machine.execNarrowAccess stack addr size data s
  | .placeMap ring slot => Sys2Proof.Machine.execPlaceMap ring slot s
  | .placeAttr ring slot => Sys2Proof.Machine.execPlaceAttr ring slot s
  | .placeUnmap ring slot => Sys2Proof.Machine.execPlaceUnmap ring slot s
  | .pinSet ring slot => Sys2Proof.Machine.execPinSet ring slot s
  | .pinClear ring slot => Sys2Proof.Machine.execPinClear ring slot s
  | .migrationStart => Sys2Proof.Machine.execMigrationStart s
  | .migrationCommit block => Sys2Proof.Machine.execMigrationCommit block s
  | .invalidation who block => Sys2Proof.Machine.execInvalidation who block s
  | .invalidationAck who block => Sys2Proof.Machine.execInvalidationAck who block s
  | .forwardReceived c req => Sys2Proof.Machine.execForwardReceived c req s
  | .plannerEpoch => Sys2Proof.Machine.execPlannerEpoch s
  | .move ring slot => Sys2Proof.Machine.execMove ring slot s
  | .gather ring slot => Sys2Proof.Machine.execGather ring slot s
  | .scatter ring slot => Sys2Proof.Machine.execScatter ring slot s
  | .wgbDrain ring slot => Sys2Proof.Machine.execWgbDrain ring slot s
  | .updateStep ring slot => Sys2Proof.Machine.execUpdateStep ring slot s
  | .updateDefine ring slot => Sys2Proof.Machine.execUpdateDefine ring slot s
  | .updateModify ring slot => Sys2Proof.Machine.execUpdateModify ring slot s
  | .updateRelease ring slot => Sys2Proof.Machine.execUpdateRelease ring slot s
  | .flagOpApply flag => Sys2Proof.Machine.execFlagOpApply flag s
  | .flagSetSet ring slot => Sys2Proof.Machine.execFlagSetSet ring slot s
  | .flagSetClr ring slot => Sys2Proof.Machine.execFlagSetClr ring slot s
  | .flagSetWrite ring slot => Sys2Proof.Machine.execFlagSetWrite ring slot s
  | .flagWait ring slot => Sys2Proof.Machine.execFlagWait ring slot s
  | .flagOp src seq sel op => Sys2Proof.Machine.execFlagOp src seq sel op s
  | .flagAck src seq st => Sys2Proof.Machine.execFlagAck src seq st s
  | .remoteFlagHoldExpiry dst seq => Sys2Proof.Machine.execRemoteFlagHoldExpiry dst seq s
  | .shutterPathChange fabric => Sys2Proof.Machine.execShutterPathChange fabric s
  | .stall domain => Sys2Proof.Machine.execStall domain s
  | .flitReceive port flit check => Sys2Proof.Machine.execFlitReceive port flit check s
  | .controlFlit port => Sys2Proof.Machine.execControlFlit port s
  | .recovery port => Sys2Proof.Machine.execRecovery port s
  | .recoveryComplete port => Sys2Proof.Machine.execRecoveryComplete port s
  | .recoveryTimeout port => Sys2Proof.Machine.execRecoveryTimeout port s
  | .laneFailure port lane => Sys2Proof.Machine.execLaneFailure port lane s
  | .write p => Sys2Proof.Machine.execWritePacket p s
  | .readReq p => Sys2Proof.Machine.execReadReq p s
  | .readData p => Sys2Proof.Machine.execReadData p s
  | .segAck p => Sys2Proof.Machine.execSegAck p s
  | .segAbort p => Sys2Proof.Machine.execSegAbort p s
  | .segTimeout k dst => Sys2Proof.Machine.execSegTimeout k dst s
  | .segAbortTimeout k dst => Sys2Proof.Machine.execSegAbortTimeout k dst s
  | .readTimeout group tag => Sys2Proof.Machine.execReadTimeout group tag s
  | .redData p => Sys2Proof.Machine.execRedData p s
  | .reduceRun ring slot => Sys2Proof.Machine.execReduceRun ring slot s
  | .reduceDefine ring slot => Sys2Proof.Machine.execReduceDefine ring slot s
  | .reduceRelease ring slot => Sys2Proof.Machine.execReduceRelease ring slot s
  | .ready p => Sys2Proof.Machine.execReady p s
  | .mismatch p => Sys2Proof.Machine.execMismatch p s
  | .close p => Sys2Proof.Machine.execClose p s
  | .done p => Sys2Proof.Machine.execDone p s
  | .hold p => Sys2Proof.Machine.execHold p s
  | .extend p => Sys2Proof.Machine.execExtend p s
  | .windowDeadline slot => Sys2Proof.Machine.execWindowDeadline slot s
  | .holdResend slot => Sys2Proof.Machine.execHoldResend slot s
  | .extendSend ring slot => Sys2Proof.Machine.execExtendSend ring slot s
  | .ownerSum slot => Sys2Proof.Machine.execOwnerSum slot s
  | .runComplete ring slot => Sys2Proof.Machine.execRunComplete ring slot s
  | .contributionTimeout slot => Sys2Proof.Machine.execContributionTimeout slot s
  | .closeTimeout slot => Sys2Proof.Machine.execCloseTimeout slot s
  | .replayReadyTimeout slot => Sys2Proof.Machine.execReplayReadyTimeout slot s
  | .stepBeginOpen ring slot => Sys2Proof.Machine.execStepBeginOpen ring slot s
  | .stepBeginResolve ring slot => Sys2Proof.Machine.execStepBeginResolve ring slot s
  | .checkpoint ring slot => Sys2Proof.Machine.execCheckpoint ring slot s
  | .restore ring slot => Sys2Proof.Machine.execRestore ring slot s
  | .replay ring slot => Sys2Proof.Machine.execReplay ring slot s
  | .doorbellSnoop line => Sys2Proof.Machine.execDoorbellSnoop line s
  | .doorbellRead ring value => Sys2Proof.Machine.execDoorbellRead ring value s
  | .descriptorRead ring desc => Sys2Proof.Machine.execDescriptorRead ring desc s
  | .commandComplete ring slot => Sys2Proof.Machine.execCommandComplete ring slot s
  | .nop ring slot => Sys2Proof.Machine.execNop ring slot s
  | .fence ring slot => Sys2Proof.Machine.execFence ring slot s
  | .loadProgram ring slot => Sys2Proof.Machine.execLoadProgram ring slot s
  | .launch ring slot => Sys2Proof.Machine.execLaunch ring slot s
  | .launchCoresStart ring slot => Sys2Proof.Machine.execLaunchCoresStart ring slot s
  | .launchComplete ring slot => Sys2Proof.Machine.execLaunchComplete ring slot s
  | .queryCounters ring slot => Sys2Proof.Machine.execQueryCounters ring slot s
  | .powerD0 ring slot => Sys2Proof.Machine.execPowerD0 ring slot s
  | .powerEnter ring slot => Sys2Proof.Machine.execPowerEnter ring slot s
  | .powerAnswer block ans => Sys2Proof.Machine.execPowerAnswer block ans s
  | .entryLimitTimeout => Sys2Proof.Machine.execEntryLimitTimeout s
  | .powerStateReached => Sys2Proof.Machine.execPowerStateReached s
  | .wake ev => Sys2Proof.Machine.execWake ev s
  | .exitComplete => Sys2Proof.Machine.execExitComplete s
  | .governorSample watts tj => Sys2Proof.Machine.execGovernorSample watts tj s
  | .governorAdjust => Sys2Proof.Machine.execGovernorAdjust s
  | .fastClamp => Sys2Proof.Machine.execFastClamp s
  | .tokenRefill => Sys2Proof.Machine.execTokenRefill s
  | .powerOffTrip cause => Sys2Proof.Machine.execPowerOffTrip cause s
  | .hdmRead addr cacheable => Sys2Proof.Machine.execHdmRead addr cacheable s
  | .hdmWrite addr data mask => Sys2Proof.Machine.execHdmWrite addr data mask s
  | .bisnpResponse line dirty => Sys2Proof.Machine.execBisnpResponse line dirty s
  | .hostAccessRefused ring slot => Sys2Proof.Machine.execHostAccessRefused ring slot s
  | .functionLevelReset => Sys2Proof.Machine.execFunctionLevelReset s
  | .perst => Sys2Proof.Machine.execPerst s
  | .ringEnable ring w3 => Sys2Proof.Machine.execRingEnable ring w3 s
  | .ringDisable ring => Sys2Proof.Machine.execRingDisable ring s
  | .ringDrained ring => Sys2Proof.Machine.execRingDrained ring s
  | .powerOn => Sys2Proof.Machine.execPowerOn s
  | .moduleReset => Sys2Proof.Machine.execModuleReset s
  | .railPowerGood => Sys2Proof.Machine.execRailPowerGood s
  | .railTimeout => Sys2Proof.Machine.execRailTimeout s
  | .localReady t => Sys2Proof.Machine.execLocalReady t s
  | .systabGo => Sys2Proof.Machine.execSystabGo s
  | .portEnable port => Sys2Proof.Machine.execPortEnable port s
  | .identityFrame port who nonce => Sys2Proof.Machine.execIdentityFrame port who nonce s
  | .portTrainTimeout port => Sys2Proof.Machine.execPortTrainTimeout port s
  | .claimTimer => Sys2Proof.Machine.execClaimTimer s
  | .claim p => Sys2Proof.Machine.execClaim p s
  | .noCoordTimeout => Sys2Proof.Machine.execNoCoordTimeout s
  | .report r => Sys2Proof.Machine.execReport r s
  | .gatherLimit => Sys2Proof.Machine.execGatherLimit s
  | .roster r => Sys2Proof.Machine.execRoster r s
  | .readyNote dev => Sys2Proof.Machine.execReadyNote dev s
  | .ctrlResend => Sys2Proof.Machine.execCtrlResend s
  | .linkNote dev up => Sys2Proof.Machine.execLinkNote dev up s
  | .linkNoteTimeout => Sys2Proof.Machine.execLinkNoteTimeout s
  | .getVersion => Sys2Proof.Machine.execGetVersion s
  | .getCapabilities => Sys2Proof.Machine.execGetCapabilities s
  | .negotiateAlgorithms => Sys2Proof.Machine.execNegotiateAlgorithms s
  | .getDigests => Sys2Proof.Machine.execGetDigests s
  | .getCertificate part len => Sys2Proof.Machine.execGetCertificate part len s
  | .challenge q => Sys2Proof.Machine.execChallenge q s
  | .getMeasurements q => Sys2Proof.Machine.execGetMeasurements q s
  | .keyExchange q => Sys2Proof.Machine.execKeyExchange q s
  | .finish => Sys2Proof.Machine.execFinish s
  | .endSession => Sys2Proof.Machine.execEndSession s
  | .getCosig => Sys2Proof.Machine.execGetCosig s
  | .getIdrec offset len => Sys2Proof.Machine.execGetIdrec offset len s
  | .ideKm m => Sys2Proof.Machine.execIdeKm m s
  | .journalHalfErase identity => Sys2Proof.Machine.execJournalHalfErase identity s
  | .fwUpdateWrite hdrBack ecdsaBack lmsBack => Sys2Proof.Machine.execFwUpdateWrite hdrBack ecdsaBack lmsBack s
  | .fwUpdateCommit => Sys2Proof.Machine.execFwUpdateCommit s
  | .extest => Sys2Proof.Machine.execExtest s
  | .samplePreload => Sys2Proof.Machine.execSamplePreload s
  | .idcode => Sys2Proof.Machine.execIdcode s
  | .bypass => Sys2Proof.Machine.execBypass s
  | .zdpStatus => Sys2Proof.Machine.execZdpStatus s
  | .zdpNonce => Sys2Proof.Machine.execZdpNonce s
  | .zdpToken t => Sys2Proof.Machine.execZdpToken t s
  | .zdpCmd op t addr data => Sys2Proof.Machine.execZdpCmd op t addr data s
  | .smbusPartNumber => Sys2Proof.Machine.execSmbusPartNumber s
  | .smbusSerial => Sys2Proof.Machine.execSmbusSerial s
  | .smbusTopState => Sys2Proof.Machine.execSmbusTopState s
  | .smbusPower => Sys2Proof.Machine.execSmbusPower s
  | .smbusThermal volts => Sys2Proof.Machine.execSmbusThermal volts s
  | .tstripConfigWrite v => Sys2Proof.Machine.execTstripConfigWrite v s
  | .w1cWrite off v => Sys2Proof.Machine.execW1cWrite off v s
  | .registerWrite off size v => Sys2Proof.Machine.execRegisterWrite off size v s
  | .bar0UnsupportedAccess off size write => Sys2Proof.Machine.execBar0UnsupportedAccess off size write s
  | .laneLock port lanes nonce => Sys2Proof.Machine.execLaneLock port lanes nonce s
  | .flitTransmit port => Sys2Proof.Machine.execFlitTransmit port s
  | .coordinatorGather p => Sys2Proof.Machine.execCoordinatorGather p s
  | .resetNRelease => Sys2Proof.Machine.execResetNRelease s
  | .perstRelease => Sys2Proof.Machine.execPerstRelease s
  | .configurationRequest fn reg => Sys2Proof.Machine.execConfigurationRequest fn reg s
  | .atsInvalidation tag pages => Sys2Proof.Machine.execAtsInvalidation tag pages s

end Sys2Proof.Machine
end

