-- ==== Sys2Proof/Safety.lean ====
section
/-!
DEFINITION. What counts as safe, in the terms of the statements: the memory's canonical form, and what no command may undo: fuses, and
indices of signatures that have been used (R682, R686, R690, R703).
-/
namespace Sys2Proof

open Sys2Proof.Machine

/-- The memory keeps its canonical form: addresses rise, and no byte that reads as an unlisted one is listed. -/
def Safe (s : State) : Prop := Memory.wf s.m = true

/-- The next index of a journal is the one that its entries give (R689). -/
def JournalOk (j : Journal) : Prop := nextIndex j = j.next

/-- The fuses of `b` hold all that those of `a` hold, and no index below the next one of a journal comes back: a production index only
grows until the production journal is erased for good, a debug index only grows. -/
structure NvLater (a b : Nv) : Prop where
  svn : a.svn ≤ b.svn
  eraseStarted : a.eraseStarted = true → b.eraseStarted = true
  debugOpened : a.debugOpened = true → b.debugOpened = true
  seedBlown : a.prodSeed = BitVec.allOnes 256 → b.prodSeed = BitVec.allOnes 256
  prod : JournalOk a.prod → JournalOk b.prod ∧ ∀ n, b.prod.next = some n → ∃ m, a.prod.next = some m ∧ m ≤ n
  dbgJournal : JournalOk a.dbgJournal → JournalOk b.dbgJournal ∧ ∀ n, a.dbgJournal.next = some n → ∃ m, b.dbgJournal.next = some m ∧ n ≤ m

/-! ### Words of the statements about core instructions -/

/-- An engine that has issued its bundle: it is held by nothing, and its program counter is `pc` (R97, R152, R155). -/
def passed (e : Engine) (pc : Nat) : Engine := { e with hold := .none, held := 0, short := false, grant := false, pc := pc, last := e.pc }

/-- The state after the execute engine of core `c` has issued a bundle whose results are those of `k`: that core is `k` but for the engine,
which is at `pc`; the bundle is counted (Table 03.6); everything else is as in `s`. -/
def xIssued (s : State) (c : Nat) (k : Core) (pc : Nat) : State :=
  setCore (bump s (cCore c 5) 1) c { k with xe := passed (coreOf s c).xe pc }

/-- The same of the access engine: its bundle is counted once it is committed, by the youngest branch it was issued under (R124). -/
def aIssued (s : State) (c : Nat) (k : Core) (pc : Nat) : State :=
  match (coreOf s c).brx.getLast? with
  | none => setCore (bump s (cCore c 4) 1) c { k with ae := passed (coreOf s c).ae pc }
  | some b => setCore s c { k with ae := passed (coreOf s c).ae pc, brx := (coreOf s c).brx.dropLast ++ [{ b with bundles := b.bundles + 1 }] }

/-- An access engine whose next bundle waits neither for a branch nor for a list entry (R121, R296). -/
def accessFree (s : State) (c : Nat) : Prop :=
  ((coreOf s c).brx = [] ∨ brxDepth (coreOf s c) ≠ 0) ∧ listOver (coreOf s c) = false

/-- The state after engine `x` of core `c` has issued a bundle with the results `k`. -/
def issuedBy (s : State) (c : Nat) (x : Bool) (k : Core) (pc : Nat) : State := if x then xIssued s c k pc else aIssued s c k pc

/-- Field `i` of a line cut into fields of `w` bits: a lane, a row element, a byte. -/
def laneOf (w : Nat) (v : Line) (i : Nat) : BitVec w := v.extractLsb' (w * i) w

/-- Every byte of the device range and every mark of poison is as before. -/
def SameMemory (s t : State) : Prop := ∀ a, tget zeroB t.m.mem a = tget zeroB s.m.mem a ∧ tget noMark t.m.poison a = tget noMark s.m.poison a

/-- Every core but `c` is as before. -/
def SameOtherCores (s t : State) (c : Nat) : Prop := ∀ d, d ≠ c → coreOf t d = coreOf s d

/-- The command of slot `i` of ring `r` holds the descriptor `d` of opcode `op` and stands at `p` (R629); the unit that carries it out does not rest
(R721). -/
def CommandAt (s : State) (r i op : Nat) (d : Line) (p : CmdPhase) : Prop :=
  unitRests s op = false ∧ ∃ m, cmdOf s r i = some m ∧ m.phase = p ∧ m.desc = d ∧ dOpcode d = op

/-- The command of slot `i` of ring `r` has completed with a status and INFO (R631). -/
def Completed (s : State) (r i : Nat) (st : Status) (info : BitVec 64) : Prop := ∃ m, cmdOf s r i = some m ∧ m.phase = .done st info

/-- Memory and placement are as before, but that places kept for a command may have been given back (R773), what it kept of its descriptors
is gone (R378), and it waits no longer (R419). -/
def SamePlaces (s t : State) : Prop :=
  { t.m with keeps := s.m.keeps, snaps := s.m.snaps, interlocks := s.m.interlocks } = s.m ∧
  (∀ q ∈ t.m.keeps, q ∈ s.m.keeps) ∧ (∀ q ∈ t.m.snaps, q ∈ s.m.snaps) ∧ ∀ q ∈ t.m.interlocks, q ∈ s.m.interlocks

/-- Cores, memory and placement are as before, but that places kept for a command may have been given back (R773). -/
def OnlyFabric (s t : State) : Prop := t.cores = s.cores ∧ SamePlaces s t

end Sys2Proof
end

