-- ==== Sys2Proof/Certificates/Slice0/Obligations.lean ====
section
/-!
DEFINITION. The statements for the provers. A statement whose conclusion is `exec … = .next t` with `t` written out is the completion of
the instruction and its frame in one: every part of the state that `t` does not change is as it was.
-/
open Sys2Proof Sys2Proof.Machine

/-! ### The queue, reset, and what every command keeps -/

/-- A step takes the command at the front of the queue and acts as that command on the rest (log 1). With no command waiting a step is one clock
cycle: it answers a next state with an empty queue (log 7); when no report of a branch is due in it (R112), memory, placement and fuses are as before,
but for the half of the CLK_C cycle that the clock is in. -/
def Obligations.StepRunsFrontCommand : Prop :=
  (∀ (i : Instr) (rest : List Instr) (s : State), step { s with pending := i :: rest } = exec i { s with pending := rest }) ∧
  ∀ s : State, s.pending = [] → ∃ t, step s = .next t ∧ t.pending = [] ∧
    ((∀ c, (coreOf s c).rep = none) → t.nv = s.nv ∧ { t.m with halfC := s.m.halfC } = s.m)

/-- What reset leaves (R262, R341, R475, Table 15.1): no block mapped, no move, empty translation caches, every flag clear, every core idle
with a clear weight-gradient buffer, every ring disabled, bring-up in BOOTING. -/
def Obligations.ResetState : Prop :=
  (∀ b, mapped State.reset b = false ∧ (dirOf State.reset b).mig = false ∧ (dirOf State.reset b).pin = false) ∧
  State.reset.m.moves = [] ∧ State.reset.m.mtc = [] ∧ State.reset.m.dir = [] ∧ State.reset.m.homeTab = [] ∧ State.reset.m.mem = [] ∧
  (∀ i, flagGet State.reset (.chip i) = false) ∧ (∀ c i, flagGet State.reset (.core c i) = false) ∧
  (∀ c, (coreOf State.reset c).tc = [] ∧ (coreOf State.reset c).ae.st = .idle ∧ (coreOf State.reset c).xe.st = .idle ∧
    (coreOf State.reset c).wgbDirty = 0 ∧ (coreOf State.reset c).wgbPoison = 0 ∧
    ∀ r, tget zeroRow (coreOf State.reset c).wgb r = 0) ∧
  (∀ r, (tget noRing State.reset.cm.rings r).st = .disabled) ∧
  State.reset.bu.state = 0 ∧ State.reset.pw.st = 0

/-- At reset the memory has its canonical form, no command waits, and the next index of each journal is the one that its entries give (R689). -/
def Obligations.ResetIsSafe : Prop :=
  Safe State.reset ∧ State.reset.pending = [] ∧ JournalOk State.reset.nv.prod ∧ JournalOk State.reset.nv.dbgJournal

/-- From every state whose memory has its canonical form, a step leads to one whose memory has it. -/
def Obligations.EveryStepKeepsMemoryCanonical : Prop :=
  ∀ s t : State, Safe s → step s = .next t → Safe t

/-- No step, whatever its command, blows back a fuse or returns a signature index: SVN fuses only grow, the marks ERASE_STARTED and DEBUG_OPENED
and the blown production seed stay, and where the next index of a journal is the one that its entries give, it never falls below what it was, and that still
holds after the step (R682, R686, R689, R690, R703). -/
def Obligations.NoStepUndoesFuses : Prop :=
  ∀ s t : State, step s = .next t → NvLater s.nv t.nv

/-- No command reaches into the queue: what waited behind it still waits, in order. -/
def Obligations.CommandsLeaveTheQueue : Prop :=
  ∀ (i : Instr) (s t : State), exec i s = .next t → t.pending = s.pending

/-! ### Core instructions: the scalar slot -/

/-- The scalar slot's arithmetic. ADD, SUB, AND, OR, XOR, SHL, SHR, SRA, MUL, MIN, MAX, MINU, MAXU and SEL write s[d] with the 32-bit result, wrapping
modulo 2³² (R94, Table 04.3); ADDI, ANDI, ORI, XORI, SHLI, SHRI, SRAI, LUI and GETID use their immediate, sign-extended, zero-extended for ANDI, ORI,
XORI and GETID (R157); GETID reads the core ID, the grade, the device number, the stacks or the I/O dies (Table 04.8). The program counter goes
past the 6-byte bundle, the bundle is counted, and nothing else changes. The compares and the predicate logic write p[d] alone (Table 04.3): CMPEQ, CMPNE, CMPLT, CMPLTU against a register or the sign-extended IMM13,
PAND, POR, PXOR, PANDN, PNOT. -/
def Obligations.ScalarAndPredicateResults : Prop :=
  ((∀ (c : Nat) (f : FSR) (s : State), canIssue s c true = true →
      let k := coreOf s c
      let a := getS k f.sa
      let b := getS k f.sb
      let goesTo (v : Word) : Host.Outcome State Fault Refusal := .next (xIssued s c (setS k f.sd v) (k.xe.pc + 6))
      (f.p = 0 →
        exec (.addSubAndOrXor c .add f) s = goesTo (a + b) ∧ exec (.addSubAndOrXor c .sub f) s = goesTo (a - b) ∧
        exec (.addSubAndOrXor c .and f) s = goesTo (a &&& b) ∧ exec (.addSubAndOrXor c .or f) s = goesTo (a ||| b) ∧
        exec (.addSubAndOrXor c .xor f) s = goesTo (a ^^^ b) ∧
        exec (.shlShrSra c .shl f) s = goesTo (a <<< (b.toNat % 32)) ∧ exec (.shlShrSra c .shr f) s = goesTo (a >>> (b.toNat % 32)) ∧
        exec (.shlShrSra c .sra f) s = goesTo (a.sshiftRight (b.toNat % 32)) ∧
        exec (.mul c f) s = goesTo (a * b) ∧
        exec (.minMaxMinuMaxu c .min f) s = goesTo (if a.slt b then a else b) ∧ exec (.minMaxMinuMaxu c .max f) s = goesTo (if a.slt b then b else a) ∧
        exec (.minMaxMinuMaxu c .minu f) s = goesTo (if a.ult b then a else b) ∧ exec (.minMaxMinuMaxu c .maxu f) s = goesTo (if a.ult b then b else a)) ∧
      exec (.sel c f) s = goesTo (if getP k f.p then a else b)) ∧
  (∀ (c : Nat) (f : FSI) (s : State), canIssue s c true = true →
      let k := coreOf s c
      let a := getS k f.sa
      let goesTo (v : Word) : Host.Outcome State Fault Refusal := .next (xIssued s c (setS k f.sd v) (k.xe.pc + 6))
      exec (.addi c f) s = goesTo (a + f.imm.signExtend 32) ∧
      exec (.andiOriXori c .and f) s = goesTo (a &&& f.imm.setWidth 32) ∧ exec (.andiOriXori c .or f) s = goesTo (a ||| f.imm.setWidth 32) ∧
      exec (.andiOriXori c .xor f) s = goesTo (a ^^^ f.imm.setWidth 32) ∧
      (f.imm.toNat < 32 →
        exec (.shliShriSrai c .shl f) s = goesTo (a <<< f.imm.toNat) ∧ exec (.shliShriSrai c .shr f) s = goesTo (a >>> f.imm.toNat) ∧
        exec (.shliShriSrai c .sra f) s = goesTo (a.sshiftRight f.imm.toNat)) ∧
      (f.sa = 0 → exec (.lui c f) s = goesTo (f.imm.setWidth 32 <<< 16)) ∧
      (f.sa = 0 → f.imm = 0 → exec (.getid c f) s = goesTo (BitVec.ofNat 32 c)) ∧
      (f.sa = 0 → f.imm = 1 → exec (.getid c f) s = goesTo (BitVec.ofNat 32 s.fit.grade)) ∧
      (f.sa = 0 → f.imm = 2 → exec (.getid c f) s = goesTo (BitVec.ofNat 32 (devNum s))) ∧
      (f.sa = 0 → f.imm = 3 → exec (.getid c f) s = goesTo (BitVec.ofNat 32 s.fit.nStacks)) ∧
      (f.sa = 0 → f.imm = 4 → exec (.getid c f) s = goesTo (BitVec.ofNat 32 s.fit.iodies)))) ∧
  (∀ (c : Nat) (s : State), canIssue s c true = true →
    let k := coreOf s c
    let goesTo (d : BitVec 3) (v : Bool) : Host.Outcome State Fault Refusal := .next (xIssued s c (setP k d v) (k.xe.pc + 6))
    (∀ f : FSC, f.imm = 0 →
      exec (.cmpReg c .eq f) s = goesTo f.pd (getS k f.sa == getS k f.sb) ∧ exec (.cmpReg c .ne f) s = goesTo f.pd (getS k f.sa != getS k f.sb) ∧
      exec (.cmpReg c .lt f) s = goesTo f.pd ((getS k f.sa).slt (getS k f.sb)) ∧ exec (.cmpReg c .ltu f) s = goesTo f.pd ((getS k f.sa).ult (getS k f.sb))) ∧
    (∀ f : FSC, f.sb = 0 →
      exec (.cmpImm c .eq f) s = goesTo f.pd (getS k f.sa == f.imm.signExtend 32) ∧ exec (.cmpImm c .ne f) s = goesTo f.pd (getS k f.sa != f.imm.signExtend 32) ∧
      exec (.cmpImm c .lt f) s = goesTo f.pd ((getS k f.sa).slt (f.imm.signExtend 32)) ∧
      exec (.cmpImm c .ltu f) s = goesTo f.pd ((getS k f.sa).ult (f.imm.signExtend 32))) ∧
    (∀ f : FSP,
      exec (.plogic c .and f) s = goesTo f.pd (getP k f.pa && getP k f.pb) ∧ exec (.plogic c .or f) s = goesTo f.pd (getP k f.pa || getP k f.pb) ∧
      exec (.plogic c .xor f) s = goesTo f.pd (getP k f.pa != getP k f.pb) ∧ exec (.plogic c .andn f) s = goesTo f.pd (getP k f.pa && !getP k f.pb) ∧
      (f.pb = 0 → exec (.pnot c f) s = goesTo f.pd (!getP k f.pa))))

/-- SRSEED loads the seed from s[b] and s[a] and clears the three stream positions (R68); a vector slot, or an MDRAIN, of a bundle that also
holds the SRSEED draws from the seed and positions as they stood before it (R161). -/
def Obligations.SrseedTakesEffectAtTheNextBundle : Prop :=
  ∀ (c : Nat) (f : FSR) (s : State), canIssue s c true = true → f.sd = 0 → f.p = 0 →
    let k := coreOf s c
    let seeded (q : Core) : Core := { q with seed := getS k f.sb ++ getS k f.sa, posVec := 0, posDrain := 0, posWgb := 0 }
    exec (.srseed c f) s = .next (xIssued s c (seeded k) (k.xe.pc + 6)) ∧
    (∀ (g : FVR) (op : VArith), g.vc = 0 → (g.ty = 1 ∨ g.ty = 2) → k.tokens ≠ 0 →
      ∃ t, issue s c true { scalar := some (.srseed f), vector := some (.arith op g) } 10 = t ∧
        getV (coreOf t c) g.vd.toNat = packLanes (tyWidth g.ty) (vrLanes c k (.arith op g) g).1 ∧
        (coreOf t c).seed = getS k f.sb ++ getS k f.sa ∧ (coreOf t c).posVec = 0) ∧
    ∀ g : FMD, matrixWaits k (.mdrain g) = [] → drainWaits k (.mdrain g) = [] → matrixFaults (.mdrain g) = [] → matrixStateFaults k (.mdrain g) = [] →
      ∃ t m, issue s c true { scalar := some (.srseed f), matrix := some (.mdrain g) } 10 = t ∧ (coreOf t c).mops = k.mops ++ [m] ∧ m.op = .mdrain g ∧
        m.seed = k.seed.toNat ∧ m.pos = k.posDrain.toNat ∧ (coreOf t c).seed = getS k f.sb ++ getS k f.sa ∧ (coreOf t c).posDrain = 0

/-- A branch without a report changes the program counter alone: a taken BC and every JMP go to 2 × OFF from their own bundle, which lies in the
region, and a BC not taken goes past its bundle (R158, R160). A reporting BC or JMP sets the first flag of its pair when taken and the second when not; it issues only while both are clear, and is held
until then (R109, R110, R160). The set is applied one cycle later, before the core's next bundle (R112, log 18): a flag that is still clear becomes set, and
where another agent has set it since, the X-stream faults with FLAG_OVER at the branch, which its holder counts. -/
def Obligations.ScalarBranches : Prop :=
  (∀ (c : Nat) (f : FSB) (s : State), canIssue s c true = true → f.rep = false → f.pair = 0 →
    let k := coreOf s c
    let goesTo : Int := (k.xe.pc : Int) + 2 * f.off.toInt
    ((getP k f.p = f.pneg) → exec (.bc c f) s = .next (xIssued s c k (k.xe.pc + 6))) ∧
    ((k.xe.base : Int) ≤ goesTo → goesTo < (k.xe.base + k.xe.size : Nat) →
      (getP k f.p ≠ f.pneg → exec (.bc c f) s = .next (xIssued s c k goesTo.toNat)) ∧
      (f.p = 0 → f.pneg = false → exec (.jmp c f) s = .next (xIssued s c k goesTo.toNat)))) ∧
  (∀ (c : Nat) (f : FSB) (s : State), canIssue s c true = true → f.rep = true →
    let k := coreOf s c
    let goesTo : Int := (k.xe.pc : Int) + 2 * f.off.toInt
    let i := 2 * f.pair.toNat
    ((k.xe.base : Int) ≤ goesTo → goesTo < (k.xe.base + k.xe.size : Nat) → flagOf k i = false → flagOf k (i + 1) = false →
      (f.p = 0 → f.pneg = false → exec (.jmp c f) s = .next (xIssued s c { k with rep := some (i, k.xe.pc) } goesTo.toNat)) ∧
      (getP k f.p ≠ f.pneg → exec (.bc c f) s = .next (xIssued s c { k with rep := some (i, k.xe.pc) } goesTo.toNat))) ∧
    (flagOf k i = false → flagOf k (i + 1) = false → getP k f.p = f.pneg →
      exec (.bc c f) s = .next (xIssued s c { k with rep := some (i + 1, k.xe.pc) } (k.xe.pc + 6))) ∧
    ((flagOf k i = true ∨ flagOf k (i + 1) = true) → getP k f.p = f.pneg →
      exec (.bc c f) s = .next (setCore s c { k with xe := { k.xe with hold := .report, short := false } }))) ∧
  (∀ (c i a : Nat) (x : Bool) (s : State) (b : Bundle) (len : Nat), (coreOf s c).rep = some (i, a) →
    let k : Core := { coreOf s c with rep := none }
    (flagOf k i = false → firstWaiter s (.core c i) = none →
      issue s c x b len = issue (setCore s c (setFlag k i true)) c x b len ∧
      exec (.bundleIssue c x) s = exec (.bundleIssue c x) (setCore s c (setFlag k i true))) ∧
    (flagOf k i = true → ∃ t, issue s c x b len = issue t c x b len ∧ exec (.bundleIssue c x) s = exec (.bundleIssue c x) t ∧
      flagOf (coreOf t c) i = true ∧ (coreOf t c).xe.st = .faulted ∧ (coreOf t c).xe.frec = faultWord .flagOver a 0 ∧
      counter t (cCore c 48) = satInc (counter s (cCore c 48)) 1 ∧ t.m = s.m ∧ SameOtherCores s t c))

/-- LQS and LQV take the LQ head, in allocation order, once it holds data and is committed: the low 32 bits to s[d], all 64 bytes to v[d]; a
poisoned entry gives zeros (R102, R105). A head without data, or uncommitted, holds the bundle. SQS and SQV fill the head unfilled SQ entry, which must be present and committed, with s[a] zero-extended or v[a] (R107); a store that then
holds its address and its data is performed (R108). -/
def Obligations.QueuePopsAndFills : Prop :=
  (∀ (c : Nat) (f : FSR) (g : FVR) (s : State) (e : Lq) (l : List Lq), canIssue s c true = true → (coreOf s c).lq = e :: l →
    f.sa = 0 → f.sb = 0 → f.p = 0 → g.va = 0 → g.vb = 0 → g.vc = 0 → g.sr = false → g.ty = 0 →
    let k := coreOf s c
    (e.st = .data → e.level ≤ k.brxHead → e.poison = false →
      exec (.lqs c f) s = .next (xIssued s c (setS { k with lq := l } f.sd (e.data.setWidth 32)) (k.xe.pc + 6)) ∧
      (k.tokens ≠ 0 → exec (.lqv c g) s =
        .next (xIssued s c (setV { k with lq := l, tokens := k.tokens - 1 } g.vd.toNat e.data) (k.xe.pc + 6)))) ∧
    (e.st = .data → e.level ≤ k.brxHead → e.poison = true →
      ∃ t, exec (.lqs c f) s = .next t ∧ (coreOf t c).lq = l ∧ getS (coreOf t c) f.sd = 0) ∧
    (e.st ≠ .data ∨ k.brxHead < e.level → exec (.lqs c f) s = .next (setCore s c { k with xe := { k.xe with hold := .lq, short := false } }))) ∧
  (∀ (c : Nat) (f : FSR) (g : FVR) (s : State) (e : Sq), canIssue s c true = true → sqOf (coreOf s c) (coreOf s c).fillNext = some e →
    f.sd = 0 → f.sb = 0 → f.p = 0 → g.vd = 0 → g.vb = 0 → g.vc = 0 → g.sr = false → g.ty = 0 →
    let k := coreOf s c
    let filled (k : Core) (d : Line) : Core := { fillEntry k k.fillNext d false with fillNext := k.fillNext + 1 }
    (e.level ≤ k.brxHead →
      exec (.sqs c f) s = .next (storePump (xIssued s c (filled k ((getS k f.sa).setWidth 512)) (k.xe.pc + 6)) c) ∧
      (k.tokens ≠ 0 → exec (.sqv c g) s =
        .next (storePump (xIssued s c (filled { k with tokens := k.tokens - 1 } (getV k g.va.toNat)) (k.xe.pc + 6)) c))) ∧
    (k.brxHead < e.level → exec (.sqs c f) s = .next (setCore s c { k with xe := { k.xe with hold := .sq, short := false } })))

/-- The store of one SQ entry whose block is mapped, not on the move and asked for by no other request of the core, with its translation cached, a request slot free, and a bank that takes it: after the SQS that fills the entry, memory holds
the low bytes of s[a] at the entry's address, little-endian, and every other byte is as before (R107, R108, R287). -/
def Obligations.FilledStoreReachesMemory : Prop :=
  ∀ (c : Nat) (f : FSR) (s : State) (e : Sq) (x : TcEntry), canIssue s c true = true →
    let k := coreOf s c
    k.sq = [e] → e.id = k.fillNext → e.level ≤ k.brxHead → e.amo = none → e.sent = false → (e.bytes = 1 ∨ e.bytes = 2 ∨ e.bytes = 4) →
    k.posted = [] → (∀ q ∈ k.reqs, blockOf q.addr ≠ blockOf e.addr) →
    k.tc.find? (fun q => q.block == blockOf e.addr) = some x → x.home = (dirOf s (blockOf e.addr)).home →
    moveOf s (blockOf e.addr) = none → slotsUsed k < 512 → listedBank s c (lineOf e.addr) = none → refusingBank s (lineOf e.addr) = none → hostHolds s (lineOf e.addr) = false → poisoned s (lineOf e.addr) = false →
    f.sd = 0 → f.sb = 0 → f.p = 0 →
    ∃ t, exec (.sqs c f) s = .next t ∧ (coreOf t c).sq = [] ∧
      (∀ i, i < e.bytes → tget zeroB t.m.mem (e.addr + i) = (getS k f.sa).extractLsb' (8 * i) 8) ∧
      (∀ a, (a < e.addr ∨ e.addr + e.bytes ≤ a) → tget zeroB t.m.mem a = tget zeroB s.m.mem a)


/-! ### Core instructions: the vector slot -/

/-- The lane-wise vector instructions and the reductions write v[d] with the packed lane results of `vrLanes`, take one power token, take 32
positions of stream 4c exactly when the type is FP16 or BF16 (R166), add their numeric events to the core's counters (R96), and change nothing
else. Every type and SR that Table 04.9 admits is covered; a type outside a row, or SR on a 32-bit type, faults instead. -/
def Obligations.VectorLaneResults : Prop :=
  ∀ (c : Nat) (f : FVR) (s : State), canIssue s c true = true → (coreOf s c).tokens ≠ 0 → (f.sr = true → f.ty = 1 ∨ f.ty = 2) →
    let k := coreOf s c
    let run (o : VectorOp) : Host.Outcome State Fault Refusal :=
      let r := vrLanes c k o f
      .next (bumpEv (xIssued s c { setV k f.vd.toNat (packLanes (tyWidth f.ty) r.1) with
        tokens := k.tokens - 1, posVec := if f.ty = 1 ∨ f.ty = 2 then k.posVec + 32 else k.posVec } (k.xe.pc + 6)) (cCore c 0) r.2)
    exec (.vfma c f) s = run (.fma f) ∧ exec (.vfms c f) s = run (.fms f) ∧ exec (.vsel c f) s = run (.sel f) ∧
    (f.vc = 0 → (∀ op, exec (.vaddVsubVmul c op f) s = run (.arith op f)) ∧ (∀ mx, exec (.vminVmax c mx f) s = run (.minmax mx f)) ∧
      (∀ op, exec (.vcmp c op f) s = run (.cmp op f))) ∧
    (f.vb = 0 → f.vc = 0 → (∀ neg, exec (.vabsVneg c neg f) s = run (.absneg neg f)) ∧ exec (.vredsum c f) s = run (.redsum f) ∧
      exec (.vredmax c f) s = run (.redmax f) ∧
      (f.ty ≠ 3 → exec (.vsqrt c f) s = run (.sqrt f) ∧ ∀ op, exec (.vfunc c op f) s = run (.func op f))) ∧
    (f.vc = 0 → f.ty = 3 → ∀ op, exec (.vshift c op f) s = run (.shift op f))

/-- What a floating lane holds (R92, R93, R162, R163): the exact result of the operation rounded once to the lane's type, with RNE, or with the
random bits of stream 4c at the lane's position when SR asks for them; VCMP writes 1 of the type or +0; VSEL takes v[a] where the lane of
v[c] is not zero, a NaN as the one that results are (R61). Lane `i` of each operand is its `i`-th 16-bit or 32-bit field. -/
def Obligations.FloatingLanesRoundOnce : Prop :=
  ∀ (c : Nat) (f : FVR) (s : State) (i : Nat), f.ty ≠ 3 → i < tyLanes f.ty →
    let k := coreOf s c
    let w := tyWidth f.ty
    let code := tyCode f.ty
    let raw (r : BitVec 5) : Nat := (laneOf w (getV k r.toNat) i).toNat
    let a := decodeNum code (raw f.va)
    let b := decodeNum code (raw f.vb)
    let d := decodeNum code (raw f.vc)
    let lane (o : VectorOp) : BitVec w := laneOf w (packLanes w (vrLanes c k o f).1) i
    let rounded (x : Exact) : BitVec w := BitVec.ofNat w (roundNum code (vecRnd c k f.sr i) x).1
    lane (.arith .add f) = rounded (nadd a b).1 ∧ lane (.arith .sub f) = rounded (nadd a (nneg b)).1 ∧ lane (.arith .mul f) = rounded (nmul a b).1 ∧
    lane (.fma f) = rounded (nadd (nmul a b).1 d).1 ∧ lane (.fms f) = rounded (nadd (nmul a b).1 (nneg d)).1 ∧
    lane (.minmax false f) = rounded (nminmax false a b) ∧ lane (.minmax true f) = rounded (nminmax true a b) ∧
    lane (.absneg false f) = rounded (nabs a) ∧ lane (.absneg true f) = rounded (nneg a) ∧ lane (.sqrt f) = rounded (nsqrt a).1 ∧
    lane (.cmp .eq f) = BitVec.ofNat w (if neq a b then laneOne f.ty else 0) ∧
    lane (.cmp .lt f) = BitVec.ofNat w (if nlt a b then laneOne f.ty else 0) ∧
    lane (.cmp .le f) = BitVec.ofNat w (if nle a b then laneOne f.ty else 0) ∧
    lane (.sel f) = rounded (if laneNonzero f.ty (raw f.vc) then a else b)

/-- What an INT32 lane holds: wrapping 32-bit arithmetic, and shifts by the low five bits of the lane of v[b] (R92, Table 04.9). -/
def Obligations.IntegerLanesWrap : Prop :=
  ∀ (c : Nat) (f : FVR) (s : State) (i : Nat), f.ty = 3 → i < 16 →
    let k := coreOf s c
    let a := laneOf 32 (getV k f.va.toNat) i
    let b := laneOf 32 (getV k f.vb.toNat) i
    let d := laneOf 32 (getV k f.vc.toNat) i
    let lane (o : VectorOp) : Word := laneOf 32 (packLanes 32 (vrLanes c k o f).1) i
    lane (.arith .add f) = a + b ∧ lane (.arith .sub f) = a - b ∧ lane (.arith .mul f) = a * b ∧
    lane (.fma f) = a * b + d ∧ lane (.fms f) = a * b - d ∧ lane (.absneg true f) = -a ∧
    lane (.shift .shl f) = a <<< (b.toNat % 32) ∧ lane (.shift .shr f) = a >>> (b.toNat % 32) ∧
    lane (.shift .sra f) = a.sshiftRight (b.toNat % 32) ∧ lane (.sel f) = if d = 0 then b else a

/-- VAND, VOR, VXOR work on all 512 bits; VANY writes whether any lane is not zero; VBCAST writes s[s] into every lane, its low 16 bits for a
16-bit type; VMOVS reads one lane, zero-extended; each takes a token and no position (R162, R163, R166). The VCVT family (R167 to R170): on every pair of formats, part and scale register that the encoding admits, the 32 source elements are
decoded, VCVTBS and VCVTBB with the scale of s[SS], converted with RNE or the random bits of stream 4c, and written to the destination part;
VCVTBD and VCVTBB write the scale they choose to s[SS], bits above 7 cleared; each advances the stream by 32 and counts its events. -/
def Obligations.VectorMovesAndConversions : Prop :=
  (∀ (c : Nat) (s : State), canIssue s c true = true → (coreOf s c).tokens ≠ 0 →
    let k := coreOf s c
    let paid : Core := { k with tokens := k.tokens - 1 }
    let goesTo (q : Core) : Host.Outcome State Fault Refusal := .next (xIssued s c q (k.xe.pc + 6))
    (∀ f : FVR, f.vc = 0 → f.sr = false → f.ty = 0 →
      exec (.vlogic c .and f) s = goesTo (setV paid f.vd.toNat (getV k f.va.toNat &&& getV k f.vb.toNat)) ∧
      exec (.vlogic c .or f) s = goesTo (setV paid f.vd.toNat (getV k f.va.toNat ||| getV k f.vb.toNat)) ∧
      exec (.vlogic c .xor f) s = goesTo (setV paid f.vd.toNat (getV k f.va.toNat ^^^ getV k f.vb.toNat))) ∧
    (∀ f : FVP, exec (.vany c f) s = goesTo (setP paid f.pd ((laneVals f.ty (getV k f.va.toNat)).any (laneNonzero f.ty)))) ∧
    (∀ f : FVS, f.lane = 0 → ∃ v, exec (.vbcast c f) s = goesTo (setV paid f.v.toNat v) ∧
      ∀ i, i < tyLanes f.ty → laneOf (tyWidth f.ty) v i = (getS k f.s).setWidth (tyWidth f.ty)) ∧
    (∀ f : FVS, f.lane.toNat < tyLanes f.ty →
      exec (.vmovs c f) s = goesTo (setS paid f.s ((laneOf (tyWidth f.ty) (getV k f.v.toNat) f.lane.toNat).setWidth 32)))) ∧
  (∀ (c : Nat) (f : FVC) (s : State), canIssue s c true = true → (coreOf s c).tokens ≠ 0 →
    let k := coreOf s c
    let src := f.src.toNat
    let dst := f.dst.toNat
    let xs := (srcElems k src f.va.toNat (if fmtBits src < 16 then f.part.toNat else 0)).map (decodeNum src)
    let ys := xs.map (scaled src ((getS k (scaleReg f)).toNat % 256))
    let rnd := vecRnd c k f.sr
    let done (q : Core) (e : Ev) : Host.Outcome State Fault Refusal :=
      .next (bumpEv (xIssued s c { q with tokens := k.tokens - 1, posVec := k.posVec + 32 } (k.xe.pc + 6)) (cCore c 0) e)
    let put (l : List Nat) : Core := putElems k dst f.vd.toNat (if fmtBits dst < 16 then f.part.toNat else 0) l
    (cvtFaults f false false = [] → exec (.vcvt c f) s = done (put (convPlain dst rnd 0 xs).1) (convPlain dst rnd 0 xs).2) ∧
    (cvtFaults f true false = [] → exec (.vcvtbs c f) s = done (put (convPlain dst rnd 0 ys).1) (convPlain dst rnd 0 ys).2) ∧
    (cvtFaults f false true = [] →
      exec (.vcvtbd c f) s = done (setS (put (convBlock dst rnd 0 xs).2.1) (scaleReg f) (BitVec.ofNat 32 (convBlock dst rnd 0 xs).1)) (convBlock dst rnd 0 xs).2.2) ∧
    (cvtFaults f true true = [] →
      exec (.vcvtbb c f) s = done (setS (put (convBlock dst rnd 0 ys).2.1) (scaleReg f) (BitVec.ofNat 32 (convBlock dst rnd 0 ys).1)) (convBlock dst rnd 0 ys).2.2))

/-- VTR copies a valid row of a tile to v[v], an FP6 row with zeros above its 48 bytes; VTW writes v[v] to a row: an EMPTY tile becomes WRITING in
the format named, with that row alone valid, and a WRITING tile whose other rows are all valid becomes FULL (R212 to R214, Table 05.3). -/
def Obligations.TileRows : Prop :=
  ∀ (c : Nat) (f : FVT) (s : State), canIssue s c true = true → (coreOf s c).tokens ≠ 0 →
    let k := coreOf s c
    let x := tileOf k f.t.toNat
    let paid : Core := { k with tokens := k.tokens - 1 }
    let row := getV k f.v.toNat
    (f.fmt = 0 → vtrReady k f = true → exec (.vtr c f) s = .next (countVectorDelay s c (some (.vtr f)) (xIssued s c (setV paid f.v.toNat (tileRow x f.row.toNat)) (k.xe.pc + 6)))) ∧
    (f.fmt ≠ 0 → f.fmt.toNat ≤ 8 → tileBusy k f.t.toNat = false →
      (x.st = .empty → ∃ t, exec (.vtw c f) s = .next t ∧ SameOtherCores s t c ∧ t.m = s.m ∧
        let y := tileOf (coreOf t c) f.t.toNat
        y.st = .writing ∧ y.fmt = f.fmt.toNat ∧ y.mask = BitVec.twoPow 16 f.row.toNat ∧ tget zeroL y.rows f.row.toNat = row ∧
        ∀ i, i ≠ f.t.toNat → tileOf (coreOf t c) i = tileOf k i) ∧
      (x.st = .writing → x.fmt = f.fmt.toNat → ∃ t, exec (.vtw c f) s = .next t ∧
        let y := tileOf (coreOf t c) f.t.toNat
        y.mask = x.mask ||| BitVec.twoPow 16 f.row.toNat ∧ tget zeroL y.rows f.row.toNat = row ∧
        (∀ i, i ≠ f.row.toNat → tget zeroL y.rows i = tget zeroL x.rows i) ∧
        (x.scaleOk = true → (y.st = .full ↔ y.mask = 0xFFFF))))

/-- A guarded-off vector or matrix slot does nothing: the bundle acts as if its scalar and sync slots stood alone (R149), unless a fault that the encoding alone
shows, or a write conflict, is raised. A guard that lets a slot through leaves it the effect it has without a guard. -/
def Obligations.GuardedSlots : Prop :=
  ∀ (c : Nat) (s : State) (p : BitVec 3) (neg : Bool) (v : VectorOp) (m : MatrixOp), canIssue s c true = true →
    let k := coreOf s c
    let b : Bundle := { gen := true, gpred := p, gneg := neg, vector := some v }
    let bm : Bundle := { gen := true, gpred := p, gneg := neg, matrix := some m }
    (getP k p = neg → hardOnly (vectorFaults v) = [] → issue s c true b 6 = xIssued s c k (k.xe.pc + 6)) ∧
    (getP k p = neg → hardOnly (matrixFaults m) = [] → issue s c true bm 6 = xIssued s c k (k.xe.pc + 6)) ∧
    (getP k p = neg → ∀ (sc : Option ScalarOp) (sy : Option SyncOp), hardOnly (vectorFaults v) = [] → hardOnly (matrixFaults m) = [] →
      (∀ w ∈ vectorWrites v, w ∉ optList sc scalarWrites ∧ w ∉ optList sy (syncWrites true)) →
      ∀ len, issue s c true { b with scalar := sc, matrix := some m, sync := sy } len = issue s c true { scalar := sc, sync := sy } len) ∧
    (getP k p ≠ neg → issue s c true b 6 = issue s c true { vector := some v } 6 ∧ issue s c true bm 6 = issue s c true { matrix := some m } 6)

/-- A bundle takes effect as a whole (R155, R196, R197): one held by a wait changes nothing of the core but the hold its engine notes; one that
faults changes no register, queue entry, tile, accumulator, flag, byte of memory, and no counter but those of FLAG_OVER and FLAG_UNDER, and a flag that its
WAITC has taken while the bundle was held is set again. A fault of the X-stream, or of a
committed A-stream bundle, stops its engine there and writes its record; that of an uncommitted bundle is held. -/
def Obligations.BundlesAreAllOrNothing : Prop :=
  ∀ (c : Nat) (x : Bool) (s : State) (b : Bundle) (len : Nat), canIssue s c x = true →
    let k := coreOf s c
    let t := issue s c x b len
    (∀ h, verdict s c x b noPre = .held h → coreOf t c = updEngine k x (fun e => { e with hold := h, short := guardOn k b && b.vector.isSome && k.tokens == 0 }) ∧ t.m = s.m ∧ t.cm = s.cm ∧ SameOtherCores s t c) ∧
    (∀ f, verdict s c x b noPre = .fault f → ∀ g r, b.sync = some (.waitc g) → syncTarget c k x g = .flag r → (engineOf k x).grant = true → firstWaiter s r = none →
      (∀ d i, r = .core d i → i < 256) → (∀ i, r = .chip i → i < 4096) → flagGet t r = true ∧ (engineOf (coreOf t c) x).grant = false) ∧
    (∀ f, verdict s c x b noPre = .fault f → (∀ g, b.sync = some (.waitc g) → (engineOf k x).grant = false) →
      (engineOf (coreOf t c) x).pc = (engineOf k x).pc ∧
      (coreOf t c).sr = k.sr ∧ (coreOf t c).pr = k.pr ∧ (coreOf t c).v = k.v ∧ (coreOf t c).acc = k.acc ∧ (coreOf t c).mops = k.mops ∧ (coreOf t c).flags = k.flags ∧
      (coreOf t c).posted = k.posted ∧ (coreOf t c).wgb = k.wgb ∧ t.m = s.m ∧ SameOtherCores s t c ∧
      (∀ i, i ≠ cCore c 48 → i ≠ cCore c 49 → counter t i = counter s i) ∧
      (x = true → (coreOf t c).xe.st = .faulted ∧ (coreOf t c).xe.frec = faultWord f.2 k.xe.pc f.1) ∧
      (x = false → (coreOf t c).a = k.a ∧ (coreOf t c).lq = k.lq ∧ (coreOf t c).sq = k.sq ∧ (coreOf t c).reqs = k.reqs ∧ (coreOf t c).tiles = k.tiles ∧
        (coreOf t c).brx = k.brx ∧
        (k.brx = [] → (coreOf t c).ae.st = .faulted ∧ (coreOf t c).ae.frec = faultWord f.2 k.ae.pc f.1) ∧
        (k.brx ≠ [] → (coreOf t c).heldFault = some ⟨f.2, k.ae.pc, f.1, levelNow k⟩ ∧ (coreOf t c).ae.st = k.ae.st)))

/-- BUNDLE_ISSUE fetches the header and the slots at the engine's program counter and issues what they spell (R144 to R147, R156, R195): a header
that names one scalar slot of the X-stream, with the word of an ADD, SUB, AND, OR or XOR in it, completes with that instruction's result, and one
that names an access slot of the A-stream, with the word of an ADDAI, with its; a header whose length check is wrong
raises LENGTH in slot 7, and one outside the region FETCH_BOUNDS. -/
def Obligations.BundleIssueDecodes : Prop :=
  (∀ (c : Nat) (s : State), canIssue s c true = true →
    let k := coreOf s c
    let pc := k.xe.pc
    let w : Word := BitVec.ofNat 32 (readN k.store (pc + 2) 4)
    let a := getS k (w.extractLsb' 16 5)
    let b := getS k (w.extractLsb' 11 5)
    let goesTo (v : Word) : Host.Outcome State Fault Refusal := .next (xIssued s c (setS k (w.extractLsb' 21 5) v) (pc + 6))
    (k.xe.base ≤ pc → pc + 6 ≤ k.xe.base + k.xe.size → headerAt k pc = 0x0021 → w.extractLsb' 0 11 = 0 →
      (w.extractLsb' 26 6 = 0x00 → exec (.bundleIssue c true) s = goesTo (a + b)) ∧
      (w.extractLsb' 26 6 = 0x01 → exec (.bundleIssue c true) s = goesTo (a - b)) ∧
      (w.extractLsb' 26 6 = 0x02 → exec (.bundleIssue c true) s = goesTo (a &&& b)) ∧
      (w.extractLsb' 26 6 = 0x03 → exec (.bundleIssue c true) s = goesTo (a ||| b)) ∧
      (w.extractLsb' 26 6 = 0x04 → exec (.bundleIssue c true) s = goesTo (a ^^^ b))) ∧
    (k.xe.base ≤ pc → pc + 2 ≤ k.xe.base + k.xe.size → headerAt k pc = 0x0041 →
      exec (.bundleIssue c true) s = .next (streamFault s c true .length pc 7)) ∧
    (k.xe.base + k.xe.size < pc + 2 → exec (.bundleIssue c true) s = .next (streamFault s c true .fetchBounds pc 7))) ∧
  (∀ (c : Nat) (s : State), canIssue s c false = true → accessFree s c →
    let k := coreOf s c
    let pc := k.ae.pc
    let w : Word := BitVec.ofNat 32 (readN k.store (pc + 2) 4)
    k.ae.base ≤ pc → pc + 6 ≤ k.ae.base + k.ae.size → headerAt k pc = 0x0028 → w.extractLsb' 26 6 = 0x12 →
      exec (.bundleIssue c false) s =
        .next (aIssued s c (setA k (w.extractLsb' 22 4) (getA k (w.extractLsb' 18 4) + (w.extractLsb' 0 18).signExtend 48)) (pc + 6)))

/-! ### Core instructions: the matrix slot -/

/-- A matrix instruction that finds room in MQ, its tiles ready and no fault enters MQ behind the others, in X-stream order (R171, R232). An MDRAIN also
takes 512 positions of its stream whatever its destination (R177), reserves its SQ fills (R178), and makes its destination tile DRAINING; an MMUL
is counted. -/
def Obligations.MatrixInstructionsEnterMQ : Prop :=
  ∀ (c : Nat) (s : State), canIssue s c true = true → mqUsed (coreOf s c) < 4 →
    let k := coreOf s c
    let queued (op : MatrixOp) : Core := { k with mops := k.mops ++ [{ id := k.mopNext, op := op, phase := .queued }], mopNext := k.mopNext + 1 }
    (∀ mask, exec (.mzero c mask) s = .next (xIssued s c (queued (.mzero mask)) (k.xe.pc + 6))) ∧
    exec (.mswap c) s = .next (xIssued s c (queued .mswap) (k.xe.pc + 6)) ∧
    (∀ mask, exec (.trel c mask) s = .next (xIssued s c (queued (.trel mask)) (k.xe.pc + 6))) ∧
    (∀ f : FMM, (∀ t ∈ mopReads (.mmul f), tileReady k t = true) → matrixStateFaults k (.mmul f) = [] →
      exec (.mmul c f) s = .next (bump (xIssued s c (queued (.mmul f)) (k.xe.pc + 6)) (cCore c 24) 1)) ∧
    (∀ f : FMD, matrixFaults (.mdrain f) = [] → matrixStateFaults k (.mdrain f) = [] →
      (f.dest = 0 → (tileOf k f.td.toNat).st = .empty ∧ tileBusy k f.td.toNat = false) →
      ∃ t, exec (.mdrain c f) s = .next t ∧ t.m = s.m ∧ SameOtherCores s t c ∧
        (coreOf t c).mops = k.mops ++ [{ id := k.mopNext, op := .mdrain f, phase := .queued, soff := (getS k f.soff).toNat, seed := k.seed.toNat,
                                         pos := k.posDrain.toNat, ticket := k.fillNext }] ∧
        (coreOf t c).posDrain = k.posDrain + 512 ∧ (coreOf t c).fillNext = k.fillNext + drainFills f ∧ (coreOf t c).acc = k.acc ∧
        (coreOf t c).sr = k.sr ∧ (coreOf t c).v = k.v ∧ (coreOf t c).sq = k.sq ∧ (coreOf t c).wgb = k.wgb ∧
        (f.dest = 0 → (tileOf (coreOf t c) f.td.toNat).st = .draining) ∧
        ∀ i, (f.dest ≠ 0 ∨ i ≠ f.td.toNat) → tileOf (coreOf t c) i = tileOf k i)

/-- Faults found from a slot's encoding and registers are raised precisely at the bundle. An MMUL of an INT8 operand with a floating one, or of one scaled
INT8 operand with one unscaled, is OPERAND_PAIR (R88); a WGB offset that is no multiple of 2,048 or above 194,560 is WGB_OFFSET (R176). A load or
store of an address that is not aligned to its size, or has a bit of [47:40] set, raises ADDRESS (Table 04.17); SZ 7 raises FIELD (R181). -/
def Obligations.SlotFaultsArePrecise : Prop :=
  (∀ (c : Nat) (s : State), canIssue s c true = true → mqUsed (coreOf s c) < 4 →
      let k := coreOf s c
      (∀ (f : FMM) (i : Nat), i < 4 → f.amask = BitVec.twoPow 4 i →
        tileReady k f.ta.toNat = true → tileReady k (4 * f.twg.toNat + i) = true →
        let ta := tileOf k f.ta.toNat
        let tw := tileOf k (4 * f.twg.toNat + i)
        ((ta.fmt = 8 ∧ tw.fmt ≠ 8) ∨ (ta.fmt ≠ 8 ∧ tw.fmt = 8) ∨ (ta.fmt = 8 ∧ tw.fmt = 8 ∧ (ta.bsh = 0 ↔ tw.bsh ≠ 0))) →
        exec (.mmul c f) s = .next (streamFault s c true .operandPair k.xe.pc 2)) ∧
      (∀ f : FMD, f.dest = 2 → f.td = 0 → f.fmt = 0 → f.bs = false → f.sr = false →
        ((getS k f.soff).toNat % 2048 ≠ 0 ∨ 194560 < (getS k f.soff).toNat) → (projectedAcc k (4 + f.acc.toNat)).1 = false →
        exec (.mdrain c f) s = .next (streamFault s c true .wgbOffset k.xe.pc 2))) ∧
  (∀ (c : Nat) (f : FAM) (s : State), canIssue s c false = true → (coreOf s c).brx = [] →
      let k := coreOf s c
      let addr : Nat := (if f.inc then getA k f.ab else getA k f.ab + f.off.signExtend 48).toNat
      (f.sz ≠ 7 → (2 ^ 40 ≤ addr ∨ addr % 2 ^ f.sz.toNat ≠ 0) →
        exec (.ld c f) s = .next (streamFault s c false .address k.ae.pc 3) ∧ exec (.st c f) s = .next (streamFault s c false .address k.ae.pc 3)) ∧
      (f.sz = 7 → exec (.ld c f) s = .next (streamFault s c false .field k.ae.pc 3) ∧ exec (.st c f) s = .next (streamFault s c false .field k.ae.pc 3)) ∧
      (f.sz ≠ 6 → exec (.pf c f) s = .next (streamFault s c false .field k.ae.pc 3)))

/-! ### Core instructions: the access slot -/

/-- Address-register arithmetic is modulo 2⁴⁸ with the immediate sign-extended (R157, R180); nothing but a[d] and the engine's position changes, and the
bundle is counted once it is committed. BRA and JMPA are resolved at issue (R100, R180): BRA compares a[aa] with a[ab] by COND (equal, not equal, signed less, unsigned less); a taken branch
goes to 2 × OFF from its bundle, within the region. -/
def Obligations.AddressArithmeticAndBranches : Prop :=
  (∀ (c : Nat) (s : State), canIssue s c false = true → accessFree s c →
    let k := coreOf s c
    let goesTo (d : BitVec 4) (v : BitVec 48) : Host.Outcome State Fault Refusal := .next (aIssued s c (setA k d v) (k.ae.pc + 6))
    (∀ f : FAR, exec (.addaSuba c false f) s = goesTo f.ad (getA k f.as + getA k f.at_) ∧
      exec (.addaSuba c true f) s = goesTo f.ad (getA k f.as - getA k f.at_)) ∧
    (∀ f : FAI, exec (.addai c f) s = goesTo f.ad (getA k f.as + f.imm.signExtend 48) ∧
      exec (.mulai c f) s = goesTo f.ad (getA k f.as * f.imm.signExtend 48) ∧
      (f.imm.toNat < 64 → exec (.shla c f) s = goesTo f.ad (getA k f.as <<< f.imm.toNat)) ∧
      (f.as = 0 → exec (.lia c f) s = goesTo f.ad (f.imm.signExtend 48)))) ∧
  (∀ (c : Nat) (f : FAB) (s : State), canIssue s c false = true → accessFree s c →
    let k := coreOf s c
    let a := getA k f.aa
    let b := getA k f.ab
    let taken : Prop := (f.cond = 0 ∧ a = b) ∨ (f.cond = 1 ∧ a ≠ b) ∨ (f.cond = 2 ∧ a.slt b = true) ∨ (f.cond = 3 ∧ a.ult b = true)
    let goesTo : Int := (k.ae.pc : Int) + 2 * f.off.toInt
    (¬ taken → exec (.bra c f) s = .next (aIssued s c k (k.ae.pc + 6))) ∧
    ((k.ae.base : Int) ≤ goesTo → goesTo < (k.ae.base + k.ae.size : Nat) →
      (taken → exec (.bra c f) s = .next (aIssued s c k goesTo.toNat)) ∧
      (f.aa = 0 → f.ab = 0 → f.cond = 0 → exec (.jmpa c f) s = .next (aIssued s c k goesTo.toNat))) ∧
    ((goesTo < (k.ae.base : Int) ∨ (k.ae.base + k.ae.size : Nat) ≤ goesTo) → taken → k.brx = [] →
      exec (.bra c f) s = .next (streamFault s c false .fetchBounds k.ae.pc 3)))

/-- LD takes the next LQ entry, with its address and size, and makes one request for it, run-ahead while a BRX is unresolved (R101, R116, R123, R181); ST
takes the next SQ entry (R106); INC moves the base after the address is taken. Neither changes a byte of the device range. -/
def Obligations.LoadsAndStoresTakeQueueEntries : Prop :=
  ∀ (c : Nat) (f : FAM) (s : State), canIssue s c false = true → accessFree s c → f.sz ≠ 7 → slotsUsed (coreOf s c) < 512 →
    let k := coreOf s c
    let n := 2 ^ f.sz.toNat
    let addr : Nat := (if f.inc then getA k f.ab else getA k f.ab + f.off.signExtend 48).toNat
    let lv := k.brxHead + k.brx.length
    let based (q : Core) : Core := if f.inc then setA q f.ab (getA k f.ab + f.off.signExtend 48) else q
    addr < 2 ^ 40 → addr % n = 0 →
    (hazard k addr = false → k.lq.length < 32 → listFull s k [addr] = false →
      ∃ t, exec (.ld c f) s = .next t ∧ t.m.mem = s.m.mem ∧ t.m.poison = s.m.poison ∧ SameOtherCores s t c ∧
        (coreOf t c).lq = k.lq ++ [{ id := k.lqNext, level := lv, pc := k.ae.pc, addr := addr, bytes := n }] ∧ (coreOf t c).lqNext = k.lqNext + 1 ∧
        (coreOf t c).a = (based k).a ∧ (coreOf t c).ae.pc = k.ae.pc + 6 ∧ (coreOf t c).sq = k.sq ∧ (coreOf t c).xe = k.xe ∧
        ∃ r ∈ (coreOf t c).reqs, r.kind = .lq k.lqNext ∧ r.addr = addr ∧ (r.ra = true ↔ k.brx ≠ [])) ∧
    (k.sq.length < 16 → k.mops.any drainsSq = false → listFull s k [addr] = false →
      exec (.st c f) s = .next (aIssued s c (based { k with sq := k.sq ++ [{ id := k.sqNext, level := lv, pc := k.ae.pc, addr := addr, bytes := n }],
                                                            sqNext := k.sqNext + 1 }) (k.ae.pc + 6))) ∧
    (k.sq.length = 16 → exec (.st c f) s = .next (setCore s c { k with ae := { k.ae with hold := .sqFull, short := false } }))

/-- PF is always a run-ahead access (R123): with PF_EN clear it only counts and moves its base; with PF_EN set and an address that no line has it is
dropped and counted (log 91); else it makes one request and takes no queue entry. No PF ever faults on its address or changes a byte (R127). MLOAD and MLOADT start the load of an EMPTY tile (R182, R222): it becomes LOADING in the format named, rows past NR read as zero and are valid, and one
request goes out for each of its NR + 1 rows and one for its scale line. -/
def Obligations.PrefetchesAndTileLoads : Prop :=
  (∀ (c : Nat) (f : FAM) (s : State), canIssue s c false = true → accessFree s c → f.sz = 6 →
    let k := coreOf s c
    let addr : Nat := (if f.inc then getA k f.ab else getA k f.ab + f.off.signExtend 48).toNat
    let based : Core := if f.inc then setA k f.ab (getA k f.ab + f.off.signExtend 48) else k
    (k.runahead.getLsbD 9 = false → exec (.pf c f) s = .next (bump (aIssued s c based (k.ae.pc + 6)) (cCore c 6) 1)) ∧
    (k.runahead.getLsbD 9 = true → (2 ^ 40 ≤ addr ∨ addr % 64 ≠ 0) →
      exec (.pf c f) s = .next (bump (aIssued s c based (k.ae.pc + 6)) (cCore c 7) 1)) ∧
    (k.runahead.getLsbD 9 = true → slotsUsed k < 512 → listFull s k [addr] = false → addr < 2 ^ 40 → addr % 64 = 0 →
      ∃ t, exec (.pf c f) s = .next t ∧ t.m.mem = s.m.mem ∧ (coreOf t c).lq = k.lq ∧ (coreOf t c).sq = k.sq ∧ (coreOf t c).flags = k.flags ∧
        (coreOf t c).a = based.a ∧ (coreOf t c).ae.pc = k.ae.pc + 6 ∧ ∃ r ∈ (coreOf t c).reqs, r.kind = .pf ∧ r.addr = addr ∧ r.ra = true)) ∧
  (∀ (c : Nat) (f : FAT) (s : State), canIssue s c false = true → accessFree s c → mloadFaults (coreOf s c) f = [] → accessWaits s (coreOf s c) (.mload f) = [] →
    let k := coreOf s c
    let n := f.nr.toNat + 1
    let started (tr : Bool) (t : State) : Prop :=
      t.m.mem = s.m.mem ∧ SameOtherCores s t c ∧ (coreOf t c).ae.pc = k.ae.pc + 6 ∧ (coreOf t c).lq = k.lq ∧ (coreOf t c).sq = k.sq ∧
      (∀ i, i ≠ f.td.toNat → tileOf (coreOf t c) i = tileOf k i) ∧
      (let x := tileOf (coreOf t c) f.td.toNat
       x.st = .loading ∧ x.fmt = f.fmt.toNat ∧ x.bsh = f.bsh.toNat ∧ x.trans = tr ∧ x.rows = [] ∧ (x.scaleOk = true ↔ f.bsh = 0) ∧
       ∀ r, r < 16 → (x.mask.getLsbD r = true ↔ n ≤ r)) ∧
      (∀ r, r < n → ∃ q ∈ (coreOf t c).reqs, q.kind = .tile f.td.toNat r ∧ q.addr = (getA k f.ab + BitVec.ofNat 48 r * getA k f.as).toNat) ∧
      (f.bsh ≠ 0 → ∃ q ∈ (coreOf t c).reqs, q.kind = .scale f.td.toNat ∧ q.addr = (getA k f.ac).toNat)
    (∃ t, exec (.mload c f) s = .next t ∧ started false t) ∧ (∃ t, exec (.mloadt c f) s = .next t ∧ started true t))

/-- AMO takes one SQ entry for its operand and, with RET, one LQ entry for the old value; it never issues while a BRX is unresolved (R125, R184). -/
def Obligations.AtomicsTakeQueueEntries : Prop :=
  ∀ (c : Nat) (f : FAX) (s : State), canIssue s c false = true → (coreOf s c).brx = [] → listOver (coreOf s c) = false → accessFaults (coreOf s c) (coreOf s c).ae.pc (.amo f) = [] →
    (coreOf s c).sq.length < 16 → (coreOf s c).mops.any drainsSq = false → (f.ret = true → (coreOf s c).lq.length < 32) → slotsUsed (coreOf s c) < 512 →
    let k := coreOf s c
    let addr := (getA k f.ab + f.off.signExtend 48).toNat
    listFull s k [addr] = false →
    let n := amoSize f.aop f.ty
    let e : Sq := { id := k.sqNext, level := k.brxHead, pc := k.ae.pc, addr := addr, bytes := n,
                    amo := some ⟨f.aop, f.ty, if f.ret then some k.lqNext else none⟩ }
    let q : Core := { k with sq := k.sq ++ [e], sqNext := k.sqNext + 1 }
    (f.ret = false → exec (.amo c f) s = .next (aIssued s c q (k.ae.pc + 6))) ∧
    (f.ret = true → exec (.amo c f) s = .next (aIssued s c
      { q with lq := k.lq ++ [{ id := k.lqNext, level := k.brxHead, pc := k.ae.pc, addr := addr, bytes := n, amo := true }], lqNext := k.lqNext + 1 }
      (k.ae.pc + 6)))

/-! ### Core instructions: the sync slot -/

/-- SET and CLR. Of a flag of the issuing core, once the stores they order after are done (R114, R185, R483): the flag changes at once and the operation is
counted; a SET that finds the flag set raises FLAG_OVER, a CLR that finds it clear FLAG_UNDER, at the bundle, which the core counts as the flag's
holder, and the flag keeps its value. Of a chip flag they are posted: the bundle goes on, the operation is on its way to its holder with the address of
its bundle, and one more acknowledgement is awaited (R114, R484). -/
def Obligations.SyncSlotFlagOperations : Prop :=
  (∀ (c : Nat) (x : Bool) (f : FSF) (s : State), canIssue s c x = true → (x = false → (coreOf s c).brx = [] ∧ listOver (coreOf s c) = false) →
      f.kind = 0 → f.flag.toNat < 256 → f.reg = 0 → f.dst = 0 → storesDone (coreOf s c) x = true →
      let k := coreOf s c
      let pc := (engineOf k x).pc
      let i := f.flag.toNat
      (flagOf k i = false → firstWaiter s (.core c i) = none →
        exec (.set c x f) s = .next (bump (issuedBy s c x (setFlag k i true) (pc + 6)) (cCore c 45) 1)) ∧
      (flagOf k i = true → exec (.clr c x f) s = .next (bump (issuedBy s c x (setFlag k i false) (pc + 6)) (cCore c 46) 1)) ∧
      (flagOf k i = true → exec (.set c x f) s = .next (streamFault (bump s (cCore c 48) 1) c x .flagOver pc 4)) ∧
      (flagOf k i = false → exec (.clr c x f) s = .next (streamFault (bump s (cCore c 49) 1) c x .flagUnder pc 4))) ∧
  (∀ (c : Nat) (x : Bool) (f : FSF) (s : State), canIssue s c x = true → (x = false → (coreOf s c).brx = [] ∧ listOver (coreOf s c) = false) →
      f.kind = 1 → f.reg = 0 → f.dst = 0 → storesDone (coreOf s c) x = true → (coreOf s c).posted = [] → devNum s < 4096 →
      let k := coreOf s c
      let pc := (engineOf k x).pc
      let sent (op : FOp) (t : State) : Prop :=
        t.sh.flagQ = s.sh.flagQ ++ [{ who := .engine c x, flag := .chip f.flag.toNat, op := op, addr := pc }] ∧ t.sh.cf = s.sh.cf ∧ t.m = s.m ∧ SameOtherCores s t c ∧
        (coreOf t c).unacked = k.unacked + 1 ∧ (coreOf t c).flags = k.flags ∧ (engineOf (coreOf t c) x).pc = pc + 6
      (∃ t, exec (.set c x f) s = .next t ∧ sent .set t) ∧ (∃ t, exec (.clr c x f) s = .next t ∧ sent .clr t))

/-- WAITC on a flag that is set and on which nobody waits clears it and goes on; on a clear flag its engine is held and waits at the holder; TEST writes the
flag to p[DST] or a[DST] and leaves it (R186, R188, R478, R480). Both kinds of flag are covered. -/
def Obligations.WaitsAndTests : Prop :=
  ∀ (c : Nat) (x : Bool) (f : FSF) (s : State), canIssue s c x = true → (x = false → (coreOf s c).brx = [] ∧ listOver (coreOf s c) = false) →
    ((f.kind = 0 ∧ f.flag.toNat < 256) ∨ f.kind = 1) → f.reg = 0 →
    let k := coreOf s c
    let pc := (engineOf k x).pc
    let r : FlagRef := if f.kind = 0 then .core c f.flag.toNat else .chip f.flag.toNat
    (f.dst = 0 → flagGet s r = true → firstWaiter s r = none → (engineOf k x).grant = false →
      ∃ t, exec (.waitc c x f) s = .next t ∧ flagGet t r = false ∧ (∀ q, q ≠ r → flagGet t q = flagGet s q) ∧ t.m = s.m ∧
        (engineOf (coreOf t c) x).pc = pc + 6 ∧ (coreOf t c).sr = k.sr ∧ (coreOf t c).a = k.a ∧ t.sh.waiters = s.sh.waiters) ∧
    (f.dst = 0 → flagGet s r = false → (engineOf k x).grant = false → (∀ w ∈ s.sh.waiters, w.who ≠ .engine c x) →
      ∃ t, exec (.waitc c x f) s = .next t ∧ t.sh.waiters = s.sh.waiters ++ [⟨.engine c x, r⟩] ∧
        coreOf t c = updEngine k x (fun e => { e with hold := .waitc, short := false }) ∧ t.m = s.m ∧ t.cm = s.cm) ∧
    (x = true → f.dst.toNat < 8 →
      exec (.test c x f) s = .next (xIssued s c (setP k (f.dst.setWidth 3) (flagGet s r)) (pc + 6))) ∧
    (x = false → f.dst.toNat < 16 →
      exec (.test c x f) s = .next (aIssued s c (setA k (f.dst.setWidth 4) (if flagGet s r then 1 else 0)) (pc + 6)))

/-- A BRX below the depth takes a checkpoint of a0 to a15 and goes down its predicted path without waiting (R119 to R122); an unused predictor entry predicts
the hint. At the depth it waits to issue; with BRX_DEPTH 0 every bundle behind it waits for its outcome (log 87). -/
def Obligations.BrxIssues : Prop :=
  ∀ (c : Nat) (f : FSX) (s : State), canIssue s c false = true → listOver (coreOf s c) = false →
    let k := coreOf s c
    let pc := k.ae.pc
    let goesTo := tgtNat ((pc : Int) + 2 * f.off.toInt)
    let depth := k.runahead.toNat % 32
    (k.brx.length < min 16 depth ∨ k.brx = [] →
      ∃ (t : State) (b : Brx), exec (.brx c f) s = .next t ∧ (coreOf t c).brx.getLast? = some b ∧ (coreOf t c).brx.length = k.brx.length + 1 ∧
        b.ckpt = k.a ∧ b.pair = f.pair.toNat ∧ b.addr = pc ∧ b.fall = pc + 6 ∧ b.tgt = goesTo ∧ b.id = k.brxHead + k.brx.length + 1 ∧
        (predOf k pc = none → b.pred = f.hint) ∧ (∀ v, predOf k pc = some v → (b.pred = true ↔ 2 ≤ v.toNat)) ∧
        (coreOf t c).ae.pc = (if b.pred then goesTo else pc + 6) ∧ (coreOf t c).a = k.a ∧ (coreOf t c).flags = k.flags ∧ t.m = s.m) ∧
    (depth ≠ 0 → k.brx.length = min 16 depth → exec (.brx c f) s = .next (setCore s c { k with ae := { k.ae with hold := .brxDepth, short := false } })) ∧
    (depth = 0 → k.brx ≠ [] → ∀ (b : Bundle) (len : Nat), b.matrix = none → b.vector = none →
      issue s c false b len = setCore s c { k with ae := { k.ae with hold := .brxDepth, short := false } })

/-- STOP halts its engine there with its STOPID, END ends its stream; the other engine, the registers, the flags and the memory stay (R189, R191). -/
def Obligations.StopAndEndHaltTheirEngine : Prop :=
  ∀ (c : Nat) (x : Bool) (s : State), canIssue s c x = true → (x = false → (coreOf s c).brx = [] ∧ listOver (coreOf s c) = false) →
    let k := coreOf s c
    let halted (st : EngState) (t : State) : Prop :=
      coreOf t c = updEngine k x (fun e => { passed e (e.pc + 6) with st := st }) ∧ SameOtherCores s t c ∧ t.m = s.m ∧ t.sh = s.sh
    (∀ id, ∃ t, exec (.stop c x id) s = .next t ∧ halted (.stopped id) t) ∧ (∃ t, exec (.endStream c x) s = .next t ∧ halted .ended t)

/-! ### Events of a core -/

/-- Answers to a core's requests. A line that arrives for an LQ entry fills it with the bytes the load names, zeros if the line is poisoned (R103, R105,
R181); one that arrives for a tile row or a scale line fills that row or the scale store (R219, R224), and counts no bank delay while no collector or drain uses the banks (R217); an acknowledgement gives back a store's slot
(R116); an orphaned response is dropped, writes nothing and is counted (R129). Each frees the request's slot, which goes to a request that waits for
one (R118); where none waits, nothing else changes. -/
def Obligations.RequestsAreAnswered : Prop :=
  (∀ (c : Nat) (s : State), (∀ q ∈ (coreOf s c).reqs, q.phase ≠ .waitSlot) → sendReady s c = s) ∧
  ∀ (c id : Nat) (s : State) (r : Req), reqOf (coreOf s c) id = some r →
    let k := coreOf s c
    let gone : Core := { k with reqs := k.reqs.filter (fun q => q.id != id) }
    let bad := poisoned s (lineOf r.addr)
    let line := readLine s (lineOf r.addr)
    (answerable s c r = true →
      (∀ e, r.kind = .lq e → exec (.lqLineArrival c id) s = .next (sendReady (setCore s c (updLq gone e (fun q =>
        { q with st := .data, data := loadBytes line (r.addr % 64) q.bytes, poison := bad }))) c)) ∧
      (r.kind = .pf → exec (.lqLineArrival c id) s = .next (sendReady (setCore s c gone) c)) ∧
      (∀ t row, r.kind = .tile t row → (tileOf k t).st = .loading → bad = false →
        exec (.tileLineArrival c id) s = .next (sendReady (countLanding (setCore s c (clearLatch (setTile gone t (tileLine (tileOf k t) row line false)) t)) c) c)) ∧
      (∀ t, r.kind = .scale t → (tileOf k t).st = .loading → bad = false →
        exec (.tileLineArrival c id) s = .next (sendReady (countLanding (setCore s c (clearLatch (setTile gone t (tileScale (tileOf k t) line false)) t)) c) c))) ∧
    (banksInUse k = false → ∀ t : State, (coreOf t c).mops = k.mops → countLanding t c = t) ∧
    (r.phase = .performed → exec (.writeAckReturn c id) s = .next (sendReady (setCore s c gone) c)) ∧
    (r.orphan = true → exec (.orphanResponseDrop c id) s = .next (sendReady (bump (setCore s c gone) (cCore c 11) 1) c))

/-- The bytes a load takes from a line that is not poisoned are the bytes of memory at its address, little-endian, and the rest of the entry is zero
(R13, R181). -/
def Obligations.LoadedBytesAreMemoryBytes : Prop :=
  ∀ (s : State) (addr n i : Nat), addr % 64 + n ≤ 64 → i < 64 → poisoned s (lineOf addr) = false →
    laneOf 8 (loadBytes (readLine s (lineOf addr)) (addr % 64) n) i = if i < n then tget zeroB s.m.mem (addr + i) else 0

/-- The AE resolves its oldest BRX by the flags of its pair, of which it clears the one that is set (R111). When the outcome is as predicted, everything
issued under it is committed and the streams go on (R124); when not, everything issued under it is gone, a0 to a15 are those of its checkpoint, and the
A-stream goes on at the other path (R128, Table 03.3). With neither flag set nothing happens; both set is FLAG_OVER. -/
def Obligations.PredictedBranchesResolve : Prop :=
  ∀ (c : Nat) (s : State) (b : Brx) (rest : List Brx), (coreOf s c).brx = b :: rest → b.pair < 32 → (coreOf s c).rep = none →
    let k := coreOf s c
    let t := flagOf k (2 * b.pair)
    let n := flagOf k (2 * b.pair + 1)
    (t ≠ n → inRegion k.ae b.tgt = true → k.lq = [] → k.sq = [] → k.tiles = [] → k.heldFault = none → t = b.pred →
      ∃ u, exec (.brxResolution c) s = .next u ∧ (coreOf u c).brx = rest ∧ (coreOf u c).brxHead = b.id ∧ (coreOf u c).a = k.a ∧ (coreOf u c).ae = k.ae ∧
        flagOf (coreOf u c) (2 * b.pair) = false ∧ flagOf (coreOf u c) (2 * b.pair + 1) = false ∧ u.m = s.m ∧
        counter u (cCore c 9) = satInc (counter s (cCore c 9)) 1 ∧ counter u (cCore c 10) = counter s (cCore c 10)) ∧
    (t ≠ n → inRegion k.ae b.tgt = true → t ≠ b.pred →
      ∃ u, exec (.brxResolution c) s = .next u ∧ (coreOf u c).a = b.ckpt ∧ (coreOf u c).ae.pc = (if t then b.tgt else b.fall) ∧
        (coreOf u c).lq = k.lq.filter (fun e => decide (e.level < b.id)) ∧ (coreOf u c).sq = k.sq.filter (fun e => decide (e.level < b.id)) ∧
        (coreOf u c).brx = k.brx.filter (fun e => decide (e.id < b.id)) ∧ (coreOf u c).brxHead = b.id ∧ (coreOf u c).xe = k.xe ∧
        (∀ q ∈ (coreOf u c).reqs, b.id ≤ q.level → q.orphan = true) ∧ u.m = s.m ∧
        counter u (cCore c 10) = satInc (counter s (cCore c 10)) 1) ∧
    (t = false → n = false → exec (.brxResolution c) s = .next s) ∧
    (t = true → n = true → exec (.brxResolution c) s = .next (bump (streamFault s c false .flagOver b.addr 4) (cCore c 48) 1))

/-- A core's run. FLAG_ACK_RETURN takes one acknowledgement: a good one is one fewer to await, an error stops the issuing engine with its cause (R484,
R485). CORE_RUN_COMPLETE ends the run once both streams have ended and nothing is outstanding, and not before (R189). A core whose streams are
halted at a STOP, its loads and filled stores done (R137, R240, log 93), resumes at the bundle after it (R193); firmware, which holds no stop and dumps none,
resumes it at once (R191); one with a tile still LOADING is not stopped yet, and one that firmware has not handled, or holds for the open debug port,
stays (R707). -/
def Obligations.CoreRuns : Prop :=
  ∀ (c : Nat) (s : State),
    let k := coreOf s c
    (∀ a, s.sh.acks.find? (fun a => a.core == c) = some a →
      let s1 : State := { s with sh := { s.sh with acks := s.sh.acks.erase a } }
      let k1 : Core := { k with unacked := k.unacked - 1 }
      (a.err = none → exec (.flagAckReturn c) s = .next (setCore s1 c k1)) ∧
      (∀ e, a.err = some e → (engineOf k a.x).frec.getLsbD 63 = false → exec (.flagAckReturn c) s = .next (streamFault (setCore s1 c k1) c a.x e a.addr 4))) ∧
    (∀ r, k.run = some r → k.rep = none → k.ae.st = .ended → k.xe.st = .ended →
      (k.sq = [] → k.mops = [] → k.posted = [] → k.unacked = 0 → exec (.coreRunComplete c) s = .next (setCore s c { k with run := some { r with complete := true } })) ∧
      ((k.sq ≠ [] ∨ k.mops ≠ [] ∨ k.posted ≠ [] ∨ k.unacked ≠ 0) → exec (.coreRunComplete c) s = .next s)) ∧
    (∀ t, k.ae.st ≠ .faulted → k.xe.st ≠ .faulted → t ∈ k.tiles → t.2.st = .loading →
      exec (.coreStopped c) s = .next s ∧ exec (.coreResume c) s = .next s) ∧
    (∀ i j, k.ae.st = .stopped i → k.xe.st = .stopped j → settled k = true →
      let resumed : Core := { k with ae := { k.ae with st := .running }, xe := { k.xe with st := .running }, stopReported := false }
      (k.stopReported = true → (stopHold s = false ∨ s.sec.zdpOpen = false) → mgmtHalted s = false → exec (.coreResume c) s = .next (setCore s c resumed)) ∧
      ((k.stopReported = false ∨ (stopHold s = true ∧ s.sec.zdpOpen = true) ∨ mgmtHalted s = true) → exec (.coreResume c) s = .next s) ∧
      (k.stopReported = false → mgmtHalted s = false → dumpEn s = false → stopHold s = false →
        exec (.coreStopped c) s = .next (setCore (bump s 72 1) c resumed)))

/-! ### The matrix unit -/

/-- MMUL_COLLECTION_START, MMUL_COMPUTE_START and MMUL_COMPLETE take the oldest MMUL through its phases (R232 to R234): it collects once each collector
concerned has a buffer for its tile (R231, R233), and not before; computing takes 16 cycles (R229), takes 16 tokens and puts
into each enabled accumulator what `arrayMul` gives, in holding state with its kind (R172, R173); the other accumulators and the tiles stay. An
instruction before it that has not started keeps it from computing. MDRAIN, MZERO, MSWAP and TREL at the head of MQ. A drain to the SQ fills, as it
starts, the entry that is there (R178, R236); a drain to the WGB adds each accumulator cell to its WGB cell with one rounding and marks the weight
tile dirty (R256, R257); a drain to a tile leaves it FULL with the rows converted (R225); a drain with CLR leaves its accumulator zero-state (R173);
MZERO zeroes the accumulators of its mask, MSWAP exchanges acc 0 to 3 with acc 4 to 7, TREL empties its tiles (R179, log 92). -/
def Obligations.MatrixQueueRuns : Prop :=
  (∀ (c : Nat) (s : State) (m : MOp) (f : FMM) (rest : List MOp), blockRests s c = false → (coreOf s c).mops = m :: rest → m.op = .mmul f → (∀ q ∈ rest, q.id ≠ m.id) →
    let k := coreOf s c
    (m.phase = .queued → (∀ e ∈ collectorTiles f, bufferFor k e.1 e.2 = true) → (∀ q ∈ rest, q.phase ≠ .collecting) →
      ∃ t, exec (.mmulCollectionStart c) s = .next t ∧ (coreOf t c).mops =
          { m with phase := .collecting, reads := tilesRead k f, filled := if (tilesRead k f).isEmpty then 16 else 0 } :: rest ∧ (coreOf t c).acc = k.acc ∧
        (coreOf t c).tiles = k.tiles ∧ t.m = s.m) ∧
    (m.phase = .queued → ∀ e ∈ collectorTiles f, bufferFor k e.1 e.2 = false → exec (.mmulCollectionStart c) s = .next s) ∧
    (m.phase = .collecting → 16 ≤ k.tokens → (∀ q ∈ rest, q.phase ≠ .computing) →
      ∃ t, exec (.mmulComputeStart c) s = .next t ∧ (coreOf t c).mops = { m with phase := .computing, left := 16, filled := 16 } :: rest ∧ (coreOf t c).tokens = k.tokens - 16 ∧
        (coreOf t c).tiles = k.tiles ∧ t.m = s.m ∧
        (∀ i, i < 4 → f.amask.getLsbD i = true → (accOf (coreOf t c) i).rows = (arrayMul k f i).1.rows ∧
          (accOf (coreOf t c) i).holding = (arrayMul k f i).1.holding ∧ (accOf (coreOf t c) i).int = (arrayMul k f i).1.int) ∧
        (∀ i, (4 ≤ i ∨ f.amask.getLsbD i = false) → accOf (coreOf t c) i = accOf k i)) ∧
    (m.phase = .computing → exec (.mmulComplete c) s = .next (setCore s c { k with mops := rest })) ∧
    (∀ q, q.phase = .queued → exec (.mmulComputeStart c) (setCore s c { k with mops := q :: { m with phase := .collecting } :: rest }) =
      .next (setCore s c { k with mops := q :: { m with phase := .collecting } :: rest }))) ∧
  (∀ (c : Nat) (s : State) (m : MOp) (rest : List MOp), blockRests s c = false → (coreOf s c).mops = m :: rest → (∀ q ∈ rest, q.id ≠ m.id) →
    let k := coreOf s c
    (∀ f : FMD, m.op = .mdrain f → m.phase = .queued →
      (f.dest = 0 ∨ (f.dest = 1 ∧ k.sq = [] ∧ rest.any drainsSq = false) →
        exec (.mdrainStart c m.id) s = .next (setCore s c { k with mops := { m with phase := .started, left := 2 } :: rest })) ∧
      (∀ e, f.dest = 1 → k.sq = [e] → e.id = m.ticket → m.filled = 0 → e.level ≤ k.brxHead → e.data = none → e.sent = false → k.tc = [] →
        rest.any drainsSq = false →
        ∃ t, exec (.mdrainStart c m.id) s = .next t ∧ t.m.mem = s.m.mem ∧ (coreOf t c).mops = { m with phase := .started, left := 2, filled := 1 } :: rest ∧
          (let a := accOf k (4 + f.acc.toNat)
           (coreOf t c).sq = [{ e with data := (drainLines c { m with phase := .started, left := 2 } f a).head?, poison := a.poison, sent := true }])) ∧
      (f.dest = 2 → k.wgbLock.getLsbD (m.soff / 2048) = false → m.soff / 2048 < 96 →
        ∃ t, exec (.mdrainStart c m.id) s = .next t ∧ (coreOf t c).mops = { m with phase := .started, left := 2 } :: rest ∧ (coreOf t c).acc = k.acc ∧
          (coreOf t c).wgbDirty = putBit k.wgbDirty (m.soff / 2048) true ∧
          ∀ r n, r < 16 → n < 32 →
            let cell (x : BitVec 1024) : Word := x.extractLsb' (32 * n) 32
            let row := 16 * (m.soff / 2048) + r
            cell (tget zeroRow (coreOf t c).wgb row) = BitVec.ofNat 32 (roundNum 0 none (nadd (decodeNum 0 (cell (tget zeroRow k.wgb row)).toNat)
              (decodeNum 0 (cell (tget zeroRow (accOf k (4 + f.acc.toNat)).rows r)).toNat)).1).1)) ∧
    (∀ f : FMD, m.op = .mdrain f → m.phase = .started → f.dest = 0 → k.sq = [] → k.posted = [] →
      ∃ t, exec (.mdrainComplete c m.id) s = .next t ∧ (coreOf t c).mops = rest ∧
        (tileOf (coreOf t c) f.td.toNat).st = .full ∧ (tileOf (coreOf t c) f.td.toNat).mask = 0xFFFF ∧
        (∀ i, i ≠ f.td.toNat → tileOf (coreOf t c) i = tileOf k i) ∧
        accOf (coreOf t c) (4 + f.acc.toNat) = (if f.clr then {} else accOf k (4 + f.acc.toNat)) ∧
        (∀ i, i ≠ 4 + f.acc.toNat → accOf (coreOf t c) i = accOf k i) ∧ t.m = s.m) ∧
    (∀ mask, m.op = .mzero mask →
      ∃ t, exec (.mzeroExecute c) s = .next t ∧ (coreOf t c).mops = rest ∧ SameOtherCores s t c ∧ t.m = s.m ∧
        ∀ i, accOf (coreOf t c) i = if mask.getLsbD i then {} else accOf k i) ∧
    (m.op = .mswap →
      ∃ t, exec (.mswapExecute c) s = .next t ∧ (coreOf t c).mops = rest ∧ SameOtherCores s t c ∧ t.m = s.m ∧
        (∀ i, i < 4 → accOf (coreOf t c) i = accOf k (i + 4) ∧ accOf (coreOf t c) (i + 4) = accOf k i) ∧ ∀ i, 8 ≤ i → accOf (coreOf t c) i = accOf k i) ∧
    (∀ mask, m.op = .trel mask → (∀ i, i < 16 → mask.getLsbD i = true → trelReady (tileOf k i) = true) →
      ∃ t, exec (.trelExecute c) s = .next t ∧ (coreOf t c).mops = rest ∧ SameOtherCores s t c ∧ t.m = s.m ∧ (coreOf t c).acc = k.acc ∧
        (∀ i, i < 16 → mask.getLsbD i = true → (tileOf (coreOf t c) i).st = .empty ∧ (tileOf (coreOf t c) i).mask = 0) ∧
        ∀ i, (16 ≤ i ∨ mask.getLsbD i = false) → tileOf (coreOf t c) i = tileOf k i))

/-! ### Memory -/

/-- Bank credits (R294 to R298): a bank with 64 requests accepted or granted refuses the next one, which gives up its slot and waits, counted; a grant to a
core lets its oldest request for that bank out again and takes the place; a grant to a core with none waiting is passed on. No byte changes. A core's list is
the order of its requests, a refused one at its tail; while it is beyond its room the AE is held at its bundle (R296).
Bank numbers run over 8 stacks of 32 channels of 48 banks. Channels. A read of a line changes no byte unless its error cannot be corrected, when the line is poisoned and reads as zeros (R289, R290); a write merges
the bytes its mask names into its line and no other byte (R287); 60 queued writes turn the channel to a batch of writes, reads wait for its end, and
writes outside a batch wait for reads (R291, log 27); writes to a block in COPY are held (R357), and what a move writes at the new home changes no byte (R356); refresh and
calibration take time alone (R292); an in-service channel drains on firmware's word, and one that drains and homes nothing leaves the device for
good, in the repair record, once its shares have moved (R301, R302, R338). -/
def Obligations.BanksAndChannels : Prop :=
  (∀ (c id : Nat) (s : State) (r : Req) (b : Nat), reqOf (coreOf s c) id = some r → bankOf s (lineOf r.addr) = some b → b < 12288 →
    let k := coreOf s c
    let x := bankAt s b
    (r.phase = .flight → r.orphan = false → r.placed = false → (64 ≤ x.accepted + x.granted.length ∨ x.refused ≠ []) → cached s (lineOf r.addr) = false →
      (∀ q ∈ k.reqs, q.phase ≠ .waitSlot) →
      ∃ t, exec (.bankRefusal c id) s = .next t ∧ coreOf t c = toTail k id (fun q => { q with phase := .bankWait b }) ∧
        bankAt t b = { x with refused := x.refused ++ [.core c] } ∧ t.m.mem = s.m.mem ∧ SameOtherCores s t c ∧
        counter t (cCore c 36) = satInc (counter s (cCore c 36)) 1) ∧
    (∀ (bd : Bundle) (len : Nat), canIssue s c false = true → (k.brx = [] ∨ brxDepth k ≠ 0) → listOver k = true → bd.vector = none → bd.matrix = none →
      firstFault (slotFaults s c false bd) = none → issue s c false bd len = setCore s c { k with ae := { k.ae with hold := .bankList, short := false } }) ∧
    (x.granted.contains (.core c) = true → k.reqs.find? (fun q => q.phase == .bankWait b) = some r → slotsUsed k < 512 →
      (∀ q ∈ k.reqs, q.phase ≠ .waitSlot) → k.sq = [] → cached s (lineOf r.addr) = false → ∀ e, r.kind = .lq e →
      ∃ t, exec (.bankGrant c b) s = .next t ∧ coreOf t c = updReq k r.id (fun _ => { r with phase := .flight, placed := true, fwd := false }) ∧
        (bankAt t b).granted = x.granted.erase (.core c) ∧ x.accepted + 1 ≤ (bankAt t b).accepted ∧
        (allocates s (lineOf r.addr) (accKind r) = false → bankAt t b = { x with granted := x.granted.erase (.core c), accepted := x.accepted + 1 }) ∧
        t.m.mem = s.m.mem ∧ SameOtherCores s t c) ∧
    (x.granted.contains (.core c) = true → k.reqs.find? (fun q => q.phase == .bankWait b) = none → x.refused = [] →
      ∃ t, exec (.bankGrant c b) s = .next t ∧ t.cores = s.cores ∧ bankAt t b = { x with granted := x.granted.erase (.core c) })) ∧
  (∀ (p ch : Nat) (s : State), chanLive s p ch = true →
    let x := chanOf s p ch
    (∀ line (placed : Bool), lineIn s p ch line = true → x.batch = false → x.wq < 60 →
      (∃ t, exec (.channelRead p ch line ⟨placed, .clean⟩) s = .next t ∧ t.m.mem = s.m.mem ∧ t.m.poison = s.m.poison ∧ t.cores = s.cores) ∧
      (∃ t, exec (.channelRead p ch line ⟨placed, .correctable⟩) s = .next t ∧ t.m.mem = s.m.mem ∧ t.m.poison = s.m.poison ∧ t.cores = s.cores) ∧
      (∃ t, exec (.channelRead p ch line ⟨placed, .uncorrectable⟩) s = .next t ∧ poisoned t line = true ∧ readLine t line = 0 ∧
        ∀ l, l ≠ line → poisoned t l = poisoned s l ∧ readLine t l = readLine s l)) ∧
    (∀ line (placed : Bool) (e : ErrClass), (x.batch = true ∨ 60 ≤ x.wq) → exec (.channelRead p ch line ⟨placed, e⟩) s = .next s) ∧
    (∀ line (placed : Bool) (data : Line) (mask : BitVec 64), lineIn s p ch line = true → poisoned s line = false → inCopy s (blockOfLine line) = false → lineTo s p ch line = false →
      ((x.batch = true ∨ 60 ≤ x.wq ∨ x.rq = 0) →
        ∃ t, exec (.channelWrite p ch line data ⟨placed, mask⟩) s = .next t ∧ (∀ l, poisoned t l = poisoned s l) ∧ t.cores = s.cores ∧
          (∀ i, i < 64 → tget zeroB t.m.mem (64 * line + i) = if mask.getLsbD i then laneOf 8 data i else tget zeroB s.m.mem (64 * line + i)) ∧
          ∀ a, (a < 64 * line ∨ 64 * line + 64 ≤ a) → tget zeroB t.m.mem a = tget zeroB s.m.mem a) ∧
      (x.batch = false → x.wq < 60 → x.rq ≠ 0 → exec (.channelWrite p ch line data ⟨placed, mask⟩) s = .next s)) ∧
    (∀ line (data : Line) (mask : BitVec 64), inCopy s (blockOfLine line) = true → lineTo s p ch line = false → exec (.channelWrite p ch line data ⟨false, mask⟩) s = .next s) ∧
    (∀ line (data : Line) (mask : BitVec 64), lineTo s p ch line = true → ∃ t, exec (.channelWrite p ch line data ⟨false, mask⟩) s = .next t ∧
      t.m.mem = s.m.mem ∧ t.m.poison = s.m.poison ∧ t.cores = s.cores) ∧
    (60 ≤ x.wq → x.batch = false → ∃ t, exec (.channelTurnaround p ch) s = .next t ∧ chanOf t p ch = { x with batch := true, dirW := true } ∧ t.m.mem = s.m.mem) ∧
    (∀ b, b < 48 → exec (.bankRefresh p ch b) s = .next (setChan s p ch { x with refreshed := b })) ∧
    (∃ t, exec (.interfaceCalibration p ch) s = .next t ∧ chanOf t p ch = x ∧ t.m.mem = s.m.mem ∧ t.cores = s.cores) ∧
    (x.st = .inService → s.m.moves = [] → easelIdle s = false → mgmtHalted s = false → ∃ t, exec (.channelDraining p ch true) s = .next t ∧ (chanOf t p ch).st = .draining ∧ t.m.mem = s.m.mem ∧
      t.cm.event.getLsbD 3 = true) ∧
    (x.st = .draining → x.shareOut = true → usedIn s p ch = [] → mgmtHalted s = false → ∃ t, exec (.channelMappedOut p ch) s = .next t ∧ (chanOf t p ch).st = .mappedOut ∧
      t.fit.repair = s.fit.repair ++ [32 * p + ch] ∧ t.m.mem = s.m.mem))

/-- The Carafe, the atomics and the narrow path. A cache changes places and counters, never a byte: a hit moves its line to the front, but for a run-ahead
access (R127), and is counted (R308 to R310); a core's atomic writes what its operation gives of the old value and the operand, returns the old value under RET, and frees its SQ
entry (R314, R315); the mover's adds lane by lane into its line (R316); a narrow write changes the bytes it names and no other (R321, R322). -/
def Obligations.CarafeAtomicsAndNarrowPath : Prop :=
  ∀ s : State,
    (∀ (who : Requester) (line p : Nat) (kind : AccKind) (e : CLine), sliceRests s line = false → hostHolds s line = false → (dirOf s (blockOfLine line)).home = .stack p →
      (setOf s (cacheSlice s p line) line).find? (fun e => e.line == line) = some e →
      ∃ t, exec (.carafeAccess who line kind .clean) s = .next t ∧ t.m.mem = s.m.mem ∧ t.m.poison = s.m.poison ∧ t.cores = s.cores ∧
        (kind ≠ .runAhead → (setOf t (cacheSlice s p line) line).head? = some ⟨line, e.dirty || writes kind⟩) ∧
        (kind = .runAhead → t.m.carafe = s.m.carafe) ∧
        counter t (cSlice (cacheSlice s p line) 0) = satInc (counter s (cSlice (cacheSlice s p line) 0)) 1) ∧
    (∀ (c id q i : Nat) (r : Req) (e : Sq) (a : AmoInfo) (d : Line) (w h : Nat), reqOf (coreOf s c) id = some r → r.kind = .atomic q → r.id = id →
      (coreOf s c).sq = [e] → e.id = q → e.amo = some a → e.data = some d → e.poison = false → answerable s c r = true → sliceRests s (lineOf r.addr) = false →
      (dirOf s (blockOf e.addr)).home = .carafe i w h → lineOf e.addr = lineOf r.addr → inCopy s (blockOf e.addr) = false → poisoned s (lineOf e.addr) = false →
      (e.bytes = 2 ∨ e.bytes = 4 ∨ e.bytes = 8) → (coreOf s c).posted = [] →
      ∃ t, exec (.atomicPerform (.core c id)) s = .next t ∧ sqOf (coreOf t c) q = none ∧
        (∀ j, j < e.bytes → tget zeroB t.m.mem (e.addr + j) = BitVec.ofNat 8 ((amoNew a e.bytes (readBytes s e.addr e.bytes) d.toNat).1 / 256 ^ j)) ∧
        (∀ x, (x < e.addr ∨ e.addr + e.bytes ≤ x) → tget zeroB t.m.mem x = tget zeroB s.m.mem x) ∧
        (∀ l, a.ret = some l → ∀ y ∈ (coreOf t c).lq, y.id = l → y.st = .data ∧ y.data = BitVec.ofNat 512 (readBytes s e.addr e.bytes))) ∧
    (∀ (line i w h : Nat) (ty : BitVec 2) (mask : BitVec 32) (data : Line), (dirOf s (blockOfLine line)).home = .carafe i w h →
      sliceRests s line = false → hostHolds s line = false → inCopy s (blockOfLine line) = false → poisoned s line = false →
      ∃ t, exec (.atomicPerform (.mover line ty mask data)) s = .next t ∧ readLine t line = (vred ty mask (readLine s line) data).1 ∧
        (∀ l, l ≠ line → readLine t l = readLine s l) ∧ t.cores = s.cores) ∧
    (∀ (p addr n : Nat) (d : Line), (n = 8 ∨ n = 16 ∨ n = 32 ∨ n = 64) → addr % n = 0 → (dirOf s (blockOf addr)).home = .stack p →
      baseRests s p = false → hostHolds s (lineOf addr) = false → inCopy s (blockOf addr) = false → poisoned s (lineOf addr) = false →
      ∃ t, exec (.narrowAccess p addr n (some d)) s = .next t ∧ t.cores = s.cores ∧
        (∀ j, j < n → tget zeroB t.m.mem (addr + j) = laneOf 8 d j) ∧
        ∀ x, (x < addr ∨ addr + n ≤ x) → tget zeroB t.m.mem x = tget zeroB s.m.mem x)

/-! ### Placement -/

/-- Translations and moves. The agent answers its oldest request with the home of a mapped block that does not migrate, and notes the requester (R343); the
answer enters the translation cache (R344); a run-ahead load whose block is unmapped is dropped, takes no slot and no fault (R131, R133), a demand load
whose block migrates stops both engines (R135). A move copies while the block keeps its home (R356, R357), its commit makes the new home the home and calls
every holder's translation back, the last acknowledgement removes the tombstone (R356, R359), and no byte of the block changes. A request that a
tombstone answers goes to the new home (R358); the planner halves the counts of an epoch, and the next one runs under the CFG_EASEL of its start
(R364, R373); a draining channel's shares move first (R338, log 14). -/
def Obligations.TranslationsAndMoves : Prop :=
  ∀ s : State,
    (∀ (p : Nat) (q : DirReq), s.m.dirReq.find? (fun q => dirStack s q.block == p) = some q →
      let e := dirOf s q.block
      let answered (a : DirAnswer) (t : State) : Prop :=
        t.m.dirReq = s.m.dirReq.erase q ∧ t.m.dirAns = s.m.dirAns ++ [(q, a)] ∧ t.m.mem = s.m.mem ∧ t.cores = s.cores
      (e.home = .unmapped → ∃ t, exec (.directoryLookup p) s = .next t ∧ answered .unmapped t ∧ t.m.dir = s.m.dir) ∧
      (e.home ≠ .unmapped → e.mig = true → ∃ t, exec (.directoryLookup p) s = .next t ∧ answered .migrating t ∧ t.m.dir = s.m.dir) ∧
      (e.home ≠ .unmapped → e.mig = false → ∃ t, exec (.directoryLookup p) s = .next t ∧ answered (.entry e.home e.na) t ∧
        (dirOf t q.block).home = e.home ∧ (∀ c, q.who = .core c → coreRow s c < 24 → (dirOf t q.block).rows.getLsbD (coreRow s c) = true) ∧
        (q.who = .mover → (dirOf t q.block).mov = true))) ∧
    (∀ (who : Requester) (a : DirReq × DirAnswer), s.m.dirAns.find? (fun a => a.1.who == who) = some a →
      let s1 : State := { s with m := { s.m with dirAns := s.m.dirAns.erase a } }
      (∀ h na, who = .mover → a.2 = .entry h na →
        exec (.translationAnswer who) s = .next { s1 with m := { s1.m with mtc := tcInsert 1024 s.m.mtc ⟨a.1.block, h, na⟩ } }) ∧
      (∀ c h na, who = .core c → a.2 = .entry h na → (coreOf s c).reqs = [] → (coreOf s c).sq = [] →
        exec (.translationAnswer who) s = .next (setCore s1 c { coreOf s c with tc := tcInsert 256 (coreOf s c).tc ⟨a.1.block, h, na⟩ })) ∧
      (∀ c r e, who = .core c → (a.2 = .unmapped ∨ a.2 = .migrating) → (coreOf s c).reqs = [r] → r.phase = .translating → blockOf r.addr = a.1.block →
        r.kind = .lq e → r.ra = true → (coreOf s c).brxHead < r.level →
        exec (.translationAnswer who) s = .next (setCore (bump s1 (cCore c 7) 1) c (updLq { coreOf s c with reqs := [] } e (fun q => { q with st := .dropped })))) ∧
      (∀ c r e, who = .core c → a.2 = .migrating → (dirOf s a.1.block).mig = true → (coreOf s c).reqs = [r] → r.phase = .translating → blockOf r.addr = a.1.block →
        r.kind = .lq e → r.ra = false → (coreOf s c).faultBlock = none → (coreOf s c).ae.st = .running → (coreOf s c).xe.st = .running →
        ∃ t, exec (.translationAnswer who) s = .next t ∧ (coreOf t c).ae.st = .pageFault ∧ (coreOf t c).xe.st = .pageFault ∧
          (coreOf t c).faultBlock = some a.1.block ∧ t.m.mem = s.m.mem)) ∧
    (∀ x, easelIdle s = false → (drainingChans s).find? (fun x => shareHeld s x.1 x.2) = some x → exec .migrationStart s = .next (moveShares s x.1 x.2)) ∧
    (∀ (w : WaitMove) (d : Place), easelIdle s = false → (drainingChans s).find? (fun x => shareHeld s x.1 x.2) = none → s.m.waitMoves = [w] →
      deadMove s w = false → startable s w = some d → hostHasBlock s w.block = false → w.unmap = false →
      ∃ t, exec .migrationStart s = .next t ∧ t.m.waitMoves = [] ∧ t.m.moves = s.m.moves ++ [⟨w.block, placeOf s w.block, d, w.cause, true, [], [], []⟩] ∧
        (dirOf t w.block).home = (dirOf s w.block).home ∧ (dirOf t w.block).mig = true ∧ t.m.mem = s.m.mem ∧ t.cores = s.cores) ∧
    (∀ (b : Nat) (v : Move), moveOf s b = some v → v.copy = true → (∀ e ∈ s.cores, e.2.faults = []) → s.tr.logWait = [] → s.tr.postWait = 0 → holders s (dirOf s b) ≠ [] →
      ∃ t, exec (.migrationCommit b) s = .next t ∧ (dirOf t b).home = v.dst.home ∧ (dirOf t b).mig = false ∧ t.m.mem = s.m.mem ∧ t.cores = s.cores ∧
        ∃ u, moveOf t b = some u ∧ u.copy = false ∧ u.invals = holders s (dirOf s b) ∧ u.src = v.src) ∧
    (∀ (b c : Nat) (v : Move), moveOf s b = some v → v.copy = false → v.invals.contains (.core c) = true → pendingTo s c b (if v.dst.home = .unmapped then .unmapped else v.src.home) = false →
      ∃ t, exec (.invalidation (.core c) b) s = .next t ∧ (∀ e ∈ (coreOf t c).tc, e.block ≠ b) ∧ SameOtherCores s t c ∧
        t.m.mem = s.m.mem ∧ t.m.dir = s.m.dir ∧ ∃ u, moveOf t b = some u ∧ u.invals = v.invals.erase (.core c) ∧ u.acks = v.acks ++ [.core c]) ∧
    (∀ (b c : Nat) (v : Move), s.m.moves = [v] → v.block = b → v.copy = false → v.invals = [] → v.acks = [.core c] → v.cause = .planner →
      exec (.invalidationAck (.core c) b) s = .next { s with m := { s.m with moves := [] } }) ∧
    (∀ (c id e : Nat) (r : Req), (coreOf s c).reqs = [r] → (coreOf s c).sq = [] → r.id = id → forwarded s r = true → r.home ≠ .unmapped → mapped s (blockOf r.addr) = true → r.kind = .lq e → r.ra = false →
      ∃ t, exec (.forwardReceived c id) s = .next t ∧ t.m.mem = s.m.mem ∧ counter t (cCore c 43) = satInc (counter s (cCore c 43)) 1 ∧
        (∃ q ∈ (coreOf t c).reqs, q.kind = .lq e ∧ q.addr = r.addr ∧ q.home = (dirOf s (blockOf r.addr)).home ∧ q.phase = .flight) ∧
        ∃ x ∈ (coreOf t c).tc, x.block = blockOf r.addr ∧ x.home = (dirOf s (blockOf r.addr)).home) ∧
    (∀ (b : Nat) (e : DirEntry), easelIdle s = false → mgmtHalted s = false → s.m.epochCfg.getLsbD 31 = false → s.m.dir = [(b, e)] →
      ∃ t, exec .plannerEpoch s = .next t ∧ dirOf t b = { e with q := e.q.map (fun (v : BitVec 4) => v >>> 1) } ∧ t.m.waitMoves = s.m.waitMoves ∧
        t.m.mem = s.m.mem ∧ t.m.epochCfg = reg32 s 0x10C)

/-- PLACE and PIN (R347 to R354, R362). MAP gives every unmapped block of the range a home in an allowed tier, zero-filled, with the attributes of the
command, and completes OK; ATTR changes the attributes of mapped blocks and maps none; UNMAP queues the move that takes the home away; PIN 1 and 0
set and clear PIN. A range that is not made of whole blocks of the device range completes RANGE and changes nothing. -/
def Obligations.PlaceAndPin : Prop :=
  ∀ (r i : Nat) (s : State) (m : Cmd), cmdOf s r i = some m → m.phase = .ready → unitRests s (dOpcode m.desc) = false →
    let d := m.desc
    let b := dBase d / 65536
    let one : Prop := dBase d % 65536 = 0 ∧ dLen d = 65536 ∧ dBase d + 65536 ≤ 2 ^ 40 ∧ rangeInUse s d = false ∧ rangeMoving s d = false ∧ fixerIn s d = false
    let done (st : Status) (t : State) : Prop := ∃ x, cmdOf t r i = some x ∧ x.phase = .done st 0
    (dOpcode d = 0x30 → bodyOk d plFields = true → plTiers d ≠ 0 → fld d 25 0 2 = 0 → one → movesLeft s r i = false →
      (plOp d = 0 → mapped s b = false → ∀ tier p, chooseTier s (plTiers d) 1 = some tier → chooseIn s tier b .spread = some p → p.home ≠ .unmapped →
        ∃ t, exec (.placeMap r i) s = .next t ∧ done .ok t ∧ (dirOf t b).home = p.home ∧ (dirOf t b).tiers = plTiers d ∧ t.cores = s.cores ∧
          (∀ a, a / 65536 = b → tget zeroB t.m.mem a = 0) ∧ ∀ a, a / 65536 ≠ b → tget zeroB t.m.mem a = tget zeroB s.m.mem a) ∧
      (plOp d = 1 → (dirOf s b).fixer = false → mapped s b = true → homeAllowed (plTiers d) (dirOf s b) = true →
        ∃ t, exec (.placeAttr r i) s = .next t ∧ done .ok t ∧ (dirOf t b).tiers = plTiers d ∧ (dirOf t b).home = (dirOf s b).home ∧ t.m.mem = s.m.mem) ∧
      (plOp d = 1 → mapped s b = false → ∃ t, exec (.placeAttr r i) s = .next t ∧ done .ok t ∧ SamePlaces s t)) ∧
    (dOpcode d = 0x30 → bodyOk d plFields = true → one → plOp d = 2 → mapped s b = true →
      ∃ t, exec (.placeUnmap r i) s = .next t ∧ t.m.waitMoves = s.m.waitMoves ++ [⟨b, .cmd r i, true, none, none, none⟩] ∧ t.m.mem = s.m.mem ∧
        ∃ x, cmdOf t r i = some x ∧ x.phase = .busy 2) ∧
    (dOpcode d = 0x31 → bodyOk d pinFields = true → one → mapped s b = true →
      (fld d 24 0 1 = 1 → pinTiers d ≠ 0 → (dirOf s b).fixer = false → homeAllowed (pinTiers d) (dirOf s b) = true → movesLeft s r i = false →
        ∃ t, exec (.pinSet r i) s = .next t ∧ done .ok t ∧ (dirOf t b).pin = true ∧ (dirOf t b).home = (dirOf s b).home ∧ t.m.mem = s.m.mem) ∧
      (fld d 24 0 1 = 0 → ∃ t, exec (.pinClear r i) s = .next t ∧ done .ok t ∧ dirOf t b = { dirOf s b with pin := false } ∧ t.m.mem = s.m.mem)) ∧
    (rangeBad d = true → dOpcode d = 0x30 → plOp d = 2 → bodyOk d plFields = true → ∃ t, exec (.placeUnmap r i) s = .next t ∧ done .range t ∧ SamePlaces s t)

/-! ### The mover -/

/-- MOVE, GATHER and SCATTER complete (R394, R406, R407, R422, Table 09.8): one that passes its checks, has nothing remote and nothing to wait for does its
whole work in the step, and is done with OK when no line that it reads is poisoned and no line of it was lost. A WGB_DRAIN completes (R276, R278): the
drain of a MOVE's view of any MODE ends its command, with POISON_SKIP when a region tile or a line of the partial tensor it reads is poisoned and
with OK when none is (MODE 2 reads its destination too); afterwards every cell of the view holds +0, its DIRTY, POISON and lock are clear, the other
tiles of the buffers stay (R275, R276), and MODE 3 writes no memory. -/
def Obligations.MoverCommands : Prop :=
  ∀ (r i : Nat) (s : State) (m : Cmd), cmdOf s r i = some m →
    let d := m.desc
    let started (j : MoveJob) : State := addJob (keepRoom (lockEnd s r i) r i (dstBlocks j)) j
    let free (xp : Bool) (j : MoveJob) : Prop :=
      jobOf s r i = none ∧ interlocked s j.exts = false ∧ dirFail (lockEnd s r i) xp j = none ∧ remoteDev j = none ∧ unread s j = [] ∧
      anyCopy s (srcBlocks j ++ dstBlocks j) = false ∧ heldByHost s (jobLines j) = [] ∧ jobRefused s j = false ∧ j.ring = r ∧ j.slot = i
    let works (c : Instr) (j : MoveJob) : Prop :=
      ∃ t, exec c s = .next t ∧ t = runJob (started j) j (readBuf s r i) ∧
        (segsLeft s (.cmd r i) = false → m.lost = false → m.pois = false →
          (∀ c ∈ j.copies, (readCopy s (readBuf s r i) j.lossy c).poison = false) → Completed t r i .ok 0)
    let v := viewOf d
    let dst := (jobOf s r i).bind (viewDst v)
    (m.phase = .ready → dOpcode d = 0x20 → mvView d = false → unitRests s 0x20 = false → heldStructs s (moveStructs s d) = [] → ∀ j, moveJob s r i d = .job j → free (mvXpose d) j → works (.move r i) j) ∧
    (m.phase = .ready → dOpcode d = 0x21 → unitRests s 0x21 = false → gatherHeld s r i d = [] → ∀ j, gatherJob s (readBuf s r i) r i d false = .job j → free false j → works (.gather r i) j) ∧
    (m.phase = .ready → dOpcode d = 0x22 → unitRests s 0x22 = false → gatherHeld s r i d = [] → ∀ j, gatherJob s (readBuf s r i) r i d true = .job j → free false j → works (.scatter r i) j) ∧
    (m.phase = .busy 4 → dOpcode d = 0x20 → mvView d = true → v.cores.Nodup → (∀ n ∈ viewTiles v, n < 96) →
      anyCopy s (viewBlocks v dst) = false → heldByHost s (viewLinesHere v dst) = [] → (∀ t, dst = some t → t.space = 0) →
      segsLeft s (.cmd r i) = false → m.lost = false → m.pois = false →
      ∃ t, exec (.wgbDrain r i) s = .next t ∧ (v.mode = 3 → t.m.mem = s.m.mem) ∧
        (viewPoison s v = true → Completed t r i .poisonSkip 0) ∧ (viewPoison s v = false → v.mode ≠ 2 → Completed t r i .ok 0) ∧
        (∃ st, Completed t r i st 0) ∧
        ∀ c ∈ v.cores,
          (∀ n ∈ viewTiles v, (coreOf t c).wgbDirty.getLsbD n = false ∧ (coreOf t c).wgbPoison.getLsbD n = false ∧ (coreOf t c).wgbLock.getLsbD n = false ∧
            ∀ q, q < 16 → tget zeroRow (coreOf t c).wgb (16 * n + q) = 0) ∧
          ∀ n, n ∉ viewTiles v → (coreOf t c).wgbDirty.getLsbD n = (coreOf s c).wgbDirty.getLsbD n ∧
            ∀ q, q < 16 → tget zeroRow (coreOf t c).wgb (16 * n + q) = tget zeroRow (coreOf s c).wgb (16 * n + q))

/-- A mover command changes no byte and no poison mark of the device range but in the lines its destination elements, scales and row ends lie in (R394,
R405): every other line reads as before. The destination's blocks are mapped beforehand. -/
def Obligations.MoverWritesOnlyItsDestination : Prop :=
  ∀ (s : State) (j : MoveJob) (l : Nat), j.dst.space = 0 → j.dst.fmt ≤ 9 → (j.lossy = true → j.dst.bsh ≠ 0) → (∀ b ∈ dstBlocks j, mapped s b = true) →
    (∀ c ∈ j.copies, l ∉ writtenLines j.dst c.di) → (∀ q ∈ j.pads, l ∉ writtenLines j.dst q) →
    poisoned (runJob s j []) l = poisoned s l ∧ ∀ a, a / 64 = l → tget zeroB (runJob s j []).m.mem a = tget zeroB s.m.mem a

/-! ### The Fixer -/

/-- UPDATE. DEFINE reads the record, checks it, and makes the group defined with T 0, its homed blocks the Fixer's in the stack tier (R439, R440); a record that
fails a check completes with its status and defines nothing (Table 10.5). MODIFY replaces the record and keeps T (R443); RELEASE undefines the group
and gives its blocks back, and writes no byte (R444). A STEP of a held step waits; one of a discarded step, of an undefined
group and of a frozen group completes with DATA_DROPPED, RANGE and FROZEN_SKIP, and a STEP that passes its checks updates the group, whose T
grows by 1, and answers the index of the update (R446, R447, R590, R591); one whose gradient rows lost lines in the fabric answers DATA_DROPPED
(R547). -/
def Obligations.UpdateCommands : Prop :=
  ∀ (r i : Nat) (s : State) (d : Line), CommandAt s r i 0x42 d .ready →
    let g := upGroup d
    let v := bytesAt d 24 8
    let s0 := countRead s (ptrSpace v) 256
    let rec0 := (groupOf s g).record.toNat
    let read (n : Nat) : Prop := heldByHost s (structLines v 256) = [] ∧ readRecord s v = .ok n
    let step := stepOf s r i
    let plain : Prop := groupBusy s r i g = false ∧ bodyOk d upFields = true ∧ recordFieldsOnly d = true
    (upOp d = 1 → plain → ptrFail v 256 = none → (groupOf s g).defined = false → snapOf s r i (.desc v) = none → ∀ n, read n →
      (∀ e, defineFail s0 g n = some e → exec (.updateDefine r i) s = .next (finishCmd s0 r i e 0)) ∧
      (defineFail s0 g n = none → (∀ x ∈ homedBlocks s0 g n, mapped s x.1 = true) → s.m.moves = [] → heldByHost s (recLines n) = [] →
        ∃ t, exec (.updateDefine r i) s = .next t ∧ groupOf t g = { groupOf s g with defined := true, record := BitVec.ofNat 2048 n, t := 0 } ∧
          (∀ h, h ≠ g → groupOf t h = groupOf s h) ∧
          (∀ x ∈ homedBlocks s0 g n, (dirOf t x.1).fixer = true ∧ (dirOf t x.1).tiers = 4 ∧ (dirOf t x.1).home = (dirOf s x.1).home) ∧
          (∃ x, cmdOf t r i = some x ∧ (x.phase = .done .ok 0 ∨ x.phase = .busy 2)) ∧ t.cores = s.cores ∧ (grEmbed n = false → t.m.mem = s.m.mem))) ∧
    (upOp d = 2 → plain → (groupOf s g).defined = true → ∀ n, read n →
      (modifyBad (groupOf s g).record.toNat n = false →
        exec (.updateModify r i) s = .next (finishCmd (setGroup s0 g { groupOf s g with record := BitVec.ofNat 2048 n }) r i .ok 0)) ∧
      (modifyBad (groupOf s g).record.toNat n = true → exec (.updateModify r i) s = .next (finishCmd s0 r i .format 0))) ∧
    (upOp d = 3 → plain → v = 0 → (groupOf s g).defined = true →
      ∃ t, exec (.updateRelease r i) s = .next t ∧ Completed t r i .ok 0 ∧ groupOf t g = { groupOf s g with defined := false } ∧
        (∀ h, h ≠ g → groupOf t h = groupOf s h) ∧ t.cores = s.cores ∧ t.m.mem = s.m.mem ∧ t.m.poison = s.m.poison ∧
        t.cm.counters = s.cm.counters ∧
        ∀ b, dirOf t b = { dirOf s b with fixer := (dirOf s b).fixer && !(homedBlocks s g (groupOf s g).record.toNat).any (fun x => x.1 == b) }) ∧
    (upOp d = 0 →
      (s.tr.held = true → s.tr.vstep = step → exec (.updateStep r i) s = .next s) ∧
      ((s.tr.held = false ∨ s.tr.vstep ≠ step) → groupBusy s r i g = false →
        (s.tr.discarded.contains step = true → exec (.updateStep r i) s = .next (finishCmd s r i .dataDropped 0)) ∧
        (s.tr.discarded.contains step = false →
          ((groupOf s g).defined = false → exec (.updateStep r i) s = .next (finishCmd s r i .range 0)) ∧
          ((groupOf s g).defined = true → grFrozen rec0 = true → exec (.updateStep r i) s = .next (finishCmd s r i .frozenSkip 0)) ∧
          ((groupOf s g).defined = true → grFrozen rec0 = false → heldByHost s (stepHeld s r i d g rec0) = [] →
            (∀ e h, stepChecks s r i d g rec0 = .fail e h →
              exec (.updateStep r i) s = .next (finishCmd (dropReads (countRead s 1 h) r i) r i e 0)) ∧
            (∀ e h, stepChecks s r i d g rec0 = .go e h → groupCopy s rec0 = false → groupHeld s rec0 = [] → heldByHost s (embedLines e) = [] →
              ∃ t st, exec (.updateStep r i) s = .next t ∧ (if cmdLost s r i then st = .dataDropped else st = .ok ∨ st = .poisonSkip) ∧
                Completed t r i st (BitVec.ofNat 64 ((groupOf s g).t.toNat % 2 ^ 32)) ∧ (groupOf t g).t = (groupOf s g).t + 1 ∧
                (groupOf t g).record = (groupOf s g).record ∧ (groupOf t g).lastLr = BitVec.ofNat 32 (stepLr s r i d g (groupOf s g).t.toNat) ∧
                (∀ h, h ≠ g → groupOf t h = groupOf s h) ∧ t.cores = s.cores)))))

/-- A STEP of a group under rule 0 or 1 that is no embedding changes the lines of its tensors and no others: a line that no tensor of the group lies in reads
as before, and so does its mark of poison (R447, R454 to R457). The blocks of the tensors are mapped beforehand. -/
def Obligations.UpdateWritesOnlyItsGroup : Prop :=
  ∀ (s : State) (r n l : Nat) (h : Hyper) (b : Nat), grRule r ≤ 1 → b < grBlocks r → grWcFmt r ≤ 8 →
    (∀ i ∈ usedTensors r, 64 * l + 64 ≤ grAddr r i ∨ grAddr r i + tensorBytes r i ≤ 64 * l) →
    (∀ i ∈ usedTensors r, ∀ q ∈ blocksOf (grAddr r i) (tensorBytes r i), mapped s q = true) →
    let t := (stepBlock r n h 0 (gradBlock r b s) b ⟨s, 0, false⟩).s
    poisoned t l = poisoned s l ∧ (∀ a, a / 64 = l → tget zeroB t.m.mem a = tget zeroB s.m.mem a) ∧ t.cores = s.cores ∧ t.fx = s.fx

/-! ### Flags -/

/-- A holder's operation. SET sets a clear flag, or completes the oldest WAITC on it and leaves it clear; SET of a set flag is FLAG_OVER, CLR of a clear flag
FLAG_UNDER, and WRITE is neither (R480, Table 11.2, R498); an absent core answers ABSENT_CORE (R486). While the holder rests the operation waits
and wakes the device (R721, R728, log 53). No other flag changes, the operation leaves
the holder's queue, and the answer goes to its issuer: an engine or a ring slot here, another device by FLAG_ACK (R484, R497). -/
def Obligations.HoldersApplyFlagOperations : Prop :=
  ∀ (f : FlagRef) (s : State) (m : FlagMsg), nextMsg s f = some m → (∀ c i, f = .core c i → i < 256) → (∀ i, f = .chip i → i < 4096) →
    let s1 : State := { s with sh := { s.sh with flagQ := s.sh.flagQ.erase m } }
    (blockRests s (holderBlock f) = true → exec (.flagOpApply f) s = .next (wakeUp s)) ∧
    (blockRests s (holderBlock f) = false →
    let here : Prop := ∀ c i, f = .core c i → present s c = true
    let answer (t : State) (err : Option Cause) : Prop :=
      t.sh.flagQ = s1.sh.flagQ ∧ SamePlaces s t ∧ (∀ g, g ≠ f → flagGet t g = flagGet s g) ∧
      (∀ c x, m.who = .engine c x → t.sh.acks = s.sh.acks ++ [⟨c, x, m.addr, err⟩]) ∧
      (∀ r i q, m.who = .ring r i → cmdOf s r i = some q → Completed t r i (match err with | some e => causeStatus e | none => .ok) 0) ∧
      (∀ d n, m.who = .remote d n → tget zeroN t.sh.rxAck (d * 65536 + n) = statusCode (match err with | some e => causeStatus e | none => .ok))
    (∀ c i, f = .core c i → present s c = false → ∃ t, exec (.flagOpApply f) s = .next t ∧ answer t (some .absentCore) ∧ flagGet t f = flagGet s f) ∧
    (here → m.op = .set → flagGet s f = true → ∃ t, exec (.flagOpApply f) s = .next t ∧ answer t (some .flagOver) ∧ flagGet t f = true) ∧
    (here → m.op = .set → flagGet s f = false → firstWaiter s f = none → ∃ t, exec (.flagOpApply f) s = .next t ∧ answer t none ∧ flagGet t f = true) ∧
    (here → m.op = .set → flagGet s f = false → ∀ c x, firstWaiter s f = some ⟨.engine c x, f⟩ →
      ∃ t, exec (.flagOpApply f) s = .next t ∧ answer t none ∧ flagGet t f = false ∧ (engineOf (coreOf t c) x).grant = true ∧
        t.sh.waiters = s.sh.waiters.erase ⟨.engine c x, f⟩) ∧
    (here → m.op = .clr → ∃ t, exec (.flagOpApply f) s = .next t ∧ answer t (if flagGet s f then none else some .flagUnder) ∧ flagGet t f = false) ∧
    (here → m.op = .write false → ∃ t, exec (.flagOpApply f) s = .next t ∧ answer t none ∧ flagGet t f = false) ∧
    (here → m.op = .write true → firstWaiter s f = none → ∃ t, exec (.flagOpApply f) s = .next t ∧ answer t none ∧ flagGet t f = true))

/-- Flags between commands and devices. FLAG_SET sends its operation to the holder of its selector and waits for the answer (R497, R498), and one toward
an absent core of this device completes ABSENT; FLAG_WAIT takes a set chip flag, or waits (R499). A FLAG_OP that carries the pair's next number
reaches its holder, once: the same number again is only acknowledged again (R502); in an idle state it is held and wakes the device (R477), and in its
turn among what was held there it reaches its holder (R730).
A FLAG_ACK frees the operation and tells its issuer (R484). An operation that no route carries is dropped, latched in STS_SHUTTER_ERR and acknowledged
without an error (R503, R513). REMOTE_PATH takes effect when nothing of the old path is outstanding (R501). A stall detector that has
counted 65,536, its conditions holding still in D0, stops every member with STALL and raises event 1 (R507, R508, R642); any other does nothing. -/
def Obligations.FlagCommandsAndMessages : Prop :=
  ∀ s : State,
    (∀ (r i : Nat) (d : Line), CommandAt s r i 0x50 d .ready → bodyOk d [(8, 0, 32), (12, 0, 3)] = true → selBad (fsSel d) = false →
      (selDev (fsSel d) = devNum s → (selChip (fsSel d) = true ∨ present s (selCore (fsSel d)) = true) →
        let sent (op : FOp) (t : State) : Prop := t = { setPhase s r i (.busy 3) with pw := (if stopped s then wakeUp s else s).pw, sh := { s.sh with flagQ := s.sh.flagQ ++ [{ who := .ring r i, flag := selRef (fsSel d), op := op, addr := 0 }] } }
        (fsOp d = 0 → fsValue d = false → ∃ t, exec (.flagSetSet r i) s = .next t ∧ sent .set t) ∧
        (fsOp d = 1 → fsValue d = false → ∃ t, exec (.flagSetClr r i) s = .next t ∧ sent .clr t) ∧
        (fsOp d = 2 → ∃ t, exec (.flagSetWrite r i) s = .next t ∧ sent (.write (fsValue d)) t)) ∧
      (selDev (fsSel d) = devNum s → selChip (fsSel d) = false → present s (selCore (fsSel d)) = false → fsOp d = 0 → fsValue d = false →
        exec (.flagSetSet r i) s = .next (finishCmd s r i .absent 0)) ∧
      (fsOp d = 3 → exec (.flagSetWrite r i) s = .next (finishCmd s r i .format 0))) ∧
    (∀ (r i : Nat) (d : Line), CommandAt s r i 0x51 d .ready → bodyOk d [(8, 0, 12)] = true →
      let f := fld d 8 0 12
      (s.sh.cf.getLsbD f = true → exec (.flagWait r i) s = .next (finishCmd { s with sh := { s.sh with cf := putBit s.sh.cf f false } } r i .ok 0)) ∧
      (s.sh.cf.getLsbD f = false →
        exec (.flagWait r i) s = .next (setPhase { s with sh := { s.sh with waiters := s.sh.waiters ++ [⟨.ring r i, .chip f⟩] } } r i (.busy 1)))) ∧
    (∀ (src seq : Nat) (sel : Word) (op : FOp), seq < 65536 → s.fb.inbox = [] → s.fb.held = [] → mgmtHalted s = false → selBad sel = false →
      (seq = seqOf s.sh.rxSeq src → (selChip sel = true ∨ present s (selCore sel) = true) →
        (asleep s = false → ∃ t, exec (.flagOp src seq sel op) s = .next t ∧ t.sh.flagQ = s.sh.flagQ ++ [{ who := .remote src seq, flag := selRef sel, op := op, addr := 0 }] ∧
          seqOf t.sh.rxSeq src = (seq + 1) % 65536 ∧ (∀ e, e ≠ src → seqOf t.sh.rxSeq e = seqOf s.sh.rxSeq e) ∧ OnlyFabric s t) ∧
        (asleep s = true → ∃ t k, exec (.flagOp src seq sel op) s = .next t ∧ t.sh = s.sh ∧ isFlagOp src seq sel op k = true ∧ t.fb.held = [k] ∧ t.fb.inbox = [k] ∧
          OnlyFabric s t ∧ (s.pw.st ≠ 4 → t.pw.st = 5) ∧ (s.pw.st = 4 → t.pw.wake = true))) ∧
      ((seq + 1) % 65536 = seqOf s.sh.rxSeq src → s.sh.flagQ = [] → asleep s = false →
        exec (.flagOp src seq sel op) s = .next (sendFlagAck (bump s 17 1) src seq (ackStatus (tget zeroN s.sh.rxAck (src * 65536 + seq)))))) ∧
    (∀ (src seq : Nat) (sel : Word) (op : FOp) (k : Packet) (l : List Packet), s.fb.inbox = [k] → isFlagOp src seq sel op k = true → s.bu.state = 3 →
      asleep s = false → selBad sel = false → (selChip sel = true ∨ present s (selCore sel) = true) → seq = seqOf s.sh.rxSeq src →
      (s.fb.held = k :: l → k ∉ l → ∃ t, exec (.flagOp src seq sel op) s = .next t ∧ t.fb.held = l ∧ t.fb.inbox = [] ∧ OnlyFabric s t ∧
        t.sh.flagQ = s.sh.flagQ ++ [{ who := .remote src seq, flag := selRef sel, op := op, addr := 0, late := true }]) ∧
      (∀ h, s.fb.held = h :: k :: l → isFlagOp src seq sel op h = false → exec (.flagOp src seq sel op) s = .next s)) ∧
    (∀ (o : RemoteOp), s.sh.remote = [o] →
      (∀ st c x, o.sent = true → o.who = .engine c x → s.fb.inbox = [] → mgmtHalted s = false →
        exec (.flagAck o.dst o.seq st) s = .next { s with sh := { s.sh with remote := [], acks := s.sh.acks ++ [⟨c, x, o.addr, statusCause st⟩] } }) ∧
      (usableRoutes s o.dst = [] →
        ∃ t, exec (.remoteFlagHoldExpiry o.dst o.seq) s = .next t ∧ t.sh.remote = [] ∧ counter t 19 = satInc (counter s 19) 1 ∧ t.cm.event.getLsbD 5 = true ∧
          (s.sh.err.getLsbD 63 = false → t.sh.err = BitVec.ofNat 64 (2 ^ 63 + 0x50 * 2 ^ 32 + o.sel.toNat)) ∧ (s.sh.err.getLsbD 63 = true → t.sh.err = s.sh.err) ∧
          (∀ c x, o.who = .engine c x → t.sh.acks = s.sh.acks ++ [⟨c, x, o.addr, none⟩]) ∧ OnlyFabric s t)) ∧
    (s.sh.remote = [] → (reg32 s 0x124).getLsbD 0 ≠ s.sh.path →
      exec (.shutterPathChange (!s.sh.path)) s = .next { s with sh := { s.sh with path := !s.sh.path } }) ∧
    (∀ dm : Nat, (tget zeroN s.sh.domCount dm < 65536 ∨ detects s dm = false ∨ s.pw.st ≠ 0) → exec (.stall dm) s = .next s) ∧
    (∀ dm : Nat, 65536 ≤ tget zeroN s.sh.domCount dm → detects s dm = true → s.pw.st = 0 →
      (∀ l ∈ recordLines (field64 (domCfg s dm) 39 6 * 64) (members s dm).length, inCopy s (blockOfLine l) = false ∧ hostHolds s l = false) →
      ∃ t, exec (.stall dm) s = .next t ∧ t.cm.event.getLsbD 1 = true ∧ tget zeroN t.sh.domCount dm = 0 ∧ tget zeroN t.sh.domLast dm = (members s dm).length ∧
        (∀ c x, Member.engine c x ∈ members s dm → (engineOf (coreOf t c) x).st = .stalled ∧ (engineOf (coreOf t c) x).frec = (engineOf (coreOf s c) x).frec))

/-! ### Links -/

/-- The link layer. A flit that arrives in order and intact, no codeword with more than 15 symbol errors holding a byte of it (R518, log 41), is accepted: its
ACK frees the retry buffer, its packets are taken; any other is discarded, and the first of them draws a NAK (R524). A packet at its last hop enters the device, one with a hop left is relayed over its route's port, a bad one is
discarded and counted (R533, R535, R536). FLIT_TRANSMIT resends from the retry buffer, else fills four sub-flits and keeps the flit for retry (R522,
R525); CONTROL_FLIT carries no payload (R523). RETRY_LIMIT takes the port to recovery, where its lanes lock again, and which ends with a resend of all that is not
acknowledged, or with the port DOWN (R526, R527). Lanes fail to four lanes or none (R520). A port trains, locks, sends its identity frame (R658), corrects from then on the order and the
polarity of its lanes that training found (R519), and is UP once its partner is the one that its place asks for; else it is held DOWN (R566, R658, R659). -/
def Obligations.LinksCarryFlits : Prop :=
  ∀ (p : Nat) (s : State),
    let x := portOf s p
    let same (t : State) : Prop := t.cores = s.cores ∧ t.m = s.m
    let down (t : State) : Prop := (portOf t p).st = .down ∧ (portOf t p).width = 0 ∧ (portOf t p).retry = [] ∧ t.cm.event.getLsbD 4 = true ∧
      counter t (cPort p 11) = satInc (counter s (cPort p 11)) 1 ∧ same t
    (∀ (f : Flit) (c : RxCheck), x.st = .up →
      let s1 := takeWords s p x c
      let x1 := portOf s1 p
      let y : Port := { takeHeader x1 f with nakSent := false, rxSeq := if f.ctrl then x.rxSeq else x.rxSeq + 1 }
      (wordsGood x c = true ↔ ∀ q ∈ x.rxWords ++ decodeWords x c, 15 < q.2.2 → q.2.1 ∉ flitWords x.width x.rxFlits) ∧
      ((c.crcOk = false ∨ wordsGood x c = false ∨ f.seq ≠ x.rxSeq) →
        exec (.flitReceive p f c) s = .next (bump (setPort s1 p { x1 with nakSent := true, nakDue := x.nakDue || !x.nakSent }) (cPort p 8) 1)) ∧
      (c.crcOk = true → wordsGood x c = true → f.seq = x.rxSeq → f.subs = [] →
        exec (.flitReceive p f c) s = .next (bump (setPort s1 p y) (cPort p 1) 1)) ∧
      (c.crcOk = true → wordsGood x c = true → f.seq = x.rxSeq → ∀ (off n : Nat) (k : Packet), f.subs = [⟨false, k.vc, [⟨k, off, n⟩]⟩] →
        off + n = 16 + k.len → k.body ≠ .null →
        let fits : Prop := k.bad = false ∧ bodyVc k.body = some k.vc.toNat ∧ k.hops ≤ 6 ∧ k.len ≤ 1088
        (fits → k.dst = devNum s → k.hidx = k.hops → ∃ t, exec (.flitReceive p f c) s = .next t ∧ t.fb.inbox = s.fb.inbox ++ [k] ∧ same t ∧
          (wakes k.body = true → s.pw.st = 1 → t.pw.st = 5)) ∧
        (fits → k.dst ≠ devNum s → k.hidx + 1 = k.hops → ∀ o, k.route.getD k.hidx 255 = o → portPresent s o = true → o ≠ p → (portOf s o).st = .up →
          ∃ t, exec (.flitReceive p f c) s = .next t ∧ t.fb.inbox = s.fb.inbox ∧ same t ∧ counter t 22 = satInc (counter s 22) 1 ∧
            (portOf t o).queue.getD k.vc.toNat [] = (portOf s o).queue.getD k.vc.toNat [] ++ [({ k with hidx := k.hidx + 1 }, 16 + k.len)]) ∧
        ((k.bad = true ∨ bodyVc k.body ≠ some k.vc.toNat) →
          ∃ t, exec (.flitReceive p f c) s = .next t ∧ t.fb.inbox = s.fb.inbox ∧ same t ∧ counter t 20 = satInc (counter s 20) 1))) ∧
    (x.st = .up → controlDue s x = true → ∃ t f, exec (.controlFlit p) s = .next t ∧ (portOf t p).last = some f ∧ f.ctrl = true ∧ f.seq = flitSeq x ∧
      f.ack = x.rxSeq - 1 ∧ f.nak = x.nakDue ∧ f.subs.all (fun b => b.idle) = true ∧ (portOf t p).txSeq = x.txSeq ∧ (portOf t p).retry = x.retry ∧
      (portOf t p).nakDue = false ∧ (portOf t p).sinceCtrl = (x.sinceCtrl + 1) % 128 ∧ same t) ∧
    (x.st = .up → x.sinceCtrl < 127 →
      (∀ r, 0 < x.resend → nextResend x = some r → retryDone s x = false → ∃ t, exec (.flitTransmit p) s = .next t ∧ (portOf t p).last = some r.f ∧
        (portOf t p).resend = x.resend - 1 ∧ (portOf t p).retry.length = x.retry.length ∧ (portOf t p).txSeq = x.txSeq ∧ (portOf t p).queue = x.queue ∧ same t) ∧
      (x.resend = 0 → x.retry.length < 1024 → vcReady x 0 = true → ∃ t f, exec (.flitTransmit p) s = .next t ∧ (portOf t p).last = some f ∧ f.ctrl = false ∧
        f.seq = x.txSeq ∧ f.ack = x.rxSeq - 1 ∧ f.subs.length = 4 ∧ (∃ b l, f.subs = b :: l ∧ b.idle = false ∧ b.vc = 0) ∧
        (portOf t p).txSeq = x.txSeq + 1 ∧ (portOf t p).retry = x.retry ++ [⟨f, 0⟩] ∧ same t)) ∧
    (x.st = .up → retryDone s x = true → exec (.recovery p) s = .next (bump (setPort s p { x with st := .recovery, locked := false }) (cPort p 10) 1)) ∧
    (x.st = .recovery → x.locked = false → exec (.recoveryComplete p) s = .next s) ∧
    (x.st = .recovery → x.locked = true → s.sh.remote = [] → s.fb.outSegs = [] → s.fb.reads = [] →
      exec (.recoveryComplete p) s =
        .next (setPort s p { x with st := .up, retry := x.retry.map (fun r => { r with resends := 0 }), resend := x.retry.length,
                                     rxFlits := 0, rxWords := [] })) ∧
    (x.st = .recovery → ∃ t, exec (.recoveryTimeout p) s = .next t ∧ down t) ∧
    (∀ lane, x.st ≠ .down → lane < 8 →
      let bad := putBit x.laneFail lane true
      (usableWidth s p bad ≠ 0 → x.width ≠ 0 → ∃ t, exec (.laneFailure p lane) s = .next t ∧
        portOf t p = { x with laneFail := bad, width := usableWidth s p bad } ∧ (∀ q, q ≠ p → portOf t q = portOf s q) ∧ same t) ∧
      (usableWidth s p bad = 0 → ∃ t, exec (.laneFailure p lane) s = .next t ∧ (portOf t p).laneFail = bad ∧ down t)) ∧
    (s.pw.off = false → portPresent s p = true → portEn s p = false → s.bu.rails = 6 → x.st = .down →
      ∃ t, exec (.portEnable p) s = .next t ∧ portEn t p = true ∧ (portOf t p).st = .training ∧ (portOf t p).locked = false ∧
        (∀ q, q ≠ p → portOf t q = portOf s q) ∧ same t) ∧
    (∀ (polarity : BitVec 8) (reversed : Bool) nonce, (x.st = .training ∨ x.st = .recovery) → x.locked = false → x.laneFail = 0 →
      let z : Port := { x with locked := true, width := 8, polarity := polarity, reversed := reversed, rxFlits := 0, rxWords := [] }
      let y : Port := if x.st = .training then { z with myNonce := nonce, frame := some ⟨s.nv.serial, (ownPos s).getD 0, nonce⟩ } else z
      exec (.laneLock p ⟨8, polarity, reversed⟩ nonce) s = .next (setPort s p y) ∧
      ∀ (pins sent : Nat → List Byte), (∀ l, l < 8 → pins (if reversed then 7 - l else l) =
          if polarity.getLsbD (if reversed then 7 - l else l) then (sent l).map (fun b => ~~~b) else sent l) →
        ∀ l, l < 8 → laneIn y pins l = sent l) ∧
    (∀ who nonce, x.st = .training → x.locked = true →
      (partnerFits s p who = true → s.bu.state ≠ 3 → ∃ t, exec (.identityFrame p who nonce) s = .next t ∧ (portOf t p).st = .up ∧
        (portOf t p).partner = who ∧ (portOf t p).peerNonce = nonce ∧ (∀ q, q ≠ p → portOf t q = portOf s q) ∧ same t) ∧
      (partnerFits s p who = false → p < 32 → ∃ t, exec (.identityFrame p who nonce) s = .next t ∧ down t ∧ (portOf t p).heldDown = true ∧
        t.bu.portFail.getLsbD p = true ∧ counter t 64 = satInc (counter s 64) 1)) ∧
    (x.st = .training → p < 32 → ∃ t, exec (.portTrainTimeout p) s = .next t ∧ down t ∧ (portOf t p).heldDown = true ∧ t.bu.portFail.getLsbD p = true)

/-! ### Remote data -/

/-- Segments and remote reads. WRITE writes each line it carries, poisoned where its PMASK says so, and no other line (R544); a segment whose lines are all here is
acknowledged; SEG_ACK completes the command whose segments are over, with DATA_DROPPED when lines were dropped (R546). SEG_TIMEOUT asks for an abort with the
whole line map, SEG_ABORT zeroes and poisons the lines that have not come and no other, and an abort that is not delivered leaves the lines as they are and
drops the command's data (R545, R546). READ_REQ returns mapped lines; READ_DATA gives them to the command, READ_TIMEOUT gives it poisoned
zeros (R547). In an idle state a packet is kept and wakes the device (R548, R728). RED_DATA keeps a contribution for the owner's sum (R555), unless the slot has failed (R583). -/
def Obligations.SegmentsAndReads : Prop :=
  ∀ (p : Packet) (s : State), s.fb.inbox = [] → s.fb.held = [] →
    let held : State := wakeUp { s with fb := { s.fb with inbox := [p], held := [p] } }
    let path (dst len : Nat) (b : Payload) : Packet :=
      { vc := 1, hops := 0, hidx := 0, dst := dst, src := devNum s, route := [], tseq := 0, len := len, body := b }
    let others (t : State) (l : List Nat) : Prop := t.cores = s.cores ∧
      ∀ a, a / 64 ∉ l → tget zeroB t.m.mem a = tget zeroB s.m.mem a ∧ poisoned t (a / 64) = poisoned s (a / 64)
    (∀ (group segid : Nat) (mask pmask : BitVec 16) (last : Option Nat) (lines : List Line),
      let ls := maskLines group mask
      p.body = .write group segid mask pmask last lines → ls.length = lines.length →
      (asleep s = true → exec (.write p) s = .next held) ∧
      (asleep s = false → heldByHost s ls = [] → mapped s (group / 64) = true → (dirOf s (group / 64)).mig = false →
        ∃ t, exec (.write p) s = .next t ∧ others t ls ∧
          (∀ (i l : Nat) (d : Line), ls[i]? = some l → lines[i]? = some d →
            (pmask.getLsbD (l % 16) = false → readLine t l = d ∧ poisoned t l = false) ∧ (pmask.getLsbD (l % 16) = true → poisoned t l = true)) ∧
          (s.fb.inSegs = [] → last = some ls.length → lowRoute s p.src = none → mgmtHalted s = false →
            t.fb.fwOut = s.fb.fwOut ++ [path p.src ackLen (.segAck ⟨p.src, segid, group / 64⟩ 0)]))) ∧
    (∀ (k : SegKey) (dropped : Nat) (o : OutSeg) (r i : Nat) (m : Cmd), p.body = .segAck k dropped → s.fb.outSegs = [o] → o.key = k → o.dst = p.src →
      o.owner = .cmd r i → cmdOf s r i = some m → m.phase = .busy 6 → dOpcode m.desc ≠ 0x43 →
      ∃ t, exec (.segAck p) s = .next t ∧ t.fb.outSegs = [] ∧ t.m.mem = s.m.mem ∧
        Completed t r i (if dropped ≠ 0 ∨ m.lost = true then .dataDropped else if m.pois then .poisonSkip else .ok) 0) ∧
    (∀ (k : SegKey) (lines : List Nat), p.body = .segAbort k lines →
      let miss := (missing s k lines).map (lineAt k.block)
      (asleep s = true → exec (.segAbort p) s = .next (wakeUp { s with fb := { s.fb with inbox := [p] } })) ∧
      (asleep s = false → k.block < 2 ^ 24 → heldByHost s miss = [] → (∀ l ∈ miss, mapped s (blockOfLine l) = true ∧ (dirOf s (blockOfLine l)).mig = false) →
        ∃ t, exec (.segAbort p) s = .next t ∧ others t miss ∧ (∀ l ∈ miss, poisoned t l = true ∧ readLine t l = 0) ∧
          (miss ≠ [] → counter t 24 = satInc (counter s 24) miss.length))) ∧
    (∀ (o : OutSeg), s.fb.outSegs = [o] →
      (o.aborted = false → lowRoute s o.dst = none → mgmtHalted s = false → ∃ t, exec (.segTimeout o.key o.dst) s = .next t ∧ t.fb.outSegs = [{ o with aborted := true, bodies := [] }] ∧
        t.fb.fwOut = s.fb.fwOut ++ [path o.dst abortLen (.segAbort o.key o.lines)] ∧ OnlyFabric s t ∧ counter t 23 = satInc (counter s 23) 1) ∧
      (∀ r i m, o.aborted = true → o.owner = .cmd r i → cmdOf s r i = some m → m.phase = .busy 6 → dOpcode m.desc ≠ 0x43 →
        ∃ t, exec (.segAbortTimeout o.key o.dst) s = .next t ∧ t.fb.outSegs = [] ∧ Completed t r i .dataDropped 0 ∧ t.m.mem = s.m.mem)) ∧
    (∀ (group tag : Nat) (mask : BitVec 16), p.body = .readReq group mask tag →
      let ls := maskLines group mask
      let f := groupFields (ls.map (fun l => (l, readLine s l, poisoned s l)))
      (asleep s = true → exec (.readReq p) s = .next held) ∧
      (asleep s = false → heldByHost s ls = [] → ls ≠ [] → mapped s (group / 64) = true →
        exec (.readReq p) s = .next (sendSpread s tag 3 p.src (lineLen ls.length) (.readData group tag f.1 f.2.1 f.2.2))) ∧
      (asleep s = false → mapped s (group / 64) = false → exec (.readReq p) s = .next s)) ∧
    (∀ (r : ReadOut) (m : Cmd), s.fb.reads = [r] → r.got = [] → cmdOf s r.ring r.slot = some m → m.phase = .busy 5 → jobOf s r.ring r.slot = none →
      (∀ pmask lines, p.body = .readData r.group r.tag r.mask pmask lines → p.src = r.dev → (maskLines r.group r.mask).length = lines.length →
        ∃ t, exec (.readData p) s = .next t ∧ readBuf t r.ring r.slot = pairLines pmask (maskLines r.group r.mask) lines ∧ OnlyFabric s t ∧
          ∃ x, cmdOf t r.ring r.slot = some x ∧ x.phase = .ready ∧ x.lost = m.lost) ∧
      (r.mask ≠ 0 → ∃ t, exec (.readTimeout r.group r.tag) s = .next t ∧ OnlyFabric s t ∧
          readBuf t r.ring r.slot = (maskLines r.group r.mask).map (fun l => (l, 0, true)) ∧
          counter t 24 = satInc (counter s 24) (maskLines r.group r.mask).length ∧ ∃ x, cmdOf t r.ring r.slot = some x ∧ x.phase = .ready ∧ x.lost = true)) ∧
    (∀ (k inst seg chunk off n : Nat) (total : Option Nat) (bits : List (BitVec 32)) (scales pois : List Nat),
      p.body = .redData k inst seg chunk off total false bits scales pois → rankOf (slotOf s k) p.src = some n → asleep s = false → (slotOf s k).failed = false →
      ∃ t, exec (.redData p) s = .next t ∧ OnlyFabric s t ∧ (∀ j, j ≠ k → slotOf t j = slotOf s j) ∧
        slotOf t k = { slotOf s k with recv := (slotOf s k).recv ++ [⟨inst, n, chunk, off, false, bits, scales, pois⟩] })

/-! ### Collectives -/

/-- REDUCE. DEFINE reads and checks a slot and makes it defined, RELEASE undefines it (R549 to R551, R581). RUN on an undefined slot or with an INSTANCE that is not the
next completes with RANGE, on a FAILED slot with DATA_DROPPED (R551, R583); one that passes its checks sends READY with the slot's check to the leader
(R553). EXTEND goes out once for an instance whose RUN is held (R578). An owner with every contribution sums its chunk exactly, rounds once, scales, and
encodes it in the blocks of its destination (R79, R555, log 38). A RUN that is done writes its record of 576 bytes, and no other line, completes with its status and with the instance
and the size of the set as INFO, and the next INSTANCE is expected (R558, R559, R564). -/
def Obligations.ReduceCommands : Prop :=
  ∀ (r i : Nat) (s : State) (d : Line),
    let k := redSlot d
    let x := slotOf s k
    let v := bytesAt d 16 8
    let v3 := bytesAt d 24 8
    let path (len : Nat) (b : Payload) : Packet :=
      { vc := 1, hops := 0, hidx := 0, dst := leaderDev x, src := devNum s, route := [], tseq := 0, len := len, body := b }
    (CommandAt s r i 0x41 d .ready → slotBusy s r i k = false → bodyOk d (redFields d) = true →
      (redOp d = 1 → x.defined = false → ptrFail v 64 = none →
        (heldStructs s (slotPtrs s v) = [] →
          (∀ n y, readSlot s v = (n, .ok y) → exec (.reduceDefine r i) s = .next (finishCmd (setSlot (abandonLate (countRead s 1 n) x) k y) r i .ok 0)) ∧
          (∀ n e, readSlot s v = (n, .error e) → exec (.reduceDefine r i) s = .next (finishCmd (countRead s 1 n) r i e 0))) ∧
        (heldStructs s (slotPtrs s v) ≠ [] → exec (.reduceDefine r i) s = .next (recallFromHost s (heldStructs s (slotPtrs s v))))) ∧
      (redOp d = 2 → x.defined = true → exec (.reduceRelease r i) s = .next (finishCmd (setSlot (abandonLate s x) k {}) r i .ok 0)) ∧
      (redOp d = 0 →
        (x.defined = false → exec (.reduceRun r i) s = .next (finishCmd s r i .range 0)) ∧
        (x.defined = true → x.failed = true → exec (.reduceRun r i) s = .next (finishCmd s r i .dataDropped 0)) ∧
        (x.defined = true → x.failed = false → redInst d ≠ x.exp → exec (.reduceRun r i) s = .next (finishCmd s r i .range 0)) ∧
        (x.defined = true → x.failed = false → redInst d = x.exp → redView d = false → heldByHost s (structLines v3 128) = [] →
          let z := latchSource s r i v3
          (∀ e, sourceIn z r i (readBuf s r i) v3 (wantElems x) = .fail e → exec (.reduceRun r i) s = .next (finishCmd (dropReads z r i) r i e 0)) ∧
          (∀ u, sourceIn z r i (readBuf s r i) v3 (wantElems x) = .src u → slotSettle z x (sourceLines u) = none → leads s x = false →
            lowRoute s (leaderDev x) = none → mgmtHalted s = false → x.close = none →
            ∃ t, exec (.reduceRun r i) s = .next t ∧ (slotOf t k).run = some ⟨r, i, redInst d, some u, none, false, 0, []⟩ ∧ OnlyFabric z t ∧
              t.fb.fwOut = s.fb.fwOut ++ [path 16 (.window (.ready k (redInst d) (ownRank s x) (BitVec.ofNat 32 (slotCrc x))))] ∧
              ∃ m, cmdOf t r i = some m ∧ m.phase = .busy 9)))) ∧
    (CommandAt s r i 0x41 d .held → redOp d = 0 → x.defined = true → (extCfg s k).getLsbD 63 = true → leads s x = false →
      lowRoute s (leaderDev x) = none → mgmtHalted s = false →
      (redInst d ∉ x.extSent → ∃ t, exec (.extendSend r i) s = .next t ∧ slotOf t k = { x with extSent := x.extSent ++ [redInst d] } ∧ OnlyFabric s t ∧
        t.fb.fwOut = s.fb.fwOut ++ [path 16 (.window (.extend k (redInst d) (ownRank s x) (field64 (extCfg s k) 31 16)))] ∧
        counter t 51 = satInc (counter s 51) 1) ∧
      (redInst d ∈ x.extSent → exec (.extendSend r i) s = .next s)) ∧
    (∀ (c : CloseMsg) (u : TD), x.close = some c → x.dst = some u → x.defined = true → x.failed = false → slotSettle s x [] = none → u.space = 0 →
      let me := ownRank s x
      let sums := (List.range (chunkLen x me)).map (sumElem x c me)
      let pois := (List.range sums.length).filter (fun n => match sums[n]? with | some y => y.2 | none => false)
      (sumReady x c me = true → ∃ t, exec (.ownerSum k) s = .next t ∧ (slotOf t k).summed = some c.inst ∧ t.cores = s.cores ∧
        (srColl x = 1 → t.fb.outSegs = s.fb.outSegs) ∧
        ∃ q ∈ (slotOf t k).recv, q.inst = c.inst ∧ q.src = me ∧ q.chunk = me ∧ q.result = true ∧
          q.bits = (encodeAt u (dstBase x me) pois (sums.map (·.1))).bits) ∧
      (sumReady x c me = false → exec (.ownerSum k) s = .next s)) ∧
    (∀ (q : RedRun) (c : CloseMsg), CommandAt s r i 0x41 d (.busy 9) → x.run = some q → q.ring = r → q.slot = i → x.close = some c → runDone s k x q c = true →
      slotSettle s x [] = none →
      let a := recordAddr x q.inst / 64
      let st := runStatus x c (cmdLost s r i) (cmdPois s r i)
      (∀ j, j < 9 → mapped s (blockOfLine (a + j)) = true) →
      ∃ t, exec (.runComplete r i) s = .next t ∧ Completed t r i st (BitVec.ofNat 64 (q.inst + 2 ^ 32 * c.set.length)) ∧ (slotOf t k).run = none ∧
        (slotOf t k).exp = (q.inst + 1) % 2 ^ 32 ∧ t.cores = s.cores ∧
        (∀ j, j < 9 → readLine t (a + j) = BitVec.ofNat 512 (recordValue x q c (ownRank s x) st / 2 ^ (512 * j))) ∧
        ∀ l, (l < a ∨ a + 9 ≤ l) → poisoned t l = poisoned s l ∧ readLine t l = readLine s l)

/-- The straggler window. READY at the leader is answered with MISMATCH when its check differs (R553), with the CLOSE of an instance already closed (R561), kept and
answered with HOLD while DONEs are awaited (R563), and counted in an open window, which the last READY closes (R562). CLOSE, MISMATCH and HOLD act on the
member's run (R553, R554, R563), a view not drained being unlocked (R276); a member in the set handles its contribution, one outside it that does not defer drops it (R555, R557). The last
DONE ends HOLD (R561). EXTEND grants at most its cap (R579). A deadline closes the window with the members present once they are MIN (R562). A
timeout gives up what has not come (R582), fails the slot when no CLOSE comes (R583), or closes a replayed window with those present (R601). -/
def Obligations.WindowMessages : Prop :=
  ∀ (p : Packet) (s : State) (k inst rank : Nat), s.fb.inbox = [] → k < 64 →
    let x := slotOf s k
    let me := ownRank s x
    let leader : Prop := x.defined = true ∧ leads s x = true
    let sent (t : State) (dst : Nat) (w : WinMsg) : Prop :=
      t.fb.fwOut = s.fb.fwOut ++ [{ vc := 1, hops := 0, hidx := 0, dst := dst, src := devNum s, route := [], tseq := 0, len := winLen x w, body := .window w }]
    let closed (t : State) (c : CloseMsg) : Prop :=
      (slotOf t k).win = .hold ∧ (slotOf t k).winInst = (x.winInst + 1) % 2 ^ 32 ∧ (slotOf t k).ready = [] ∧ (slotOf t k).grant = 0 ∧ (slotOf t k).doneFrom = x.early ∧
      (slotOf t k).closes = x.closes ++ [c] ∧ (x.failed = false → (slotOf t k).close = some c) ∧ t.cores = s.cores
    let counted (l : List Nat) : List Nat := (List.range (slotN x)).filter (fun q => l.contains q)
    (∀ crc : Word, p.body = .window (.ready k inst rank crc) → leader → rank ≠ me → lowRoute s (x.members.getD rank 0) = none → mgmtHalted s = false →
      (crc.toNat ≠ slotCrc x → ∃ t, exec (.ready p) s = .next t ∧ t.fb.slots = s.fb.slots ∧ OnlyFabric s t ∧ sent t (x.members.getD rank 0) (.mismatch k inst)) ∧
      (∀ c, crc.toNat = slotCrc x → x.closes.find? (fun c => c.inst == inst) = some c →
        ∃ t, exec (.ready p) s = .next t ∧ t.fb.slots = s.fb.slots ∧ OnlyFabric s t ∧ sent t (x.members.getD rank 0) (.close k c.inst c.reason c.set)) ∧
      (crc.toNat = slotCrc x → x.closes.find? (fun c => c.inst == inst) = none → inst = x.winInst → x.ready.contains rank = false →
        (x.win = .hold → ∃ t, exec (.ready p) s = .next t ∧ slotOf t k = { x with ready := x.ready ++ [rank] } ∧
          sent t (x.members.getD rank 0) (.hold k x.winInst (awaited x)) ∧ OnlyFabric s t) ∧
        (x.win = .idle → slotN x ≠ x.ready.length + 1 → srWindow x ≠ 0 → replayedWin x = false →
          exec (.ready p) s = .next (setSlot s k { x with ready := x.ready ++ [rank], win := .open_, due := false })) ∧
        (x.win = .open_ → replayedWin x = false → slotN x = x.ready.length + 1 →
          ∃ t, exec (.ready p) s = .next t ∧ closed t ⟨inst, 0, counted (x.ready ++ [rank])⟩))) ∧
    (∀ q, p.body = .window (.mismatch k inst) → x.run = some q → q.inst = inst → q.handled = false → leads s x = false →
      lowRoute s (leaderDev x) = none → mgmtHalted s = false → ∀ m, cmdOf s q.ring q.slot = some m →
      ∃ t, exec (.mismatch p) s = .next t ∧ Completed t q.ring q.slot .format 0 ∧ (slotOf t k).run = none ∧ (slotOf t k).exp = (inst + 1) % 2 ^ 32 ∧
        sent t (leaderDev x) (.done k inst me) ∧ counter t 25 = satInc (counter s 25) 1 ∧ counter t 27 = satInc (counter s 27) 1 ∧ (m.phase ≠ .busy 4 → OnlyFabric s t) ∧
        (m.phase = .busy 4 → dOpcode m.desc = 0x41 → ∀ c ∈ (viewOf m.desc).cores, ∀ n ∈ viewTiles (viewOf m.desc), n < 96 →
          (coreOf t c).wgbLock.getLsbD n = false)) ∧
    (∀ reason set, p.body = .window (.close k inst reason set) → x.defined = true → x.failed = false → x.close ≠ some ⟨inst, reason, set⟩ →
      let y : Slot := { x with close := some ⟨inst, reason, set⟩, gone := [], given := [], summed := none }
      (x.run = none → exec (.close p) s = .next (setSlot s k y)) ∧
      (∀ q, x.run = some q → q.inst = inst → q.handled = false → q.contrib ≠ none →
        (set.contains me = true → srColl x ≠ 2 → x.lateValid = false →
          ∃ t, exec (.close p) s = .next t ∧ (slotOf t k).run = some { q with handled := true, folded := 0 } ∧ (slotOf t k).close = y.close ∧ OnlyFabric s t) ∧
        (set.contains me = false → srDefer x = false →
          ∃ t, exec (.close p) s = .next t ∧ slotOf t k = { y with run := some { q with handled := true, folded := 0 } } ∧ OnlyFabric s t ∧
            counter t 29 = satInc (counter s 29) 1))) ∧
    (p.body = .window (.done k inst rank) → leader → x.win = .hold → (inst + 1) % 2 ^ 32 = x.winInst → x.doneFrom.contains rank = false →
      (awaited { x with doneFrom := x.doneFrom ++ [rank] } ≠ [] → exec (.done p) s = .next (setSlot s k { x with doneFrom := x.doneFrom ++ [rank] })) ∧
      (awaited { x with doneFrom := x.doneFrom ++ [rank] } = [] → x.ready = [] →
        exec (.done p) s = .next (setSlot s k { x with doneFrom := x.doneFrom ++ [rank], win := .idle }))) ∧
    (p.body = .window (.done k inst rank) → leader → inst = x.winInst → x.early.contains rank = false →
      exec (.done p) s = .next (setSlot s k { x with early := x.early ++ [rank] })) ∧
    (∀ who q, p.body = .window (.hold k inst who) → x.run = some q →
      exec (.hold p) s = .next (setSlot s k { x with run := some (if q.inst = inst then { q with awaited := who } else q) })) ∧
    (∀ req, p.body = .window (.extend k inst rank req) → leader →
      let cap := field64 (extCfg s k) 15 0
      ((extCfg s k).getLsbD 63 = true → inst = x.winInst → (x.win = .hold ∨ x.ready.contains rank = false) → replayedWin x = false →
        ∃ t, exec (.extend p) s = .next t ∧ slotOf t k = { x with grant := max x.grant (min cap req), due := false } ∧ OnlyFabric s t ∧
          counter t 52 = satInc (counter s 52) 1 ∧ (cap < req → counter t 53 = satInc (counter s 53) 1)) ∧
      (((extCfg s k).getLsbD 63 = false ∨ inst ≠ x.winInst) → exec (.extend p) s = .next (bump s 54 1))) ∧
    (leader → x.win = .open_ → x.due = false → replayedWin x = false → x.ready.length ≠ slotN x →
      (x.ready.length < srMin x → exec (.windowDeadline k) s = .next (setSlot s k { x with due := true })) ∧
      (srMin x ≤ x.ready.length → ∃ t, exec (.windowDeadline k) s = .next t ∧ closed t ⟨x.winInst, 1, counted x.ready⟩)) ∧
    (leader → x.win = .hold → x.ready = [rank] → rank ≠ me → lowRoute s (x.members.getD rank 0) = none →
      mgmtHalted s = false → ∃ t, exec (.holdResend k) s = .next t ∧ t.fb.slots = s.fb.slots ∧ OnlyFabric s t ∧ sent t (x.members.getD rank 0) (.hold k x.winInst (awaited x))) ∧
    (∀ c, x.close = some c → srColl x = 1 → x.summed ≠ some c.inst → slotSettle s x [] = none →
      let late := c.set.filter (fun r => r != me && !covered x c.inst me r false && !x.gone.contains r)
      ∃ t, exec (.contributionTimeout k) s = .next t ∧ (slotOf t k).gone = x.gone ++ late ∧ (slotOf t k).given = x.given ∧ OnlyFabric s t ∧
        (slotOf t k).lostLines = x.lostLines + late.foldl (fun n r => n + missingLines x c.inst me r false) 0) ∧
    (∀ q m, x.run = some q → x.close = none → cmdOf s q.ring q.slot = some m → m.phase = .busy 9 →
      ∃ t, exec (.closeTimeout k) s = .next t ∧ Completed t q.ring q.slot .dataDropped 0 ∧ (slotOf t k).failed = true ∧ (slotOf t k).run = none ∧
        counter t 56 = satInc (counter s 56) 1 ∧ OnlyFabric s t) ∧
    (leader → x.win = .open_ → replayedWin x = true →
      ∃ t, exec (.replayReadyTimeout k) s = .next t ∧ closed t ⟨x.winInst, 3, (recordSet s x x.winInst).filter (fun q => x.ready.contains q)⟩)

/-! ### Long-run training -/

/-- STEP_BEGIN OPEN opens the step that is expected, copies CFG_TSTRIP and clears the counts, and begins the step's log segment of 256 KiB with its
snapshot, outside which no byte changes (R570 to R574, R585); RESOLVE
continues or discards the held step (R590, R591). The check of a step passes, or holds or discards it and raises its event (R588 to R590). CHECKPOINT writes a
sheet, with the next SEQ as INFO, and a sheet that does not fit spoils its slot (R593 to R596, R607). RESTORE puts back the newest valid sheet,
or nothing, and waits while a STEP of a group that the sheet covers runs (R470, R597, R598). REPLAY refuses with its reason and changes nothing, or goes back to the snapshot and starts the logged commands
(R599, R600). -/
def Obligations.TrainingCommands : Prop :=
  ∀ (r i : Nat) (s : State) (d : Line),
    let n := sbStep d
    let fresh : Training := { s.tr with step := n, expect := some ((n + 1) % 2 ^ 32), cfg := reg64 s 0x140, nf := [], loss := none, checked := false,
                                        discarded := s.tr.discarded.filter (fun k => k != n) }
    (CommandAt s r i 0x40 d .ready → bodyOk d sbFields = true → sbOp d = 0 → fld d 8 2 1 = 0 →
      (s.tr.expect = none ∨ s.tr.expect = some n → (s.tr.held = false ∨ holdWait s = false) →
        (logEn s = false → exec (.stepBeginOpen r i) s = .next (finishCmd { s with tr := fresh } r i .ok 0)) ∧
        (logEn s = true → ∃ t g, exec (.stepBeginOpen r i) s = .next t ∧ Completed t r i .ok 0 ∧ t.tr.step = n ∧ t.tr.expect = some ((n + 1) % 2 ^ 32) ∧
          t.tr.cfg = reg64 s 0x140 ∧ t.tr.nf = [] ∧ t.tr.loss = none ∧ t.cores = s.cores ∧ g ∈ t.tr.segs ∧ g.step = n ∧ g.snap = snapshot { s with tr := fresh } ∧
          (∀ h ∈ t.tr.segs, h.step % 8 = n % 8 → h.step = n) ∧
          ∀ a, (a < logAddr s + 262144 * (n % 8) ∨ logAddr s + 262144 * (n % 8) + 262144 ≤ a) → tget zeroB t.m.mem a = tget zeroB s.m.mem a)) ∧
      (∀ e, s.tr.expect = some e → e ≠ n → exec (.stepBeginOpen r i) s = .next (finishCmd (logOpen s d r i) r i .range 0)) ∧
      ((s.tr.expect = none ∨ s.tr.expect = some n) → s.tr.held = true → holdWait s = true →
        exec (.stepBeginOpen r i) s = .next (finishCmd (logOpen s d r i) r i .alias_ 0))) ∧
    (CommandAt s r i 0x40 d .ready → bodyOk d sbFields = true → sbOp d = 1 →
      (s.tr.held = true → s.tr.vstep = n →
        (fld d 8 2 1 = 0 → exec (.stepBeginResolve r i) s = .next (finishCmd { s with tr := { s.tr with held := false } } r i .ok 0)) ∧
        (fld d 8 2 1 = 1 → ∃ t, exec (.stepBeginResolve r i) s = .next t ∧ Completed t r i .ok 0 ∧ t.tr.held = false ∧ n ∈ t.tr.discarded ∧ t.tr.verdict = 3 ∧
          counter t 42 = satInc (counter s 42) 1 ∧ OnlyFabric s t)) ∧
      ((s.tr.held = false ∨ s.tr.vstep ≠ n) → exec (.stepBeginResolve r i) s = .next (finishCmd s r i .range 0))) ∧
    (s.tr.checked = false →
      (tsEn s = false → tsCheck s = { s with tr := { s.tr with checked := true } }) ∧
      (tsEn s = true → counter (tsCheck s) 39 = satInc (counter s 39) 1 ∧ (tsCheck s).tr.checked = true ∧ (tsCheck s).tr.vstep = s.tr.step ∧
        (holdClasses s = 0 → spikeTest s = false → (tsCheck s).tr.verdict = 1 ∧ (tsCheck s).tr.held = s.tr.held ∧ (tsCheck s).cm.event = s.cm.event) ∧
        ((holdClasses s ≠ 0 ∨ spikeTest s = true) → (tsCheck s).cm.event.getLsbD 2 = true ∧
          (holdWait s = true → (tsCheck s).tr.verdict = 2 ∧ (tsCheck s).tr.held = true) ∧
          (holdWait s = false → (tsCheck s).tr.verdict = 3 ∧ (tsCheck s).tr.held = false ∧ s.tr.step ∈ (tsCheck s).tr.discarded)))) ∧
    (∀ m b, cmdOf s r i = some m → m.logged = false →
      (∃ q, cmdOf (logCmd s r i b) r i = some q ∧ q.step = s.tr.step ∧ q.logged = true ∧ q.desc = m.desc ∧ q.phase = m.phase) ∧
      (isUpdStep m.desc = true → (logCmd s r i b).tr.checked = true) ∧ (isUpdStep m.desc = false → (logCmd s r i b).tr.checked = s.tr.checked)) ∧
    (CommandAt s r i 0x43 d .ready → bodyOk d [(8, 0, 16), (10, 0, 2)] = true → cpHost d = true → cpBuddy d = false → csHostEn s = true →
      let seq := (s.tr.sheetSeq + 1) % 2 ^ 32
      let b := sheetBytes s (stepOf s r i) seq
      (cpEvery d ≠ 0 → stepOf s r i % cpEvery d ≠ 0 → exec (.checkpoint r i) s = .next (finishCmd s r i .ok 0)) ∧
      (cpEvery d = 0 → stepRuns s r i = false → s.tr.sheet = none → s.m.snoop = [] →
        (b.2.2 ≤ csBlocks s * 65536 → hostRefuses s (csHostAddr s + csOffset s (seq % 2)) b.2.2 = false → cmdLost s r i = false →
          ∃ t, exec (.checkpoint r i) s = .next t ∧ Completed t r i (if sheetPois s then .poisonSkip else .ok) (BitVec.ofNat 64 seq) ∧ t.tr.sheetSeq = seq ∧
            t.tr.sheet = none ∧ counter t 48 = satInc (counter s 48) 1 ∧ counter t 49 = satInc (counter s 49) b.2.2 ∧ OnlyFabric s t) ∧
        (csBlocks s * 65536 < b.2.2 → ∃ t, exec (.checkpoint r i) s = .next t ∧ t.tr = s.tr ∧ OnlyFabric s t ∧
          Completed t r i (if hostRefuses s (csHostAddr s + csOffset s (seq % 2)) 64 then .dataDropped else .format) 0))) ∧
    (CommandAt s r i 0x44 d .ready → bodyOk d [(8, 0, 3)] = true → rsSheet d ≠ 3 → rsHost d = true → csHostEn s = true →
      let s1 := bump s 57 (hostSheetBytes s d)
      (chosenSheet s (readBuf s r i) d = none → exec (.restore r i) s = .next (rejectRestore s1 r i .dataDropped)) ∧
      (∀ h, chosenSheet s (readBuf s r i) d = some h → stepCovered s r i h = true → exec (.restore r i) s = .next s) ∧
      (∀ h, chosenSheet s (readBuf s r i) d = some h → stepCovered s r i h = false →
        (∀ e, restoreFail s r i h = some e → exec (.restore r i) s = .next (rejectRestore s1 r i e)) ∧
        (restoreFail s r i h = none → newGroups s h = [] → s.m.moves = [] → s.m.waitMoves = [] → s.m.snoop = [] → (∀ b, (dirOf s b).mig = false) → cmdLost s r i = false →
          ∃ t st, exec (.restore r i) s = .next t ∧ (st = .ok ∨ st = .poisonSkip) ∧ Completed t r i st (BitVec.ofNat 64 h.step) ∧ t.tr.sheetSeq = h.seq ∧
            t.cores = s.cores ∧ counter t 50 = satInc (counter s 50) 1 ∧
            (∀ q, h.secs.filter (fun y => y.kind == 0) = [q] → t.tr.step = bslice q.val 0 4 ∧ t.tr.mean = bslice q.val 4 4 ∧ t.tr.var = bslice q.val 8 4 ∧
              t.tr.samples = bslice q.val 12 4) ∧
            (∀ q, h.secs.filter (fun y => y.kind == 1 && y.index == q.index) = [q] → (groupOf t q.index).t = BitVec.ofNat 64 (bslice q.val 256 8))))) ∧
    (CommandAt s r i 0x45 d .ready → bodyOk d [(8, 0, 64)] = true → i < 65536 →
      (∀ e, replayCheck s r i d = .error e → ∃ t, exec (.replay r i) s = .next t ∧ Completed t r i .range 0 ∧ t.tr.rStatus = 0x10 ∧ t.tr.rReason = e ∧
        t.tr.rFailedAt = 0 ∧ t.tr.step = s.tr.step ∧ t.fb = s.fb ∧ t.sh = s.sh ∧ OnlyFabric s t) ∧
      (∀ l g, replayCheck s r i d = .ok l → l.head? = some g → l.flatMap (·.cmds) ≠ [] →
        ∃ t q m, exec (.replay r i) s = .next t ∧ t.tr.replay = some q ∧ q.ring = r ∧ q.slot = i ∧ q.last = rpTo d ∧ cmdOf t r i = some m ∧ m.phase = .busy 10 ∧
          t.tr.step = (rpFrom d + 2 ^ 32 - 1) % 2 ^ 32 ∧ t.tr.expect = some (rpFrom d) ∧
          ((s.tr.checked = true ∨ ∀ e ∈ l.flatMap (·.cmds), isUpdStep e.1 = false) → t.tr.mean = g.snap.mean ∧ t.tr.var = g.snap.var ∧
            t.tr.samples = g.snap.samples) ∧ t.fx = s.fx ∧ q.todo.length + q.started = (l.flatMap (·.cmds)).length))

/-- A granule of a Contact sheet is stored so that its 1,024 bytes come back: for elements of 2 and of 4 bytes, and for tensors kept raw (R594, R325, Table 07.9). -/
def Obligations.SheetGranulesComeBack : Prop :=
  ∀ (raw : Bool) (w v : Nat), (w = 2 ∨ w = 4) → v < 2 ^ 8192 →
    granDec (granEnc raw w v).1 (granEnc raw w v).2.val = v ∧ 64 * codeBursts (granEnc raw w v).1 = (granEnc raw w v).2.len

/-! ### Rings -/

/-- Rings. A snoop of its doorbell line makes a running ring read it again (R623); a good doorbell word makes the new descriptors its work, a bad one or a refused read
puts the ring in ERROR with its code and event 0 (R622, R632). A descriptor starts a command at its slot (R629, R630). A command that is done sets its
flag unless it failed, writes a record of 16 bytes at the completion index, which advances, and is no longer in progress (R495, R496, R625). EN
enables a ring of 16 to 65,536 slots (R620), or drains it: held commands end with DATA_DROPPED, and without commands it is DISABLED (R628). NOP
completes; FENCE waits for the earlier commands of its ring (R631). -/
def Obligations.RingsRunCommands : Prop :=
  ∀ (r : Nat) (s : State), s.pw.off = false →
    let x := ringOf s r
    let failedWith (t : State) (code : Nat) : Prop := (ringOf t r).st = .error ∧ (ringOf t r).err = code ∧ t.cm.event.getLsbD 0 = true ∧ OnlyFabric s t
    (∀ line, x.st = .running → x.dbHeld = true → x.dbAddr / 64 = line →
      ∃ t, exec (.doorbellSnoop line) s = .next t ∧ ringOf t r = { x with dbHeld := false } ∧ OnlyFabric s t ∧ t.cm.cmds = s.cm.cmds ∧
        (s.pw.st = 1 → t.pw.st = 5)) ∧
    (x.st = .running → x.dbHeld = false → ringHalted s r = false →
      (∃ t, exec (.doorbellRead r none) s = .next t ∧ failedWith t 4) ∧
      ∀ w : BitVec 64,
        let p := field64 w 15 0
        let new : Int := if w.getLsbD 16 == x.cg then (p : Int) - x.ci else (p : Int) + ringSize x - x.ci
        ((ringSize x ≤ p ∨ w.toNat / 2 ^ 17 ≠ 0) → ∃ t, exec (.doorbellRead r (some w)) s = .next t ∧ failedWith t 1) ∧
        (p < ringSize x → w.toNat / 2 ^ 17 = 0 → (new < 0 ∨ (ringSize x : Int) < new) → ∃ t, exec (.doorbellRead r (some w)) s = .next t ∧ failedWith t 2) ∧
        (p < ringSize x → w.toNat / 2 ^ 17 = 0 → 0 ≤ new → new ≤ ringSize x →
          ∃ t, exec (.doorbellRead r (some w)) s = .next t ∧
            ringOf t r = { x with dbHeld := true, restart := false, ci := p, cg := w.getLsbD 16, todo := x.todo + new.toNat } ∧ OnlyFabric s t ∧
            counter t 57 = satInc (counter s 57) 64)) ∧
    (x.st = .running → x.todo ≠ 0 → roomInRing s r = true → startsCommands s = true → idleState s = false → ringHalted s r = false → localUp s = true →
      heldFirst s = false → cmdOf s r x.fetch = none →
      let next : Ring := { x with todo := x.todo - 1, fetch := (x.fetch + 1) % ringSize x }
      let started (t : State) (d : Line) (p : CmdPhase) : Prop := ∃ m, cmdOf t r x.fetch = some m ∧ m.desc = d ∧ m.phase = p ∧ m.order = s.cm.cmdNext
      (∀ d, headerBad d r = true → ∃ t, exec (.descriptorRead r (some d)) s = .next t ∧ ringOf t r = next ∧ started t d (.done .format 0) ∧ OnlyFabric s t) ∧
      (∀ d, headerBad d r = false → dWaitEn d = false → ∃ t, exec (.descriptorRead r (some d)) s = .next t ∧ ringOf t r = next ∧ started t d .ready ∧
        t.cores = s.cores) ∧
      (∀ d, headerBad d r = false → dWaitEn d = true → s.sh.cf.getLsbD (dWaitSel d) = false →
        ∃ t, exec (.descriptorRead r (some d)) s = .next t ∧ ringOf t r = next ∧ started t d .held ∧ OnlyFabric s t ∧
          t.sh.waiters = s.sh.waiters ++ [⟨.ring r x.fetch, .chip (dWaitSel d)⟩]) ∧
      (∀ d, headerBad d r = false → dWaitEn d = true → s.sh.cf.getLsbD (dWaitSel d) = true →
        ∃ t, exec (.descriptorRead r (some d)) s = .next t ∧ started t d .ready ∧ t.sh.cf.getLsbD (dWaitSel d) = false ∧ t.cores = s.cores) ∧
      (∃ t, exec (.descriptorRead r none) s = .next t ∧ started t 0 (.done .dataDropped 0) ∧ failedWith t 4)) ∧
    (∀ (i : Nat) (m : Cmd) (st : Status) (info : BitVec 64), cmdOf s r i = some m → m.phase = .done st info → m.replayed = false →
      hostRefuses s (x.cplBase + 16 * x.cplPi) 16 = false →
      let a := x.cplBase + 16 * x.cplPi
      let wrote (t : State) (st' : Status) : Prop := cmdOf t r i = none ∧ (ringOf t r).cplPi = (if x.cplPi + 1 = ringSize x then 0 else x.cplPi + 1) ∧
        (ringOf t r).phase = (if x.cplPi + 1 = ringSize x then !x.phase else x.phase) ∧ OnlyFabric s t ∧ (s.fb.slots = t.fb.slots) ∧
        (∀ j, j < 16 → tget zeroB t.host.mem (hostAt s a + j) = BitVec.ofNat 8 (recordOf' m st' info x.phase / 2 ^ (8 * j)))
      (dSetEn m.desc = false → ∃ t, exec (.commandComplete r i) s = .next t ∧ wrote t st ∧ t.sh = s.sh) ∧
      (dSetEn m.desc = true → failed st = false → dSetSel m.desc < 4096 → blockRests s (holderBlock (.chip (dSetSel m.desc))) = true →
        exec (.commandComplete r i) s = .next (wakeUp s)) ∧
      (dSetEn m.desc = true → failed st = false → dSetSel m.desc < 4096 → blockRests s (holderBlock (.chip (dSetSel m.desc))) = false →
        (s.sh.cf.getLsbD (dSetSel m.desc) = true → ∃ t, exec (.commandComplete r i) s = .next t ∧ wrote t .flagOver ∧ t.sh = s.sh) ∧
        (s.sh.cf.getLsbD (dSetSel m.desc) = false → firstWaiter s (.chip (dSetSel m.desc)) = none →
          ∃ t, exec (.commandComplete r i) s = .next t ∧ wrote t st ∧ t.sh.cf.getLsbD (dSetSel m.desc) = true)) ∧
      (dSetEn m.desc = true → failed st = true → ∃ t, exec (.commandComplete r i) s = .next t ∧ wrote t st ∧ t.sh = s.sh)) ∧
    (∀ w3 : BitVec 64, x.st = .disabled → s.bu.cfgReady = true → s.bu.state ≠ 6 → r < 256 →
      let n := field64 w3 4 0
      (4 ≤ n → n ≤ 16 → ∃ t, exec (.ringEnable r w3) s = .next t ∧ (ringOf t r).st = .running ∧ (ringOf t r).phase = true ∧ (ringOf t r).ci = 0 ∧
        (ringOf t r).descBase = (reg64 s (ringReg r)).toNat ∧ (ringOf t r).cplBase = (reg64 s (ringReg r + 8)).toNat ∧
        (ringOf t r).dbAddr = (reg64 s (ringReg r + 16)).toNat ∧ ringSize (ringOf t r) = 2 ^ n ∧ OnlyFabric s t) ∧
      ((n < 4 ∨ 16 < n) → ∃ t, exec (.ringEnable r w3) s = .next t ∧ failedWith t 3)) ∧
    (∀ w3 : BitVec 64, s.bu.cfgReady = true → r < 256 → (s.bu.state = 6 ∨ x.st ≠ .disabled) →
      ((reg64 s (ringReg r + 24)).getLsbD 63 = true → exec (.ringEnable r w3) s = .next s) ∧
      ((reg64 s (ringReg r + 24)).getLsbD 63 = false → ∃ t, exec (.ringEnable r w3) s = .next t ∧ ringOf t r = x ∧ OnlyFabric s t ∧
        (reg64 t (ringReg r + 24)).getLsbD 63 = false ∧ field64 (reg64 t (ringReg r + 24)) 4 0 = field64 w3 4 0)) ∧
    (x.st = .running ∨ x.st = .error → ∃ t, exec (.ringDisable r) s = .next t ∧ (ringOf t r).st = .draining ∧ (ringOf t r).todo = 0 ∧ OnlyFabric s t ∧
      ∀ i m, cmdOf s r i = some m → (m.phase = .held → Completed t r i .dataDropped 0) ∧ (m.phase ≠ .held → ringCmds s r = [m] → cmdOf t r i = some m)) ∧
    (x.st = .draining →
      (inFlight s r = 0 → exec (.ringDrained r) s = .next (setRing s r { x with st := .disabled, todo := 0, dbHeld := false })) ∧
      (inFlight s r ≠ 0 → exec (.ringDrained r) s = .next s)) ∧
    (∀ i d, CommandAt s r i 0x01 d .ready →
      (bodyOk d [] = true → exec (.nop r i) s = .next (finishCmd s r i .ok 0)) ∧ (bodyOk d [] = false → exec (.nop r i) s = .next (finishCmd s r i .format 0))) ∧
    (∀ i d, CommandAt s r i 0x02 d .ready → bodyOk d [] = true →
      (earlierInRing s r i = true → exec (.fence r i) s = .next s) ∧ (earlierInRing s r i = false → exec (.fence r i) s = .next (finishCmd s r i .ok 0)))

/-! ### Programs and runs -/

/-- LOAD_PROGRAM writes the image into the program store of every core it names, and no other byte of it, unless a core is absent or runs there (R634). LAUNCH with
FIRST takes cores 0 on, with GIVEN those its map names, with CHOOSE it waits for free cores (R366, R367, R635). Once they are free each starts its tile
at the entries of its image, with s0 to s3, a0, a1 and its seed, registers, queues and tiles as at the start of a run, the store, the WGB and the
program flags as they were (R635, R68, R141, R203, R475). The LAUNCH completes when every core has, with the status of R636, and frees
them. QUERY_COUNTERS writes the counters, and clears them when told to (R638, R772). -/
def Obligations.ProgramsAndRuns : Prop :=
  ∀ (r i : Nat) (s : State) (d : Line),
    (CommandAt s r i 0x10 d .ready → bodyOk d [(8, 0, 64), (16, 0, 32), (20, 0, 16), (24, 0, 16), (26, 0, 16), (28, 0, 1)] = true →
      let p := bytesAt d 8 8
      let n := lpLen d
      ptrSpaceBad p = false → lpDest d % 16 = 0 → n % 16 = 0 → (lpAll d = true → lpFirst d = 0 ∧ lpCount d = 0) → lpDest d + n ≤ 65536 → ptrRangeBad p n = false →
      ((∃ c ∈ lpCores s d, present s c = false) → exec (.loadProgram r i) s = .next (finishCmd s r i .absent 0)) ∧
      ((∀ c ∈ lpCores s d, present s c = true) → heldByHost s (linesOf (ptrOf p).addr n) = [] → insertEn s = false →
        (loadMeets s (lpCores s d) [(lpDest d, n)] = true → exec (.loadProgram r i) s = .next (finishCmd s r i .alias_ 0)) ∧
        (∀ v, loadMeets s (lpCores s d) [(lpDest d, n)] = false → structAt s p n = .ok v →
          ∃ t, exec (.loadProgram r i) s = .next t ∧ Completed t r i .ok 0 ∧ SamePlaces s t ∧
            (∀ c ∈ lpCores s d,
              (∀ j, j < n → tget zeroB (coreOf t c).store (lpDest d + j) = BitVec.ofNat 8 (v / 2 ^ (8 * j))) ∧
              (∀ j, (j < lpDest d ∨ lpDest d + n ≤ j) → tget zeroB (coreOf t c).store j = tget zeroB (coreOf s c).store j) ∧
              (coreOf t c).run = (coreOf s c).run ∧ (coreOf t c).sr = (coreOf s c).sr) ∧
            ∀ c, c ∉ lpCores s d → coreOf t c = coreOf s c))) ∧
    (CommandAt s r i 0x11 d .ready → bodyOk d lnFields = true → lnGrid d ≠ 0 → lnGrid d ≤ (presentCores s).length →
      let waits (t : State) (l : List Nat) : Prop := OnlyFabric s t ∧ ∃ m, cmdOf t r i = some m ∧ m.phase = .busy 13 ∧ m.map = l
      (lnMode d = 2 → (∀ c, c < lnGrid d → present s c = true) → ∃ t, exec (.launch r i) s = .next t ∧ waits t (List.range (lnGrid d))) ∧
      (lnMode d = 2 → (∃ c, c < lnGrid d ∧ present s c = false) → exec (.launch r i) s = .next (finishCmd s r i .absent 0)) ∧
      (lnMode d = 1 → lnMap d % 2 = 0 → inRange40 (lnMap d) (2 * lnGrid d) = true → heldByHost s (linesOf (lnMap d) (2 * lnGrid d)) = [] →
        structFault s false (lnMap d) (2 * lnGrid d) = none →
        let l := unpackBits 16 (lnGrid d) (readBytes s (lnMap d) (2 * lnGrid d))
        l.all (present s) = true → (hasDup l = false → ∃ t, exec (.launch r i) s = .next t ∧ waits t l) ∧
          (hasDup l = true → exec (.launch r i) s = .next (finishCmd s r i .alias_ 0))) ∧
      (lnMode d = 0 → isReplayed s r i = false → lnMap d % 2 = 0 → inRange40 (lnMap d) (2 * lnGrid d) = true → inRange40 (lnAff d) (lnGrid d * lnAffBytes d) = true →
        ∃ t, exec (.launch r i) s = .next t ∧ waits t []) ∧
      (lnMode d = 3 → exec (.launch r i) s = .next (finishCmd s r i .format 0))) ∧
    (∀ m, CommandAt s r i 0x11 d (.busy 13) → cmdOf s r i = some m → lnMode d = 0 → m.replayed = false → (freeCores s).length < lnGrid d →
      exec (.launchCoresStart r i) s = .next s) ∧
    (∀ m, cmdOf s r i = some m → m.phase = .busy 13 → m.desc = d → dOpcode d = 0x11 → lnMode d ≠ 0 → m.map.any (blockRests s) = true → m.map.all (coreFree s) = true →
      exec (.launchCoresStart r i) s = .next (wakeUp s)) ∧
    (∀ m, CommandAt s r i 0x11 d (.busy 13) → cmdOf s r i = some m → lnMode d ≠ 0 → m.map.any (blockRests s) = false →
      (m.map.all (coreFree s) = false → exec (.launchCoresStart r i) s = .next s) ∧
      (m.map.all (coreFree s) = true → m.map.any (fun c => !imageOk s d c) = true → exec (.launchCoresStart r i) s = .next (finishCmd s r i .range 0)) ∧
      (m.map.all (coreFree s) = true → m.map.all (imageOk s d) = true → m.map.Nodup →
        ∃ t, exec (.launchCoresStart r i) s = .next t ∧ t.m = s.m ∧ (∃ q, cmdOf t r i = some q ∧ q.phase = .busy 8) ∧ (∀ c, c ∉ m.map → coreOf t c = coreOf s c) ∧
          ∀ (n c : Nat), m.map[n]? = some c →
            let k := coreOf t c
            let h := hdrOf (readN (coreOf s c).store (lnHdr d) 16)
            k.ae.st = .running ∧ k.ae.pc = h.aBase + h.aEntry ∧ k.ae.base = h.aBase ∧ k.ae.size = h.aSize ∧ k.ae.frec = 0 ∧ k.xe.st = .running ∧
            k.xe.pc = h.xBase + h.xEntry ∧ k.xe.base = h.xBase ∧ k.xe.size = h.xSize ∧ k.xe.frec = 0 ∧
            getS k 0 = BitVec.ofNat 32 n ∧ getS k 1 = BitVec.ofNat 32 (lnGrid d) ∧ getS k 2 = BitVec.ofNat 32 (lnArg d) ∧
            getS k 3 = BitVec.ofNat 32 (lnArg d / 2 ^ 32) ∧ getA k 0 = BitVec.ofNat 48 n ∧ getA k 1 = BitVec.ofNat 48 (lnArg d) ∧
            k.seed = BitVec.ofNat 64 (lnSeed d + n) ∧ k.run = some ⟨r, i, n, if lnDomEn d then some (lnDomain d) else none, false, false⟩ ∧
            k.lq = [] ∧ k.sq = [] ∧ k.tiles = [] ∧ k.acc = [] ∧ k.mops = [] ∧ k.pr = 0 ∧ k.v = [] ∧ k.flags = progFlags (coreOf s c).flags ∧
            k.store = (coreOf s c).store ∧ k.wgb = (coreOf s c).wgb ∧ k.wgbDirty = (coreOf s c).wgbDirty)) ∧
    (∀ m, CommandAt s r i 0x11 d (.busy 8) → cmdOf s r i = some m →
      (m.map.all (runOver s r i) = false → exec (.launchComplete r i) s = .next s) ∧
      (m.map.all (runOver s r i) = true →
        let st := launchStatus s ((List.range m.map.length).zip m.map)
        ∃ t, exec (.launchComplete r i) s = .next t ∧ Completed t r i st.1 (BitVec.ofNat 64 st.2) ∧ SamePlaces s t ∧
          (∀ c ∈ m.map, (coreOf t c).run = none ∧ (coreOf t c).ae.st = .idle ∧ (coreOf t c).xe.st = .idle ∧ (coreOf t c).flags = (coreOf s c).flags ∧
            (coreOf t c).ae.frec = (coreOf s c).ae.frec ∧ (coreOf t c).xe.frec = (coreOf s c).xe.frec) ∧ ∀ c, c ∉ m.map → coreOf t c = coreOf s c)) ∧
    (CommandAt s r i 0x70 d .ready → bodyOk d [(8, 0, 64), (16, 0, 32), (20, 0, 32), (24, 0, 32), (28, 0, 1)] = true →
      let p := bytesAt d 8 8
      ptrSpaceBad p = false → 8 * qcCount d ≤ qcLen d →
      ((mapEnd < qcFirst d + qcCount d ∨ ptrRangeBad p (qcLen d) = true) → exec (.queryCounters r i) s = .next (finishCmd s r i .range 0)) ∧
      (qcFirst d + qcCount d ≤ mapEnd → ptrRangeBad p (qcLen d) = false → (ptrOf p).host = false → qcCount d = 1 →
        let a := (ptrOf p).addr
        s.m.snoop = [] → mapped s (blockOf a) = true → (dirOf s (blockOf a)).mig = false → poisoned s (a / 64) = false →
        ∃ t, exec (.queryCounters r i) s = .next t ∧ Completed t r i .ok 1 ∧ t.cores = s.cores ∧ readBytes t a 8 = counter s (qcFirst d) % 2 ^ 64 ∧
          (∀ b, (b < a ∨ a + 8 ≤ b) → tget zeroB t.m.mem b = tget zeroB s.m.mem b) ∧
          (qcClear d = true → counter t (qcFirst d) = 0) ∧ (qcClear d = false → t.cm.counters = s.cm.counters)) ∧
      (qcFirst d + qcCount d ≤ mapEnd → ptrRangeBad p (qcLen d) = false → (ptrOf p).host = true → hostRefuses s (ptrOf p).addr (8 * qcCount d) = false →
        ∃ t, exec (.queryCounters r i) s = .next t ∧ Completed t r i .ok (BitVec.ofNat 64 (qcCount d)) ∧ OnlyFabric s t))

/-! ### The host -/

/-- The host. An HDM read returns its line and, when cacheable, is remembered (R618, R619); a write merges its bytes and no other, mapping an unmapped block first
(R352); in an idle state both wake the device (R728). A BISnp response takes the line back, its dirty data at home (R619). A command whose host access is
refused ends with DATA_DROPPED (R632). Function Level Reset and PERST# leave what R767 names and nothing of the rest (R614, R644, R727); configuration
requests reach function 0 alone, and are retried until it is ready (R612, R650). An ATS invalidation is completed (R611). -/
def Obligations.HostTraffic : Prop :=
  ∀ s : State, s.pw.off = false →
    (∀ (addr : Nat) (c : Bool), addr % 64 = 0 → addr < 2 ^ 40 →
      let l := lineOf addr
      let b := blockOf addr
      let answered (t : State) : Prop := t.resp = .hdm addr (readLine s l) (poisoned s l) ∧ t.cores = s.cores ∧ t.m.mem = s.m.mem ∧ t.m.dir = s.m.dir ∧
        (c = true → hostHolds t l = true) ∧ (c = false → t.m.snoop = s.m.snoop)
      (hdmOpen s = false → exec (.hdmRead addr c) s = .next (wakeUp s) ∧ ∀ data mask, exec (.hdmWrite addr data mask) s = .next (wakeUp s)) ∧
      (hdmOpen s = true → (c = false ∨ snoopFull s l = false) →
        (mapped s b = false → ∃ t, exec (.hdmRead addr c) s = .next t ∧ answered t ∧ counter t 61 = satInc (counter s 61) 1) ∧
        (mapped s b = true → tcTouch s.m.mtc b ≠ none → ∃ t, exec (.hdmRead addr c) s = .next t ∧ answered t) ∧
        (mapped s b = true → tcTouch s.m.mtc b = none → ∃ t, exec (.hdmRead addr c) s = .next t ∧ (∃ q ∈ t.m.dirReq, q.who = .mover ∧ q.block = b) ∧
          t.resp = s.resp ∧ t.m.mem = s.m.mem)) ∧
      (∀ o rest, hdmOpen s = true → c = true → snoopFull s l = true → s.m.snoop = o :: rest →
        ∃ t, exec (.hdmRead addr c) s = .next t ∧ o ∈ t.m.bisnp ∧ t.m.snoop = s.m.snoop ∧ t.m.mem = s.m.mem ∧ t.resp = s.resp) ∧
      ∀ (data : Line) (mask : BitVec 64), hdmOpen s = true →
        let wrote (t : State) (old : Nat → Byte) : Prop := t.cores = s.cores ∧
          (∀ i, i < 64 → tget zeroB t.m.mem (addr + i) = if mask.getLsbD i then laneOf 8 data i else old (addr + i)) ∧
          ∀ a, (a < addr ∨ addr + 64 ≤ a) → a / 65536 = b → tget zeroB t.m.mem a = old a
        (mapped s b = true → (dirOf s b).mig = false → tcTouch s.m.mtc b ≠ none → poisoned s l = false →
          ∃ t, exec (.hdmWrite addr data mask) s = .next t ∧ wrote t (tget zeroB s.m.mem) ∧ ∀ a, a / 65536 ≠ b → tget zeroB t.m.mem a = tget zeroB s.m.mem a) ∧
        (mapped s b = true → (dirOf s b).mig = true → exec (.hdmWrite addr data mask) s = .next s) ∧
        (∀ u, mapped s b = false → autoMap s b = some u → ∃ t, exec (.hdmWrite addr data mask) s = .next t ∧ wrote t (fun _ => 0) ∧ mapped t b = mapped u b ∧
          ∀ a, a / 65536 ≠ b → tget zeroB t.m.mem a = tget zeroB s.m.mem a)) ∧
    (∀ line : Nat, s.m.bisnp.contains line = true →
      let gone : State := { s with m := { s.m with bisnp := s.m.bisnp.filter (fun l => l != line), snoop := s.m.snoop.filter (fun l => l != line) } }
      exec (.bisnpResponse line none) s = .next (pumpLog gone) ∧
      ∀ d : Line, mapped s (blockOfLine line) = true →
        (inCopy s (blockOfLine line) = false → exec (.bisnpResponse line (some d)) s = .next (pumpLog (writeLine gone line d))) ∧
        (inCopy s (blockOfLine line) = true → exec (.bisnpResponse line (some d)) s = .next s)) ∧
    (∀ r i m, cmdOf s r i = some m → m.phase = .busy 7 →
      (dOpcode m.desc = 0x70 → ∃ t, exec (.hostAccessRefused r i) s = .next t ∧ Completed t r i .dataDropped 0 ∧ OnlyFabric s t) ∧
      (∀ j, jobOf s r i = some j → j.ring = r → j.slot = i → j.red = false → j.dst.space = 1 → dOpcode m.desc ≠ 0x43 → dOpcode m.desc ≠ 0x70 →
        (dOpcode m.desc ≠ 0x20 ∨ mvView m.desc = false) → anyCopy s (srcBlocks j ++ dstBlocks j) = false → segsLeft s (.cmd r i) = false →
        ∃ t, exec (.hostAccessRefused r i) s = .next t ∧ Completed t r i .dataDropped 0 ∧ t.cores = s.cores ∧ t.m.mem = s.m.mem)) ∧
    (let reset (t : State) : Prop := t.cores = [] ∧ t.m.mem = [] ∧ t.m.dir = [] ∧ t.cm.cmds = [] ∧ t.cm.rings = [] ∧ t.cm.counters = [] ∧ t.cm.event = 0 ∧
        t.sh.cf = 0 ∧ t.fx = {} ∧ t.tr = {} ∧ t.fb.slots = [] ∧ t.pw.st = 0 ∧ t.pending = s.pending ∧ t.fit = s.fit ∧ t.nv = s.nv ∧
        (∀ p, (portOf t p).st = (portOf s p).st) ∧ t.sh.rxSeq = s.sh.rxSeq ∧ t.bu.roster = s.bu.roster ∧ t.bu.table = s.bu.table ∧ t.bu.state = s.bu.state ∧
        ∀ w, tget regDefault t.cm.regs w = if flrKeeps w then tget regDefault s.cm.regs w else regDefault w
     (∃ t, exec .functionLevelReset s = .next t ∧ reset t ∧ t.bu = s.bu) ∧ (∃ t, exec .perst s = .next t ∧ reset t ∧ t.bu.perst = true ∧ t.bu.cfgReady = false)) ∧
    exec .perstRelease s = .next { s with bu := { s.bu with perst := false, cfgReady := io0Runs s } } ∧
    (∀ fn reg, s.bu.inReset = false → s.bu.perst = false →
      (fn ≠ 0 → exec (.configurationRequest fn reg) s = .next { s with resp := .unsupported }) ∧
      (s.bu.cfgReady = true → exec (.configurationRequest 0 reg) s = .next { s with resp := .cfg false (configRead reg) }) ∧
      (s.bu.cfgReady = false → io0Runs s = true →
        exec (.configurationRequest 0 reg) s = .next { s with bu := { s.bu with cfgReady := true }, resp := .cfg false (configRead reg) }) ∧
      (s.bu.cfgReady = false → io0Runs s = false → exec (.configurationRequest 0 reg) s = .next { s with resp := .cfg true 0 })) ∧
    ∀ tag pages, exec (.atsInvalidation tag pages) s =
      .next { s with host := { s.host with atc := s.host.atc.filter (fun e => !pages.contains e.1) }, resp := .atsDone tag }

/-! ### Power -/

/-- Power. POWER asks for a state: an entry begins at tier 1 with the blocks of the device, a wake or POWER 0 begins an exit (R717, R720, R728). ACKs open tier after tier
and then commit; a REFUSE, or a DELAY past ENTRY_LIMIT, cancels the entry and names the block (R722 to R725). The state is reached and the command
completes; an exit ends in D0, after C3 with the compute dies as after reset but for their fault records (R715, R725, R730, R769). The governor takes
samples, lowers the quota by 4 above 95 °C or above the limit, by half in a fast clamp, and raises it by 1 below 97 %, between 8 and 64
(R731, R732); a refill gives every core the quota, up to 64 tokens (R733). A trip removes power, PWR_GOOD goes low, and OTP and SPI NOR stay (R716, Table 18.4). -/
def Obligations.PowerStates : Prop :=
  ∀ s : State, s.pw.off = false →
    let cancelled (t : State) (b reason : Nat) : Prop := t.pw.lastRefuser = b ∧ t.pw.lastReason = reason ∧ t.pw.lastState = s.pw.target ∧
      (s.pw.wake = false → t.pw.st = s.pw.prev) ∧ t.pw.asked = [] ∧
      ∀ r i, s.pw.cmd = some (r, i) → i < 65536 → (∃ m, cmdOf s r i = some m) → Completed t r i .powerRefused (BitVec.ofNat 64 (b + reason * 65536))
    (∀ r i d, CommandAt s r i 0x60 d .ready → bodyOk d [(8, 0, 3)] = true → earlierPower s r i = false →
      let at14 (t : State) : Prop := t.pw.cmd = some (r, i) ∧ OnlyFabric s t ∧ ∃ m, cmdOf t r i = some m ∧ m.phase = .busy 14
      (pwState d = 0 → (s.pw.st = 0 → exec (.powerD0 r i) s = .next (finishCmd s r i .ok 0)) ∧
        (idleState s = true → ∃ t, exec (.powerD0 r i) s = .next t ∧ t.pw.st = 5 ∧ t.pw.next = 0 ∧ t.pw.prev = s.pw.st ∧ at14 t)) ∧
      (pwState d ≠ 0 → pwState d < 4 → dSetEn d = false →
        (s.pw.st = 0 ∨ (idleState s = true ∧ s.pw.st < pwState d) → ∃ t, exec (.powerEnter r i) s = .next t ∧ t.pw.st = 4 ∧ t.pw.target = pwState d ∧ t.pw.tier = 1 ∧
          t.pw.asked = tierBlocks s 1 ∧ t.pw.committed = false ∧ t.pw.prev = s.pw.st ∧ at14 t) ∧
        (idleState s = true → pwState d < s.pw.st → ∃ t, exec (.powerEnter r i) s = .next t ∧ t.pw.st = 5 ∧ t.pw.next = pwState d ∧ at14 t)) ∧
      (pwState d ≠ 0 → (4 ≤ pwState d ∨ dSetEn d = true) → exec (.powerEnter r i) s = .next (finishCmd s r i .format 0))) ∧
    (∀ b, s.pw.st = 4 → s.pw.asked.contains b = true →
      let left := s.pw.asked.filter (fun x => x != b)
      (blockAnswer s b s.pw.target = .ack →
        (left ≠ [] → exec (.powerAnswer b .ack) s = .next { s with pw := { s.pw with asked := left } }) ∧
        (left = [] → s.pw.tier = lastTier s.pw.target → exec (.powerAnswer b .ack) s = .next { s with pw := { s.pw with asked := [], committed := true } }) ∧
        (left = [] → s.pw.tier ≠ lastTier s.pw.target →
          exec (.powerAnswer b .ack) s = .next { s with pw := { s.pw with tier := s.pw.tier + 1, asked := tierBlocks s (s.pw.tier + 1) } })) ∧
      (∀ n, blockAnswer s b s.pw.target = .delay → exec (.powerAnswer b (.delay n)) s =
        .next (cleanMeanwhile { s with pw := { s.pw with delays := b :: s.pw.delays } } b)) ∧
      (∀ q, blockAnswer s b s.pw.target = .refuse q → ∃ t, exec (.powerAnswer b (.refuse q)) s = .next t ∧ cancelled t b q)) ∧
    (∀ b l, s.pw.st = 4 → s.pw.committed = false → s.pw.delays = b :: l → s.pw.asked.contains b = true →
      ∃ t, exec .entryLimitTimeout s = .next t ∧ cancelled t b 0xFE) ∧
    (s.pw.st = 4 → s.pw.committed = true → ∃ t, exec .powerStateReached s = .next t ∧ OnlyFabric s t ∧
      (s.pw.wake = false → s.tr.replay = none → t.pw.st = s.pw.target) ∧ (s.pw.wake = true → t.pw.st = 5 ∧ t.pw.next = 0) ∧
      ∀ r i, s.pw.cmd = some (r, i) → i < 65536 → (∃ m, cmdOf s r i = some m) → Completed t r i .ok 0) ∧
    (∀ ev, idleState s = true → (ev = .doorbell → s.cm.rings.any (fun e => e.2.st == .running) = true) →
      exec (.wake ev) s = .next { s with pw := { s.pw with prev := s.pw.st, st := 5, next := 0 } }) ∧
    (s.pw.st = 5 →
      (s.pw.next = 0 → ∃ t, exec .exitComplete s = .next t ∧ t.pw.st = 0 ∧ t.fb.held = s.fb.held ∧
        (s.pw.prev = 3 → (s.cores.map (·.1)).Nodup → t.sh.cf = 0 ∧ ∀ c, (coreOf t c).sr = [] ∧ (coreOf t c).tiles = [] ∧ (coreOf t c).flags = 0 ∧
          (coreOf t c).run = (coreOf s c).run.filter (·.complete) ∧
          (coreOf t c).ae.frec = (coreOf s c).ae.frec ∧ (coreOf t c).xe.frec = (coreOf s c).xe.frec)) ∧
      (s.pw.next ≠ 0 → ∃ t, exec .exitComplete s = .next t ∧ t.pw.st = 4 ∧ t.pw.target = s.pw.next ∧ t.pw.tier = 1)) ∧
    (∀ watts tj, governs s = true →
      let l := (watts :: s.pw.samples).take 100
      let overN := if 110 * limitW s < 100 * watts then s.pw.overN + 1 else 0
      let mean := min 65535 (l.foldl (· + ·) 0 / l.length)
      exec (.governorSample watts tj) s = .next { s with pw := { s.pw with samples := l, inputW := mean, tj := tj, overN := overN } }) ∧
    (governs s = true →
      let q (n : Nat) : State := { s with pw := { s.pw with quota := n } }
      (95 < s.pw.tj → exec .governorAdjust s = .next (bump (q (max 8 (s.pw.quota - 4))) 85 1)) ∧
      (s.pw.tj ≤ 95 → limitW s < s.pw.inputW → exec .governorAdjust s = .next (q (max 8 (s.pw.quota - 4)))) ∧
      (s.pw.tj ≤ 95 → s.pw.inputW ≤ limitW s → 100 * s.pw.inputW < 97 * limitW s → exec .governorAdjust s = .next (q (min 64 (s.pw.quota + 1)))) ∧
      (s.pw.tj ≤ 95 → s.pw.inputW ≤ limitW s → 97 * limitW s ≤ 100 * s.pw.inputW → exec .governorAdjust s = .next s) ∧
      (5 ≤ s.pw.overN → exec .fastClamp s = .next (bump { s with pw := { s.pw with quota := max 8 (s.pw.quota / 2), overN := 0 } } 84 1)) ∧
      (s.pw.overN < 5 → exec .fastClamp s = .next s)) ∧
    ((s.pw.st = 0 ∨ s.pw.st = 4) → (s.cores.map (·.1)).Nodup →
      ∃ t, exec .tokenRefill s = .next t ∧ t.m = s.m ∧ t.pw = s.pw ∧ 
        ∀ c, coreOf t c = { coreOf s c with tokens := min 64 ((coreOf s c).tokens + s.pw.quota) }) ∧
    ∀ cause, ∃ t, exec (.powerOffTrip cause) s = .next t ∧ t.pw.off = true ∧ t.nv = s.nv ∧ t.fit = s.fit ∧ t.pending = s.pending ∧ t.cores = [] ∧ t.m = { chans := mappedOutChans s.fit.repair } ∧ t.cm = {} ∧
      t.bu = {} ∧ pwrGood t = false

/-! ### Bring-up -/

/-- The module alone. POWER_ON and RESET_N reset everything but OTP and SPI NOR, the channels of the repair record MAPPED_OUT (R300, R644, R747); the rails come up in order, the boot ROM takes the preferred
image that passes, else the other, else recovery, and a rail that fails ends in FAILED with reason 5 (R646 to R649). P2 takes a table with AUTO
(R653). LOCAL_READY maps out the channels of the repair record and those that failed, and records spares that passed (R244, R300, R651). SYSTAB_GO reads the
table that CFG_SYSTAB names: a bad one gives FAILED with reason 1, a good one the device's number and its ports (R653 to R657). -/
def Obligations.ModuleBringUp : Prop :=
  ∀ s : State,
    let fresh (t : State) : Prop := t.pw = {} ∧ t.nv = s.nv ∧ t.fit = s.fit ∧ t.pending = s.pending ∧ t.cores = [] ∧ t.m = { chans := t.m.chans } ∧
      (∀ k, (tget chanDefault t.m.chans k).st = if k ∈ s.fit.repair then .mappedOut else .inService) ∧ t.cm = {} ∧ t.sh = {} ∧
      t.fb = {} ∧ t.fx = {} ∧ t.tr = {} ∧ t.sec = {}
    ((s.pw.off = true ∨ (s.bu.rails = 0 ∧ s.bu.inReset = false)) → ∃ t, exec .powerOn s = .next t ∧ fresh t ∧ t.bu = { rails := 1 }) ∧
    (s.pw.off = false → ∃ t, exec .moduleReset s = .next t ∧ fresh t ∧ t.bu = { inReset := true }) ∧
    (s.pw.off = false → s.bu.inReset = true →
      exec .resetNRelease s = .next { s with bu := { s.bu with inReset := false, rails := 1 } }) ∧
    (railsRun s = true →
      exec .railTimeout s = .next { s with bu := { s.bu with railFault := s.bu.rails + 1, state := 6, reason := 5 } } ∧
      (s.bu.rails = 1 → exec .railPowerGood s = .next { s with
        bu := { s.bu with rails := 2 }
        sec := { s.sec with nonce := Config.nonce s.freeIx }
        freeIx := s.freeIx + 1
        pw := { s.pw with top := if s.fit.topId = 2 then 1 else if s.fit.topId = 0 then 2 else 0, topUnknown := s.fit.topId == 3 } }) ∧
      (s.bu.rails = 2 →
        let a := imageResult s.nv.svn s.nv.slotA
        let b := imageResult s.nv.svn s.nv.slotB
        let booted (t : State) (x y : Nat) (inB : Bool) : Prop := t.bu = { s.bu with rails := 3, aResult := x, bResult := y, booted := inB, fwRunning := true }
        ∃ t, exec .railPowerGood s = .next t ∧ OnlyFabric s t ∧ t.nv.slotA = s.nv.slotA ∧ t.nv.slotB = s.nv.slotB ∧
          t.nv.svn = s.nv.svn ∧ (s.nv.eraseStarted = true → t.nv.debugOpened = true ∧ (s.nv.debugOpened = false → seedBlown t = true)) ∧
          t.sec.prodKeys = (if seedBlown t then none else some (deriveKeys false t.nv.prodSeed)) ∧ t.sec.dbgKeys = some (deriveKeys true s.nv.dbgSeed) ∧
          t.nv.prod.next = nextIndex t.nv.prod ∧ t.nv.dbgJournal.next = nextIndex t.nv.dbgJournal ∧
          (prefB s = false → a = 1 → booted t 1 0 false) ∧ (prefB s = false → a ≠ 1 → b = 1 → booted t a 1 true) ∧
          (prefB s = true → b = 1 → booted t 0 1 true) ∧ (prefB s = true → b ≠ 1 → a = 1 → booted t 1 b false) ∧
          (a ≠ 1 → b ≠ 1 → t.bu = { s.bu with rails := 3, aResult := a, bResult := b, state := 6, fwRunning := false })) ∧
      (s.bu.rails = 3 ∨ s.bu.rails = 4 → exec .railPowerGood s = .next { s with bu := { s.bu with rails := s.bu.rails + 1 } }) ∧
      (s.bu.rails = 5 →
        let on : State := (List.range 32).foldl (fun t p => if portEn t p then trainPort t p else t) { s with bu := { s.bu with rails := 6 } }
        let up : State := { on with bu := { on.bu with phase := 2 } }
        (((reg64 s 0x28).getLsbD 63 = true ∨ ∀ t, s.nv.table = some t → t.auto_ = false) → exec .railPowerGood s = .next up) ∧
        ∀ t, (reg64 s 0x28).getLsbD 63 = false → s.nv.table = some t → t.auto_ = true → exec .railPowerGood s = .next (joinWith up t))) ∧
    (∀ l : SelfTest, firmware s = true → s.bu.localDone = false → s.bu.state = 0 → s.bu.table = none →
      let good (c a : Nat) (col : Bool) : Bool := !l.lines.any (fun e => e == (c, a, col, if col then 32 else 16))
      ∃ t, exec (.localReady l) s = .next t ∧ t.bu = { s.bu with localDone := true, state := 1 } ∧
        (∀ k, (tget chanDefault t.m.chans k).st = if k ∈ s.fit.repair ++ l.chans then .mappedOut else .inService) ∧
        t.m.homeWays = min 14 ((reg32 s 0x104).toNat % 32) ∧ t.m.mem = [] ∧ t.m.dir = [] ∧ t.nv.spares = (takeSpares good s.nv.spares l.lines).1 ∧
        t.fit.absent = (l.stores ++ (takeSpares good s.nv.spares l.lines).2).eraseDups ∧ t.cores = s.cores ∧ t.cm = s.cm) ∧
    (firmware s = true → (reg64 s 0x28).getLsbD 63 = true →
      let c := reg64 s 0x28
      let u := setReg64 s 0x28 (putBit c 63 false)
      let t := if c.getLsbD 62 then parseTable s (field64 c 51 6 * 64) else norTable s
      (tableOk s t = false → exec .systabGo s = .next { u with bu := { u.bu with state := 5, reason := 1 } }) ∧
      ∀ e, tableOk s t = true → ownEntry t s = some e →
        ∃ v, exec .systabGo s = .next v ∧ OnlyFabric s v ∧ v.bu.table = some t ∧ devNum v = e.devnum % 4096 ∧ (reg64 v 0x28).getLsbD 63 = false ∧
          (t.topo = 0 → s.bu.localDone = true → v.bu.state = 3 ∧ v.bu.phase = 8) ∧ (t.topo = 0 → s.bu.localDone = false → v.bu.state = 2 ∧ v.bu.phase = 3) ∧
          (t.topo ≠ 0 → v.bu.state = 2 ∧ v.bu.claimK = none ∧ ∀ p ∈ joinPorts s t, portEn v p = true ∧
            (portPresent s p = true → (portOf s p).st = .down → (portOf v p).st = .training)) ∧
          (t.topo ≠ 0 → ∀ p, p < ownPorts s → p ∉ joinPorts s t → portEn v p = false)) ∧
    (firmware s = false ∨ (reg64 s 0x28).getLsbD 63 = false → exec .systabGo s = .next s)

/-- Joining a system. A candidate whose timer ends claims, and gathers; a CLAIM of a lower index is followed, any other ignored; without a coordinator
the device FAILS with reason 2 (R662 to R664). A device answers a GATHER with one signed REPORT to the coordinator and its partners, for each
coordinator and epoch (R665). A partner whose check fails holds its port DOWN (R666). The coordinator admits a REPORT with its nonce and the table's
serial number, and when all are in, or at GATHER_LIMIT, signs a roster (R667). A roster of the coordinator makes an admitted device READY with its number,
routes and flags enabled, a spare idle, another one FAILED; one not so signed FAILS with reason 3 (R668 to R670). Answers acknowledge,
and unacknowledged messages go out again (R661). A change of links makes a new roster, or a new coordinator (R671, R672). -/
def Obligations.SystemsJoin : Prop :=
  ∀ s : State, firmware s = true →
    let heard (m : CtrlMsg) : State := takeCtrl s m
    let me := devNum s
    let others := (systemDevs s).filter (fun d => d != me)
    let claims (t : State) (k : Nat) : Prop := t.bu.acting = true ∧ t.bu.claimK = some k ∧ t.bu.coord = me ∧ t.bu.gathering = true ∧ t.bu.admitted = [] ∧
      t.bu.nonce = Config.nonce s.freeIx ∧ t.bu.gatherEpoch = max s.bu.gatherEpoch s.bu.epoch + 1 ∧ OnlyFabric s t ∧
      t.bu.unacked = others.map (fun d => (d, .claim k me, 0)) ++ others.map (fun d => (d, .gather (Config.nonce s.freeIx) (max s.bu.gatherEpoch s.bu.epoch + 1), 0)) ∧
      (∀ j, s.bu.claimK = some j → k < j → counter t 66 = satInc (counter s 66) 1)
    let downWith (t : State) (p : Nat) : Prop := (portOf t p).st = .down ∧ (portOf t p).heldDown = true ∧ t.bu.portFail.getLsbD p = true
    (∀ k, candIndex s me = some k → joining s = true → s.bu.acting = false → (s.bu.claimK = none ∨ ∃ j, s.bu.claimK = some j ∧ k < j) →
      ∃ t, exec .claimTimer s = .next t ∧ claims t k ∧ t.bu.state = 2 ∧ t.bu.phase = 6) ∧
    (candIndex s me = none → exec .claimTimer s = .next s) ∧
    (∀ (p : Packet) (k dev : Nat), p.body = .ctrl (.claim k dev) → p.src = dev →
      (dev ≠ me → (cands s)[k]? = some (some dev) → (s.bu.claimK = none ∨ ∃ j, s.bu.claimK = some j ∧ k < j) →
        ∃ t, exec (.claim p) s = .next t ∧ t.bu.claimK = some k ∧ t.bu.coord = dev ∧ t.bu.acting = false ∧ t.bu.gathering = false ∧ t.bu.unacked = [] ∧ OnlyFabric s t ∧
          (joining s = true → t.bu.state = 2 ∧ t.bu.phase = 6)) ∧
      ((∃ j, s.bu.claimK = some j ∧ j ≤ k) ∨ (cands s)[k]? ≠ some (some dev) → exec (.claim p) s = .next (heard (.claim k dev)))) ∧
    (s.bu.state = 2 → s.bu.phase = 5 →
      (s.bu.claimK = none → exec .noCoordTimeout s = .next { s with bu := { s.bu with state := 5, reason := 2 } }) ∧
      (s.bu.claimK ≠ none → exec .noCoordTimeout s = .next s)) ∧
    (∀ (p : Packet) (n : BitVec 256) (e : Nat), p.body = .ctrl (.gather n e) →
      ((s.bu.claimK = none ∨ p.src ≠ s.bu.coord ∨ s.bu.phase < 5 ∨ (p.src, e) ∈ s.bu.reported) → exec (.coordinatorGather p) s = .next (heard (.gather n e))) ∧
      (s.bu.claimK ≠ none → p.src = s.bu.coord → 5 ≤ s.bu.phase → (p.src, e) ∉ s.bu.reported →
        (∀ j, (signPair s).2 = some j → ∃ t, exec (.coordinatorGather p) s = .next t ∧ t.bu.reported = s.bu.reported ++ [(p.src, e)] ∧ OnlyFabric s t ∧
          (journalOf t).next = some (j + 1) ∧
          t.bu.unacked = s.bu.unacked ++ ((p.src :: (t1Ports s).map (fun q => (portOf s q).partnerDev)).eraseDups.filter (fun d => d != me)).map
            (fun d => (d, .report (makeReport s n e), 0))) ∧
        ((signPair s).2 = none → ∃ t, exec (.coordinatorGather p) s = .next t ∧ t.bu = s.bu ∧ counter t 69 = satInc (counter s 69) 1 ∧ OnlyFabric s t))) ∧
    (∀ r : Report,
      (∀ p, portToward s r = some p → (reportOk r = false ∨ r.partnerNonces.contains (reporterPort s r, (portOf s p).myNonce) = false) →
        ∃ t, exec (.report r) s = .next t ∧ downWith t p ∧ counter t 65 = satInc (counter s 65) 1) ∧
      ((∀ p, portToward s r = some p → reportOk r = true ∧ r.partnerNonces.contains (reporterPort s r, (portOf s p).myNonce) = true) →
        let u := acked (heard (.report r)) r.devnum (fun m => isCall m || (isReportMsg m && r.devnum != s.bu.coord))
        (admits s r = false → exec (.report r) s = .next u) ∧
        (admits s r = true → s.bu.admitted.length + 1 ≠ (systemDevs s).length →
          exec (.report r) s = .next { u with bu := { u.bu with admitted := s.bu.admitted ++ [r] } }) ∧
        (admits s r = true → s.bu.admitted.length + 1 = (systemDevs s).length → ∃ t, exec (.report r) s = .next t ∧ t.bu.gathering = false ∧
          t.bu.admitted = s.bu.admitted ++ [r] ∧ OnlyFabric s t))) ∧
    (∀ t0, s.bu.table = some t0 → s.bu.gathering = true →
      let recs := t0.entries.map (rosterRec s t0)
      (∀ j, (signPair s).2 = some j → ∃ t, exec .gatherLimit s = .next t ∧ t.bu.gathering = false ∧
        t.bu.issued = some ⟨s.bu.gatherEpoch, me, recs, s.nv.serial, kindOf s, true, true⟩ ∧ (journalOf t).next = some (j + 1) ∧ OnlyFabric s t) ∧
      ((signPair s).2 = none → ∃ t, exec .gatherLimit s = .next t ∧ t.bu = { s.bu with gathering := false } ∧ OnlyFabric s t)) ∧
    (s.bu.gathering = false → exec .gatherLimit s = .next s) ∧
    (∀ (r : Roster) (t0 : SysTab) (x : Nat), s.bu.table = some t0 → ownPos s = some x → s.bu.claimK ≠ none →
      let u := heard (.roster r)
      (s.bu.state = 2 ∨ s.bu.state = 4 ∨ (s.bu.state = 3 ∧ s.bu.epoch < r.epoch) →
        (rosterSigned s r = false → exec (.roster r) s = .next { u with bu := { u.bu with state := 5, reason := 3 } }) ∧
        (rosterSigned s r = true → r.recs.find? (fun e => e.pos == x) = none →
          exec (.roster r) s = .next { u with bu := { u.bu with state := 5, reason := 3 } }) ∧
        ∀ e0, rosterSigned s r = true → r.recs.find? (fun e => e.pos == x) = some e0 →
          (e0.state = 1 ∨ e0.state = 3 → ∃ t, exec (.roster r) s = .next t ∧ t.bu.state = 3 ∧ t.bu.phase = 8 ∧ t.bu.roster = some r ∧ t.bu.epoch = r.epoch ∧
            devNum t = (if e0.state = 3 then e0.number % 4096 else me) ∧ (reg32 t 0x124).getLsbD 0 = true ∧ OnlyFabric s t ∧
            (s.bu.state = 3 → counter t 67 = satInc (counter s 67) 1) ∧
            ((r.recs.map (fun e => e.number)).Nodup → ∀ e ∈ r.recs, (e.state = 1 ∨ e.state = 3) → e.pos ≠ x → ∀ m, m < 4 →
              routeWord t e.number m = routeCode (routeTo t0 (rosterPorts r) (rosterUp r) x e.pos m))) ∧
          (e0.state = 2 → exec (.roster r) s = .next { u with bu := { u.bu with roster := some r, epoch := r.epoch, state := 4 } }) ∧
          (e0.state = 0 → exec (.roster r) s = .next { u with bu := { u.bu with state := 5, reason := 4 } })) ∧
      (s.bu.state = 3 → r.epoch < s.bu.epoch → exec (.roster r) s = .next u) ∧
      (s.bu.state = 3 → r.epoch = s.bu.epoch → exec (.roster r) s = .next (sendCtrl (rosterAcks u r) r.coord (.readyNote me)))) ∧
    (∀ dev, exec (.readyNote dev) s = .next (acked (heard (.readyNote dev)) dev isRosterMsg)) ∧
    (∃ t, exec .ctrlResend s = .next t ∧ t.bu = { s.bu with unacked := s.bu.unacked.map (fun u => (u.1, u.2.1, (u.2.2 + 1) % 4)) } ∧ OnlyFabric s t ∧
      t.cm = s.cm) ∧
    (∀ (dev : Nat) (up : BitVec 32),
      let recs (r : Roster) := r.recs.map (fun e => if e.number = dev ∧ (e.state = 1 ∨ e.state = 3) then { e with up := shownUp s r.recs e.pos up } else e)
      (∀ r, s.bu.acting = true → s.bu.issued = some r → recs r = r.recs → exec (.linkNote dev up) s = .next (sendCtrl (heard (.linkNote dev up)) dev (.roster r))) ∧
      (∀ r j, s.bu.acting = true → s.bu.issued = some r → recs r ≠ r.recs → (signPair s).2 = some j → ∃ t, exec (.linkNote dev up) s = .next t ∧ OnlyFabric s t ∧
        t.bu.issued = some ⟨r.epoch + 1, me, recs r, s.nv.serial, kindOf s, true, true⟩) ∧
      (∀ k, s.bu.acting = false → candIndex s me = some k → s.bu.state = 3 → ∃ t, exec (.linkNote dev up) s = .next t ∧ claims t k) ∧
      (s.bu.acting = false → candIndex s me = none → exec (.linkNote dev up) s = .next (heard (.linkNote dev up)))) ∧
    (∀ (d n c : Nat) (m : CtrlMsg), s.bu.unacked.find? (fun u => isLinkNote u.2.1) = some (d, m, n) → nextCand s d = some c → c ≠ me →
      ∃ t, exec .linkNoteTimeout s = .next t ∧ OnlyFabric s t ∧
        t.bu.unacked = s.bu.unacked.filter (fun u => !(u.1 == d && isLinkNote u.2.1)) ++ [(c, m, 0)]) ∧
    ((∀ u ∈ s.bu.unacked, isLinkNote u.2.1 = false) → exec .linkNoteTimeout s = .next s)

/-! ### Attestation and firmware -/

/-- SPDM, IDE keys, journals and firmware updates. GET_VERSION begins a connection and drops the co-signature held; the plain requests answer with
the values of Table 16.5, and for slot 0 with the identity in use; another slot draws ERROR (R693, R696). A response that carries signatures is made once the
next index is stored: both signatures are of the one message that log 58 leaves free, and the HSS one is held; else the answer is ERROR and nothing
is held (R690, R692, R695, R696). FINISH and END_SESSION end what KEY_EXCHANGE began; IDE_KM acts in
a session only, and keys stay after it (R697, R698). GET_IDREC has at most 1,024 bytes of a record of 2,060 (Table 16.7). The other half of a journal is erased when fewer
than 1,024 entries are free (R691), unless the largest index stands only there (log 64). FW_UPDATE writes the slot that does not run when the image passes, and says why when not; COMMIT blows fuses up to the running
image's SVN (R681 to R685). Where nothing serves a request it has no effect. -/
def Obligations.SecurityRequests : Prop :=
  ∀ s : State,
    let answered (t : State) (r : SpdmResp) : State := { t with resp := .spdm r }
    let kind := s.nv.debugOpened
    let vendor (result : Nat) (code : Nat) (l : List Nat) : SpdmResp :=
      .vendor 3 ((Config.configWord 0).toNat % 2 ^ 16) ([code, result, l.length % 256, l.length / 256] ++ l)
    let pair (n : Nat) : SignPair := signatures s n (beBytes 148 (Config.spdmMessage s.freeIx).toNat)
    let signed (i : Instr) (resp : List Nat → SpdmResp) (sec : List Nat → Security) : Prop :=
      (∀ n, (signPair s).2 = some n → ∃ t, exec i s = .next t ∧ t.resp = .spdm (resp (pair n).ecdsa) ∧ t.sec = sec (pair n).hss ∧
        (journalOf t).next = some (n + 1) ∧ counter t 68 = satInc (counter s 68) 1 ∧ OnlyFabric s t ∧ t.bu = s.bu) ∧
      ((signPair s).2 = none → ∃ t, exec i s = .next t ∧ t.resp = .spdm .error ∧ t.sec = { s.sec with cosig := none } ∧ counter t 69 = satInc (counter s 69) 1 ∧
        OnlyFabric s t ∧ t.bu = s.bu)
    (spdmServes s = true →
      exec .getVersion s = .next (answered { s with sec := { s.sec with cosig := none, session := false, secured := false } } (.version [0x13])) ∧
      exec .getCapabilities s = .next (answered s (.capabilities [.cert, .chal, .measSigned, .keyEx, .encrypt, .mac])) ∧
      exec .negotiateAlgorithms s = .next (answered s (.algorithms [.ecdsaP384, .sha384, .dheSecp384r1, .aes256Gcm, .measSha384])) ∧
      (let all := Config.chainLength kind
       exec .getDigests s = .next (answered s (.digests kind (hash384 (chainBytes kind 0 all)))) ∧
       ∀ o n, exec (.getCertificate ⟨0, o⟩ n) s = .next (answered s
         (if o < all then .certificate kind (chainBytes kind o (min n (all - o))) (all - o - min n (all - o)) else .error))) ∧
      (∀ k, k ≠ 0 → (∀ o n, exec (.getCertificate ⟨k, o⟩ n) s = .next (answered s .error)) ∧ (∀ nonce, exec (.challenge ⟨k, nonce⟩) s = .next (answered s .error) ∧
        exec (.keyExchange ⟨k, nonce⟩) s = .next (answered s .error)) ∧ ∀ b, exec (.getMeasurements ⟨k, b⟩) s = .next (answered s .error)) ∧
      (∀ nonce, signed (.challenge ⟨0, nonce⟩) (fun g => .challengeAuth nonce kind g (measure s)) (fun h => { s.sec with cosig := some h })) ∧
      signed (.getMeasurements ⟨0, true⟩) (fun g => .measurements (some g) kind (measure s)) (fun h => { s.sec with cosig := some h }) ∧
      exec (.getMeasurements ⟨0, false⟩) s = .next (answered s (.measurements none kind (measure s))) ∧
      (∀ nonce, signed (.keyExchange ⟨0, nonce⟩) (fun g => .keyExchangeRsp nonce kind g (measure s))
        (fun h => { s.sec with cosig := some h, session := true, secured := false })) ∧
      (s.sec.session = true → s.sec.secured = false → exec .finish s = .next (answered { s with sec := { s.sec with secured := true } } .finishRsp)) ∧
      (s.sec.session = false ∨ s.sec.secured = true → exec .finish s = .next (answered s .error)) ∧
      (s.sec.secured = true → exec .endSession s = .next (answered { s with sec := { s.sec with session := false, secured := false } } .endSessionAck)) ∧
      (s.sec.secured = false → exec .endSession s = .next (answered s .error)) ∧
      (s.sec.cosig = none → exec .getCosig s = .next (answered s (vendor 1 1 []))) ∧
      (∀ l, s.sec.cosig = some l → exec .getCosig s = .next (answered s (vendor 0 1 l))) ∧
      (∀ o n, (1024 < n → exec (.getIdrec o n) s = .next (answered s .error)) ∧
        (n ≤ 1024 → o + n ≤ 2060 → exec (.getIdrec o n) s = .next (answered s (vendor 0 2 (slice (idRecord s) o n)))) ∧
        (n ≤ 1024 → 2060 < o + n → exec (.getIdrec o n) s = .next (answered s (vendor 2 2 [])))) ∧
      ((idRecord s).take 4 = [1, 0, if kind then 1 else 0, 0] ∧ ((idRecord s).drop 4).take 16 = (List.range 16).map (fun j => s.nv.serial.toNat / 2 ^ (8 * j) % 256) ∧
        (idRecord s).getD 21 0 = s.fit.nStacks % 256 ∧ (idRecord s).getD 22 0 = s.fit.iodies % 256) ∧
      (s.sec.secured = false → ∀ m, exec (.ideKm m) s = .next (answered s .error)) ∧
      (s.sec.secured = true → ∀ c : Bool,
        let act := if c then 2 else 0
        (∀ k, ∃ t, exec (.ideKm (.program c k)) s = .next t ∧ t.resp = .spdm .ideAck ∧ t.sec.keys = s.sec.keys.setIfInBounds (act + 1) (some k) ∧ OnlyFabric s t) ∧
        (∀ k, s.sec.keys.getD (act + 1) none = some k → ∃ t, exec (.ideKm (.go c)) s = .next t ∧ t.resp = .spdm .ideAck ∧ OnlyFabric s t ∧
          t.sec.keys.getD act none = some k ∧ t.sec.keys.getD (act + 1) none = none ∧ ∀ i, i ≠ act → i ≠ act + 1 → t.sec.keys.getD i none = s.sec.keys.getD i none) ∧
        (∃ t, exec (.ideKm (.stop c)) s = .next t ∧ t.resp = .spdm .ideAck ∧ OnlyFabric s t ∧
          t.sec.keys.getD act none = none ∧ ∀ i, i ≠ act → t.sec.keys.getD i none = s.sec.keys.getD i none))) ∧
    (spdmServes s = false → exec .getVersion s = .next s ∧ exec .getCosig s = .next s ∧ ∀ m, exec (.ideKm m) s = .next s) ∧
    (firmware s = true →
      let erased (j : Journal) : Journal :=
        { j with half := !j.half, used := 0, cells := j.cells.filter (fun c => decide (32768 ≤ c.1) == j.half) }
      let mayErase (j : Journal) : Prop := 31744 < j.used ∧ nextIndex (erased j) = j.next
      (mayErase s.nv.prod → exec (.journalHalfErase false) s = .next { s with nv := { s.nv with prod := erased s.nv.prod } }) ∧
      (¬ mayErase s.nv.prod → exec (.journalHalfErase false) s = .next s) ∧
      (mayErase s.nv.dbgJournal → exec (.journalHalfErase true) s = .next { s with nv := { s.nv with dbgJournal := erased s.nv.dbgJournal } }) ∧
      (¬ mayErase s.nv.dbgJournal → exec (.journalHalfErase true) s = .next s)) ∧
    (firmware s = false → ∀ k, exec (.journalHalfErase k) s = .next s) ∧
    (fuBusy s = true → ∀ hdr ecdsa lms : Bool,
      let ended (u : State) (st : Status) : State :=
        let v := setReg64 u 0x10 (putBit (reg64 u 0x10) 63 false)
        { v with sec := { v.sec with fwState := 2, fwStatus := statusCode st } }
      let i := readImage s
      let slot (u : State) (b : Bool) : Option Image := if b then u.nv.slotB else u.nv.slotA
      (fuOp s = 1 → exec (.fwUpdateWrite hdr ecdsa lms) s = .next s ∧
        (firmware s = true → ∃ t, exec .fwUpdateCommit s = .next t ∧ t.sec.fwState = 2 ∧ t.sec.fwStatus = 0 ∧ (reg64 t 0x10).getLsbD 63 = false ∧ OnlyFabric s t ∧
          (∀ m, runningImage s = some m → t.nv = { s.nv with svn := max s.nv.svn m.svn })) ∧
        (firmware s = false → exec .fwUpdateCommit s = .next s)) ∧
      (2 ≤ fuOp s → exec (.fwUpdateWrite hdr ecdsa lms) s = .next (ended s .format)) ∧
      (fuOp s = 0 → exec .fwUpdateCommit s = .next s ∧
        (firmware s = true → s.bu.booted = fuTarget s → exec (.fwUpdateWrite hdr ecdsa lms) s = .next (ended s .alias_)) ∧
        (firmware s = false ∨ s.bu.booted ≠ fuTarget s →
          ((fuLen s = 0 ∨ 25165824 < fuLen s ∨ 2 ^ 52 < fuAddr s + fuLen s) → exec (.fwUpdateWrite hdr ecdsa lms) s = .next (ended s .range)) ∧
          (0 < fuLen s → fuLen s ≤ 25165824 → fuAddr s + fuLen s ≤ 2 ^ 52 →
            (hostRefuses s (fuAddr s) (fuLen s) = true → exec (.fwUpdateWrite hdr ecdsa lms) s = .next (ended s .dataDropped)) ∧
            (hostRefuses s (fuAddr s) (fuLen s) = false → s.host.poison = [] →
              ((i.hdrOk = false ∨ 128 < i.svn ∨ i.ecdsaOk = false ∨ i.lmsOk = false) →
                exec (.fwUpdateWrite hdr ecdsa lms) s = .next (ended (bump s 57 (fuLen s)) .auth)) ∧
              (i.hdrOk = true → i.svn ≤ 128 → i.ecdsaOk = true → i.lmsOk = true →
                (i.svn < s.nv.svn → exec (.fwUpdateWrite hdr ecdsa lms) s = .next (ended (bump s 57 (fuLen s)) .format)) ∧
                (s.nv.svn ≤ i.svn → (hdr = false ∨ ecdsa = false ∨ lms = false) → ∃ t, exec (.fwUpdateWrite hdr ecdsa lms) s = .next t ∧ t.sec.fwState = 2 ∧ t.sec.fwStatus = statusCode .dataDropped ∧
                  slot t (fuTarget s) = none ∧ slot t (!fuTarget s) = slot s (!fuTarget s) ∧ t.nv.pref = s.nv.pref ∧ OnlyFabric s t) ∧
                (s.nv.svn ≤ i.svn → hdr = true → ecdsa = true → lms = true → ∃ t, exec (.fwUpdateWrite hdr ecdsa lms) s = .next t ∧ t.sec.fwState = 2 ∧ t.sec.fwStatus = 0 ∧
                  slot t (fuTarget s) = some i ∧ slot t (!fuTarget s) = slot s (!fuTarget s) ∧ t.nv.svn = s.nv.svn ∧ OnlyFabric s t ∧
                  (fuSetPref s = true → t.nv.pref = if fuTarget s then 1 else 0) ∧ (fuSetPref s = false → t.nv.pref = s.nv.pref) ∧
                  counter t 71 = satInc (counter s 71) 1 ∧ counter t 57 = satInc (counter s 57) (fuLen s)))))))) ∧
    (fuBusy s = false → exec .fwUpdateCommit s = .next s ∧ ∀ b b1 b2, exec (.fwUpdateWrite b b1 b2) s = .next s)

/-! ### The debug port and SMBus -/

/-- The Zubuthar Debug Port and SMBus. An instruction of the TAP stands in its register; the TAP answers IDCODE, BYPASS, the boundary scan, status and
nonce; EXTEST and ZDP_CMD act as BYPASS while the port is locked (R699, R701, Table 16.8). A
token is refused, and counted, for a busy device, a bad field, another module or nonce, or a bad signature; each draws a new nonce; one that passes
opens the port, and the first erases the production seed and journal (R702, R703). The open port halts, steps, sets breakpoints, resumes, reads
and writes its targets, and the next shift gives the result (R700, R707, Table 16.9); what a target does not allow leaves a status that log 60 leaves open. A line that the
host holds makes the port BUSY until it comes back (log 66). SMBus gives the registers of Table 18.8. -/
def Obligations.DebugAndSmbus : Prop :=
  ∀ s : State, tapRuns s = true →
    let tap (c : BitVec 8) (r : Resp) : State := { s with sec := { s.sec with ir := c }, resp := r }
    let scan (c : BitVec 8) (ex : Bool) (v : Nat) : State :=
      { s with sec := { s.sec with ir := c, boundary := Config.pins s.freeIx }, freeIx := s.freeIx + 1, resp := .boundary ex v }
    let bits (b : Bool) : Nat := if b then 1 else 0
    exec .bypass s = .next (tap 0xFF (.tap 1 0)) ∧
    exec .samplePreload s = .next (scan 0x01 false (Config.pins s.freeIx)) ∧
    (s.sec.zdpOpen = true → exec .extest s = .next (scan 0x00 true s.sec.boundary)) ∧
    (s.sec.zdpOpen = false → exec .extest s = .next (tap 0x00 (.tap 1 0)) ∧ ∀ op t a d, exec (.zdpCmd op t a d) s = .next (tap 0x20 (.tap 1 0))) ∧
    exec .idcode s = .next (tap 0x02 (.tap 32 (Config.siliconRevision.toNat * 2 ^ 28 + 0x7E11 * 2 ^ 12 + Config.jedecCode.toNat * 2 + 1))) ∧
    (let word (busy : Bool) : Nat := s.sec.lastStatus * 2 ^ 16 + bits busy * 4 + bits s.nv.debugOpened * 2 + bits s.sec.zdpOpen
     (s.sec.zdpWait = none → exec .zdpStatus s = .next (tap 0x10 (.tap 32 (word false)))) ∧
     ∀ l, s.sec.zdpWait = some (.read, .line l, 0) → l < 2 ^ 34 → hostHolds s l = true → s.m.bisnp.contains l = true →
       exec .zdpStatus s = .next (tap 0x10 (.tap 32 (word true)))) ∧
    exec .zdpNonce s = .next (tap 0x11 (.tap 256 s.sec.nonce.toNat)) ∧
    (∀ k : BitVec 15456,
      let turned (st : Status) : State :=
        let u := bump { s with sec := { s.sec with ir := 0x12 } } 70 1
        { u with freeIx := u.freeIx + 1, sec := { u.sec with lastStatus := statusCode st, nonce := Config.nonce s.freeIx } }
      let good := tokenNat k 4 16 = s.nv.serial.toNat ∧ tokenNat k 20 32 = s.sec.nonce.toNat ∧ tokenSigned s.fit.dbgKey k = true
      (zdpBusy s = true → exec (.zdpToken k) s = .next (turned .alias_)) ∧
      (zdpBusy s = false → tokenFields k = false → exec (.zdpToken k) s = .next (turned .format)) ∧
      (zdpBusy s = false → tokenFields k = true → ¬ good → exec (.zdpToken k) s = .next (turned .auth)) ∧
      (zdpBusy s = false → tokenFields k = true → good → ∃ t, exec (.zdpToken k) s = .next t ∧ t.sec.zdpOpen = true ∧ t.sec.lastStatus = 0 ∧
        t.sec.nonce = Config.nonce s.freeIx ∧ t.sec.keys = Vector.replicate 4 none ∧ t.cm = s.cm ∧ OnlyFabric s t ∧
        (s.nv.debugOpened = true → t.nv = s.nv ∧ t.sec.prodKeys = s.sec.prodKeys) ∧
        (s.nv.debugOpened = false → t.nv.eraseStarted = true ∧ seedBlown t = true ∧ t.nv.prod = {} ∧ t.nv.debugOpened = true ∧ t.nv.dbgJournal.next.isSome = true ∧
          t.sec.prodKeys = none ∧ t.nv.svn = s.nv.svn ∧ t.nv.slotA = s.nv.slotA ∧ t.nv.slotB = s.nv.slotB))) ∧
    (s.sec.zdpOpen = true → s.sec.zdpWait = none → ∀ (a : ZdpAddr) (d : Line),
      let w := tap 0x20 (.zdp s.sec.zdpResult)
      let status (u : State) (st : Status) : State := { u with sec := { u.sec with lastStatus := statusCode st } }
      let reads (u : State) (v : Nat) : State := { u with sec := { u.sec with lastStatus := 0, zdpResult := v } }
      let refused : State := { w with freeIx := s.freeIx + 1, sec := { w.sec with lastStatus := (Config.debugStatus s.freeIx).toNat } }
      let waits (u : State) (op : ZdpOp) (l : Nat) (v : Line) : State := { u with sec := { u.sec with zdpWait := some (op, .line l, v) } }
      (∀ t, (t = .mgmt ∨ ∃ r, r < 256 ∧ t = .ringCp r) →
        let n := if t = ZdpTarget.mgmt then 8 else 4
        let p := match t with | .ringCp r => r + 1 | _ => 0
        (∃ u, exec (.zdpCmd .halt t a d) s = .next u ∧ u.sec.zdpHalted.contains t = true ∧ u.sec.lastStatus = 0 ∧
          (∀ x, x ≠ t → u.sec.zdpHalted.contains x = s.sec.zdpHalted.contains x) ∧ u.cores = s.cores ∧ u.m = s.m ∧ u.cm = s.cm) ∧
        (∃ u, exec (.zdpCmd .resume t a d) s = .next u ∧ u.sec.zdpHalted.contains t = false ∧ u.sec.lastStatus = 0 ∧
          (∀ x, x ≠ t → u.sec.zdpHalted.contains x = s.sec.zdpHalted.contains x) ∧ u.cores = s.cores ∧ u.m = s.m ∧ ∀ q ∈ u.sec.dbgRegs, q.1 / 2 ^ 64 ≠ p) ∧
        (s.sec.zdpHalted.contains t = true → exec (.zdpCmd .step t a d) s = .next (status (dropDbgRegs w p) .ok)) ∧
        (s.sec.zdpHalted.contains t = false → exec (.zdpCmd .step t a d) s = .next refused) ∧
        (s.sec.breakpoints.count t < n → exec (.zdpCmd .breakpoint t a d) s = .next (status { w with sec := { w.sec with breakpoints := t :: s.sec.breakpoints } } .ok)) ∧
        (n ≤ s.sec.breakpoints.count t → exec (.zdpCmd .breakpoint t a d) s = .next refused) ∧
        ∀ x, exec (.zdpCmd .write t (.register x) d) s = .next (status (setDbgReg w p x d.toNat) .ok) ∧
          exec (.zdpCmd .read t (.register x) d) s = .next (reads { w with freeIx := s.freeIx + 1 } (dbgReg w p x))) ∧
      (∀ t x v, dbgReg (setDbgReg s t x v) t x = v) ∧
      (∀ t, (t = .range ∨ ∃ c, t = .core c) → exec (.zdpCmd .halt t a d) s = .next refused ∧ exec (.zdpCmd .step t a d) s = .next refused ∧
        exec (.zdpCmd .breakpoint t a d) s = .next refused) ∧
      (∀ o, exec (.zdpCmd .read .mgmt (.bar0 o) d) s = .next (reads w (readBar0 w o).toNat) ∧ exec (.zdpCmd .read .mgmt (.nor o) d) s = .next (reads w (norByte w o))) ∧
      (∀ r, r < 256 → exec (.zdpCmd .read (.ringCp r) .ring d) s = .next (reads w (stsRing s r).toNat)) ∧
      (∀ c, coreAtStop s c = true →
        let k := coreOf s c
        let shows (x : ZdpAddr) (v : Nat) : Prop := exec (.zdpCmd .read (.core c) x d) s = .next (reads { w with freeIx := s.freeIx + 1 } v)
        (∀ i, shows (.s i) (getS k i).toNat) ∧ shows .p k.pr.toNat ∧ (∀ i, shows (.a i) (getA k i).toNat) ∧ (∀ i, shows (.v i) (getV k i.toNat).toNat) ∧
        (∀ i, i < 256 → shows (.flag i) (if flagOf k i then 1 else 0)) ∧
        (∀ i j, i < 16 → j < 16 → rowDefined (tileOf k i) j = true → shows (.tile i j) (tget zeroL (tileOf k i).rows j).toNat) ∧
        exec (.zdpCmd .resume (.core c) a d) s = .next (status (resumeCore w c) .ok) ∧
        exec (.zdpCmd .write (.core c) a d) s = .next refused) ∧
      (∀ c, coreAtStop s c = false → exec (.zdpCmd .read (.core c) a d) s = .next refused ∧ exec (.zdpCmd .resume (.core c) a d) s = .next refused) ∧
      ∀ l, (2 ^ 34 ≤ l → exec (.zdpCmd .read .range (.line l) d) s = .next (status w .range) ∧ exec (.zdpCmd .write .range (.line l) d) s = .next (status w .range)) ∧
        (l < 2 ^ 34 → hostHolds s l = false →
          (mapped s (blockOfLine l) = true → exec (.zdpCmd .read .range (.line l) d) s = .next (reads w (readLine s l).toNat)) ∧
          (mapped s (blockOfLine l) = true → (dirOf s (blockOfLine l)).mig = false →
            ∃ t, exec (.zdpCmd .write .range (.line l) d) s = .next t ∧ readLine t l = d ∧ t.sec.lastStatus = 0 ∧ t.cores = s.cores ∧
              ∀ b, (b < 64 * l ∨ 64 * l + 64 ≤ b) → tget zeroB t.m.mem b = tget zeroB s.m.mem b) ∧
          ((dirOf s (blockOfLine l)).mig = true → exec (.zdpCmd .write .range (.line l) d) s = .next (waits w .write l d)) ∧
          (mapped s (blockOfLine l) = false → exec (.zdpCmd .read .range (.line l) d) s = .next (status w .page) ∧
            ((dirOf s (blockOfLine l)).mig = false → exec (.zdpCmd .write .range (.line l) d) s = .next (status w .page)))) ∧
        (l < 2 ^ 34 → hostHolds s l = true → exec (.zdpCmd .read .range (.line l) d) s = .next (waits (sendBisnp w l) .read l 0) ∧
          exec (.zdpCmd .write .range (.line l) d) s = .next (waits (sendBisnp w l) .write l d))) ∧
    (let gives (l : List Nat) : State := { s with resp := .smbus l }
     exec .smbusPartNumber s = .next (gives ((partNumber s ++ List.replicate 32 0).take 32)) ∧
     exec .smbusSerial s = .next (gives ((List.range 16).map (fun i => s.nv.serial.toNat / 2 ^ (8 * i) % 256))) ∧
     exec .smbusTopState s =
       .next (gives ((List.range 4).map (fun i => (s.pw.top + 4 * (if s.pw.topUnknown then 1 else 0) + 8 * s.pw.st) / 2 ^ (8 * i) % 256))) ∧
     exec .smbusPower s = .next (gives ((List.range 4).map (fun i => (s.pw.inputW + 65536 * limitW s) / 2 ^ (8 * i) % 256))) ∧
     ∀ v, exec (.smbusThermal v) s = .next (gives [min 255 s.pw.tj, v % 256]))

/-! ### Registers -/

/-- BAR0. A write of 4 or 8 bytes changes the RW bits of its words and nothing else, and a read-only register not at all (R616, R761). Writing 1 clears W1C bits (R513, R642, R765). Words 0 to 2 of a
ring change while EN is 0; EN enables or disables it (R620, R628). EN of a port trains it or takes it DOWN (R566). GO of CFG_FW_UPDATE starts an update, and is
ignored while one is BUSY (R684). A vector that is unmasked while pending is sent (R770). EN and POST_CF of CFG_TSTRIP withdraw and place the pending wait (R586). Another
access is an Unsupported Request, and a unit without power ignores writes (R616, R649, R766). -/
def Obligations.RegisterWrites : Prop :=
  ∀ s : State,
    (barOpen s = true →
      (∀ o z v, accessOk o z = true → unpowered s o = true → exec (.registerWrite o z v) s = .next s) ∧
      (∀ o z v, accessOk o z = false → exec (.registerWrite o z v) s = .next s ∧ ∀ w, exec (.bar0UnsupportedAccess o z w) s = .next { s with resp := .unsupported }) ∧
      (∀ o z w, accessOk o z = true → exec (.bar0UnsupportedAccess o z w) s = .next s) ∧
      (∀ (o : Nat) (v : BitVec 64), accessOk o 4 = true → unpowered s o = false → o ≠ 0x14 → o ≠ 0x68 → o ≠ 0x74 → o ≠ 0x12C → o ≠ 0x140 → o ≠ 0x144 →
        (o < 0x1000 ∨ (0x2800 ≤ o ∧ o < 0x4000) ∨ (0x6000 ≤ o ∧ o < 0x100000)) →
        exec (.registerWrite o 4 v) s = .next (setReg32 s o ((reg32 s o &&& ~~~ rwMask s o) ||| (v.setWidth 32 &&& rwMask s o)))) ∧
      (∀ (o : Nat) (v : BitVec 64), accessOk o 8 = true → unpowered s o = false → o ≠ 0x10 → o ≠ 0x68 → o ≠ 0x70 → o ≠ 0x128 → o ≠ 0x140 →
        (o < 0x1000 ∨ (0x2800 ≤ o ∧ o < 0x4000) ∨ (0x6000 ≤ o ∧ o < 0x100000)) →
        ∃ t, exec (.registerWrite o 8 v) s = .next t ∧ OnlyFabric s t ∧ t.sh = s.sh ∧ t.fb = s.fb ∧ t.bu = s.bu ∧
          reg32 t o = ((reg32 s o &&& ~~~ rwMask s o) ||| (v.setWidth 32 &&& rwMask s o)) ∧
          reg32 t (o + 4) = ((reg32 s (o + 4) &&& ~~~ rwMask s (o + 4)) ||| ((v >>> 32).setWidth 32 &&& rwMask s (o + 4))) ∧
          ∀ x, x / 4 ≠ o / 4 → x / 4 ≠ o / 4 + 1 → reg32 t x = reg32 s x) ∧
      (∀ v, exec (.w1cWrite 0x68 v) s = .next { s with cm := { s.cm with event := s.cm.event &&& ~~~ (v.setWidth 6) } }) ∧
      (∀ v, unpowered s 0x128 = false →
        (v.getLsbD 63 = true → exec (.w1cWrite 0x128 v) s = .next { s with sh := { s.sh with err := putBit s.sh.err 63 false } }) ∧
        (v.getLsbD 63 = false → exec (.w1cWrite 0x128 v) s = .next s)) ∧
      (∀ o v, o ≠ 0x68 → o ≠ 0x128 → o ≠ 0x64 → o ≠ 0x12C → exec (.w1cWrite o v) s = .next s) ∧
      (∀ (r : Nat) (v : BitVec 64), r < 256 →
        let o := 0x4000 + 32 * r
        let en := (reg64 s (o + 24)).getLsbD 63
        (en = false → v.getLsbD 63 = true →
          let w := v &&& 0xFFFF00000000001F
          exec (.registerWrite (o + 24) 8 v) s = exec (.ringEnable r w) (setReg64 s (o + 24) (putBit w 63 false))) ∧
        (en = true → v.getLsbD 63 = false → exec (.registerWrite (o + 24) 8 v) s = exec (.ringDisable r) s) ∧
        (en = true → ∀ k, k < 6 → exec (.registerWrite (o + 4 * k) 4 v) s = .next s) ∧
        (en = false → ∀ k, k < 6 → ∃ t, exec (.registerWrite (o + 4 * k) 4 v) s = .next t ∧ OnlyFabric s t ∧ t.cm.rings = s.cm.rings ∧
          reg32 t (o + 4 * k) = (v.setWidth 32 &&& if k % 2 = 1 then 0x000FFFFF else if k = 4 then 0xFFFFFFF8 else 0xFFFFF000))) ∧
      (∀ (p : Nat) (v : BitVec 64), p < 32 → unpowered s (0x2100 + 4 * p) = false →
        (portPresent s p = false → exec (.registerWrite (0x2100 + 4 * p) 4 v) s = .next s) ∧
        (portPresent s p = true → v.getLsbD 0 = true → portEn s p = false → s.bu.rails = 6 → (portOf s p).st = .down →
          ∃ t, exec (.registerWrite (0x2100 + 4 * p) 4 v) s = .next t ∧ portEn t p = true ∧ x4Ok t p = v.getLsbD 3 ∧ (portOf t p).st = .training ∧ OnlyFabric s t ∧
            ∀ q, q ≠ p → portOf t q = portOf s q) ∧
        (portPresent s p = true → v.getLsbD 0 = false →
          ∃ t, exec (.registerWrite (0x2100 + 4 * p) 4 v) s = .next t ∧ portEn t p = false ∧ (portOf t p).st = .down ∧ OnlyFabric s t)) ∧
      (∀ v : BitVec 64,
        (s.sec.fwState = 1 → ∃ t, exec (.registerWrite 0x14 4 v) s = .next t ∧ t.sec = s.sec ∧ (reg64 t 0x10).getLsbD 63 = (reg64 s 0x10).getLsbD 63 ∧ OnlyFabric s t) ∧
        (s.sec.fwState ≠ 1 → v.getLsbD 31 = true → inRecovery s = false →
          ∃ t, exec (.registerWrite 0x14 4 v) s = .next t ∧ t.sec = { s.sec with fwState := 1 } ∧ (reg64 t 0x10).getLsbD 63 = true ∧ OnlyFabric s t)) ∧
      (∀ (n : Nat) (v : BitVec 64), n < 64 → v.getLsbD 0 = false →
        (s.cm.msixPend.getLsbD n = true → ∃ t, exec (.registerWrite (0x1000 + 16 * n + 12) 4 v) s = .next t ∧ t.cm.msixPend.getLsbD n = false ∧
          counter t 63 = satInc (counter s 63) 1 ∧ (∀ k, k ≠ n → t.cm.msixPend.getLsbD k = s.cm.msixPend.getLsbD k) ∧ OnlyFabric s t) ∧
        (s.cm.msixPend.getLsbD n = false → ∃ t, exec (.registerWrite (0x1000 + 16 * n + 12) 4 v) s = .next t ∧ t.cm.msixPend = s.cm.msixPend ∧
          t.cm.counters = s.cm.counters ∧ OnlyFabric s t))) ∧
    (barOpen s = false → ∀ o z v, exec (.registerWrite o z v) s = .next s ∧ exec (.w1cWrite o v) s = .next s) ∧
    (s.pw.off = false → ∀ v : BitVec 64,
      let u := setReg64 s 0x140 (v &&& 0xE0FFFFFFFFFFF000)
      let rest := s.sh.waiters.filter (fun w => w.who != .tstrip)
      let cf := field64 v 23 12
      (v.getLsbD 63 = false → exec (.tstripConfigWrite v) s = .next { u with sh := { u.sh with waiters := rest } }) ∧
      (v.getLsbD 63 = true → (reg64 s 0x140).getLsbD 63 = false → s.sh.cf.getLsbD cf = false →
        exec (.tstripConfigWrite v) s = .next { u with sh := { u.sh with waiters := rest ++ [⟨.tstrip, .chip cf⟩] } }) ∧
      (v.getLsbD 63 = true → (reg64 s 0x140).getLsbD 63 = false → s.sh.cf.getLsbD cf = true →
        ∃ t, exec (.tstripConfigWrite v) s = .next t ∧ t.sh.cf.getLsbD cf = false ∧ t.sh.waiters = rest ++ [⟨.tstrip, .chip cf⟩] ∧ t.cores = s.cores ∧ t.m.mem = s.m.mem) ∧
      (v.getLsbD 63 = true → (reg64 s 0x140).getLsbD 63 = true → field64 (reg64 s 0x140) 23 12 = cf → stripWaits s = true →
        exec (.tstripConfigWrite v) s = .next u))

/-! ### Blocks that rest -/

/-- Work that reaches a resting block is held and wakes the device: while the unit of a command's opcode rests, each of its rows only wakes (R721, R728);
so does an access or an atomic at a slice, a narrow access at a base die, and an operation at a flag's holder. A core that rests issues no bundle and its
matrix unit starts nothing (R712). In C1, C2 and C3 every block of the compute dies rests; during an entry a block rests from its ACK on. A wake in
C1, C2 or C3 begins the exit, and during an entry it is kept. That an event of a core waits for its core is the model's choice (log 53). -/
def Obligations.RestingBlocksHoldWork : Prop :=
  ∀ s : State,
    (∀ (r i : Nat) (m : Cmd), cmdOf s r i = some m → m.phase = .ready → unitRests s (dOpcode m.desc) = true →
      let waits (c : Instr) : Prop := exec c s = .next (wakeUp s)
      (dOpcode m.desc = 0x10 → waits (.loadProgram r i)) ∧ (dOpcode m.desc = 0x11 → waits (.launch r i)) ∧
      (dOpcode m.desc = 0x20 → waits (.move r i)) ∧ (dOpcode m.desc = 0x21 → waits (.gather r i)) ∧ (dOpcode m.desc = 0x22 → waits (.scatter r i)) ∧
      (dOpcode m.desc = 0x30 → waits (.placeMap r i) ∧ waits (.placeAttr r i) ∧ waits (.placeUnmap r i)) ∧
      (dOpcode m.desc = 0x31 → waits (.pinSet r i) ∧ waits (.pinClear r i)) ∧
      (dOpcode m.desc = 0x41 → waits (.reduceRun r i) ∧ waits (.reduceDefine r i) ∧ waits (.reduceRelease r i)) ∧
      (dOpcode m.desc = 0x42 → waits (.updateStep r i) ∧ waits (.updateDefine r i) ∧ waits (.updateModify r i) ∧ waits (.updateRelease r i)) ∧
      (dOpcode m.desc = 0x43 → waits (.checkpoint r i)) ∧ (dOpcode m.desc = 0x44 → waits (.restore r i))) ∧
    (∀ who line kind err, sliceRests s line = true → exec (.carafeAccess who line kind err) s = .next (wakeUp s)) ∧
    (∀ line ty mask data, sliceRests s line = true → exec (.atomicPerform (.mover line ty mask data)) s = .next (wakeUp s)) ∧
    (∀ c id q, reqOf (coreOf s c) id = some q → sliceRests s (lineOf q.addr) = true → exec (.atomicPerform (.core c id)) s = .next (wakeUp s)) ∧
    (∀ p addr n d, baseRests s p = true → exec (.narrowAccess p addr n d) s = .next (wakeUp s)) ∧
    (∀ f, nextMsg s f ≠ none → blockRests s (holderBlock f) = true → exec (.flagOpApply f) s = .next (wakeUp s)) ∧
    (∀ c, blockRests s c = true →
      (∀ x, (coreOf s c).rep = none → (coreOf s c).twin = false → exec (.bundleIssue c x) s = .next s) ∧
      exec (.mmulCollectionStart c) s = .next s ∧ exec (.mmulComputeStart c) s = .next s ∧ ∀ id, exec (.mdrainStart c id) s = .next s) ∧
    ((s.pw.st = 1 ∨ s.pw.st = 2 ∨ s.pw.st = 3) → (∀ b, blockRests s b = true) ∧
      (wakeUp s).pw.st = 5 ∧ (wakeUp s).pw.next = 0 ∧ (wakeUp s).pw.prev = s.pw.st ∧ OnlyFabric s (wakeUp s)) ∧
    (s.pw.st = 4 → (wakeUp s).pw.wake = true ∧ (wakeUp s).pw.st = 4 ∧
      ∀ b, b / 4096 < 6 → tierOfBlock b = s.pw.tier → (blockRests s b = true ↔ s.pw.asked.contains b = false ∨ s.pw.committed = true)) ∧
    (s.pw.st = 0 → wakeUp s = s ∧ ∀ b, blockRests s b = false)
end

