-- ==== Sys2Proof/Laws/Table.lean ====
section
/-!
SUPPORT. What sparse tables do: reading after writing, and the canonical form. The laws of reading hold of every list; only the
canonical form needs it.
-/
namespace Sys2Proof.Machine

variable {α : Type}

theorem tget_tdel (d : Nat → α) (t : Table α) (k i : Nat) : tget d (tdel t k) i = if i = k then d i else tget d t i := by
  induction t with
  | nil => simp [tdel, tget]
  | cons e t ih =>
    obtain ⟨j, x⟩ := e
    by_cases h : j = k
    · subst h
      by_cases h2 : j = i <;> simp_all [tdel, tget]
    · by_cases h2 : j = i <;> simp_all [tdel, tget]

theorem tget_tins (d : Nat → α) (t : Table α) (k i : Nat) (v : α) (h : ∀ e ∈ t, e.1 ≠ k) :
    tget d (tins t k v) i = if i = k then v else tget d t i := by
  induction t with
  | nil => simp [tins, tget, eq_comm]
  | cons e t ih =>
    obtain ⟨j, x⟩ := e
    have hj : j ≠ k := h (j, x) (by simp)
    have ht : ∀ e ∈ t, e.1 ≠ k := fun e he => h e (by simp [he])
    unfold tins
    split
    · by_cases h2 : k = i <;> simp [tget, h2, eq_comm]
    · by_cases h2 : j = i
      · subst h2; simp [tget, hj]
      · simp [tget, h2, ih ht]

/-- Reading a key after writing a key: the value written there, and every other key as before. -/
theorem tget_tset [DecidableEq α] (d : Nat → α) (t : Table α) (k i : Nat) (v : α) :
    tget d (tset d t k v) i = if i = k then v else tget d t i := by
  unfold tset
  split
  · rename_i h
    rw [tget_tdel]; split <;> simp_all
  · rw [tget_tins, tget_tdel]
    · by_cases h : i = k <;> simp [h]
    · simp [tdel]

@[simp] theorem tget_tset_same [DecidableEq α] (d : Nat → α) (t : Table α) (k : Nat) (v : α) : tget d (tset d t k v) k = v := by
  simp [tget_tset]

theorem tget_tset_ne [DecidableEq α] (d : Nat → α) (t : Table α) {k i : Nat} (v : α) (h : i ≠ k) :
    tget d (tset d t k v) i = tget d t i := by
  simp [tget_tset, h]

theorem tdel_tdel (t : Table α) (k : Nat) : tdel (tdel t k) k = tdel t k := by simp [tdel]

theorem tdel_tins (t : Table α) (k : Nat) (v : α) : tdel (tins t k v) k = tdel t k := by
  induction t with
  | nil => simp [tdel, tins]
  | cons e t ih =>
    obtain ⟨j, x⟩ := e
    unfold tins
    split
    · simp [tdel]
    · simp only [tdel, List.filter_cons] at *
      rw [ih]

/-- Of two writes of one key the second stands. -/
theorem tset_tset [DecidableEq α] (d : Nat → α) (t : Table α) (k : Nat) (v w : α) : tset d (tset d t k v) k w = tset d t k w := by
  have h : tdel (tset d t k v) k = tdel t k := by
    unfold tset
    split
    · exact tdel_tdel _ _
    · rw [tdel_tins, tdel_tdel]
  unfold tset at *
  rw [h]

theorem tget_tclear (d : Nat → α) (t : Table α) (p : Nat → Bool) (i : Nat) :
    tget d (tclear t p) i = if p i then d i else tget d t i := by
  induction t with
  | nil => simp [tclear, tget]
  | cons e t ih =>
    obtain ⟨j, x⟩ := e
    by_cases h2 : j = i
    · subst h2
      by_cases h : p j <;> simp_all [tclear, tget]
    · by_cases h : p j <;> simp_all [tclear, tget]

/-! ### The canonical form -/

theorem twfFrom_mono [DecidableEq α] (d : Nat → α) {lo lo' : Nat} (h : lo' ≤ lo) {t : Table α} (w : twfFrom d lo t = true) :
    twfFrom d lo' t = true := by
  cases t with
  | nil => rfl
  | cons e t => obtain ⟨j, x⟩ := e; simp [twfFrom] at *; exact ⟨⟨by omega, w.1.2⟩, w.2⟩

theorem twfFrom_filter [DecidableEq α] (d : Nat → α) (p : Nat × α → Bool) :
    ∀ (t : Table α) (lo : Nat), twfFrom d lo t = true → twfFrom d lo (t.filter p) = true
  | [], _, _ => rfl
  | (j, x) :: t, lo, w => by
    simp only [twfFrom, Bool.and_eq_true, decide_eq_true_eq] at w
    have r := twfFrom_filter d p t (j + 1) w.2
    cases hp : p (j, x)
    · simp only [List.filter_cons, hp]; exact twfFrom_mono d (by omega) r
    · simp only [List.filter_cons, hp]; simp [twfFrom, w.1, r]

theorem twfFrom_tins [DecidableEq α] (d : Nat → α) (k : Nat) (v : α) (hv : v ≠ d k) :
    ∀ (t : Table α) (lo : Nat), lo ≤ k → twfFrom d lo t = true → (∀ e ∈ t, e.1 ≠ k) → twfFrom d lo (tins t k v) = true
  | [], lo, hk, _, _ => by simp [tins, twfFrom, hk, hv]
  | (j, x) :: t, lo, hk, w, hn => by
    simp only [twfFrom, Bool.and_eq_true, decide_eq_true_eq] at w
    have hj : j ≠ k := hn (j, x) (by simp)
    unfold tins
    split
    · simp [twfFrom, hk, hv, w.1.2, w.2]; omega
    · have r := twfFrom_tins d k v hv t (j + 1) (by omega) w.2 (fun e he => hn e (by simp [he]))
      simp [twfFrom, w.1, r]

theorem twf_tset [DecidableEq α] (d : Nat → α) (t : Table α) (k : Nat) (v : α) (w : twf d t = true) : twf d (tset d t k v) = true := by
  unfold tset
  split
  · exact twfFrom_filter d _ t 0 w
  · rename_i h
    exact twfFrom_tins d k v h _ 0 (by omega) (twfFrom_filter d _ t 0 w) (by simp [tdel])

theorem twf_tclear [DecidableEq α] (d : Nat → α) (t : Table α) (p : Nat → Bool) (w : twf d t = true) : twf d (tclear t p) = true :=
  twfFrom_filter d _ t 0 w

end Sys2Proof.Machine
end

