-- ==== Sys2Proof/Laws/Kept.lean ====
section
/-!
SUPPORT. What every operation keeps (`Kept`): the queue, the fuses and used indices, and the canonical form of memory.
-/
namespace Sys2Proof.Machine

set_option linter.unusedTactic false
set_option linter.unreachableTactic false

/-- From `a` to `t`, the queue is the same, fuses and used indices stay, and memory keeps its canonical form. -/
def Kept (a t : State) : Prop := t.pending = a.pending ∧ NvLater a.nv t.nv ∧ (Memory.wf a.m = true → Memory.wf t.m = true)

theorem nvLater_refl (a : Nv) : NvLater a a :=
  ⟨Nat.le_refl _, id, id, id, fun j => ⟨j, fun n h => ⟨n, h, Nat.le_refl _⟩⟩, fun j => ⟨j, fun n h => ⟨n, h, Nat.le_refl _⟩⟩⟩

/-- A journal that stays as it is. -/
theorem prod_refl (j : Journal) (w : JournalOk j) : JournalOk j ∧ ∀ n, j.next = some n → ∃ m, j.next = some m ∧ m ≤ n :=
  ⟨w, fun n k => ⟨n, k, Nat.le_refl _⟩⟩
theorem dbg_refl (j : Journal) (w : JournalOk j) : JournalOk j ∧ ∀ n, j.next = some n → ∃ m, j.next = some m ∧ n ≤ m :=
  ⟨w, fun n k => ⟨n, k, Nat.le_refl _⟩⟩

/-- The fields of a journal entry with CRC `c` (R689). -/
theorem entry_crc (n c : Nat) (h : n < 2 ^ 32) : (n + (2 ^ 32 - 1 - n) * 2 ^ 32 + c * 2 ^ 96) % 2 ^ 96 = n + (2 ^ 32 - 1 - n) * 2 ^ 32 := by omega
theorem entry_fields (n c : Nat) (h : n < 2 ^ 32) :
    (n + (2 ^ 32 - 1 - n) * 2 ^ 32 + c * 2 ^ 96) % 2 ^ 32 = n ∧ (n + (2 ^ 32 - 1 - n) * 2 ^ 32 + c * 2 ^ 96) / 2 ^ 32 % 2 ^ 32 = 2 ^ 32 - 1 - n ∧
      (n + (2 ^ 32 - 1 - n) * 2 ^ 32 + c * 2 ^ 96) / 2 ^ 96 = c := by
  obtain ⟨m, hm⟩ : ∃ m, 2 ^ 32 - 1 - n = m := ⟨_, rfl⟩
  simp only [hm, Nat.reducePow] at *
  have hb : (n + m * 4294967296 + c * 79228162514264337593543950336) / 4294967296 = m + c * 18446744073709551616 := by omega
  refine ⟨by omega, ?_, by omega⟩
  rw [hb]
  omega

theorem entryIndex_of (w n c : Nat) (a : w % 2 ^ 32 = n) (b : w / 2 ^ 32 % 2 ^ 32 = 2 ^ 32 - 1 - n) (d : w / 2 ^ 96 = c)
    (e : crc32 12 (w % 2 ^ 96) = c) : entryIndex w = some n := by
  unfold entryIndex
  rw [a, b, d, e, if_pos ⟨rfl, rfl⟩]

/-- An entry of an index below 2³² is valid and gives it back (R689). -/
theorem entryIndex_journalEntry (n : Nat) (h : n < 2 ^ 32) : entryIndex (journalEntry n) = some n := by
  have e : n % 2 ^ 32 = n := Nat.mod_eq_of_lt h
  have j : journalEntry n = n + (2 ^ 32 - 1 - n) * 2 ^ 32 + crc32 12 (n + (2 ^ 32 - 1 - n) * 2 ^ 32) * 2 ^ 96 := by
    unfold journalEntry
    simp only [e]
  rw [j]
  obtain ⟨a, b, d⟩ := entry_fields n (crc32 12 (n + (2 ^ 32 - 1 - n) * 2 ^ 32)) h
  exact entryIndex_of _ _ _ a b d (by rw [entry_crc n _ h])

theorem indexes_append (j : Journal) (n p : Nat) (h : n < 2 ^ 32) :
    indexes { j with cells := j.cells ++ [(p, journalEntry n)] } = indexes j ++ [n] := by
  have e : [(p, journalEntry n)].filterMap (fun c => entryIndex c.2) = [n] := by
    exact List.filterMap_cons_some (f := fun c : Nat × Nat => entryIndex c.2) (a := (p, journalEntry n)) (entryIndex_journalEntry n h)
  exact (List.filterMap_append ..).trans (congrArg _ e)

/-- The largest of numbers below `n` and `n` itself. -/
theorem max_append (l : List Nat) (n : Nat) (h : ∀ b ∈ l, b ≤ n) : (l ++ [n]).max? = some n := by
  rw [List.max?_eq_some_iff]
  refine ⟨by simp, fun b hb => ?_⟩
  rcases List.mem_append.mp hb with hb | hb
  · exact h b hb
  · exact Nat.le_of_eq (List.mem_singleton.mp hb)

/-- Once the entry of its next index is stored, a journal's next index is the one after it (R689, R690). -/
theorem nextIndex_append (j : Journal) (n p : Nat) (w : nextIndex j = some n ∨ (nextIndex j = none ∧ n = 0)) (h : n < 2 ^ 32) :
    nextIndex { j with cells := j.cells ++ [(p, journalEntry n)] } = some (n + 1) := by
  have b : ∀ b ∈ indexes j, b ≤ n := by
    intro b hb
    unfold nextIndex at w
    rcases w with w | ⟨w, -⟩
    · obtain ⟨m, hm, e⟩ := Option.map_eq_some_iff.mp w
      have := (List.max?_eq_some_iff.mp hm).2 b hb
      omega
    · rw [List.max?_eq_none_iff.mp (Option.map_eq_none_iff.mp w)] at hb
      cases hb
  unfold nextIndex
  rw [indexes_append j n p h, max_append _ _ b]
  rfl

theorem nvLater_trans {a b c : Nv} (h : NvLater a b) (k : NvLater b c) : NvLater a c where
  svn := Nat.le_trans h.svn k.svn
  eraseStarted := fun x => k.eraseStarted (h.eraseStarted x)
  debugOpened := fun x => k.debugOpened (h.debugOpened x)
  seedBlown := fun x => k.seedBlown (h.seedBlown x)
  prod := fun j => by
    obtain ⟨j1, h1⟩ := h.prod j
    obtain ⟨j2, h2⟩ := k.prod j1
    refine ⟨j2, fun n e => ?_⟩
    obtain ⟨m, e1, l1⟩ := h2 n e
    obtain ⟨p, e2, l2⟩ := h1 m e1
    exact ⟨p, e2, Nat.le_trans l2 l1⟩
  dbgJournal := fun j => by
    obtain ⟨j1, h1⟩ := h.dbgJournal j
    obtain ⟨j2, h2⟩ := k.dbgJournal j1
    refine ⟨j2, fun n e => ?_⟩
    obtain ⟨m, e1, l1⟩ := h1 n e
    obtain ⟨p, e2, l2⟩ := h2 m e1
    exact ⟨p, e2, Nat.le_trans l1 l2⟩

theorem kept_refl (a : State) : Kept a a := ⟨rfl, nvLater_refl _, id⟩

theorem kept_trans {a b c : State} (h : Kept a b) (k : Kept b c) : Kept a c :=
  ⟨k.1.trans h.1, nvLater_trans h.2.1 k.2.1, fun w => k.2.2 (h.2.2 w)⟩

/-- A new state whose queue, fuses and memory bytes are those of a state that keeps them. -/
theorem kept_mk {a s : State} {fit : Fit} {cores : Table Core} {sh : Shutter} {cm : Cmds} {fx : FixerSt} {fb : Fabric} {tr : Training}
    {bu : Bringup} {sec : Security} {pw : Power} {host : HostMem} {fr : Nat} {resp : Resp} (h : Kept a s) :
    Kept a ⟨s.pending, fit, cores, s.m, sh, cm, fx, fb, tr, bu, sec, s.nv, pw, host, fr, resp⟩ := h

theorem kept_mem {a s : State} {fit : Fit} {cores : Table Core} {sh : Shutter} {cm : Cmds} {fx : FixerSt} {fb : Fabric} {tr : Training}
    {bu : Bringup} {sec : Security} {pw : Power} {host : HostMem} {fr : Nat} {resp : Resp}
    {poison dir homeTab chans carafe homeWays snoop bisnp mtc dirReq dirAns moves waitMoves jobs mergeBuf stored mtcWait epochCfg interlocks snaps halfC rasLog keeps} (h : Kept a s) :
    Kept a ⟨s.pending, fit, cores, ⟨s.m.mem, poison, dir, homeTab, chans, carafe, homeWays, snoop, bisnp, mtc,
      dirReq, dirAns, moves, waitMoves, jobs, mergeBuf, stored, mtcWait, epochCfg, interlocks, snaps, halfC, rasLog, keeps⟩, sh, cm, fx, fb, tr, bu, sec, s.nv, pw, host, fr, resp⟩ := h

theorem kept_ite {a x y : State} {p : Prop} [Decidable p] (h : Kept a x) (k : Kept a y) : Kept a (if p then x else y) := by
  split <;> assumption

theorem kept_foldl {α : Type} {a s : State} (f : State → α → State) (h : Kept a s) (k : ∀ t x, Kept a t → Kept a (f t x)) (l : List α) :
    Kept a (l.foldl f s) := by
  induction l generalizing s with
  | nil => exact h
  | cons x l ih => exact ih (k s x h)

theorem kept_foldl_fst {α β : Type} {a : State} {p : State × β} (f : State × β → α → State × β) (h : Kept a p.1)
    (k : ∀ t x, Kept a t.1 → Kept a (f t x).1) (l : List α) : Kept a (l.foldl f p).1 := by
  induction l generalizing p with
  | nil => exact h
  | cons x l ih => exact ih (k p x h)

/-! ### Bytes -/

theorem twf_writeN (n a v : Nat) (m : Table Byte) (w : twf zeroB m = true) : twf zeroB (writeN m a n v) = true := by
  induction n generalizing m a v with
  | zero => exact w
  | succ n ih => exact ih _ _ _ (twf_tset _ _ _ _ w)

theorem twf_writeMasked (n a k v : Nat) (m : Table Byte) (w : twf zeroB m = true) : twf zeroB (writeMasked m a n k v) = true := by
  induction n generalizing m a k v with
  | zero => exact w
  | succ n ih =>
    unfold writeMasked
    apply ih
    split
    · exact twf_tset _ _ _ _ w
    · exact w

theorem kept_withMem {a s : State} {mem poison} (h : Kept a s) (w : Memory.wf s.m = true → twf zeroB mem = true) :
    Kept a { s with m := { s.m with mem := mem, poison := poison } } := ⟨h.1, h.2.1, fun x => w (h.2.2 x)⟩

theorem kept_writeLine {a s : State} (h : Kept a s) (l : Nat) (v : Line) : Kept a (writeLine s l v) :=
  kept_withMem h (twf_writeN _ _ _ _)

theorem kept_poisonLine {a s : State} (h : Kept a s) (l : Nat) : Kept a (poisonLine s l) :=
  kept_withMem h (twf_writeN _ _ _ _)

end Sys2Proof.Machine
end

