-- ==== Sys2Proof/Laws/KeptCore.lean ====
section
/-!
SUPPORT. The operations over the state and the instructions of a core: each keeps the queue, the fuses and used indices, and the canonical form of memory.
-/
namespace Sys2Proof.Machine

set_option linter.unusedTactic false
set_option linter.unreachableTactic false

theorem kept_setCore {z : State} (s : State) (c : Nat) (k : Core) (hz : Kept z s) : Kept z (setCore s c k) := by
  unfold setCore
  try dsimp only
  repeat' (first | (intro _) | with_reducible assumption | with_reducible apply kept_ite | (with_reducible first | apply kept_mk | apply kept_mem); first | (intro _) | with_reducible assumption | with_reducible apply kept_ite | split)

theorem kept_updCore {z : State} (s : State) (c : Nat) (f : Core → Core) (hz : Kept z s) : Kept z (updCore s c f) := by
  unfold updCore
  try dsimp only
  repeat' (first | (intro _) | with_reducible assumption | with_reducible apply kept_ite | with_reducible apply kept_setCore | (with_reducible first | apply kept_mk | apply kept_mem); first | (intro _) | with_reducible assumption | with_reducible apply kept_ite | with_reducible apply kept_setCore | split)

theorem kept_writeBytes {z : State} (s : State) (a n v : Nat) (h : Kept z s) : Kept z (writeBytes s a n v) := by
  unfold writeBytes
  split
  · exact kept_writeLine h _ _
  · split
    · exact h
    · exact kept_withMem h (twf_writeN _ _ _ _)

theorem kept_writeLineMasked {z : State} (s : State) (l : Nat) (mask : BitVec 64) (v : Line) (h : Kept z s) : Kept z (writeLineMasked s l mask v) := by
  unfold writeLineMasked
  split
  · exact kept_writeLine h _ _
  · split
    · exact h
    · exact kept_withMem h (twf_writeMasked _ _ _ _ _)

theorem kept_writeLineP {z : State} (s : State) (l : Nat) (v : Line) (p : Bool) (h : Kept z s) : Kept z (writeLineP s l v p) := by
  cases p
  · exact kept_writeLine h _ _
  · exact kept_poisonLine h _

theorem kept_setReg32 {z : State} (s : State) (off : Nat) (v : Word) (hz : Kept z s) : Kept z (setReg32 s off v) := by
  unfold setReg32
  try dsimp only
  repeat' (first | (intro _) | with_reducible assumption | with_reducible apply kept_ite | (with_reducible first | apply kept_mk | apply kept_mem); first | (intro _) | with_reducible assumption | with_reducible apply kept_ite | split)

theorem kept_setReg64 {z : State} (s : State) (off : Nat) (v : BitVec 64) (hz : Kept z s) : Kept z (setReg64 s off v) := by
  unfold setReg64
  try dsimp only
  repeat' (first | (intro _) | with_reducible assumption | with_reducible apply kept_ite | with_reducible apply kept_setReg32 | (with_reducible first | apply kept_mk | apply kept_mem); first | (intro _) | with_reducible assumption | with_reducible apply kept_ite | with_reducible apply kept_setReg32 | split)

theorem kept_bump {z : State} (s : State) (ix n : Nat) (hz : Kept z s) : Kept z (bump s ix n) := by
  unfold bump
  try dsimp only
  repeat' (first | (intro _) | with_reducible assumption | with_reducible apply kept_ite | (with_reducible first | apply kept_mk | apply kept_mem); first | (intro _) | with_reducible assumption | with_reducible apply kept_ite | split)

theorem kept_bumpIf {z : State} (b : Bool) (s : State) (ix n : Nat) (hz : Kept z s) : Kept z (bumpIf b s ix n) := by
  unfold bumpIf
  try dsimp only
  repeat' (first | (intro _) | with_reducible assumption | with_reducible apply kept_ite | with_reducible apply kept_bump | (with_reducible first | apply kept_mk | apply kept_mem); first | (intro _) | with_reducible assumption | with_reducible apply kept_ite | with_reducible apply kept_bump | split)

theorem kept_bumpEv {z : State} (s : State) (base : Nat) (e : Ev) (hz : Kept z s) : Kept z (bumpEv s base e) := by
  unfold bumpEv
  try dsimp only
  repeat' (first | (intro _) | with_reducible assumption | with_reducible apply kept_ite | with_reducible apply kept_bumpIf | (with_reducible first | apply kept_mk | apply kept_mem); first | (intro _) | with_reducible assumption | with_reducible apply kept_ite | with_reducible apply kept_bumpIf | split)

theorem kept_nextFree {z : State} (s : State) (hz : Kept z s) : Kept z (nextFree s) := by
  unfold nextFree
  try dsimp only
  repeat' (first | (intro _) | with_reducible assumption | with_reducible apply kept_ite | (with_reducible first | apply kept_mk | apply kept_mem); first | (intro _) | with_reducible assumption | with_reducible apply kept_ite | split)

theorem kept_setDir {z : State} (s : State) (b : Nat) (e : DirEntry) (hz : Kept z s) : Kept z (setDir s b e) := by
  unfold setDir
  try dsimp only
  repeat' (first | (intro _) | with_reducible assumption | with_reducible apply kept_ite | (with_reducible first | apply kept_mk | apply kept_mem); first | (intro _) | with_reducible assumption | with_reducible apply kept_ite | split)

theorem kept_setChan {z : State} (s : State) (stack ch : Nat) (x : Chan) (hz : Kept z s) : Kept z (setChan s stack ch x) := by
  unfold setChan
  try dsimp only
  repeat' (first | (intro _) | with_reducible assumption | with_reducible apply kept_ite | (with_reducible first | apply kept_mk | apply kept_mem); first | (intro _) | with_reducible assumption | with_reducible apply kept_ite | split)

theorem kept_setPlace {z : State} (s : State) (b : Nat) (p : Place) (hz : Kept z s) : Kept z (setPlace s b p) := by
  unfold setPlace
  try dsimp only
  repeat' (first | (intro _) | with_reducible assumption | with_reducible apply kept_ite | with_reducible apply kept_setDir | (with_reducible first | apply kept_mk | apply kept_mem); first | (intro _) | with_reducible assumption | with_reducible apply kept_ite | with_reducible apply kept_setDir | split)

theorem kept_setPort {z : State} (s : State) (p : Nat) (x : Port) (hz : Kept z s) : Kept z (setPort s p x) := by
  unfold setPort
  try dsimp only
  repeat' (first | (intro _) | with_reducible assumption | with_reducible apply kept_ite | (with_reducible first | apply kept_mk | apply kept_mem); first | (intro _) | with_reducible assumption | with_reducible apply kept_ite | split)

theorem kept_wakeUp {z : State} (s : State) (hz : Kept z s) : Kept z (wakeUp s) := by
  unfold wakeUp
  try dsimp only
  repeat' (first | (intro _) | with_reducible assumption | with_reducible apply kept_ite | (with_reducible first | apply kept_mk | apply kept_mem); first | (intro _) | with_reducible assumption | with_reducible apply kept_ite | split)

theorem kept_creditBack {z : State} (s : State) (p v n : Nat) (hz : Kept z s) : Kept z (creditBack s p v n) := by
  unfold creditBack
  try dsimp only
  repeat' (first | (intro _) | with_reducible assumption | with_reducible apply kept_ite | with_reducible apply kept_setPort | (with_reducible first | apply kept_mk | apply kept_mem); first | (intro _) | with_reducible assumption | with_reducible apply kept_ite | with_reducible apply kept_setPort | split)

theorem kept_freeHeld {z : State} (s : State) (k : Packet) (hz : Kept z s) : Kept z (freeHeld s k) := by
  unfold freeHeld
  try dsimp only
  repeat' (first | (intro _) | with_reducible assumption | with_reducible apply kept_ite | with_reducible apply kept_creditBack | with_reducible apply kept_setPort | (with_reducible first | apply kept_mk | apply kept_mem); first | (intro _) | with_reducible assumption | with_reducible apply kept_ite | with_reducible apply kept_creditBack | with_reducible apply kept_setPort | split)

theorem kept_keepPacket {z : State} (s : State) (p : Packet) (hz : Kept z s) : Kept z (keepPacket s p) := by
  unfold keepPacket
  try dsimp only
  repeat' (first | (intro _) | with_reducible assumption | with_reducible apply kept_ite | (with_reducible first | apply kept_mk | apply kept_mem); first | (intro _) | with_reducible assumption | with_reducible apply kept_ite | split)

theorem kept_holdPacket {z : State} (s : State) (k : Packet) (hz : Kept z s) : Kept z (holdPacket s k) := by
  unfold holdPacket
  try dsimp only
  repeat' (first | (intro _) | with_reducible assumption | with_reducible apply kept_ite | (with_reducible first | apply kept_mk | apply kept_mem); first | (intro _) | with_reducible assumption | with_reducible apply kept_ite | split)

theorem kept_enqueue {z : State} (s : State) (p : Nat) (pk : Packet) (hz : Kept z s) : Kept z (enqueue s p pk) := by
  unfold enqueue
  try dsimp only
  repeat' (first | (intro _) | with_reducible assumption | with_reducible apply kept_ite | with_reducible apply kept_setPort | (with_reducible first | apply kept_mk | apply kept_mem); first | (intro _) | with_reducible assumption | with_reducible apply kept_ite | with_reducible apply kept_setPort | split)

theorem kept_sendVia {z : State} (s : State) (p : Nat) (route : List Nat) (vc : BitVec 2) (dst tseq len : Nat) (b : Payload) (hz : Kept z s) : Kept z (sendVia s p route vc dst tseq len b) := by
  unfold sendVia
  try dsimp only
  repeat' (first | (intro _) | with_reducible assumption | with_reducible apply kept_ite | with_reducible apply kept_enqueue | (with_reducible first | apply kept_mk | apply kept_mem); first | (intro _) | with_reducible assumption | with_reducible apply kept_ite | with_reducible apply kept_enqueue | split)

theorem kept_sendOn {z : State} (s : State) (k : Nat) (vc : BitVec 2) (dst tseq len : Nat) (b : Payload) (hz : Kept z s) : Kept z (sendOn s k vc dst tseq len b) := by
  unfold sendOn
  try dsimp only
  repeat' (first | (intro _) | with_reducible assumption | with_reducible apply kept_ite | with_reducible apply kept_sendVia | (with_reducible first | apply kept_mk | apply kept_mem); first | (intro _) | with_reducible assumption | with_reducible apply kept_ite | with_reducible apply kept_sendVia | split)

theorem kept_sendFw {z : State} (s : State) (vc : BitVec 2) (dst tseq len : Nat) (b : Payload) (hz : Kept z s) : Kept z (sendFw s vc dst tseq len b) := by
  unfold sendFw
  try dsimp only
  repeat' (first | (intro _) | with_reducible assumption | with_reducible apply kept_ite | (with_reducible first | apply kept_mk | apply kept_mem); first | (intro _) | with_reducible assumption | with_reducible apply kept_ite | split)

theorem kept_sendLow {z : State} (s : State) (vc : BitVec 2) (dst tseq len : Nat) (b : Payload) (hz : Kept z s) : Kept z (sendLow s vc dst tseq len b) := by
  unfold sendLow
  try dsimp only
  repeat' (first | (intro _) | with_reducible assumption | with_reducible apply kept_ite | with_reducible apply kept_sendVia | with_reducible apply kept_sendFw | (with_reducible first | apply kept_mk | apply kept_mem); first | (intro _) | with_reducible assumption | with_reducible apply kept_ite | with_reducible apply kept_sendVia | with_reducible apply kept_sendFw | split)

theorem kept_sendSpread {z : State} (s : State) (n : Nat) (vc : BitVec 2) (dst len : Nat) (b : Payload) (hz : Kept z s) : Kept z (sendSpread s n vc dst len b) := by
  unfold sendSpread
  try dsimp only
  repeat' (first | (intro _) | with_reducible assumption | with_reducible apply kept_ite | with_reducible apply kept_sendOn | with_reducible apply kept_sendFw | (with_reducible first | apply kept_mk | apply kept_mem); first | (intro _) | with_reducible assumption | with_reducible apply kept_ite | with_reducible apply kept_sendOn | with_reducible apply kept_sendFw | split)

theorem kept_tsReport {z : State} (s : State) (c n : Nat) (hz : Kept z s) : Kept z (tsReport s c n) := by
  unfold tsReport
  try dsimp only
  repeat' (first | (intro _) | with_reducible assumption | with_reducible apply kept_ite | with_reducible apply kept_bump | (with_reducible first | apply kept_mk | apply kept_mem); first | (intro _) | with_reducible assumption | with_reducible apply kept_ite | with_reducible apply kept_bump | split)

theorem kept_sendBisnp {z : State} (s : State) (line : Nat) (hz : Kept z s) : Kept z (sendBisnp s line) := by
  unfold sendBisnp
  try dsimp only
  repeat' (first | (intro _) | with_reducible assumption | with_reducible apply kept_ite | with_reducible apply kept_bump | (with_reducible first | apply kept_mk | apply kept_mem); first | (intro _) | with_reducible assumption | with_reducible apply kept_ite | with_reducible apply kept_bump | split)

theorem kept_msixEmit {z : State} (s : State) (v : Nat) (hz : Kept z s) : Kept z (msixEmit s v) := by
  unfold msixEmit
  try dsimp only
  repeat' (first | (intro _) | with_reducible assumption | with_reducible apply kept_ite | with_reducible apply kept_bump | (with_reducible first | apply kept_mk | apply kept_mem); first | (intro _) | with_reducible assumption | with_reducible apply kept_ite | with_reducible apply kept_bump | split)

theorem kept_msixSend {z : State} (s : State) (v : Nat) (hz : Kept z s) : Kept z (msixSend s v) := by
  unfold msixSend
  try dsimp only
  repeat' (first | (intro _) | with_reducible assumption | with_reducible apply kept_ite | with_reducible apply kept_msixEmit | (with_reducible first | apply kept_mk | apply kept_mem); first | (intro _) | with_reducible assumption | with_reducible apply kept_ite | with_reducible apply kept_msixEmit | split)

theorem kept_raiseEvent {z : State} (s : State) (k : Nat) (hz : Kept z s) : Kept z (raiseEvent s k) := by
  unfold raiseEvent
  try dsimp only
  repeat' (first | (intro _) | with_reducible assumption | with_reducible apply kept_ite | with_reducible apply kept_msixSend | (with_reducible first | apply kept_mk | apply kept_mem); first | (intro _) | with_reducible assumption | with_reducible apply kept_ite | with_reducible apply kept_msixSend | split)

theorem kept_postCounts {z : State} (line : Nat) (y0 : List Nat) (y1 : State) (hz : Kept z y1) : Kept z (postCounts line y0 y1) := by
  induction y0 generalizing line y1 with
  | nil =>
    unfold postCounts
    try dsimp only
    repeat' (first | (intro _) | with_reducible assumption | with_reducible apply kept_ite | with_reducible apply kept_tsReport | (with_reducible first | apply kept_mk | apply kept_mem); first | (intro _) | with_reducible assumption | with_reducible apply kept_ite | with_reducible apply kept_tsReport | split)
  | cons y l ih =>
    unfold postCounts
    try dsimp only
    repeat' (first | with_reducible apply ih | (intro _) | with_reducible assumption | with_reducible apply kept_ite | with_reducible apply kept_tsReport | (with_reducible first | apply kept_mk | apply kept_mem); first | with_reducible apply ih | (intro _) | with_reducible assumption | with_reducible apply kept_ite | with_reducible apply kept_tsReport | split)

theorem kept_postLoss {z : State} (s : State) (line : Nat) (hz : Kept z s) : Kept z (postLoss s line) := by
  unfold postLoss
  try dsimp only
  repeat' (first | (intro _) | with_reducible assumption | with_reducible apply kept_ite | with_reducible apply kept_bumpIf | with_reducible apply kept_tsReport | (with_reducible first | apply kept_mk | apply kept_mem); first | (intro _) | with_reducible assumption | with_reducible apply kept_ite | with_reducible apply kept_bumpIf | with_reducible apply kept_tsReport | split)

theorem kept_takePost {z : State} (s : State) (hz : Kept z s) : Kept z (takePost s) := by
  unfold takePost
  try dsimp only
  repeat' (first | (intro _) | with_reducible assumption | with_reducible apply kept_ite | with_reducible apply kept_bump | with_reducible apply kept_postCounts | with_reducible apply kept_postLoss | (with_reducible first | apply kept_mk | apply kept_mem); first | (intro _) | with_reducible assumption | with_reducible apply kept_ite | with_reducible apply kept_bump | with_reducible apply kept_postCounts | with_reducible apply kept_postLoss | split)

theorem kept_stripPost {z : State} (s : State) (hz : Kept z s) : Kept z (stripPost s) := by
  unfold stripPost
  try dsimp only
  repeat' (first | (intro _) | with_reducible assumption | with_reducible apply kept_ite | with_reducible apply kept_sendBisnp | with_reducible apply kept_takePost | (with_reducible first | apply kept_mk | apply kept_mem); first | (intro _) | with_reducible assumption | with_reducible apply kept_ite | with_reducible apply kept_sendBisnp | with_reducible apply kept_takePost | split)

theorem kept_discardStep {z : State} (s : State) (hz : Kept z s) : Kept z (discardStep s) := by
  unfold discardStep
  try dsimp only
  repeat' (first | (intro _) | with_reducible assumption | with_reducible apply kept_ite | with_reducible apply kept_bump | (with_reducible first | apply kept_mk | apply kept_mem); first | (intro _) | with_reducible assumption | with_reducible apply kept_ite | with_reducible apply kept_bump | split)

theorem kept_stripSet {z : State} (s : State) (i : Nat) (hz : Kept z s) : Kept z (stripSet s i) := by
  unfold stripSet
  try dsimp only
  repeat' (first | (intro _) | with_reducible assumption | with_reducible apply kept_ite | (with_reducible first | apply kept_mk | apply kept_mem); first | (intro _) | with_reducible assumption | with_reducible apply kept_ite | split)

theorem kept_tsCheck {z : State} (s : State) (hz : Kept z s) : Kept z (tsCheck s) := by
  unfold tsCheck
  try dsimp only
  repeat' (first | (intro _) | with_reducible assumption | with_reducible apply kept_ite | with_reducible apply kept_bump | with_reducible apply kept_raiseEvent | with_reducible apply kept_bumpIf | with_reducible apply kept_stripSet | with_reducible apply kept_discardStep | (with_reducible first | apply kept_mk | apply kept_mem); first | (intro _) | with_reducible assumption | with_reducible apply kept_ite | with_reducible apply kept_bump | with_reducible apply kept_raiseEvent | with_reducible apply kept_bumpIf | with_reducible apply kept_stripSet | with_reducible apply kept_discardStep | split)

theorem kept_putSeg {z : State} (s : State) (g : LogSeg) (hz : Kept z s) : Kept z (putSeg s g) := by
  unfold putSeg
  try dsimp only
  repeat' (first | (intro _) | with_reducible assumption | with_reducible apply kept_ite | (with_reducible first | apply kept_mk | apply kept_mem); first | (intro _) | with_reducible assumption | with_reducible apply kept_ite | split)

theorem kept_logWrite {z : State} (s : State) (l : Nat) (d : Line) (hz : Kept z s) : Kept z (logWrite s l d) := by
  unfold logWrite
  try dsimp only
  repeat' (first | (intro _) | with_reducible assumption | with_reducible apply kept_ite | with_reducible apply kept_sendBisnp | with_reducible apply kept_writeLine | (with_reducible first | apply kept_mk | apply kept_mem); first | (intro _) | with_reducible assumption | with_reducible apply kept_ite | with_reducible apply kept_sendBisnp | with_reducible apply kept_writeLine | split)

theorem kept_pumpLog {z : State} (s : State) (hz : Kept z s) : Kept z (pumpLog s) := by
  unfold pumpLog
  try dsimp only
  repeat' (first | (intro _) | with_reducible assumption | with_reducible apply kept_ite | with_reducible apply kept_foldl | with_reducible apply kept_foldl_fst | with_reducible apply kept_logWrite | with_reducible apply kept_stripPost | (with_reducible first | apply kept_mk | apply kept_mem); first | (intro _) | with_reducible assumption | with_reducible apply kept_ite | with_reducible apply kept_foldl | with_reducible apply kept_foldl_fst | with_reducible apply kept_logWrite | with_reducible apply kept_stripPost | split)

theorem kept_logAppend {z : State} (s : State) (d : Line) (ring : Nat) (hz : Kept z s) : Kept z (logAppend s d ring) := by
  unfold logAppend
  try dsimp only
  repeat' (first | (intro _) | with_reducible assumption | with_reducible apply kept_ite | with_reducible apply kept_bump | with_reducible apply kept_putSeg | with_reducible apply kept_logWrite | (with_reducible first | apply kept_mk | apply kept_mem); first | (intro _) | with_reducible assumption | with_reducible apply kept_ite | with_reducible apply kept_bump | with_reducible apply kept_putSeg | with_reducible apply kept_logWrite | split)

theorem kept_logCmd {z : State} (s : State) (ring slot : Nat) (ringLogs : Bool) (hz : Kept z s) : Kept z (logCmd s ring slot ringLogs) := by
  unfold logCmd
  try dsimp only
  repeat' (first | (intro _) | with_reducible assumption | with_reducible apply kept_ite | with_reducible apply kept_tsCheck | with_reducible apply kept_logAppend | (with_reducible first | apply kept_mk | apply kept_mem); first | (intro _) | with_reducible assumption | with_reducible apply kept_ite | with_reducible apply kept_tsCheck | with_reducible apply kept_logAppend | split)

theorem kept_flagPut {z : State} (s : State) (f : FlagRef) (b : Bool) (hz : Kept z s) : Kept z (flagPut s f b) := by
  unfold flagPut
  try dsimp only
  repeat' (first | (intro _) | with_reducible assumption | with_reducible apply kept_ite | with_reducible apply kept_updCore | (with_reducible first | apply kept_mk | apply kept_mem); first | (intro _) | with_reducible assumption | with_reducible apply kept_ite | with_reducible apply kept_updCore | split)

theorem kept_setCmds {z : State} (s : State) (l : List Cmd) (hz : Kept z s) : Kept z (setCmds s l) := by
  unfold setCmds
  try dsimp only
  repeat' (first | (intro _) | with_reducible assumption | with_reducible apply kept_ite | (with_reducible first | apply kept_mk | apply kept_mem); first | (intro _) | with_reducible assumption | with_reducible apply kept_ite | split)

theorem kept_setPhase {z : State} (s : State) (ring slot : Nat) (p : CmdPhase) (hz : Kept z s) : Kept z (setPhase s ring slot p) := by
  unfold setPhase
  try dsimp only
  repeat' (first | (intro _) | with_reducible assumption | with_reducible apply kept_ite | with_reducible apply kept_setCmds | (with_reducible first | apply kept_mk | apply kept_mem); first | (intro _) | with_reducible assumption | with_reducible apply kept_ite | with_reducible apply kept_setCmds | split)

theorem kept_finishCmd {z : State} (s : State) (ring slot : Nat) (st : Status) (info : BitVec 64) (hz : Kept z s) : Kept z (finishCmd s ring slot st info) := by
  unfold finishCmd
  try dsimp only
  repeat' (first | (intro _) | with_reducible assumption | with_reducible apply kept_ite | with_reducible apply kept_setPhase | (with_reducible first | apply kept_mk | apply kept_mem); first | (intro _) | with_reducible assumption | with_reducible apply kept_ite | with_reducible apply kept_setPhase | split)

theorem kept_stripWait {z : State} (s : State) (hz : Kept z s) : Kept z (stripWait s) := by
  unfold stripWait
  try dsimp only
  repeat' (first | (intro _) | with_reducible assumption | with_reducible apply kept_ite | (with_reducible first | apply kept_mk | apply kept_mem); first | (intro _) | with_reducible assumption | with_reducible apply kept_ite | split)

theorem kept_waitDone {z : State} (s : State) (w : FIssuer) (hz : Kept z s) : Kept z (waitDone s w) := by
  unfold waitDone
  try dsimp only
  repeat' (first | (intro _) | with_reducible assumption | with_reducible apply kept_ite | with_reducible apply kept_updCore | with_reducible apply kept_setPhase | with_reducible apply kept_logCmd | with_reducible apply kept_stripWait | with_reducible apply kept_stripPost | (with_reducible first | apply kept_mk | apply kept_mem); first | (intro _) | with_reducible assumption | with_reducible apply kept_ite | with_reducible apply kept_updCore | with_reducible apply kept_setPhase | with_reducible apply kept_logCmd | with_reducible apply kept_stripWait | with_reducible apply kept_stripPost | split)

theorem kept_dropWaiter {z : State} (s : State) (w : Waiter) (hz : Kept z s) : Kept z (dropWaiter s w) := by
  unfold dropWaiter
  try dsimp only
  repeat' (first | (intro _) | with_reducible assumption | with_reducible apply kept_ite | (with_reducible first | apply kept_mk | apply kept_mem); first | (intro _) | with_reducible assumption | with_reducible apply kept_ite | split)

theorem kept_flagRaise {z : State} (s : State) (f : FlagRef) (hz : Kept z s) : Kept z (flagRaise s f) := by
  unfold flagRaise
  try dsimp only
  repeat' (first | (intro _) | with_reducible assumption | with_reducible apply kept_ite | with_reducible apply kept_waitDone | with_reducible apply kept_dropWaiter | with_reducible apply kept_flagPut | (with_reducible first | apply kept_mk | apply kept_mem); first | (intro _) | with_reducible assumption | with_reducible apply kept_ite | with_reducible apply kept_waitDone | with_reducible apply kept_dropWaiter | with_reducible apply kept_flagPut | split)

theorem kept_flagApply {z : State} (s : State) (f : FlagRef) (op : FOp) (hz : Kept z s) : Kept z (flagApply s f op).1 := by
  unfold flagApply
  try dsimp only
  repeat' (first | (intro _) | with_reducible assumption | with_reducible apply kept_ite | with_reducible apply kept_bump | with_reducible apply kept_flagRaise | with_reducible apply kept_flagPut | (with_reducible first | apply kept_mk | apply kept_mem); first | (intro _) | with_reducible assumption | with_reducible apply kept_ite | with_reducible apply kept_bump | with_reducible apply kept_flagRaise | with_reducible apply kept_flagPut | split)

theorem kept_flagWaitc {z : State} (s : State) (f : FlagRef) (who : FIssuer) (hz : Kept z s) : Kept z (flagWaitc s f who).1 := by
  unfold flagWaitc
  try dsimp only
  repeat' (first | (intro _) | with_reducible assumption | with_reducible apply kept_ite | with_reducible apply kept_flagPut | (with_reducible first | apply kept_mk | apply kept_mem); first | (intro _) | with_reducible assumption | with_reducible apply kept_ite | with_reducible apply kept_flagPut | split)

theorem kept_flagAckTo {z : State} (s : State) (who : FIssuer) (addr : Nat) (err : Option Cause) (hz : Kept z s) : Kept z (flagAckTo s who addr err) := by
  unfold flagAckTo
  try dsimp only
  repeat' (first | (intro _) | with_reducible assumption | with_reducible apply kept_ite | with_reducible apply kept_finishCmd | (with_reducible first | apply kept_mk | apply kept_mem); first | (intro _) | with_reducible assumption | with_reducible apply kept_ite | with_reducible apply kept_finishCmd | split)

theorem kept_countFlag {z : State} (s : State) (who : FIssuer) (op : FOp) (hz : Kept z s) : Kept z (countFlag s who op) := by
  unfold countFlag
  try dsimp only
  repeat' (first | (intro _) | with_reducible assumption | with_reducible apply kept_ite | with_reducible apply kept_bump | (with_reducible first | apply kept_mk | apply kept_mem); first | (intro _) | with_reducible assumption | with_reducible apply kept_ite | with_reducible apply kept_bump | split)

theorem kept_countRemote {z : State} (s : State) (o : RemoteOp) (hz : Kept z s) : Kept z (countRemote s o) := by
  unfold countRemote
  try dsimp only
  repeat' (first | (intro _) | with_reducible assumption | with_reducible apply kept_ite | with_reducible apply kept_bump | with_reducible apply kept_countFlag | with_reducible apply kept_bumpIf | (with_reducible first | apply kept_mk | apply kept_mem); first | (intro _) | with_reducible assumption | with_reducible apply kept_ite | with_reducible apply kept_bump | with_reducible apply kept_countFlag | with_reducible apply kept_bumpIf | split)

theorem kept_sendRemote {z : State} (s : State) (o : RemoteOp) (hz : Kept z s) : Kept z (sendRemote s o).1 := by
  unfold sendRemote
  try dsimp only
  repeat' (first | (intro _) | with_reducible assumption | with_reducible apply kept_ite | with_reducible apply kept_countRemote | with_reducible apply kept_sendFw | with_reducible apply kept_sendVia | (with_reducible first | apply kept_mk | apply kept_mem); first | (intro _) | with_reducible assumption | with_reducible apply kept_ite | with_reducible apply kept_countRemote | with_reducible apply kept_sendFw | with_reducible apply kept_sendVia | split)

theorem kept_pumpRemote {z : State} (s : State) (y0 : List RemoteOp) (hz : Kept z s) : Kept z (pumpRemote s y0).1 := by
  induction y0 generalizing s with
  | nil =>
    unfold pumpRemote
    try dsimp only
    repeat' (first | (intro _) | with_reducible assumption | with_reducible apply kept_ite | with_reducible apply kept_sendRemote | (with_reducible first | apply kept_mk | apply kept_mem); first | (intro _) | with_reducible assumption | with_reducible apply kept_ite | with_reducible apply kept_sendRemote | split)
  | cons y l ih =>
    unfold pumpRemote
    try dsimp only
    repeat' (first | with_reducible apply ih | (intro _) | with_reducible assumption | with_reducible apply kept_ite | with_reducible apply kept_sendRemote | (with_reducible first | apply kept_mk | apply kept_mem); first | with_reducible apply ih | (intro _) | with_reducible assumption | with_reducible apply kept_ite | with_reducible apply kept_sendRemote | split)

theorem kept_pumpRemotes {z : State} (s : State) (hz : Kept z s) : Kept z (pumpRemotes s) := by
  unfold pumpRemotes
  try dsimp only
  repeat' (first | (intro _) | with_reducible assumption | with_reducible apply kept_ite | with_reducible apply kept_pumpRemote | (with_reducible first | apply kept_mk | apply kept_mem); first | (intro _) | with_reducible assumption | with_reducible apply kept_ite | with_reducible apply kept_pumpRemote | split)

theorem kept_flagSend {z : State} (s : State) (who : FIssuer) (sel : Word) (op : FOp) (addr : Nat) (hz : Kept z s) : Kept z (flagSend s who sel op addr) := by
  unfold flagSend
  try dsimp only
  repeat' (first | (intro _) | with_reducible assumption | with_reducible apply kept_ite | with_reducible apply kept_wakeUp | with_reducible apply kept_countFlag | with_reducible apply kept_flagAckTo | with_reducible apply kept_pumpRemotes | (with_reducible first | apply kept_mk | apply kept_mem); first | (intro _) | with_reducible assumption | with_reducible apply kept_ite | with_reducible apply kept_wakeUp | with_reducible apply kept_countFlag | with_reducible apply kept_flagAckTo | with_reducible apply kept_pumpRemotes | split)

theorem kept_pumpPostedGo {z : State} (c : Nat) (s : State) (blockA blockX : Bool) (y0 : List Posted) (hz : Kept z s) : Kept z (pumpPostedGo c s blockA blockX y0).1 := by
  induction y0 generalizing c s blockA blockX with
  | nil =>
    unfold pumpPostedGo
    try dsimp only
    repeat' (first | (intro _) | with_reducible assumption | with_reducible apply kept_ite | with_reducible apply kept_flagSend | (with_reducible first | apply kept_mk | apply kept_mem); first | (intro _) | with_reducible assumption | with_reducible apply kept_ite | with_reducible apply kept_flagSend | split)
  | cons y l ih =>
    unfold pumpPostedGo
    try dsimp only
    repeat' (first | with_reducible apply ih | (intro _) | with_reducible assumption | with_reducible apply kept_ite | with_reducible apply kept_flagSend | (with_reducible first | apply kept_mk | apply kept_mem); first | with_reducible apply ih | (intro _) | with_reducible assumption | with_reducible apply kept_ite | with_reducible apply kept_flagSend | split)

theorem kept_pumpPosted {z : State} (c : Nat) (s : State) (hz : Kept z s) : Kept z (pumpPosted c s) := by
  unfold pumpPosted
  try dsimp only
  repeat' (first | (intro _) | with_reducible assumption | with_reducible apply kept_ite | with_reducible apply kept_pumpPostedGo | with_reducible apply kept_updCore | (with_reducible first | apply kept_mk | apply kept_mem); first | (intro _) | with_reducible assumption | with_reducible apply kept_ite | with_reducible apply kept_pumpPostedGo | with_reducible apply kept_updCore | split)

theorem kept_streamFault {z : State} (s : State) (c : Nat) (x : Bool) (cause : Cause) (addr slot : Nat) (hz : Kept z s) : Kept z (streamFault s c x cause addr slot) := by
  unfold streamFault
  try dsimp only
  repeat' (first | (intro _) | with_reducible assumption | with_reducible apply kept_ite | with_reducible apply kept_updCore | (with_reducible first | apply kept_mk | apply kept_mem); first | (intro _) | with_reducible assumption | with_reducible apply kept_ite | with_reducible apply kept_updCore | split)

theorem kept_faultA {z : State} (s : State) (c : Nat) (cause : Cause) (addr slot : Nat) (hz : Kept z s) : Kept z (faultA s c cause addr slot) := by
  unfold faultA
  try dsimp only
  repeat' (first | (intro _) | with_reducible assumption | with_reducible apply kept_ite | with_reducible apply kept_streamFault | with_reducible apply kept_updCore | (with_reducible first | apply kept_mk | apply kept_mem); first | (intro _) | with_reducible assumption | with_reducible apply kept_ite | with_reducible apply kept_streamFault | with_reducible apply kept_updCore | split)

theorem kept_askDirectory {z : State} (s : State) (who : Requester) (b : Nat) (demand : Bool) (hz : Kept z s) : Kept z (askDirectory s who b demand) := by
  unfold askDirectory
  try dsimp only
  repeat' (first | (intro _) | with_reducible assumption | with_reducible apply kept_ite | with_reducible apply kept_bump | (with_reducible first | apply kept_mk | apply kept_mem); first | (intro _) | with_reducible assumption | with_reducible apply kept_ite | with_reducible apply kept_bump | split)

theorem kept_setBank {z : State} (s : State) (b : Nat) (x : Bank) (hz : Kept z s) : Kept z (setBank s b x) := by
  unfold setBank
  try dsimp only
  repeat' (first | (intro _) | with_reducible assumption | with_reducible apply kept_ite | with_reducible apply kept_setChan | (with_reducible first | apply kept_mk | apply kept_mem); first | (intro _) | with_reducible assumption | with_reducible apply kept_ite | with_reducible apply kept_setChan | split)

theorem kept_queueAt {z : State} (s : State) (b : Nat) (w : Bool) (hz : Kept z s) : Kept z (queueAt s b w) := by
  unfold queueAt
  try dsimp only
  repeat' (first | (intro _) | with_reducible assumption | with_reducible apply kept_ite | with_reducible apply kept_setChan | (with_reducible first | apply kept_mk | apply kept_mem); first | (intro _) | with_reducible assumption | with_reducible apply kept_ite | with_reducible apply kept_setChan | split)

theorem kept_queueLine {z : State} (s : State) (line : Nat) (w : Bool) (hz : Kept z s) : Kept z (queueLine s line w) := by
  unfold queueLine
  try dsimp only
  repeat' (first | (intro _) | with_reducible assumption | with_reducible apply kept_ite | with_reducible apply kept_queueAt | (with_reducible first | apply kept_mk | apply kept_mem); first | (intro _) | with_reducible assumption | with_reducible apply kept_ite | with_reducible apply kept_queueAt | split)

theorem kept_pumpGrants {z : State} (s : State) (b : Nat) (y0 : Nat) (hz : Kept z s) : Kept z (pumpGrants s b y0) := by
  induction y0 generalizing s b with
  | zero =>
    unfold pumpGrants
    try dsimp only
    repeat' (first | (intro _) | with_reducible assumption | with_reducible apply kept_ite | with_reducible apply kept_setBank | with_reducible apply kept_queueAt | (with_reducible first | apply kept_mk | apply kept_mem); first | (intro _) | with_reducible assumption | with_reducible apply kept_ite | with_reducible apply kept_setBank | with_reducible apply kept_queueAt | split)
  | succ n ih =>
    unfold pumpGrants
    try dsimp only
    repeat' (first | with_reducible apply ih | (intro _) | with_reducible assumption | with_reducible apply kept_ite | with_reducible apply kept_setBank | with_reducible apply kept_queueAt | (with_reducible first | apply kept_mk | apply kept_mem); first | with_reducible apply ih | (intro _) | with_reducible assumption | with_reducible apply kept_ite | with_reducible apply kept_setBank | with_reducible apply kept_queueAt | split)

theorem kept_bankDone {z : State} (s : State) (b : Nat) (hz : Kept z s) : Kept z (bankDone s b) := by
  unfold bankDone
  try dsimp only
  repeat' (first | (intro _) | with_reducible assumption | with_reducible apply kept_ite | with_reducible apply kept_pumpGrants | with_reducible apply kept_setBank | (with_reducible first | apply kept_mk | apply kept_mem); first | (intro _) | with_reducible assumption | with_reducible apply kept_ite | with_reducible apply kept_pumpGrants | with_reducible apply kept_setBank | split)

theorem kept_bankArrive {z : State} (s : State) (b : Nat) (u : BankUser) (hz : Kept z s) : Kept z (bankArrive s b u) := by
  unfold bankArrive
  try dsimp only
  repeat' (first | (intro _) | with_reducible assumption | with_reducible apply kept_ite | with_reducible apply kept_bump | with_reducible apply kept_setBank | with_reducible apply kept_queueAt | (with_reducible first | apply kept_mk | apply kept_mem); first | (intro _) | with_reducible assumption | with_reducible apply kept_ite | with_reducible apply kept_bump | with_reducible apply kept_setBank | with_reducible apply kept_queueAt | split)

theorem kept_joinBank {z : State} (s : State) (c id bank : Nat) (hz : Kept z s) : Kept z (joinBank s c id bank) := by
  unfold joinBank
  try dsimp only
  repeat' (first | (intro _) | with_reducible assumption | with_reducible apply kept_ite | with_reducible apply kept_setBank | with_reducible apply kept_bump | with_reducible apply kept_updCore | (with_reducible first | apply kept_mk | apply kept_mem); first | (intro _) | with_reducible assumption | with_reducible apply kept_ite | with_reducible apply kept_setBank | with_reducible apply kept_bump | with_reducible apply kept_updCore | split)

theorem kept_storeDo {z : State} (s : State) (c : Nat) (r : Req) (e : Sq) (d : Line) (h : Kept z s) : Kept z (storeAtHome.storeDo s c r e d) := by
  unfold storeAtHome.storeDo
  exact kept_pumpPosted _ _ (kept_updCore _ _ _ (kept_ite (kept_poisonLine h _) (kept_writeBytes _ _ _ _ h)))

theorem kept_storeAtHome {z : State} (s : State) (c : Nat) (r : Req) (e : Sq) (d : Line) (h : Kept z s) : Kept z (storeAtHome s c r e d) := by
  unfold storeAtHome
  dsimp only
  repeat' (first | assumption | with_reducible apply kept_ite | with_reducible apply kept_updCore | with_reducible apply kept_sendBisnp | with_reducible apply kept_storeDo | split | (with_reducible apply kept_mem))

theorem kept_goOut {z : State} (s : State) (c : Nat) (r : Req) (hz : Kept z s) : Kept z (goOut s c r) := by
  unfold goOut
  try dsimp only
  repeat' (first | (intro _) | with_reducible assumption | with_reducible apply kept_ite | with_reducible apply kept_updCore | with_reducible apply kept_storeAtHome | with_reducible apply kept_streamFault | (with_reducible first | apply kept_mk | apply kept_mem); first | (intro _) | with_reducible assumption | with_reducible apply kept_ite | with_reducible apply kept_updCore | with_reducible apply kept_storeAtHome | with_reducible apply kept_streamFault | split)

theorem kept_sendReq {z : State} (s : State) (c : Nat) (r : Req) (home : Home) (hz : Kept z s) : Kept z (sendReq s c r home) := by
  unfold sendReq
  try dsimp only
  repeat' (first | (intro _) | with_reducible assumption | with_reducible apply kept_ite | with_reducible apply kept_updCore | with_reducible apply kept_joinBank | with_reducible apply kept_goOut | (with_reducible first | apply kept_mk | apply kept_mem); first | (intro _) | with_reducible assumption | with_reducible apply kept_ite | with_reducible apply kept_updCore | with_reducible apply kept_joinBank | with_reducible apply kept_goOut | split)

theorem kept_countHit {z : State} (s : State) (c : Nat) (kind : ReqKind) (hz : Kept z s) : Kept z (countHit s c kind) := by
  unfold countHit
  try dsimp only
  repeat' (first | (intro _) | with_reducible assumption | with_reducible apply kept_ite | with_reducible apply kept_bump | (with_reducible first | apply kept_mk | apply kept_mem); first | (intro _) | with_reducible assumption | with_reducible apply kept_ite | with_reducible apply kept_bump | split)

theorem kept_sendReadyGo {z : State} (s : State) (c : Nat) (y0 : List Req) (hz : Kept z s) : Kept z (sendReadyGo s c y0) := by
  induction y0 generalizing s c with
  | nil =>
    unfold sendReadyGo
    try dsimp only
    repeat' (first | (intro _) | with_reducible assumption | with_reducible apply kept_ite | with_reducible apply kept_sendReq | (with_reducible first | apply kept_mk | apply kept_mem); first | (intro _) | with_reducible assumption | with_reducible apply kept_ite | with_reducible apply kept_sendReq | split)
  | cons y l ih =>
    unfold sendReadyGo
    try dsimp only
    repeat' (first | with_reducible apply ih | (intro _) | with_reducible assumption | with_reducible apply kept_ite | with_reducible apply kept_sendReq | (with_reducible first | apply kept_mk | apply kept_mem); first | with_reducible apply ih | (intro _) | with_reducible assumption | with_reducible apply kept_ite | with_reducible apply kept_sendReq | split)

theorem kept_sendReady {z : State} (s : State) (c : Nat) (hz : Kept z s) : Kept z (sendReady s c) := by
  unfold sendReady
  try dsimp only
  repeat' (first | (intro _) | with_reducible assumption | with_reducible apply kept_ite | with_reducible apply kept_sendReadyGo | (with_reducible first | apply kept_mk | apply kept_mem); first | (intro _) | with_reducible assumption | with_reducible apply kept_ite | with_reducible apply kept_sendReadyGo | split)

theorem kept_request {z : State} (s : State) (c : Nat) (kind : ReqKind) (addr level pc : Nat) (ra : Bool) (hz : Kept z s) : Kept z (request s c kind addr level pc ra) := by
  unfold request
  try dsimp only
  repeat' (first | (intro _) | with_reducible assumption | with_reducible apply kept_ite | with_reducible apply kept_updCore | with_reducible apply kept_sendReq | with_reducible apply kept_countHit | with_reducible apply kept_askDirectory | (with_reducible first | apply kept_mk | apply kept_mem); first | (intro _) | with_reducible assumption | with_reducible apply kept_ite | with_reducible apply kept_updCore | with_reducible apply kept_sendReq | with_reducible apply kept_countHit | with_reducible apply kept_askDirectory | split)

theorem kept_rerequest {z : State} (s : State) (c : Nat) (id : Nat) (hz : Kept z s) : Kept z (rerequest s c id) := by
  unfold rerequest
  try dsimp only
  repeat' (first | (intro _) | with_reducible assumption | with_reducible apply kept_ite | with_reducible apply kept_updCore | with_reducible apply kept_sendReq | with_reducible apply kept_countHit | with_reducible apply kept_askDirectory | (with_reducible first | apply kept_mk | apply kept_mem); first | (intro _) | with_reducible assumption | with_reducible apply kept_ite | with_reducible apply kept_updCore | with_reducible apply kept_sendReq | with_reducible apply kept_countHit | with_reducible apply kept_askDirectory | split)

theorem kept_storeScan {z : State} (s : State) (c : Nat) (y0 : List Sq) (hz : Kept z s) : Kept z (storeScan s c y0) := by
  induction y0 generalizing s c with
  | nil =>
    unfold storeScan
    try dsimp only
    repeat' (first | (intro _) | with_reducible assumption | with_reducible apply kept_ite | with_reducible apply kept_updCore | with_reducible apply kept_request | (with_reducible first | apply kept_mk | apply kept_mem); first | (intro _) | with_reducible assumption | with_reducible apply kept_ite | with_reducible apply kept_updCore | with_reducible apply kept_request | split)
  | cons y l ih =>
    unfold storeScan
    try dsimp only
    repeat' (first | with_reducible apply ih | (intro _) | with_reducible assumption | with_reducible apply kept_ite | with_reducible apply kept_updCore | with_reducible apply kept_request | (with_reducible first | apply kept_mk | apply kept_mem); first | with_reducible apply ih | (intro _) | with_reducible assumption | with_reducible apply kept_ite | with_reducible apply kept_updCore | with_reducible apply kept_request | split)

theorem kept_storePump {z : State} (s : State) (c : Nat) (hz : Kept z s) : Kept z (storePump s c) := by
  unfold storePump
  try dsimp only
  repeat' (first | (intro _) | with_reducible assumption | with_reducible apply kept_ite | with_reducible apply kept_storeScan | (with_reducible first | apply kept_mk | apply kept_mem); first | (intro _) | with_reducible assumption | with_reducible apply kept_ite | with_reducible apply kept_storeScan | split)

theorem kept_dropAccess {z : State} (s : State) (c : Nat) (r : Req) (hz : Kept z s) : Kept z (dropAccess s c r) := by
  unfold dropAccess
  try dsimp only
  repeat' (first | (intro _) | with_reducible assumption | with_reducible apply kept_ite | with_reducible apply kept_bump | with_reducible apply kept_updCore | (with_reducible first | apply kept_mk | apply kept_mem); first | (intro _) | with_reducible assumption | with_reducible apply kept_ite | with_reducible apply kept_bump | with_reducible apply kept_updCore | split)

theorem kept_pageFault {z : State} (s : State) (c : Nat) (r : Req) (gone : Bool) (hz : Kept z s) : Kept z (pageFault s c r gone) := by
  induction c generalizing s r gone with
  | zero =>
    unfold pageFault
    try dsimp only
    repeat' (first | (intro _) | with_reducible assumption | with_reducible apply kept_ite | with_reducible apply kept_bump | with_reducible apply kept_updCore | with_reducible apply kept_streamFault | (with_reducible first | apply kept_mk | apply kept_mem); first | (intro _) | with_reducible assumption | with_reducible apply kept_ite | with_reducible apply kept_bump | with_reducible apply kept_updCore | with_reducible apply kept_streamFault | split)
  | succ n ih =>
    unfold pageFault
    try dsimp only
    repeat' (first | with_reducible apply ih | (intro _) | with_reducible assumption | with_reducible apply kept_ite | with_reducible apply kept_bump | with_reducible apply kept_updCore | with_reducible apply kept_streamFault | (with_reducible first | apply kept_mk | apply kept_mem); first | with_reducible apply ih | (intro _) | with_reducible assumption | with_reducible apply kept_ite | with_reducible apply kept_bump | with_reducible apply kept_updCore | with_reducible apply kept_streamFault | split)

theorem kept_popLq {z : State} (s : State) (c : Nat) (hz : Kept z s) : Kept z (popLq s c).1 := by
  unfold popLq
  try dsimp only
  repeat' (first | (intro _) | with_reducible assumption | with_reducible apply kept_ite | with_reducible apply kept_updCore | with_reducible apply kept_bump | (with_reducible first | apply kept_mk | apply kept_mem); first | (intro _) | with_reducible assumption | with_reducible apply kept_ite | with_reducible apply kept_updCore | with_reducible apply kept_bump | split)

theorem kept_fillSq {z : State} (s : State) (c : Nat) (d : Line) (hz : Kept z s) : Kept z (fillSq s c d) := by
  unfold fillSq
  try dsimp only
  repeat' (first | (intro _) | with_reducible assumption | with_reducible apply kept_ite | with_reducible apply kept_updCore | (with_reducible first | apply kept_mk | apply kept_mem); first | (intro _) | with_reducible assumption | with_reducible apply kept_ite | with_reducible apply kept_updCore | split)

theorem kept_report {z : State} (s : State) (c pc : Nat) (f : FSB) (taken : Bool) (hz : Kept z s) : Kept z (report s c pc f taken) := by
  unfold report
  try dsimp only
  repeat' (first | (intro _) | with_reducible assumption | with_reducible apply kept_ite | with_reducible apply kept_updCore | (with_reducible first | apply kept_mk | apply kept_mem); first | (intro _) | with_reducible assumption | with_reducible apply kept_ite | with_reducible apply kept_updCore | split)

theorem kept_settleReport {z : State} (s : State) (c : Nat) (hz : Kept z s) : Kept z (settleReport s c) := by
  unfold settleReport
  try dsimp only
  repeat' (first | (intro _) | with_reducible assumption | with_reducible apply kept_ite | with_reducible apply kept_updCore | with_reducible apply kept_bump | with_reducible apply kept_streamFault | with_reducible apply kept_flagRaise | (with_reducible first | apply kept_mk | apply kept_mem); first | (intro _) | with_reducible assumption | with_reducible apply kept_ite | with_reducible apply kept_updCore | with_reducible apply kept_bump | with_reducible apply kept_streamFault | with_reducible apply kept_flagRaise | split)

theorem kept_scalarEffect {z : State} (s0 : State) (c : Nat) (op : ScalarOp) (s : State) (hz : Kept z s) : Kept z (scalarEffect s0 c op s) := by
  unfold scalarEffect
  try dsimp only
  repeat' (first | (intro _) | with_reducible assumption | with_reducible apply kept_ite | with_reducible apply kept_updCore | with_reducible apply kept_popLq | with_reducible apply kept_fillSq | with_reducible apply kept_report | (with_reducible first | apply kept_mk | apply kept_mem); first | (intro _) | with_reducible assumption | with_reducible apply kept_ite | with_reducible apply kept_updCore | with_reducible apply kept_popLq | with_reducible apply kept_fillSq | with_reducible apply kept_report | split)

theorem kept_vrEffect {z : State} (s0 : State) (c : Nat) (op : VectorOp) (f : FVR) (s : State) (hz : Kept z s) : Kept z (vrEffect s0 c op f s) := by
  unfold vrEffect
  try dsimp only
  repeat' (first | (intro _) | with_reducible assumption | with_reducible apply kept_ite | with_reducible apply kept_updCore | with_reducible apply kept_bumpEv | (with_reducible first | apply kept_mk | apply kept_mem); first | (intro _) | with_reducible assumption | with_reducible apply kept_ite | with_reducible apply kept_updCore | with_reducible apply kept_bumpEv | split)

theorem kept_cvtEffect {z : State} (s0 : State) (c : Nat) (f : FVC) (bs bd : Bool) (s : State) (hz : Kept z s) : Kept z (cvtEffect s0 c f bs bd s) := by
  unfold cvtEffect
  try dsimp only
  repeat' (first | (intro _) | with_reducible assumption | with_reducible apply kept_ite | with_reducible apply kept_updCore | with_reducible apply kept_bumpEv | (with_reducible first | apply kept_mk | apply kept_mem); first | (intro _) | with_reducible assumption | with_reducible apply kept_ite | with_reducible apply kept_updCore | with_reducible apply kept_bumpEv | split)

theorem kept_vectorEffect {z : State} (s0 : State) (c : Nat) (op : VectorOp) (s : State) (hz : Kept z s) : Kept z (vectorEffect s0 c op s) := by
  unfold vectorEffect
  try dsimp only
  repeat' (first | (intro _) | with_reducible assumption | with_reducible apply kept_ite | with_reducible apply kept_vrEffect | with_reducible apply kept_updCore | with_reducible apply kept_cvtEffect | with_reducible apply kept_popLq | with_reducible apply kept_fillSq | (with_reducible first | apply kept_mk | apply kept_mem); first | (intro _) | with_reducible assumption | with_reducible apply kept_ite | with_reducible apply kept_vrEffect | with_reducible apply kept_updCore | with_reducible apply kept_cvtEffect | with_reducible apply kept_popLq | with_reducible apply kept_fillSq | split)

theorem kept_drainPump {z : State} (s : State) (c : Nat) (hz : Kept z s) : Kept z (drainPump s c) := by
  unfold drainPump
  try dsimp only
  repeat' (first | (intro _) | with_reducible assumption | with_reducible apply kept_ite | with_reducible apply kept_foldl | with_reducible apply kept_foldl_fst | with_reducible apply kept_storePump | with_reducible apply kept_bumpIf | with_reducible apply kept_setCore | (with_reducible first | apply kept_mk | apply kept_mem); first | (intro _) | with_reducible assumption | with_reducible apply kept_ite | with_reducible apply kept_foldl | with_reducible apply kept_foldl_fst | with_reducible apply kept_storePump | with_reducible apply kept_bumpIf | with_reducible apply kept_setCore | split)

theorem kept_matrixEffect {z : State} (s0 : State) (c : Nat) (op : MatrixOp) (s : State) (hz : Kept z s) : Kept z (matrixEffect s0 c op s) := by
  unfold matrixEffect
  try dsimp only
  repeat' (first | (intro _) | with_reducible assumption | with_reducible apply kept_ite | with_reducible apply kept_bump | with_reducible apply kept_updCore | (with_reducible first | apply kept_mk | apply kept_mem); first | (intro _) | with_reducible assumption | with_reducible apply kept_ite | with_reducible apply kept_bump | with_reducible apply kept_updCore | split)

theorem kept_requestRows {z : State} (s : State) (c t level pc : Nat) (ra : Bool) (ab as : BitVec 48) (r : Nat) (y0 : Nat) (hz : Kept z s) : Kept z (requestRows s c t level pc ra ab as r y0) := by
  induction y0 generalizing s c t level pc ra ab as r with
  | zero =>
    unfold requestRows
    try dsimp only
    repeat' (first | (intro _) | with_reducible assumption | with_reducible apply kept_ite | with_reducible apply kept_request | (with_reducible first | apply kept_mk | apply kept_mem); first | (intro _) | with_reducible assumption | with_reducible apply kept_ite | with_reducible apply kept_request | split)
  | succ n ih =>
    unfold requestRows
    try dsimp only
    repeat' (first | with_reducible apply ih | (intro _) | with_reducible assumption | with_reducible apply kept_ite | with_reducible apply kept_request | (with_reducible first | apply kept_mk | apply kept_mem); first | with_reducible apply ih | (intro _) | with_reducible assumption | with_reducible apply kept_ite | with_reducible apply kept_request | split)

theorem kept_tileLoad {z : State} (s0 : State) (c pc : Nat) (f : FAT) (tr : Bool) (s : State) (hz : Kept z s) : Kept z (tileLoad s0 c pc f tr s) := by
  unfold tileLoad
  try dsimp only
  repeat' (first | (intro _) | with_reducible assumption | with_reducible apply kept_ite | with_reducible apply kept_updCore | with_reducible apply kept_bumpIf | with_reducible apply kept_request | with_reducible apply kept_requestRows | (with_reducible first | apply kept_mk | apply kept_mem); first | (intro _) | with_reducible assumption | with_reducible apply kept_ite | with_reducible apply kept_updCore | with_reducible apply kept_bumpIf | with_reducible apply kept_request | with_reducible apply kept_requestRows | split)

theorem kept_accessEffect {z : State} (s0 : State) (c pc : Nat) (op : AccessOp) (s : State) (hz : Kept z s) : Kept z (accessEffect s0 c pc op s) := by
  unfold accessEffect
  try dsimp only
  repeat' (first | (intro _) | with_reducible assumption | with_reducible apply kept_ite | with_reducible apply kept_updCore | with_reducible apply kept_request | with_reducible apply kept_bumpIf | with_reducible apply kept_bump | with_reducible apply kept_tileLoad | (with_reducible first | apply kept_mk | apply kept_mem); first | (intro _) | with_reducible assumption | with_reducible apply kept_ite | with_reducible apply kept_updCore | with_reducible apply kept_request | with_reducible apply kept_bumpIf | with_reducible apply kept_bump | with_reducible apply kept_tileLoad | split)

theorem kept_syncPost {z : State} (s0 : State) (c pc : Nat) (x : Bool) (f : FSF) (op : FOp) (s : State) (hz : Kept z s) : Kept z (syncPost s0 c pc x f op s) := by
  unfold syncPost
  try dsimp only
  repeat' (first | (intro _) | with_reducible assumption | with_reducible apply kept_ite | with_reducible apply kept_bump | with_reducible apply kept_flagApply | with_reducible apply kept_pumpPosted | with_reducible apply kept_updCore | (with_reducible first | apply kept_mk | apply kept_mem); first | (intro _) | with_reducible assumption | with_reducible apply kept_ite | with_reducible apply kept_bump | with_reducible apply kept_flagApply | with_reducible apply kept_pumpPosted | with_reducible apply kept_updCore | split)

theorem kept_takeReport {z : State} (s : State) (c pair : Nat) (hz : Kept z s) : Kept z (takeReport s c pair).1 := by
  unfold takeReport
  try dsimp only
  repeat' (first | (intro _) | with_reducible assumption | with_reducible apply kept_ite | with_reducible apply kept_flagPut | (with_reducible first | apply kept_mk | apply kept_mem); first | (intro _) | with_reducible assumption | with_reducible apply kept_ite | with_reducible apply kept_flagPut | split)

theorem kept_brxEffect {z : State} (c pc len : Nat) (f : FSX) (s : State) (hz : Kept z s) : Kept z (brxEffect c pc len f s).1 := by
  unfold brxEffect
  try dsimp only
  repeat' (first | (intro _) | with_reducible assumption | with_reducible apply kept_ite | with_reducible apply kept_updCore | (with_reducible first | apply kept_mk | apply kept_mem); first | (intro _) | with_reducible assumption | with_reducible apply kept_ite | with_reducible apply kept_updCore | split)

theorem kept_syncEffect {z : State} (s0 : State) (c pc : Nat) (x : Bool) (op : SyncOp) (s : State) (hz : Kept z s) : Kept z (syncEffect s0 c pc x op s) := by
  unfold syncEffect
  try dsimp only
  repeat' (first | (intro _) | with_reducible assumption | with_reducible apply kept_ite | with_reducible apply kept_syncPost | with_reducible apply kept_flagPut | with_reducible apply kept_updCore | (with_reducible first | apply kept_mk | apply kept_mem); first | (intro _) | with_reducible assumption | with_reducible apply kept_ite | with_reducible apply kept_syncPost | with_reducible apply kept_flagPut | with_reducible apply kept_updCore | split)

theorem kept_holdBundle {z : State} (s : State) (c : Nat) (x : Bool) (b : Bundle) (h : Hold) (hz : Kept z s) : Kept z (holdBundle s c x b h) := by
  unfold holdBundle
  try dsimp only
  repeat' (first | (intro _) | with_reducible assumption | with_reducible apply kept_ite | with_reducible apply kept_updCore | (with_reducible first | apply kept_mk | apply kept_mem); first | (intro _) | with_reducible assumption | with_reducible apply kept_ite | with_reducible apply kept_updCore | split)

theorem kept_countBundle {z : State} (s : State) (c : Nat) (x : Bool) (hz : Kept z s) : Kept z (countBundle s c x) := by
  unfold countBundle
  try dsimp only
  repeat' (first | (intro _) | with_reducible assumption | with_reducible apply kept_ite | with_reducible apply kept_bump | with_reducible apply kept_updCore | (with_reducible first | apply kept_mk | apply kept_mem); first | (intro _) | with_reducible assumption | with_reducible apply kept_ite | with_reducible apply kept_bump | with_reducible apply kept_updCore | split)

theorem kept_countVectorDelay {z : State} (s0 : State) (c : Nat) (vec : Option VectorOp) (s : State) (hz : Kept z s) : Kept z (countVectorDelay s0 c vec s) := by
  unfold countVectorDelay
  try dsimp only
  repeat' (first | (intro _) | with_reducible assumption | with_reducible apply kept_ite | with_reducible apply kept_bumpIf | (with_reducible first | apply kept_mk | apply kept_mem); first | (intro _) | with_reducible assumption | with_reducible apply kept_ite | with_reducible apply kept_bumpIf | split)

theorem kept_bundleEffect {z : State} (s0 : State) (c : Nat) (x : Bool) (b : Bundle) (len : Nat) (hz : Kept z s0) : Kept z (bundleEffect s0 c x b len) := by
  unfold bundleEffect
  try dsimp only
  repeat' (first | (intro _) | with_reducible assumption | with_reducible apply kept_ite | with_reducible apply kept_updCore | with_reducible apply kept_countBundle | with_reducible apply kept_scalarEffect | with_reducible apply kept_vectorEffect | with_reducible apply kept_countVectorDelay | with_reducible apply kept_matrixEffect | with_reducible apply kept_accessEffect | with_reducible apply kept_brxEffect | with_reducible apply kept_syncEffect | with_reducible apply kept_storePump | with_reducible apply kept_drainPump | (with_reducible first | apply kept_mk | apply kept_mem); first | (intro _) | with_reducible assumption | with_reducible apply kept_ite | with_reducible apply kept_updCore | with_reducible apply kept_countBundle | with_reducible apply kept_scalarEffect | with_reducible apply kept_vectorEffect | with_reducible apply kept_countVectorDelay | with_reducible apply kept_matrixEffect | with_reducible apply kept_accessEffect | with_reducible apply kept_brxEffect | with_reducible apply kept_syncEffect | with_reducible apply kept_storePump | with_reducible apply kept_drainPump | split)

theorem kept_raise {z : State} (s : State) (c : Nat) (x : Bool) (f : Nat × Cause) (hz : Kept z s) : Kept z (raise s c x f) := by
  unfold raise
  try dsimp only
  repeat' (first | (intro _) | with_reducible assumption | with_reducible apply kept_ite | with_reducible apply kept_bump | with_reducible apply kept_updCore | with_reducible apply kept_streamFault | with_reducible apply kept_faultA | (with_reducible first | apply kept_mk | apply kept_mem); first | (intro _) | with_reducible assumption | with_reducible apply kept_ite | with_reducible apply kept_bump | with_reducible apply kept_updCore | with_reducible apply kept_streamFault | with_reducible apply kept_faultA | split)

theorem kept_giveBack {z : State} (s : State) (c : Nat) (x : Bool) (b : Bundle) (hz : Kept z s) : Kept z (giveBack s c x b) := by
  unfold giveBack
  try dsimp only
  repeat' (first | (intro _) | with_reducible assumption | with_reducible apply kept_ite | with_reducible apply kept_flagRaise | with_reducible apply kept_updCore | (with_reducible first | apply kept_mk | apply kept_mem); first | (intro _) | with_reducible assumption | with_reducible apply kept_ite | with_reducible apply kept_flagRaise | with_reducible apply kept_updCore | split)

theorem kept_issueTwin {z : State} (s : State) (c : Nat) (x : Bool) (y0 : Verdict) (hz : Kept z s) : Kept z (issueTwin s c x y0) := by
  unfold issueTwin
  try dsimp only
  repeat' (first | (intro _) | with_reducible assumption | with_reducible apply kept_ite | with_reducible apply kept_raise | (with_reducible first | apply kept_mk | apply kept_mem); first | (intro _) | with_reducible assumption | with_reducible apply kept_ite | with_reducible apply kept_raise | split)

theorem kept_attempt {z : State} (pre : Nat → List Cause) (s : State) (c : Nat) (x : Bool) (b : Bundle) (len : Nat) (hz : Kept z s) : Kept z (attempt pre s c x b len) := by
  unfold attempt
  try dsimp only
  repeat' (first | (intro _) | with_reducible assumption | with_reducible apply kept_ite | with_reducible apply kept_holdBundle | with_reducible apply kept_raise | with_reducible apply kept_giveBack | with_reducible apply kept_bundleEffect | with_reducible apply kept_issueTwin | (with_reducible first | apply kept_mk | apply kept_mem); first | (intro _) | with_reducible assumption | with_reducible apply kept_ite | with_reducible apply kept_holdBundle | with_reducible apply kept_raise | with_reducible apply kept_giveBack | with_reducible apply kept_bundleEffect | with_reducible apply kept_issueTwin | split)

theorem kept_issueWith {z : State} (pre : Nat → List Cause) (s : State) (c : Nat) (x : Bool) (b : Bundle) (len : Nat) (hz : Kept z s) : Kept z (issueWith pre s c x b len) := by
  unfold issueWith
  try dsimp only
  repeat' (first | (intro _) | with_reducible assumption | with_reducible apply kept_ite | with_reducible apply kept_attempt | with_reducible apply kept_settleReport | (with_reducible first | apply kept_mk | apply kept_mem); first | (intro _) | with_reducible assumption | with_reducible apply kept_ite | with_reducible apply kept_attempt | with_reducible apply kept_settleReport | split)

theorem kept_issue {z : State} (s : State) (c : Nat) (x : Bool) (b : Bundle) (len : Nat) (hz : Kept z s) : Kept z (issue s c x b len) := by
  unfold issue
  try dsimp only
  repeat' (first | (intro _) | with_reducible assumption | with_reducible apply kept_ite | with_reducible apply kept_issueWith | (with_reducible first | apply kept_mk | apply kept_mem); first | (intro _) | with_reducible assumption | with_reducible apply kept_ite | with_reducible apply kept_issueWith | split)

theorem kept_execAddSubAndOrXor {z : State} (c : Nat) (op : Alu) (f : FSR) (s : State) (hz : Kept z s) : ∀ zt, execAddSubAndOrXor c op f s = .next zt → Kept z zt := by
  intro zt e
  unfold execAddSubAndOrXor at e
  injection e with e
  subst e
  try dsimp only
  repeat' (first | (intro _) | with_reducible assumption | with_reducible apply kept_ite | with_reducible apply kept_issue | (with_reducible first | apply kept_mk | apply kept_mem); first | (intro _) | with_reducible assumption | with_reducible apply kept_ite | with_reducible apply kept_issue | split)

theorem kept_execShlShrSra {z : State} (c : Nat) (op : Shift) (f : FSR) (s : State) (hz : Kept z s) : ∀ zt, execShlShrSra c op f s = .next zt → Kept z zt := by
  intro zt e
  unfold execShlShrSra at e
  injection e with e
  subst e
  try dsimp only
  repeat' (first | (intro _) | with_reducible assumption | with_reducible apply kept_ite | with_reducible apply kept_issue | (with_reducible first | apply kept_mk | apply kept_mem); first | (intro _) | with_reducible assumption | with_reducible apply kept_ite | with_reducible apply kept_issue | split)

theorem kept_execMul {z : State} (c : Nat) (f : FSR) (s : State) (hz : Kept z s) : ∀ zt, execMul c f s = .next zt → Kept z zt := by
  intro zt e
  unfold execMul at e
  injection e with e
  subst e
  try dsimp only
  repeat' (first | (intro _) | with_reducible assumption | with_reducible apply kept_ite | with_reducible apply kept_issue | (with_reducible first | apply kept_mk | apply kept_mem); first | (intro _) | with_reducible assumption | with_reducible apply kept_ite | with_reducible apply kept_issue | split)

theorem kept_execMinMaxMinuMaxu {z : State} (c : Nat) (op : MinMax) (f : FSR) (s : State) (hz : Kept z s) : ∀ zt, execMinMaxMinuMaxu c op f s = .next zt → Kept z zt := by
  intro zt e
  unfold execMinMaxMinuMaxu at e
  injection e with e
  subst e
  try dsimp only
  repeat' (first | (intro _) | with_reducible assumption | with_reducible apply kept_ite | with_reducible apply kept_issue | (with_reducible first | apply kept_mk | apply kept_mem); first | (intro _) | with_reducible assumption | with_reducible apply kept_ite | with_reducible apply kept_issue | split)

theorem kept_execAddi {z : State} (c : Nat) (f : FSI) (s : State) (hz : Kept z s) : ∀ zt, execAddi c f s = .next zt → Kept z zt := by
  intro zt e
  unfold execAddi at e
  injection e with e
  subst e
  try dsimp only
  repeat' (first | (intro _) | with_reducible assumption | with_reducible apply kept_ite | with_reducible apply kept_issue | (with_reducible first | apply kept_mk | apply kept_mem); first | (intro _) | with_reducible assumption | with_reducible apply kept_ite | with_reducible apply kept_issue | split)

theorem kept_execAndiOriXori {z : State} (c : Nat) (op : Logic) (f : FSI) (s : State) (hz : Kept z s) : ∀ zt, execAndiOriXori c op f s = .next zt → Kept z zt := by
  intro zt e
  unfold execAndiOriXori at e
  injection e with e
  subst e
  try dsimp only
  repeat' (first | (intro _) | with_reducible assumption | with_reducible apply kept_ite | with_reducible apply kept_issue | (with_reducible first | apply kept_mk | apply kept_mem); first | (intro _) | with_reducible assumption | with_reducible apply kept_ite | with_reducible apply kept_issue | split)

theorem kept_execShliShriSrai {z : State} (c : Nat) (op : Shift) (f : FSI) (s : State) (hz : Kept z s) : ∀ zt, execShliShriSrai c op f s = .next zt → Kept z zt := by
  intro zt e
  unfold execShliShriSrai at e
  injection e with e
  subst e
  try dsimp only
  repeat' (first | (intro _) | with_reducible assumption | with_reducible apply kept_ite | with_reducible apply kept_issue | (with_reducible first | apply kept_mk | apply kept_mem); first | (intro _) | with_reducible assumption | with_reducible apply kept_ite | with_reducible apply kept_issue | split)

theorem kept_execLui {z : State} (c : Nat) (f : FSI) (s : State) (hz : Kept z s) : ∀ zt, execLui c f s = .next zt → Kept z zt := by
  intro zt e
  unfold execLui at e
  injection e with e
  subst e
  try dsimp only
  repeat' (first | (intro _) | with_reducible assumption | with_reducible apply kept_ite | with_reducible apply kept_issue | (with_reducible first | apply kept_mk | apply kept_mem); first | (intro _) | with_reducible assumption | with_reducible apply kept_ite | with_reducible apply kept_issue | split)

theorem kept_execCmpReg {z : State} (c : Nat) (op : Rel) (f : FSC) (s : State) (hz : Kept z s) : ∀ zt, execCmpReg c op f s = .next zt → Kept z zt := by
  intro zt e
  unfold execCmpReg at e
  injection e with e
  subst e
  try dsimp only
  repeat' (first | (intro _) | with_reducible assumption | with_reducible apply kept_ite | with_reducible apply kept_issue | (with_reducible first | apply kept_mk | apply kept_mem); first | (intro _) | with_reducible assumption | with_reducible apply kept_ite | with_reducible apply kept_issue | split)

theorem kept_execCmpImm {z : State} (c : Nat) (op : Rel) (f : FSC) (s : State) (hz : Kept z s) : ∀ zt, execCmpImm c op f s = .next zt → Kept z zt := by
  intro zt e
  unfold execCmpImm at e
  injection e with e
  subst e
  try dsimp only
  repeat' (first | (intro _) | with_reducible assumption | with_reducible apply kept_ite | with_reducible apply kept_issue | (with_reducible first | apply kept_mk | apply kept_mem); first | (intro _) | with_reducible assumption | with_reducible apply kept_ite | with_reducible apply kept_issue | split)

theorem kept_execPlogic {z : State} (c : Nat) (op : PLogic) (f : FSP) (s : State) (hz : Kept z s) : ∀ zt, execPlogic c op f s = .next zt → Kept z zt := by
  intro zt e
  unfold execPlogic at e
  injection e with e
  subst e
  try dsimp only
  repeat' (first | (intro _) | with_reducible assumption | with_reducible apply kept_ite | with_reducible apply kept_issue | (with_reducible first | apply kept_mk | apply kept_mem); first | (intro _) | with_reducible assumption | with_reducible apply kept_ite | with_reducible apply kept_issue | split)

theorem kept_execPnot {z : State} (c : Nat) (f : FSP) (s : State) (hz : Kept z s) : ∀ zt, execPnot c f s = .next zt → Kept z zt := by
  intro zt e
  unfold execPnot at e
  injection e with e
  subst e
  try dsimp only
  repeat' (first | (intro _) | with_reducible assumption | with_reducible apply kept_ite | with_reducible apply kept_issue | (with_reducible first | apply kept_mk | apply kept_mem); first | (intro _) | with_reducible assumption | with_reducible apply kept_ite | with_reducible apply kept_issue | split)

theorem kept_execSel {z : State} (c : Nat) (f : FSR) (s : State) (hz : Kept z s) : ∀ zt, execSel c f s = .next zt → Kept z zt := by
  intro zt e
  unfold execSel at e
  injection e with e
  subst e
  try dsimp only
  repeat' (first | (intro _) | with_reducible assumption | with_reducible apply kept_ite | with_reducible apply kept_issue | (with_reducible first | apply kept_mk | apply kept_mem); first | (intro _) | with_reducible assumption | with_reducible apply kept_ite | with_reducible apply kept_issue | split)

theorem kept_execLqs {z : State} (c : Nat) (f : FSR) (s : State) (hz : Kept z s) : ∀ zt, execLqs c f s = .next zt → Kept z zt := by
  intro zt e
  unfold execLqs at e
  injection e with e
  subst e
  try dsimp only
  repeat' (first | (intro _) | with_reducible assumption | with_reducible apply kept_ite | with_reducible apply kept_issue | (with_reducible first | apply kept_mk | apply kept_mem); first | (intro _) | with_reducible assumption | with_reducible apply kept_ite | with_reducible apply kept_issue | split)

theorem kept_execSqs {z : State} (c : Nat) (f : FSR) (s : State) (hz : Kept z s) : ∀ zt, execSqs c f s = .next zt → Kept z zt := by
  intro zt e
  unfold execSqs at e
  injection e with e
  subst e
  try dsimp only
  repeat' (first | (intro _) | with_reducible assumption | with_reducible apply kept_ite | with_reducible apply kept_issue | (with_reducible first | apply kept_mk | apply kept_mem); first | (intro _) | with_reducible assumption | with_reducible apply kept_ite | with_reducible apply kept_issue | split)

theorem kept_execSrseed {z : State} (c : Nat) (f : FSR) (s : State) (hz : Kept z s) : ∀ zt, execSrseed c f s = .next zt → Kept z zt := by
  intro zt e
  unfold execSrseed at e
  injection e with e
  subst e
  try dsimp only
  repeat' (first | (intro _) | with_reducible assumption | with_reducible apply kept_ite | with_reducible apply kept_issue | (with_reducible first | apply kept_mk | apply kept_mem); first | (intro _) | with_reducible assumption | with_reducible apply kept_ite | with_reducible apply kept_issue | split)

theorem kept_execGetid {z : State} (c : Nat) (f : FSI) (s : State) (hz : Kept z s) : ∀ zt, execGetid c f s = .next zt → Kept z zt := by
  intro zt e
  unfold execGetid at e
  injection e with e
  subst e
  try dsimp only
  repeat' (first | (intro _) | with_reducible assumption | with_reducible apply kept_ite | with_reducible apply kept_issue | (with_reducible first | apply kept_mk | apply kept_mem); first | (intro _) | with_reducible assumption | with_reducible apply kept_ite | with_reducible apply kept_issue | split)

theorem kept_execBc {z : State} (c : Nat) (f : FSB) (s : State) (hz : Kept z s) : ∀ zt, execBc c f s = .next zt → Kept z zt := by
  intro zt e
  unfold execBc at e
  injection e with e
  subst e
  try dsimp only
  repeat' (first | (intro _) | with_reducible assumption | with_reducible apply kept_ite | with_reducible apply kept_issue | (with_reducible first | apply kept_mk | apply kept_mem); first | (intro _) | with_reducible assumption | with_reducible apply kept_ite | with_reducible apply kept_issue | split)

theorem kept_execJmp {z : State} (c : Nat) (f : FSB) (s : State) (hz : Kept z s) : ∀ zt, execJmp c f s = .next zt → Kept z zt := by
  intro zt e
  unfold execJmp at e
  injection e with e
  subst e
  try dsimp only
  repeat' (first | (intro _) | with_reducible assumption | with_reducible apply kept_ite | with_reducible apply kept_issue | (with_reducible first | apply kept_mk | apply kept_mem); first | (intro _) | with_reducible assumption | with_reducible apply kept_ite | with_reducible apply kept_issue | split)

theorem kept_execVaddVsubVmul {z : State} (c : Nat) (op : VArith) (f : FVR) (s : State) (hz : Kept z s) : ∀ zt, execVaddVsubVmul c op f s = .next zt → Kept z zt := by
  intro zt e
  unfold execVaddVsubVmul at e
  injection e with e
  subst e
  try dsimp only
  repeat' (first | (intro _) | with_reducible assumption | with_reducible apply kept_ite | with_reducible apply kept_issue | (with_reducible first | apply kept_mk | apply kept_mem); first | (intro _) | with_reducible assumption | with_reducible apply kept_ite | with_reducible apply kept_issue | split)

theorem kept_execVfma {z : State} (c : Nat) (f : FVR) (s : State) (hz : Kept z s) : ∀ zt, execVfma c f s = .next zt → Kept z zt := by
  intro zt e
  unfold execVfma at e
  injection e with e
  subst e
  try dsimp only
  repeat' (first | (intro _) | with_reducible assumption | with_reducible apply kept_ite | with_reducible apply kept_issue | (with_reducible first | apply kept_mk | apply kept_mem); first | (intro _) | with_reducible assumption | with_reducible apply kept_ite | with_reducible apply kept_issue | split)

theorem kept_execVfms {z : State} (c : Nat) (f : FVR) (s : State) (hz : Kept z s) : ∀ zt, execVfms c f s = .next zt → Kept z zt := by
  intro zt e
  unfold execVfms at e
  injection e with e
  subst e
  try dsimp only
  repeat' (first | (intro _) | with_reducible assumption | with_reducible apply kept_ite | with_reducible apply kept_issue | (with_reducible first | apply kept_mk | apply kept_mem); first | (intro _) | with_reducible assumption | with_reducible apply kept_ite | with_reducible apply kept_issue | split)

theorem kept_execVminVmax {z : State} (c : Nat) (mx : Bool) (f : FVR) (s : State) (hz : Kept z s) : ∀ zt, execVminVmax c mx f s = .next zt → Kept z zt := by
  intro zt e
  unfold execVminVmax at e
  injection e with e
  subst e
  try dsimp only
  repeat' (first | (intro _) | with_reducible assumption | with_reducible apply kept_ite | with_reducible apply kept_issue | (with_reducible first | apply kept_mk | apply kept_mem); first | (intro _) | with_reducible assumption | with_reducible apply kept_ite | with_reducible apply kept_issue | split)

theorem kept_execVabsVneg {z : State} (c : Nat) (neg : Bool) (f : FVR) (s : State) (hz : Kept z s) : ∀ zt, execVabsVneg c neg f s = .next zt → Kept z zt := by
  intro zt e
  unfold execVabsVneg at e
  injection e with e
  subst e
  try dsimp only
  repeat' (first | (intro _) | with_reducible assumption | with_reducible apply kept_ite | with_reducible apply kept_issue | (with_reducible first | apply kept_mk | apply kept_mem); first | (intro _) | with_reducible assumption | with_reducible apply kept_ite | with_reducible apply kept_issue | split)

theorem kept_execVsqrt {z : State} (c : Nat) (f : FVR) (s : State) (hz : Kept z s) : ∀ zt, execVsqrt c f s = .next zt → Kept z zt := by
  intro zt e
  unfold execVsqrt at e
  injection e with e
  subst e
  try dsimp only
  repeat' (first | (intro _) | with_reducible assumption | with_reducible apply kept_ite | with_reducible apply kept_issue | (with_reducible first | apply kept_mk | apply kept_mem); first | (intro _) | with_reducible assumption | with_reducible apply kept_ite | with_reducible apply kept_issue | split)

theorem kept_execVfunc {z : State} (c : Nat) (op : VFunc) (f : FVR) (s : State) (hz : Kept z s) : ∀ zt, execVfunc c op f s = .next zt → Kept z zt := by
  intro zt e
  unfold execVfunc at e
  injection e with e
  subst e
  try dsimp only
  repeat' (first | (intro _) | with_reducible assumption | with_reducible apply kept_ite | with_reducible apply kept_issue | (with_reducible first | apply kept_mk | apply kept_mem); first | (intro _) | with_reducible assumption | with_reducible apply kept_ite | with_reducible apply kept_issue | split)

theorem kept_execVlogic {z : State} (c : Nat) (op : Logic) (f : FVR) (s : State) (hz : Kept z s) : ∀ zt, execVlogic c op f s = .next zt → Kept z zt := by
  intro zt e
  unfold execVlogic at e
  injection e with e
  subst e
  try dsimp only
  repeat' (first | (intro _) | with_reducible assumption | with_reducible apply kept_ite | with_reducible apply kept_issue | (with_reducible first | apply kept_mk | apply kept_mem); first | (intro _) | with_reducible assumption | with_reducible apply kept_ite | with_reducible apply kept_issue | split)

theorem kept_execVshift {z : State} (c : Nat) (op : Shift) (f : FVR) (s : State) (hz : Kept z s) : ∀ zt, execVshift c op f s = .next zt → Kept z zt := by
  intro zt e
  unfold execVshift at e
  injection e with e
  subst e
  try dsimp only
  repeat' (first | (intro _) | with_reducible assumption | with_reducible apply kept_ite | with_reducible apply kept_issue | (with_reducible first | apply kept_mk | apply kept_mem); first | (intro _) | with_reducible assumption | with_reducible apply kept_ite | with_reducible apply kept_issue | split)

theorem kept_execVcmp {z : State} (c : Nat) (op : VRel) (f : FVR) (s : State) (hz : Kept z s) : ∀ zt, execVcmp c op f s = .next zt → Kept z zt := by
  intro zt e
  unfold execVcmp at e
  injection e with e
  subst e
  try dsimp only
  repeat' (first | (intro _) | with_reducible assumption | with_reducible apply kept_ite | with_reducible apply kept_issue | (with_reducible first | apply kept_mk | apply kept_mem); first | (intro _) | with_reducible assumption | with_reducible apply kept_ite | with_reducible apply kept_issue | split)

theorem kept_execVsel {z : State} (c : Nat) (f : FVR) (s : State) (hz : Kept z s) : ∀ zt, execVsel c f s = .next zt → Kept z zt := by
  intro zt e
  unfold execVsel at e
  injection e with e
  subst e
  try dsimp only
  repeat' (first | (intro _) | with_reducible assumption | with_reducible apply kept_ite | with_reducible apply kept_issue | (with_reducible first | apply kept_mk | apply kept_mem); first | (intro _) | with_reducible assumption | with_reducible apply kept_ite | with_reducible apply kept_issue | split)

theorem kept_execVredsum {z : State} (c : Nat) (f : FVR) (s : State) (hz : Kept z s) : ∀ zt, execVredsum c f s = .next zt → Kept z zt := by
  intro zt e
  unfold execVredsum at e
  injection e with e
  subst e
  try dsimp only
  repeat' (first | (intro _) | with_reducible assumption | with_reducible apply kept_ite | with_reducible apply kept_issue | (with_reducible first | apply kept_mk | apply kept_mem); first | (intro _) | with_reducible assumption | with_reducible apply kept_ite | with_reducible apply kept_issue | split)

theorem kept_execVredmax {z : State} (c : Nat) (f : FVR) (s : State) (hz : Kept z s) : ∀ zt, execVredmax c f s = .next zt → Kept z zt := by
  intro zt e
  unfold execVredmax at e
  injection e with e
  subst e
  try dsimp only
  repeat' (first | (intro _) | with_reducible assumption | with_reducible apply kept_ite | with_reducible apply kept_issue | (with_reducible first | apply kept_mk | apply kept_mem); first | (intro _) | with_reducible assumption | with_reducible apply kept_ite | with_reducible apply kept_issue | split)

theorem kept_execVany {z : State} (c : Nat) (f : FVP) (s : State) (hz : Kept z s) : ∀ zt, execVany c f s = .next zt → Kept z zt := by
  intro zt e
  unfold execVany at e
  injection e with e
  subst e
  try dsimp only
  repeat' (first | (intro _) | with_reducible assumption | with_reducible apply kept_ite | with_reducible apply kept_issue | (with_reducible first | apply kept_mk | apply kept_mem); first | (intro _) | with_reducible assumption | with_reducible apply kept_ite | with_reducible apply kept_issue | split)

theorem kept_execVcvt {z : State} (c : Nat) (f : FVC) (s : State) (hz : Kept z s) : ∀ zt, execVcvt c f s = .next zt → Kept z zt := by
  intro zt e
  unfold execVcvt at e
  injection e with e
  subst e
  try dsimp only
  repeat' (first | (intro _) | with_reducible assumption | with_reducible apply kept_ite | with_reducible apply kept_issue | (with_reducible first | apply kept_mk | apply kept_mem); first | (intro _) | with_reducible assumption | with_reducible apply kept_ite | with_reducible apply kept_issue | split)

theorem kept_execVcvtbs {z : State} (c : Nat) (f : FVC) (s : State) (hz : Kept z s) : ∀ zt, execVcvtbs c f s = .next zt → Kept z zt := by
  intro zt e
  unfold execVcvtbs at e
  injection e with e
  subst e
  try dsimp only
  repeat' (first | (intro _) | with_reducible assumption | with_reducible apply kept_ite | with_reducible apply kept_issue | (with_reducible first | apply kept_mk | apply kept_mem); first | (intro _) | with_reducible assumption | with_reducible apply kept_ite | with_reducible apply kept_issue | split)

theorem kept_execVcvtbd {z : State} (c : Nat) (f : FVC) (s : State) (hz : Kept z s) : ∀ zt, execVcvtbd c f s = .next zt → Kept z zt := by
  intro zt e
  unfold execVcvtbd at e
  injection e with e
  subst e
  try dsimp only
  repeat' (first | (intro _) | with_reducible assumption | with_reducible apply kept_ite | with_reducible apply kept_issue | (with_reducible first | apply kept_mk | apply kept_mem); first | (intro _) | with_reducible assumption | with_reducible apply kept_ite | with_reducible apply kept_issue | split)

theorem kept_execVcvtbb {z : State} (c : Nat) (f : FVC) (s : State) (hz : Kept z s) : ∀ zt, execVcvtbb c f s = .next zt → Kept z zt := by
  intro zt e
  unfold execVcvtbb at e
  injection e with e
  subst e
  try dsimp only
  repeat' (first | (intro _) | with_reducible assumption | with_reducible apply kept_ite | with_reducible apply kept_issue | (with_reducible first | apply kept_mk | apply kept_mem); first | (intro _) | with_reducible assumption | with_reducible apply kept_ite | with_reducible apply kept_issue | split)

theorem kept_execLqv {z : State} (c : Nat) (f : FVR) (s : State) (hz : Kept z s) : ∀ zt, execLqv c f s = .next zt → Kept z zt := by
  intro zt e
  unfold execLqv at e
  injection e with e
  subst e
  try dsimp only
  repeat' (first | (intro _) | with_reducible assumption | with_reducible apply kept_ite | with_reducible apply kept_issue | (with_reducible first | apply kept_mk | apply kept_mem); first | (intro _) | with_reducible assumption | with_reducible apply kept_ite | with_reducible apply kept_issue | split)

theorem kept_execSqv {z : State} (c : Nat) (f : FVR) (s : State) (hz : Kept z s) : ∀ zt, execSqv c f s = .next zt → Kept z zt := by
  intro zt e
  unfold execSqv at e
  injection e with e
  subst e
  try dsimp only
  repeat' (first | (intro _) | with_reducible assumption | with_reducible apply kept_ite | with_reducible apply kept_issue | (with_reducible first | apply kept_mk | apply kept_mem); first | (intro _) | with_reducible assumption | with_reducible apply kept_ite | with_reducible apply kept_issue | split)

theorem kept_execVbcast {z : State} (c : Nat) (f : FVS) (s : State) (hz : Kept z s) : ∀ zt, execVbcast c f s = .next zt → Kept z zt := by
  intro zt e
  unfold execVbcast at e
  injection e with e
  subst e
  try dsimp only
  repeat' (first | (intro _) | with_reducible assumption | with_reducible apply kept_ite | with_reducible apply kept_issue | (with_reducible first | apply kept_mk | apply kept_mem); first | (intro _) | with_reducible assumption | with_reducible apply kept_ite | with_reducible apply kept_issue | split)

theorem kept_execVmovs {z : State} (c : Nat) (f : FVS) (s : State) (hz : Kept z s) : ∀ zt, execVmovs c f s = .next zt → Kept z zt := by
  intro zt e
  unfold execVmovs at e
  injection e with e
  subst e
  try dsimp only
  repeat' (first | (intro _) | with_reducible assumption | with_reducible apply kept_ite | with_reducible apply kept_issue | (with_reducible first | apply kept_mk | apply kept_mem); first | (intro _) | with_reducible assumption | with_reducible apply kept_ite | with_reducible apply kept_issue | split)

theorem kept_execVtr {z : State} (c : Nat) (f : FVT) (s : State) (hz : Kept z s) : ∀ zt, execVtr c f s = .next zt → Kept z zt := by
  intro zt e
  unfold execVtr at e
  injection e with e
  subst e
  try dsimp only
  repeat' (first | (intro _) | with_reducible assumption | with_reducible apply kept_ite | with_reducible apply kept_issue | (with_reducible first | apply kept_mk | apply kept_mem); first | (intro _) | with_reducible assumption | with_reducible apply kept_ite | with_reducible apply kept_issue | split)

theorem kept_execVtw {z : State} (c : Nat) (f : FVT) (s : State) (hz : Kept z s) : ∀ zt, execVtw c f s = .next zt → Kept z zt := by
  intro zt e
  unfold execVtw at e
  injection e with e
  subst e
  try dsimp only
  repeat' (first | (intro _) | with_reducible assumption | with_reducible apply kept_ite | with_reducible apply kept_issue | (with_reducible first | apply kept_mk | apply kept_mem); first | (intro _) | with_reducible assumption | with_reducible apply kept_ite | with_reducible apply kept_issue | split)

theorem kept_execMmul {z : State} (c : Nat) (f : FMM) (s : State) (hz : Kept z s) : ∀ zt, execMmul c f s = .next zt → Kept z zt := by
  intro zt e
  unfold execMmul at e
  injection e with e
  subst e
  try dsimp only
  repeat' (first | (intro _) | with_reducible assumption | with_reducible apply kept_ite | with_reducible apply kept_issue | (with_reducible first | apply kept_mk | apply kept_mem); first | (intro _) | with_reducible assumption | with_reducible apply kept_ite | with_reducible apply kept_issue | split)

theorem kept_execMdrain {z : State} (c : Nat) (f : FMD) (s : State) (hz : Kept z s) : ∀ zt, execMdrain c f s = .next zt → Kept z zt := by
  intro zt e
  unfold execMdrain at e
  injection e with e
  subst e
  try dsimp only
  repeat' (first | (intro _) | with_reducible assumption | with_reducible apply kept_ite | with_reducible apply kept_issue | (with_reducible first | apply kept_mk | apply kept_mem); first | (intro _) | with_reducible assumption | with_reducible apply kept_ite | with_reducible apply kept_issue | split)

theorem kept_execMzero {z : State} (c : Nat) (mask : BitVec 8) (s : State) (hz : Kept z s) : ∀ zt, execMzero c mask s = .next zt → Kept z zt := by
  intro zt e
  unfold execMzero at e
  injection e with e
  subst e
  try dsimp only
  repeat' (first | (intro _) | with_reducible assumption | with_reducible apply kept_ite | with_reducible apply kept_issue | (with_reducible first | apply kept_mk | apply kept_mem); first | (intro _) | with_reducible assumption | with_reducible apply kept_ite | with_reducible apply kept_issue | split)

theorem kept_execMswap {z : State} (c : Nat) (s : State) (hz : Kept z s) : ∀ zt, execMswap c s = .next zt → Kept z zt := by
  intro zt e
  unfold execMswap at e
  injection e with e
  subst e
  try dsimp only
  repeat' (first | (intro _) | with_reducible assumption | with_reducible apply kept_ite | with_reducible apply kept_issue | (with_reducible first | apply kept_mk | apply kept_mem); first | (intro _) | with_reducible assumption | with_reducible apply kept_ite | with_reducible apply kept_issue | split)

theorem kept_execTrel {z : State} (c : Nat) (mask : BitVec 16) (s : State) (hz : Kept z s) : ∀ zt, execTrel c mask s = .next zt → Kept z zt := by
  intro zt e
  unfold execTrel at e
  injection e with e
  subst e
  try dsimp only
  repeat' (first | (intro _) | with_reducible assumption | with_reducible apply kept_ite | with_reducible apply kept_issue | (with_reducible first | apply kept_mk | apply kept_mem); first | (intro _) | with_reducible assumption | with_reducible apply kept_ite | with_reducible apply kept_issue | split)

theorem kept_execLd {z : State} (c : Nat) (f : FAM) (s : State) (hz : Kept z s) : ∀ zt, execLd c f s = .next zt → Kept z zt := by
  intro zt e
  unfold execLd at e
  injection e with e
  subst e
  try dsimp only
  repeat' (first | (intro _) | with_reducible assumption | with_reducible apply kept_ite | with_reducible apply kept_issue | (with_reducible first | apply kept_mk | apply kept_mem); first | (intro _) | with_reducible assumption | with_reducible apply kept_ite | with_reducible apply kept_issue | split)

theorem kept_execSt {z : State} (c : Nat) (f : FAM) (s : State) (hz : Kept z s) : ∀ zt, execSt c f s = .next zt → Kept z zt := by
  intro zt e
  unfold execSt at e
  injection e with e
  subst e
  try dsimp only
  repeat' (first | (intro _) | with_reducible assumption | with_reducible apply kept_ite | with_reducible apply kept_issue | (with_reducible first | apply kept_mk | apply kept_mem); first | (intro _) | with_reducible assumption | with_reducible apply kept_ite | with_reducible apply kept_issue | split)

theorem kept_execPf {z : State} (c : Nat) (f : FAM) (s : State) (hz : Kept z s) : ∀ zt, execPf c f s = .next zt → Kept z zt := by
  intro zt e
  unfold execPf at e
  injection e with e
  subst e
  try dsimp only
  repeat' (first | (intro _) | with_reducible assumption | with_reducible apply kept_ite | with_reducible apply kept_issue | (with_reducible first | apply kept_mk | apply kept_mem); first | (intro _) | with_reducible assumption | with_reducible apply kept_ite | with_reducible apply kept_issue | split)

theorem kept_execMload {z : State} (c : Nat) (f : FAT) (s : State) (hz : Kept z s) : ∀ zt, execMload c f s = .next zt → Kept z zt := by
  intro zt e
  unfold execMload at e
  injection e with e
  subst e
  try dsimp only
  repeat' (first | (intro _) | with_reducible assumption | with_reducible apply kept_ite | with_reducible apply kept_issue | (with_reducible first | apply kept_mk | apply kept_mem); first | (intro _) | with_reducible assumption | with_reducible apply kept_ite | with_reducible apply kept_issue | split)

theorem kept_execMloadt {z : State} (c : Nat) (f : FAT) (s : State) (hz : Kept z s) : ∀ zt, execMloadt c f s = .next zt → Kept z zt := by
  intro zt e
  unfold execMloadt at e
  injection e with e
  subst e
  try dsimp only
  repeat' (first | (intro _) | with_reducible assumption | with_reducible apply kept_ite | with_reducible apply kept_issue | (with_reducible first | apply kept_mk | apply kept_mem); first | (intro _) | with_reducible assumption | with_reducible apply kept_ite | with_reducible apply kept_issue | split)

theorem kept_execAmo {z : State} (c : Nat) (f : FAX) (s : State) (hz : Kept z s) : ∀ zt, execAmo c f s = .next zt → Kept z zt := by
  intro zt e
  unfold execAmo at e
  injection e with e
  subst e
  try dsimp only
  repeat' (first | (intro _) | with_reducible assumption | with_reducible apply kept_ite | with_reducible apply kept_issue | (with_reducible first | apply kept_mk | apply kept_mem); first | (intro _) | with_reducible assumption | with_reducible apply kept_ite | with_reducible apply kept_issue | split)

theorem kept_execAddaSuba {z : State} (c : Nat) (sub : Bool) (f : FAR) (s : State) (hz : Kept z s) : ∀ zt, execAddaSuba c sub f s = .next zt → Kept z zt := by
  intro zt e
  unfold execAddaSuba at e
  injection e with e
  subst e
  try dsimp only
  repeat' (first | (intro _) | with_reducible assumption | with_reducible apply kept_ite | with_reducible apply kept_issue | (with_reducible first | apply kept_mk | apply kept_mem); first | (intro _) | with_reducible assumption | with_reducible apply kept_ite | with_reducible apply kept_issue | split)

theorem kept_execAddai {z : State} (c : Nat) (f : FAI) (s : State) (hz : Kept z s) : ∀ zt, execAddai c f s = .next zt → Kept z zt := by
  intro zt e
  unfold execAddai at e
  injection e with e
  subst e
  try dsimp only
  repeat' (first | (intro _) | with_reducible assumption | with_reducible apply kept_ite | with_reducible apply kept_issue | (with_reducible first | apply kept_mk | apply kept_mem); first | (intro _) | with_reducible assumption | with_reducible apply kept_ite | with_reducible apply kept_issue | split)

theorem kept_execShla {z : State} (c : Nat) (f : FAI) (s : State) (hz : Kept z s) : ∀ zt, execShla c f s = .next zt → Kept z zt := by
  intro zt e
  unfold execShla at e
  injection e with e
  subst e
  try dsimp only
  repeat' (first | (intro _) | with_reducible assumption | with_reducible apply kept_ite | with_reducible apply kept_issue | (with_reducible first | apply kept_mk | apply kept_mem); first | (intro _) | with_reducible assumption | with_reducible apply kept_ite | with_reducible apply kept_issue | split)

theorem kept_execMulai {z : State} (c : Nat) (f : FAI) (s : State) (hz : Kept z s) : ∀ zt, execMulai c f s = .next zt → Kept z zt := by
  intro zt e
  unfold execMulai at e
  injection e with e
  subst e
  try dsimp only
  repeat' (first | (intro _) | with_reducible assumption | with_reducible apply kept_ite | with_reducible apply kept_issue | (with_reducible first | apply kept_mk | apply kept_mem); first | (intro _) | with_reducible assumption | with_reducible apply kept_ite | with_reducible apply kept_issue | split)

theorem kept_execLia {z : State} (c : Nat) (f : FAI) (s : State) (hz : Kept z s) : ∀ zt, execLia c f s = .next zt → Kept z zt := by
  intro zt e
  unfold execLia at e
  injection e with e
  subst e
  try dsimp only
  repeat' (first | (intro _) | with_reducible assumption | with_reducible apply kept_ite | with_reducible apply kept_issue | (with_reducible first | apply kept_mk | apply kept_mem); first | (intro _) | with_reducible assumption | with_reducible apply kept_ite | with_reducible apply kept_issue | split)

theorem kept_execBra {z : State} (c : Nat) (f : FAB) (s : State) (hz : Kept z s) : ∀ zt, execBra c f s = .next zt → Kept z zt := by
  intro zt e
  unfold execBra at e
  injection e with e
  subst e
  try dsimp only
  repeat' (first | (intro _) | with_reducible assumption | with_reducible apply kept_ite | with_reducible apply kept_issue | (with_reducible first | apply kept_mk | apply kept_mem); first | (intro _) | with_reducible assumption | with_reducible apply kept_ite | with_reducible apply kept_issue | split)

theorem kept_execJmpa {z : State} (c : Nat) (f : FAB) (s : State) (hz : Kept z s) : ∀ zt, execJmpa c f s = .next zt → Kept z zt := by
  intro zt e
  unfold execJmpa at e
  injection e with e
  subst e
  try dsimp only
  repeat' (first | (intro _) | with_reducible assumption | with_reducible apply kept_ite | with_reducible apply kept_issue | (with_reducible first | apply kept_mk | apply kept_mem); first | (intro _) | with_reducible assumption | with_reducible apply kept_ite | with_reducible apply kept_issue | split)

theorem kept_execSet {z : State} (c : Nat) (x : Bool) (f : FSF) (s : State) (hz : Kept z s) : ∀ zt, execSet c x f s = .next zt → Kept z zt := by
  intro zt e
  unfold execSet at e
  injection e with e
  subst e
  try dsimp only
  repeat' (first | (intro _) | with_reducible assumption | with_reducible apply kept_ite | with_reducible apply kept_issue | (with_reducible first | apply kept_mk | apply kept_mem); first | (intro _) | with_reducible assumption | with_reducible apply kept_ite | with_reducible apply kept_issue | split)

theorem kept_execClr {z : State} (c : Nat) (x : Bool) (f : FSF) (s : State) (hz : Kept z s) : ∀ zt, execClr c x f s = .next zt → Kept z zt := by
  intro zt e
  unfold execClr at e
  injection e with e
  subst e
  try dsimp only
  repeat' (first | (intro _) | with_reducible assumption | with_reducible apply kept_ite | with_reducible apply kept_issue | (with_reducible first | apply kept_mk | apply kept_mem); first | (intro _) | with_reducible assumption | with_reducible apply kept_ite | with_reducible apply kept_issue | split)

theorem kept_execWaitc {z : State} (c : Nat) (x : Bool) (f : FSF) (s : State) (hz : Kept z s) : ∀ zt, execWaitc c x f s = .next zt → Kept z zt := by
  intro zt e
  unfold execWaitc at e
  injection e with e
  subst e
  try dsimp only
  repeat' (first | (intro _) | with_reducible assumption | with_reducible apply kept_ite | with_reducible apply kept_issue | (with_reducible first | apply kept_mk | apply kept_mem); first | (intro _) | with_reducible assumption | with_reducible apply kept_ite | with_reducible apply kept_issue | split)

theorem kept_execTest {z : State} (c : Nat) (x : Bool) (f : FSF) (s : State) (hz : Kept z s) : ∀ zt, execTest c x f s = .next zt → Kept z zt := by
  intro zt e
  unfold execTest at e
  injection e with e
  subst e
  try dsimp only
  repeat' (first | (intro _) | with_reducible assumption | with_reducible apply kept_ite | with_reducible apply kept_issue | (with_reducible first | apply kept_mk | apply kept_mem); first | (intro _) | with_reducible assumption | with_reducible apply kept_ite | with_reducible apply kept_issue | split)

theorem kept_execBrx {z : State} (c : Nat) (f : FSX) (s : State) (hz : Kept z s) : ∀ zt, execBrx c f s = .next zt → Kept z zt := by
  intro zt e
  unfold execBrx at e
  injection e with e
  subst e
  try dsimp only
  repeat' (first | (intro _) | with_reducible assumption | with_reducible apply kept_ite | with_reducible apply kept_issue | (with_reducible first | apply kept_mk | apply kept_mem); first | (intro _) | with_reducible assumption | with_reducible apply kept_ite | with_reducible apply kept_issue | split)

theorem kept_execStop {z : State} (c : Nat) (x : Bool) (id : BitVec 16) (s : State) (hz : Kept z s) : ∀ zt, execStop c x id s = .next zt → Kept z zt := by
  intro zt e
  unfold execStop at e
  injection e with e
  subst e
  try dsimp only
  repeat' (first | (intro _) | with_reducible assumption | with_reducible apply kept_ite | with_reducible apply kept_issue | (with_reducible first | apply kept_mk | apply kept_mem); first | (intro _) | with_reducible assumption | with_reducible apply kept_ite | with_reducible apply kept_issue | split)

theorem kept_execEndStream {z : State} (c : Nat) (x : Bool) (s : State) (hz : Kept z s) : ∀ zt, execEndStream c x s = .next zt → Kept z zt := by
  intro zt e
  unfold execEndStream at e
  injection e with e
  subst e
  try dsimp only
  repeat' (first | (intro _) | with_reducible assumption | with_reducible apply kept_ite | with_reducible apply kept_issue | (with_reducible first | apply kept_mk | apply kept_mem); first | (intro _) | with_reducible assumption | with_reducible apply kept_ite | with_reducible apply kept_issue | split)

theorem kept_fetchIssue {z : State} (s : State) (c : Nat) (x : Bool) (hz : Kept z s) : Kept z (fetchIssue s c x) := by
  unfold fetchIssue
  try dsimp only
  repeat' (first | (intro _) | with_reducible assumption | with_reducible apply kept_ite | with_reducible apply kept_holdBundle | with_reducible apply kept_raise | with_reducible apply kept_attempt | (with_reducible first | apply kept_mk | apply kept_mem); first | (intro _) | with_reducible assumption | with_reducible apply kept_ite | with_reducible apply kept_holdBundle | with_reducible apply kept_raise | with_reducible apply kept_attempt | split)

theorem kept_execBundleIssue {z : State} (c : Nat) (x : Bool) (s : State) (hz : Kept z s) : ∀ zt, execBundleIssue c x s = .next zt → Kept z zt := by
  intro zt e
  unfold execBundleIssue at e
  injection e with e
  subst e
  try dsimp only
  repeat' (first | (intro _) | with_reducible assumption | with_reducible apply kept_ite | with_reducible apply kept_fetchIssue | with_reducible apply kept_settleReport | (with_reducible first | apply kept_mk | apply kept_mem); first | (intro _) | with_reducible assumption | with_reducible apply kept_ite | with_reducible apply kept_fetchIssue | with_reducible apply kept_settleReport | split)

end Sys2Proof.Machine
end

