-- ==== Sys2Proof/Laws/KeptEvents.lean ====
section
/-!
SUPPORT. The events of a core and of its matrix unit: each keeps the queue, the fuses and used indices, and the canonical form of memory.
-/
namespace Sys2Proof.Machine

set_option linter.unusedTactic false
set_option linter.unreachableTactic false

theorem kept_snoopFor {z : State} (s : State) (r : Req) (hz : Kept z s) : Kept z (snoopFor s r) := by
  unfold snoopFor
  try dsimp only
  repeat' (first | (intro _) | with_reducible assumption | with_reducible apply kept_ite | with_reducible apply kept_sendBisnp | (with_reducible first | apply kept_mk | apply kept_mem); first | (intro _) | with_reducible assumption | with_reducible apply kept_ite | with_reducible apply kept_sendBisnp | split)

theorem kept_lqArrival {z : State} (s : State) (c id : Nat) (hz : Kept z s) : Kept z (lqArrival s c id) := by
  unfold lqArrival
  try dsimp only
  repeat' (first | (intro _) | with_reducible assumption | with_reducible apply kept_ite | with_reducible apply kept_snoopFor | with_reducible apply kept_sendReady | with_reducible apply kept_updCore | (with_reducible first | apply kept_mk | apply kept_mem); first | (intro _) | with_reducible assumption | with_reducible apply kept_ite | with_reducible apply kept_snoopFor | with_reducible apply kept_sendReady | with_reducible apply kept_updCore | split)

theorem kept_execLqLineArrival {z : State} (c req : Nat) (s : State) (hz : Kept z s) : ∀ zt, execLqLineArrival c req s = .next zt → Kept z zt := by
  intro zt e
  unfold execLqLineArrival at e
  injection e with e
  subst e
  try dsimp only
  repeat' (first | (intro _) | with_reducible assumption | with_reducible apply kept_ite | with_reducible apply kept_lqArrival | (with_reducible first | apply kept_mk | apply kept_mem); first | (intro _) | with_reducible assumption | with_reducible apply kept_ite | with_reducible apply kept_lqArrival | split)

theorem kept_writeAckReturn {z : State} (s : State) (c req : Nat) (hz : Kept z s) : Kept z (writeAckReturn s c req) := by
  unfold writeAckReturn
  try dsimp only
  repeat' (first | (intro _) | with_reducible assumption | with_reducible apply kept_ite | with_reducible apply kept_sendReady | with_reducible apply kept_updCore | with_reducible apply kept_storePump | with_reducible apply kept_storeAtHome | (with_reducible first | apply kept_mk | apply kept_mem); first | (intro _) | with_reducible assumption | with_reducible apply kept_ite | with_reducible apply kept_sendReady | with_reducible apply kept_updCore | with_reducible apply kept_storePump | with_reducible apply kept_storeAtHome | split)

theorem kept_execWriteAckReturn {z : State} (c req : Nat) (s : State) (hz : Kept z s) : ∀ zt, execWriteAckReturn c req s = .next zt → Kept z zt := by
  intro zt e
  unfold execWriteAckReturn at e
  injection e with e
  subst e
  try dsimp only
  repeat' (first | (intro _) | with_reducible assumption | with_reducible apply kept_ite | with_reducible apply kept_writeAckReturn | (with_reducible first | apply kept_mk | apply kept_mem); first | (intro _) | with_reducible assumption | with_reducible apply kept_ite | with_reducible apply kept_writeAckReturn | split)

theorem kept_execOrphanResponseDrop {z : State} (c req : Nat) (s : State) (hz : Kept z s) : ∀ zt, execOrphanResponseDrop c req s = .next zt → Kept z zt := by
  intro zt e
  unfold execOrphanResponseDrop at e
  injection e with e
  subst e
  try dsimp only
  repeat' (first | (intro _) | with_reducible assumption | with_reducible apply kept_ite | with_reducible apply kept_sendReady | with_reducible apply kept_bump | with_reducible apply kept_updCore | (with_reducible first | apply kept_mk | apply kept_mem); first | (intro _) | with_reducible assumption | with_reducible apply kept_ite | with_reducible apply kept_sendReady | with_reducible apply kept_bump | with_reducible apply kept_updCore | split)

theorem kept_countLanding {z : State} (s : State) (c : Nat) (hz : Kept z s) : Kept z (countLanding s c) := by
  unfold countLanding
  try dsimp only
  repeat' (first | (intro _) | with_reducible assumption | with_reducible apply kept_ite | with_reducible apply kept_bump | with_reducible apply kept_nextFree | (with_reducible first | apply kept_mk | apply kept_mem); first | (intro _) | with_reducible assumption | with_reducible apply kept_ite | with_reducible apply kept_bump | with_reducible apply kept_nextFree | split)

theorem kept_tileArrival {z : State} (s : State) (c id : Nat) (hz : Kept z s) : Kept z (tileArrival s c id) := by
  unfold tileArrival
  try dsimp only
  repeat' (first | (intro _) | with_reducible assumption | with_reducible apply kept_ite | with_reducible apply kept_snoopFor | with_reducible apply kept_countLanding | with_reducible apply kept_updCore | with_reducible apply kept_sendReady | with_reducible apply kept_bump | (with_reducible first | apply kept_mk | apply kept_mem); first | (intro _) | with_reducible assumption | with_reducible apply kept_ite | with_reducible apply kept_snoopFor | with_reducible apply kept_countLanding | with_reducible apply kept_updCore | with_reducible apply kept_sendReady | with_reducible apply kept_bump | split)

theorem kept_execTileLineArrival {z : State} (c req : Nat) (s : State) (hz : Kept z s) : ∀ zt, execTileLineArrival c req s = .next zt → Kept z zt := by
  intro zt e
  unfold execTileLineArrival at e
  injection e with e
  subst e
  try dsimp only
  repeat' (first | (intro _) | with_reducible assumption | with_reducible apply kept_ite | with_reducible apply kept_tileArrival | (with_reducible first | apply kept_mk | apply kept_mem); first | (intro _) | with_reducible assumption | with_reducible apply kept_ite | with_reducible apply kept_tileArrival | split)

theorem kept_reissueLq {z : State} (s : State) (c : Nat) (y0 : List Lq) (hz : Kept z s) : Kept z (reissueLq s c y0) := by
  induction y0 generalizing s c with
  | nil =>
    unfold reissueLq
    try dsimp only
    repeat' (first | (intro _) | with_reducible assumption | with_reducible apply kept_ite | with_reducible apply kept_bump | with_reducible apply kept_updCore | with_reducible apply kept_request | (with_reducible first | apply kept_mk | apply kept_mem); first | (intro _) | with_reducible assumption | with_reducible apply kept_ite | with_reducible apply kept_bump | with_reducible apply kept_updCore | with_reducible apply kept_request | split)
  | cons y l ih =>
    unfold reissueLq
    try dsimp only
    repeat' (first | with_reducible apply ih | (intro _) | with_reducible assumption | with_reducible apply kept_ite | with_reducible apply kept_bump | with_reducible apply kept_updCore | with_reducible apply kept_request | (with_reducible first | apply kept_mk | apply kept_mem); first | with_reducible apply ih | (intro _) | with_reducible assumption | with_reducible apply kept_ite | with_reducible apply kept_bump | with_reducible apply kept_updCore | with_reducible apply kept_request | split)

theorem kept_reissueRows {z : State} (dropped : Bool) (s : State) (c t : Nat) (ld : TileLoad) (level : Nat) (y0 : List Nat) (hz : Kept z s) : Kept z (reissueRows dropped s c t ld level y0) := by
  induction y0 generalizing dropped s c t ld level with
  | nil =>
    unfold reissueRows
    try dsimp only
    repeat' (first | (intro _) | with_reducible assumption | with_reducible apply kept_ite | with_reducible apply kept_bumpIf | with_reducible apply kept_request | (with_reducible first | apply kept_mk | apply kept_mem); first | (intro _) | with_reducible assumption | with_reducible apply kept_ite | with_reducible apply kept_bumpIf | with_reducible apply kept_request | split)
  | cons y l ih =>
    unfold reissueRows
    try dsimp only
    repeat' (first | with_reducible apply ih | (intro _) | with_reducible assumption | with_reducible apply kept_ite | with_reducible apply kept_bumpIf | with_reducible apply kept_request | (with_reducible first | apply kept_mk | apply kept_mem); first | with_reducible apply ih | (intro _) | with_reducible assumption | with_reducible apply kept_ite | with_reducible apply kept_bumpIf | with_reducible apply kept_request | split)

theorem kept_reissueTiles {z : State} (why : Option Nat) (s : State) (c : Nat) (y0 : List Nat) (hz : Kept z s) : Kept z (reissueTiles why s c y0) := by
  induction y0 generalizing why s c with
  | nil =>
    unfold reissueTiles
    try dsimp only
    repeat' (first | (intro _) | with_reducible assumption | with_reducible apply kept_ite | with_reducible apply kept_updCore | with_reducible apply kept_reissueRows | with_reducible apply kept_request | with_reducible apply kept_bumpIf | (with_reducible first | apply kept_mk | apply kept_mem); first | (intro _) | with_reducible assumption | with_reducible apply kept_ite | with_reducible apply kept_updCore | with_reducible apply kept_reissueRows | with_reducible apply kept_request | with_reducible apply kept_bumpIf | split)
  | cons y l ih =>
    unfold reissueTiles
    try dsimp only
    repeat' (first | with_reducible apply ih | (intro _) | with_reducible assumption | with_reducible apply kept_ite | with_reducible apply kept_updCore | with_reducible apply kept_reissueRows | with_reducible apply kept_request | with_reducible apply kept_bumpIf | (with_reducible first | apply kept_mk | apply kept_mem); first | with_reducible apply ih | (intro _) | with_reducible assumption | with_reducible apply kept_ite | with_reducible apply kept_updCore | with_reducible apply kept_reissueRows | with_reducible apply kept_request | with_reducible apply kept_bumpIf | split)

theorem kept_raiseHeld {z : State} (s : State) (c : Nat) (hz : Kept z s) : Kept z (raiseHeld s c) := by
  unfold raiseHeld
  try dsimp only
  repeat' (first | (intro _) | with_reducible assumption | with_reducible apply kept_ite | with_reducible apply kept_streamFault | with_reducible apply kept_updCore | (with_reducible first | apply kept_mk | apply kept_mem); first | (intro _) | with_reducible assumption | with_reducible apply kept_ite | with_reducible apply kept_streamFault | with_reducible apply kept_updCore | split)

theorem kept_commitBrx {z : State} (s : State) (c : Nat) (b : Brx) (hz : Kept z s) : Kept z (commitBrx s c b) := by
  unfold commitBrx
  try dsimp only
  repeat' (first | (intro _) | with_reducible assumption | with_reducible apply kept_ite | with_reducible apply kept_bumpIf | with_reducible apply kept_updCore | with_reducible apply kept_reissueTiles | with_reducible apply kept_reissueLq | with_reducible apply kept_raiseHeld | with_reducible apply kept_drainPump | with_reducible apply kept_storePump | (with_reducible first | apply kept_mk | apply kept_mem); first | (intro _) | with_reducible assumption | with_reducible apply kept_ite | with_reducible apply kept_bumpIf | with_reducible apply kept_updCore | with_reducible apply kept_reissueTiles | with_reducible apply kept_reissueLq | with_reducible apply kept_raiseHeld | with_reducible apply kept_drainPump | with_reducible apply kept_storePump | split)

theorem kept_squashBrx {z : State} (s : State) (c : Nat) (b : Brx) (hz : Kept z s) : Kept z (squashBrx s c b) := by
  unfold squashBrx
  try dsimp only
  repeat' (first | (intro _) | with_reducible assumption | with_reducible apply kept_ite | with_reducible apply kept_bump | with_reducible apply kept_updCore | (with_reducible first | apply kept_mk | apply kept_mem); first | (intro _) | with_reducible assumption | with_reducible apply kept_ite | with_reducible apply kept_bump | with_reducible apply kept_updCore | split)

theorem kept_resolveBrx {z : State} (s : State) (c : Nat) (hz : Kept z s) : Kept z (resolveBrx s c) := by
  unfold resolveBrx
  try dsimp only
  repeat' (first | (intro _) | with_reducible assumption | with_reducible apply kept_ite | with_reducible apply kept_bump | with_reducible apply kept_streamFault | with_reducible apply kept_takeReport | with_reducible apply kept_updCore | with_reducible apply kept_commitBrx | with_reducible apply kept_squashBrx | (with_reducible first | apply kept_mk | apply kept_mem); first | (intro _) | with_reducible assumption | with_reducible apply kept_ite | with_reducible apply kept_bump | with_reducible apply kept_streamFault | with_reducible apply kept_takeReport | with_reducible apply kept_updCore | with_reducible apply kept_commitBrx | with_reducible apply kept_squashBrx | split)

theorem kept_execBrxResolution {z : State} (c : Nat) (s : State) (hz : Kept z s) : ∀ zt, execBrxResolution c s = .next zt → Kept z zt := by
  intro zt e
  unfold execBrxResolution at e
  injection e with e
  subst e
  try dsimp only
  repeat' (first | (intro _) | with_reducible assumption | with_reducible apply kept_ite | with_reducible apply kept_resolveBrx | with_reducible apply kept_settleReport | (with_reducible first | apply kept_mk | apply kept_mem); first | (intro _) | with_reducible assumption | with_reducible apply kept_ite | with_reducible apply kept_resolveBrx | with_reducible apply kept_settleReport | split)

theorem kept_lookup {z : State} (s : State) (q : DirReq) (hz : Kept z s) : Kept z (lookup s q).1 := by
  unfold lookup
  try dsimp only
  repeat' (first | (intro _) | with_reducible assumption | with_reducible apply kept_ite | with_reducible apply kept_setDir | (with_reducible first | apply kept_mk | apply kept_mem); first | (intro _) | with_reducible assumption | with_reducible apply kept_ite | with_reducible apply kept_setDir | split)

theorem kept_directoryLookup {z : State} (s : State) (stack : Nat) (hz : Kept z s) : Kept z (directoryLookup s stack) := by
  unfold directoryLookup
  try dsimp only
  repeat' (first | (intro _) | with_reducible assumption | with_reducible apply kept_ite | with_reducible apply kept_lookup | (with_reducible first | apply kept_mk | apply kept_mem); first | (intro _) | with_reducible assumption | with_reducible apply kept_ite | with_reducible apply kept_lookup | split)

theorem kept_execDirectoryLookup {z : State} (stack : Nat) (s : State) (hz : Kept z s) : ∀ zt, execDirectoryLookup stack s = .next zt → Kept z zt := by
  intro zt e
  unfold execDirectoryLookup at e
  injection e with e
  subst e
  try dsimp only
  repeat' (first | (intro _) | with_reducible assumption | with_reducible apply kept_ite | with_reducible apply kept_directoryLookup | (with_reducible first | apply kept_mk | apply kept_mem); first | (intro _) | with_reducible assumption | with_reducible apply kept_ite | with_reducible apply kept_directoryLookup | split)

theorem kept_sendWaiting {z : State} (s : State) (c : Nat) (home : Home) (y0 : List Req) (hz : Kept z s) : Kept z (sendWaiting s c home y0) := by
  induction y0 generalizing s c home with
  | nil =>
    unfold sendWaiting
    try dsimp only
    repeat' (first | (intro _) | with_reducible assumption | with_reducible apply kept_ite | with_reducible apply kept_sendReq | (with_reducible first | apply kept_mk | apply kept_mem); first | (intro _) | with_reducible assumption | with_reducible apply kept_ite | with_reducible apply kept_sendReq | split)
  | cons y l ih =>
    unfold sendWaiting
    try dsimp only
    repeat' (first | with_reducible apply ih | (intro _) | with_reducible assumption | with_reducible apply kept_ite | with_reducible apply kept_sendReq | (with_reducible first | apply kept_mk | apply kept_mem); first | with_reducible apply ih | (intro _) | with_reducible assumption | with_reducible apply kept_ite | with_reducible apply kept_sendReq | split)

theorem kept_briefFault {z : State} (s : State) (c : Nat) (r : Req) (hz : Kept z s) : Kept z (briefFault s c r) := by
  unfold briefFault
  try dsimp only
  repeat' (first | (intro _) | with_reducible assumption | with_reducible apply kept_ite | with_reducible apply kept_rerequest | with_reducible apply kept_bump | (with_reducible first | apply kept_mk | apply kept_mem); first | (intro _) | with_reducible assumption | with_reducible apply kept_ite | with_reducible apply kept_rerequest | with_reducible apply kept_bump | split)

theorem kept_refuseWaiting {z : State} (s : State) (c : Nat) (gone : Bool) (y0 : List Req) (hz : Kept z s) : Kept z (refuseWaiting s c gone y0) := by
  induction y0 generalizing s c gone with
  | nil =>
    unfold refuseWaiting
    try dsimp only
    repeat' (first | (intro _) | with_reducible assumption | with_reducible apply kept_ite | with_reducible apply kept_dropAccess | with_reducible apply kept_rerequest | with_reducible apply kept_bump | with_reducible apply kept_briefFault | with_reducible apply kept_pageFault | (with_reducible first | apply kept_mk | apply kept_mem); first | (intro _) | with_reducible assumption | with_reducible apply kept_ite | with_reducible apply kept_dropAccess | with_reducible apply kept_rerequest | with_reducible apply kept_bump | with_reducible apply kept_briefFault | with_reducible apply kept_pageFault | split)
  | cons y l ih =>
    unfold refuseWaiting
    try dsimp only
    repeat' (first | with_reducible apply ih | (intro _) | with_reducible assumption | with_reducible apply kept_ite | with_reducible apply kept_dropAccess | with_reducible apply kept_rerequest | with_reducible apply kept_bump | with_reducible apply kept_briefFault | with_reducible apply kept_pageFault | (with_reducible first | apply kept_mk | apply kept_mem); first | with_reducible apply ih | (intro _) | with_reducible assumption | with_reducible apply kept_ite | with_reducible apply kept_dropAccess | with_reducible apply kept_rerequest | with_reducible apply kept_bump | with_reducible apply kept_briefFault | with_reducible apply kept_pageFault | split)

theorem kept_translationAnswer {z : State} (s : State) (who : Requester) (hz : Kept z s) : Kept z (translationAnswer s who) := by
  unfold translationAnswer
  try dsimp only
  repeat' (first | (intro _) | with_reducible assumption | with_reducible apply kept_ite | with_reducible apply kept_askDirectory | with_reducible apply kept_storePump | with_reducible apply kept_sendWaiting | with_reducible apply kept_updCore | with_reducible apply kept_refuseWaiting | (with_reducible first | apply kept_mk | apply kept_mem); first | (intro _) | with_reducible assumption | with_reducible apply kept_ite | with_reducible apply kept_askDirectory | with_reducible apply kept_storePump | with_reducible apply kept_sendWaiting | with_reducible apply kept_updCore | with_reducible apply kept_refuseWaiting | split)

theorem kept_execTranslationAnswer {z : State} (who : Requester) (s : State) (hz : Kept z s) : ∀ zt, execTranslationAnswer who s = .next zt → Kept z zt := by
  intro zt e
  unfold execTranslationAnswer at e
  injection e with e
  subst e
  try dsimp only
  repeat' (first | (intro _) | with_reducible assumption | with_reducible apply kept_ite | with_reducible apply kept_translationAnswer | (with_reducible first | apply kept_mk | apply kept_mem); first | (intro _) | with_reducible assumption | with_reducible apply kept_ite | with_reducible apply kept_translationAnswer | split)

theorem kept_flagAckReturn {z : State} (s : State) (c : Nat) (hz : Kept z s) : Kept z (flagAckReturn s c) := by
  unfold flagAckReturn
  try dsimp only
  repeat' (first | (intro _) | with_reducible assumption | with_reducible apply kept_ite | with_reducible apply kept_updCore | with_reducible apply kept_streamFault | (with_reducible first | apply kept_mk | apply kept_mem); first | (intro _) | with_reducible assumption | with_reducible apply kept_ite | with_reducible apply kept_updCore | with_reducible apply kept_streamFault | split)

theorem kept_execFlagAckReturn {z : State} (c : Nat) (s : State) (hz : Kept z s) : ∀ zt, execFlagAckReturn c s = .next zt → Kept z zt := by
  intro zt e
  unfold execFlagAckReturn at e
  injection e with e
  subst e
  try dsimp only
  repeat' (first | (intro _) | with_reducible assumption | with_reducible apply kept_ite | with_reducible apply kept_flagAckReturn | (with_reducible first | apply kept_mk | apply kept_mem); first | (intro _) | with_reducible assumption | with_reducible apply kept_ite | with_reducible apply kept_flagAckReturn | split)

theorem kept_execCoreRunComplete {z : State} (c : Nat) (s : State) (hz : Kept z s) : ∀ zt, execCoreRunComplete c s = .next zt → Kept z zt := by
  intro zt e
  unfold execCoreRunComplete at e
  injection e with e
  subst e
  try dsimp only
  repeat' (first | (intro _) | with_reducible assumption | with_reducible apply kept_ite | with_reducible apply kept_settleReport | with_reducible apply kept_updCore | (with_reducible first | apply kept_mk | apply kept_mem); first | (intro _) | with_reducible assumption | with_reducible apply kept_ite | with_reducible apply kept_settleReport | with_reducible apply kept_updCore | split)

theorem kept_resumeCore {z : State} (s : State) (c : Nat) (hz : Kept z s) : Kept z (resumeCore s c) := by
  unfold resumeCore
  try dsimp only
  repeat' (first | (intro _) | with_reducible assumption | with_reducible apply kept_ite | with_reducible apply kept_updCore | (with_reducible first | apply kept_mk | apply kept_mem); first | (intro _) | with_reducible assumption | with_reducible apply kept_ite | with_reducible apply kept_updCore | split)

theorem kept_bankRefusal {z : State} (s : State) (c id : Nat) (hz : Kept z s) : Kept z (bankRefusal s c id) := by
  unfold bankRefusal
  try dsimp only
  repeat' (first | (intro _) | with_reducible assumption | with_reducible apply kept_ite | with_reducible apply kept_sendReady | with_reducible apply kept_bump | with_reducible apply kept_joinBank | (with_reducible first | apply kept_mk | apply kept_mem); first | (intro _) | with_reducible assumption | with_reducible apply kept_ite | with_reducible apply kept_sendReady | with_reducible apply kept_bump | with_reducible apply kept_joinBank | split)

theorem kept_execBankRefusal {z : State} (c req : Nat) (s : State) (hz : Kept z s) : ∀ zt, execBankRefusal c req s = .next zt → Kept z zt := by
  intro zt e
  unfold execBankRefusal at e
  injection e with e
  subst e
  try dsimp only
  repeat' (first | (intro _) | with_reducible assumption | with_reducible apply kept_ite | with_reducible apply kept_bankRefusal | (with_reducible first | apply kept_mk | apply kept_mem); first | (intro _) | with_reducible assumption | with_reducible apply kept_ite | with_reducible apply kept_bankRefusal | split)

theorem kept_collect {z : State} (used : Nat → List Nat) (s : State) (c : Nat) (y0 : List (Nat × Nat)) (hz : Kept z s) : Kept z (collect used s c y0) := by
  induction y0 generalizing used s c with
  | nil =>
    unfold collect
    try dsimp only
    repeat' (first | (intro _) | with_reducible assumption | with_reducible apply kept_ite | with_reducible apply kept_bump | with_reducible apply kept_updCore | (with_reducible first | apply kept_mk | apply kept_mem); first | (intro _) | with_reducible assumption | with_reducible apply kept_ite | with_reducible apply kept_bump | with_reducible apply kept_updCore | split)
  | cons y l ih =>
    unfold collect
    try dsimp only
    repeat' (first | with_reducible apply ih | (intro _) | with_reducible assumption | with_reducible apply kept_ite | with_reducible apply kept_bump | with_reducible apply kept_updCore | (with_reducible first | apply kept_mk | apply kept_mem); first | with_reducible apply ih | (intro _) | with_reducible assumption | with_reducible apply kept_ite | with_reducible apply kept_bump | with_reducible apply kept_updCore | split)

theorem kept_mmulCollect {z : State} (s : State) (c : Nat) (hz : Kept z s) : Kept z (mmulCollect s c) := by
  unfold mmulCollect
  try dsimp only
  repeat' (first | (intro _) | with_reducible assumption | with_reducible apply kept_ite | with_reducible apply kept_collect | with_reducible apply kept_updCore | (with_reducible first | apply kept_mk | apply kept_mem); first | (intro _) | with_reducible assumption | with_reducible apply kept_ite | with_reducible apply kept_collect | with_reducible apply kept_updCore | split)

theorem kept_atCore {z : State} (s : State) (c : Nat) (t : State) (h : Kept z s) (ht : Kept z t) : ∀ zt, atCore s c t = .next zt → Kept z zt := by
  intro zt e
  unfold atCore at e
  injection e with e
  subst e
  exact kept_ite h ht

theorem kept_execMmulCollectionStart {z : State} (c : Nat) (s : State) (hz : Kept z s) : ∀ zt, execMmulCollectionStart c s = .next zt → Kept z zt := by
  intro zt e
  unfold execMmulCollectionStart at e
  unfold atCore at e
  injection e with e
  subst e
  try dsimp only
  repeat' (first | (intro _) | with_reducible assumption | with_reducible apply kept_ite | with_reducible apply kept_mmulCollect | (with_reducible first | apply kept_mk | apply kept_mem); first | (intro _) | with_reducible assumption | with_reducible apply kept_ite | with_reducible apply kept_mmulCollect | split)

theorem kept_arraysMul {z : State} (s : State) (c : Nat) (f : FMM) (p : Bool) (y0 : List Nat) (hz : Kept z s) : Kept z (arraysMul s c f p y0) := by
  induction y0 generalizing s c f p with
  | nil =>
    unfold arraysMul
    try dsimp only
    repeat' (first | (intro _) | with_reducible assumption | with_reducible apply kept_ite | with_reducible apply kept_bumpEv | with_reducible apply kept_updCore | (with_reducible first | apply kept_mk | apply kept_mem); first | (intro _) | with_reducible assumption | with_reducible apply kept_ite | with_reducible apply kept_bumpEv | with_reducible apply kept_updCore | split)
  | cons y l ih =>
    unfold arraysMul
    try dsimp only
    repeat' (first | with_reducible apply ih | (intro _) | with_reducible assumption | with_reducible apply kept_ite | with_reducible apply kept_bumpEv | with_reducible apply kept_updCore | (with_reducible first | apply kept_mk | apply kept_mem); first | with_reducible apply ih | (intro _) | with_reducible assumption | with_reducible apply kept_ite | with_reducible apply kept_bumpEv | with_reducible apply kept_updCore | split)

theorem kept_mmulCompute {z : State} (s : State) (c : Nat) (hz : Kept z s) : Kept z (mmulCompute s c) := by
  unfold mmulCompute
  try dsimp only
  repeat' (first | (intro _) | with_reducible assumption | with_reducible apply kept_ite | with_reducible apply kept_updCore | with_reducible apply kept_arraysMul | with_reducible apply kept_bump | (with_reducible first | apply kept_mk | apply kept_mem); first | (intro _) | with_reducible assumption | with_reducible apply kept_ite | with_reducible apply kept_updCore | with_reducible apply kept_arraysMul | with_reducible apply kept_bump | split)

theorem kept_execMmulComputeStart {z : State} (c : Nat) (s : State) (hz : Kept z s) : ∀ zt, execMmulComputeStart c s = .next zt → Kept z zt := by
  intro zt e
  unfold execMmulComputeStart at e
  unfold atCore at e
  injection e with e
  subst e
  try dsimp only
  repeat' (first | (intro _) | with_reducible assumption | with_reducible apply kept_ite | with_reducible apply kept_mmulCompute | (with_reducible first | apply kept_mk | apply kept_mem); first | (intro _) | with_reducible assumption | with_reducible apply kept_ite | with_reducible apply kept_mmulCompute | split)

theorem kept_execMmulComplete {z : State} (c : Nat) (s : State) (hz : Kept z s) : ∀ zt, execMmulComplete c s = .next zt → Kept z zt := by
  intro zt e
  unfold execMmulComplete at e
  injection e with e
  subst e
  try dsimp only
  repeat' (first | (intro _) | with_reducible assumption | with_reducible apply kept_ite | with_reducible apply kept_updCore | (with_reducible first | apply kept_mk | apply kept_mem); first | (intro _) | with_reducible assumption | with_reducible apply kept_ite | with_reducible apply kept_updCore | split)

theorem kept_mdrainStart {z : State} (s : State) (c id : Nat) (hz : Kept z s) : Kept z (mdrainStart s c id) := by
  unfold mdrainStart
  try dsimp only
  repeat' (first | (intro _) | with_reducible assumption | with_reducible apply kept_ite | with_reducible apply kept_updCore | with_reducible apply kept_bumpEv | with_reducible apply kept_setCore | with_reducible apply kept_drainPump | (with_reducible first | apply kept_mk | apply kept_mem); first | (intro _) | with_reducible assumption | with_reducible apply kept_ite | with_reducible apply kept_updCore | with_reducible apply kept_bumpEv | with_reducible apply kept_setCore | with_reducible apply kept_drainPump | split)

theorem kept_execMdrainStart {z : State} (c id : Nat) (s : State) (hz : Kept z s) : ∀ zt, execMdrainStart c id s = .next zt → Kept z zt := by
  intro zt e
  unfold execMdrainStart at e
  unfold atCore at e
  injection e with e
  subst e
  try dsimp only
  repeat' (first | (intro _) | with_reducible assumption | with_reducible apply kept_ite | with_reducible apply kept_mdrainStart | (with_reducible first | apply kept_mk | apply kept_mem); first | (intro _) | with_reducible assumption | with_reducible apply kept_ite | with_reducible apply kept_mdrainStart | split)

theorem kept_mdrainComplete {z : State} (s : State) (c id : Nat) (hz : Kept z s) : Kept z (mdrainComplete s c id) := by
  unfold mdrainComplete
  try dsimp only
  repeat' (first | (intro _) | with_reducible assumption | with_reducible apply kept_ite | with_reducible apply kept_bumpIf | with_reducible apply kept_setCore | with_reducible apply kept_pumpPosted | with_reducible apply kept_storePump | with_reducible apply kept_bumpEv | with_reducible apply kept_drainPump | (with_reducible first | apply kept_mk | apply kept_mem); first | (intro _) | with_reducible assumption | with_reducible apply kept_ite | with_reducible apply kept_bumpIf | with_reducible apply kept_setCore | with_reducible apply kept_pumpPosted | with_reducible apply kept_storePump | with_reducible apply kept_bumpEv | with_reducible apply kept_drainPump | split)

theorem kept_execMdrainComplete {z : State} (c id : Nat) (s : State) (hz : Kept z s) : ∀ zt, execMdrainComplete c id s = .next zt → Kept z zt := by
  intro zt e
  unfold execMdrainComplete at e
  injection e with e
  subst e
  try dsimp only
  repeat' (first | (intro _) | with_reducible assumption | with_reducible apply kept_ite | with_reducible apply kept_mdrainComplete | (with_reducible first | apply kept_mk | apply kept_mem); first | (intro _) | with_reducible assumption | with_reducible apply kept_ite | with_reducible apply kept_mdrainComplete | split)

theorem kept_execMzeroExecute {z : State} (c : Nat) (s : State) (hz : Kept z s) : ∀ zt, execMzeroExecute c s = .next zt → Kept z zt := by
  intro zt e
  unfold execMzeroExecute at e
  unfold atCore at e
  try dsimp only at e
  repeat' (split at e)
  all_goals first | (injection e with e; subst e) | (unfold illFormed at e; cases e; done) | simp at e
  all_goals (try dsimp only)
  all_goals repeat' (first | (intro _) | with_reducible assumption | with_reducible apply kept_ite | with_reducible apply kept_updCore | (with_reducible first | apply kept_mk | apply kept_mem); first | (intro _) | with_reducible assumption | with_reducible apply kept_ite | with_reducible apply kept_updCore | split)

theorem kept_execMswapExecute {z : State} (c : Nat) (s : State) (hz : Kept z s) : ∀ zt, execMswapExecute c s = .next zt → Kept z zt := by
  intro zt e
  unfold execMswapExecute at e
  unfold atCore at e
  try dsimp only at e
  repeat' (split at e)
  all_goals first | (injection e with e; subst e) | (unfold illFormed at e; cases e; done) | simp at e
  all_goals (try dsimp only)
  all_goals repeat' (first | (intro _) | with_reducible assumption | with_reducible apply kept_ite | with_reducible apply kept_updCore | (with_reducible first | apply kept_mk | apply kept_mem); first | (intro _) | with_reducible assumption | with_reducible apply kept_ite | with_reducible apply kept_updCore | split)

theorem kept_execTrelExecute {z : State} (c : Nat) (s : State) (hz : Kept z s) : ∀ zt, execTrelExecute c s = .next zt → Kept z zt := by
  intro zt e
  unfold execTrelExecute at e
  unfold atCore at e
  try dsimp only at e
  repeat' (split at e)
  all_goals first | (injection e with e; subst e) | (unfold illFormed at e; cases e; done) | simp at e
  all_goals (try dsimp only)
  all_goals repeat' (first | (intro _) | with_reducible assumption | with_reducible apply kept_ite | with_reducible apply kept_updCore | (with_reducible first | apply kept_mk | apply kept_mem); first | (intro _) | with_reducible assumption | with_reducible apply kept_ite | with_reducible apply kept_updCore | split)

end Sys2Proof.Machine
end

