-- ==== Sys2Proof/Laws/KeptMemory.lean ====
section
/-!
SUPPORT. Commands, memory, placement and flags: each keeps the queue, the fuses and used indices, and the canonical form of memory.
-/
namespace Sys2Proof.Machine

set_option linter.unusedTactic false
set_option linter.unreachableTactic false

theorem kept_withCmd {z : State} (s : State) (ring slot op : Nat) (f : Line → State) (hz : Kept z s) (hff : ∀ (q0 : Line), Kept z (f q0)) : Kept z (withCmd s ring slot op f) := by
  unfold withCmd
  try dsimp only
  repeat' (first | (intro _) | with_reducible assumption | with_reducible apply kept_ite | with_reducible apply hff | with_reducible apply kept_wakeUp | (with_reducible first | apply kept_mk | apply kept_mem); first | (intro _) | with_reducible assumption | with_reducible apply kept_ite | with_reducible apply hff | with_reducible apply kept_wakeUp | split)

theorem kept_withBusy {z : State} (s : State) (ring slot op n : Nat) (f : Line → State) (hz : Kept z s) (hff : ∀ (q0 : Line), Kept z (f q0)) : Kept z (withBusy s ring slot op n f) := by
  unfold withBusy
  try dsimp only
  repeat' (first | (intro _) | with_reducible assumption | with_reducible apply kept_ite | with_reducible apply hff | (with_reducible first | apply kept_mk | apply kept_mem); first | (intro _) | with_reducible assumption | with_reducible apply kept_ite | with_reducible apply hff | split)

theorem kept_checked {z : State} (s : State) (ring slot : Nat) (l : List (Bool × Status)) (f : State) (h : Kept z s) (hf : Kept z f) : Kept z (checked s ring slot l f) := by
  unfold checked
  split
  · exact kept_finishCmd _ _ _ _ _ h
  · exact hf

theorem kept_writeHost {z : State} (s : State) (a n v : Nat) (hz : Kept z s) : Kept z (writeHost s a n v) := by
  unfold writeHost
  try dsimp only
  repeat' (first | (intro _) | with_reducible assumption | with_reducible apply kept_ite | with_reducible apply kept_bump | (with_reducible first | apply kept_mk | apply kept_mem); first | (intro _) | with_reducible assumption | with_reducible apply kept_ite | with_reducible apply kept_bump | split)

theorem kept_drive {z : State} (s : State) (stack ch : Nat) (w : Bool) (hz : Kept z s) : Kept z (drive s stack ch w) := by
  unfold drive
  try dsimp only
  repeat' (first | (intro _) | with_reducible assumption | with_reducible apply kept_ite | with_reducible apply kept_bump | with_reducible apply kept_setChan | (with_reducible first | apply kept_mk | apply kept_mem); first | (intro _) | with_reducible assumption | with_reducible apply kept_ite | with_reducible apply kept_bump | with_reducible apply kept_setChan | split)

theorem kept_openRow {z : State} (s : State) (stack ch line : Nat) (hz : Kept z s) : Kept z (openRow s stack ch line) := by
  induction line generalizing s stack ch with
  | zero =>
    unfold openRow
    try dsimp only
    repeat' (first | (intro _) | with_reducible assumption | with_reducible apply kept_ite | with_reducible apply kept_bump | with_reducible apply kept_setChan | (with_reducible first | apply kept_mk | apply kept_mem); first | (intro _) | with_reducible assumption | with_reducible apply kept_ite | with_reducible apply kept_bump | with_reducible apply kept_setChan | split)
  | succ n ih =>
    unfold openRow
    try dsimp only
    repeat' (first | with_reducible apply ih | (intro _) | with_reducible assumption | with_reducible apply kept_ite | with_reducible apply kept_bump | with_reducible apply kept_setChan | (with_reducible first | apply kept_mk | apply kept_mem); first | with_reducible apply ih | (intro _) | with_reducible assumption | with_reducible apply kept_ite | with_reducible apply kept_bump | with_reducible apply kept_setChan | split)

theorem kept_putStored {z : State} (s : State) (line : Nat) (v : Line) (hz : Kept z s) : Kept z (putStored s line v) := by
  unfold putStored
  try dsimp only
  repeat' (first | (intro _) | with_reducible assumption | with_reducible apply kept_ite | (with_reducible first | apply kept_mk | apply kept_mem); first | (intro _) | with_reducible assumption | with_reducible apply kept_ite | split)

theorem kept_grind {z : State} (s : State) (stack n : Nat) (hz : Kept z s) : Kept z (grind s stack n) := by
  unfold grind
  try dsimp only
  repeat' (first | (intro _) | with_reducible assumption | with_reducible apply kept_ite | with_reducible apply kept_bump | (with_reducible first | apply kept_mk | apply kept_mem); first | (intro _) | with_reducible assumption | with_reducible apply kept_ite | with_reducible apply kept_bump | split)

theorem kept_passGranules {z : State} (s : State) (b : Nat) (hz : Kept z s) : Kept z (passGranules s b) := by
  unfold passGranules
  try dsimp only
  repeat' (first | (intro _) | with_reducible assumption | with_reducible apply kept_ite | with_reducible apply kept_foldl | with_reducible apply kept_foldl_fst | with_reducible apply kept_grind | (with_reducible first | apply kept_mk | apply kept_mem); first | (intro _) | with_reducible assumption | with_reducible apply kept_ite | with_reducible apply kept_foldl | with_reducible apply kept_foldl_fst | with_reducible apply kept_grind | split)

theorem kept_encodeGranules {z : State} (s : State) (b : Nat) (hz : Kept z s) : Kept z (encodeGranules s b) := by
  unfold encodeGranules
  try dsimp only
  repeat' (first | (intro _) | with_reducible assumption | with_reducible apply kept_ite | with_reducible apply kept_foldl | with_reducible apply kept_foldl_fst | with_reducible apply kept_passGranules | with_reducible apply kept_putStored | (with_reducible first | apply kept_mk | apply kept_mem); first | (intro _) | with_reducible assumption | with_reducible apply kept_ite | with_reducible apply kept_foldl | with_reducible apply kept_foldl_fst | with_reducible apply kept_passGranules | with_reducible apply kept_putStored | split)

theorem kept_readServed {z : State} (s : State) (stack ch : Nat) (hz : Kept z s) : Kept z (readServed s stack ch) := by
  unfold readServed
  try dsimp only
  repeat' (first | (intro _) | with_reducible assumption | with_reducible apply kept_ite | with_reducible apply kept_setChan | (with_reducible first | apply kept_mk | apply kept_mem); first | (intro _) | with_reducible assumption | with_reducible apply kept_ite | with_reducible apply kept_setChan | split)

theorem kept_readBursts {z : State} (s : State) (stack ch line n : Nat) (hz : Kept z s) : Kept z (readBursts s stack ch line n) := by
  unfold readBursts
  try dsimp only
  repeat' (first | (intro _) | with_reducible assumption | with_reducible apply kept_ite | with_reducible apply kept_bump | with_reducible apply kept_openRow | with_reducible apply kept_drive | (with_reducible first | apply kept_mk | apply kept_mem); first | (intro _) | with_reducible assumption | with_reducible apply kept_ite | with_reducible apply kept_bump | with_reducible apply kept_openRow | with_reducible apply kept_drive | split)

theorem kept_writeBursts {z : State} (s : State) (stack ch line n : Nat) (hz : Kept z s) : Kept z (writeBursts s stack ch line n) := by
  unfold writeBursts
  try dsimp only
  repeat' (first | (intro _) | with_reducible assumption | with_reducible apply kept_ite | with_reducible apply kept_bump | with_reducible apply kept_openRow | with_reducible apply kept_drive | (with_reducible first | apply kept_mk | apply kept_mem); first | (intro _) | with_reducible assumption | with_reducible apply kept_ite | with_reducible apply kept_bump | with_reducible apply kept_openRow | with_reducible apply kept_drive | split)

theorem kept_channelRead {z : State} (s : State) (stack ch line : Nat) (placed : Bool) (err : ErrClass) (hz : Kept z s) : Kept z (channelRead s stack ch line placed err) := by
  unfold channelRead
  try dsimp only
  repeat' (first | (intro _) | with_reducible assumption | with_reducible apply kept_ite | with_reducible apply kept_grind | with_reducible apply kept_readBursts | with_reducible apply kept_bump | with_reducible apply kept_poisonLine | with_reducible apply kept_readServed | with_reducible apply kept_bankDone | (with_reducible first | apply kept_mk | apply kept_mem); first | (intro _) | with_reducible assumption | with_reducible apply kept_ite | with_reducible apply kept_grind | with_reducible apply kept_readBursts | with_reducible apply kept_bump | with_reducible apply kept_poisonLine | with_reducible apply kept_readServed | with_reducible apply kept_bankDone | split)

theorem kept_execChannelRead {z : State} (stack ch line : Nat) (r : ChanRead) (s : State) (hz : Kept z s) : ∀ zt, execChannelRead stack ch line r s = .next zt → Kept z zt := by
  intro zt e
  unfold execChannelRead at e
  injection e with e
  subst e
  try dsimp only
  repeat' (first | (intro _) | with_reducible assumption | with_reducible apply kept_ite | with_reducible apply kept_channelRead | (with_reducible first | apply kept_mk | apply kept_mem); first | (intro _) | with_reducible assumption | with_reducible apply kept_ite | with_reducible apply kept_channelRead | split)

theorem kept_drainQueue {z : State} (s : State) (stack ch n : Nat) (hz : Kept z s) : Kept z (drainQueue s stack ch n) := by
  unfold drainQueue
  try dsimp only
  repeat' (first | (intro _) | with_reducible assumption | with_reducible apply kept_ite | with_reducible apply kept_drive | with_reducible apply kept_setChan | (with_reducible first | apply kept_mk | apply kept_mem); first | (intro _) | with_reducible assumption | with_reducible apply kept_ite | with_reducible apply kept_drive | with_reducible apply kept_setChan | split)

theorem kept_turnAround {z : State} (s : State) (stack ch : Nat) (hz : Kept z s) : Kept z (turnAround s stack ch) := by
  unfold turnAround
  try dsimp only
  repeat' (first | (intro _) | with_reducible assumption | with_reducible apply kept_ite | with_reducible apply kept_drive | with_reducible apply kept_setChan | (with_reducible first | apply kept_mk | apply kept_mem); first | (intro _) | with_reducible assumption | with_reducible apply kept_ite | with_reducible apply kept_drive | with_reducible apply kept_setChan | split)

theorem kept_mergeGranule {z : State} (s : State) (stack ch line : Nat) (v : Line) (hz : Kept z s) : Kept z (mergeGranule s stack ch line v) := by
  unfold mergeGranule
  try dsimp only
  repeat' (first | (intro _) | with_reducible assumption | with_reducible apply kept_ite | with_reducible apply kept_putStored | with_reducible apply kept_grind | with_reducible apply kept_readBursts | with_reducible apply kept_bump | with_reducible apply kept_writeBursts | (with_reducible first | apply kept_mk | apply kept_mem); first | (intro _) | with_reducible assumption | with_reducible apply kept_ite | with_reducible apply kept_putStored | with_reducible apply kept_grind | with_reducible apply kept_readBursts | with_reducible apply kept_bump | with_reducible apply kept_writeBursts | split)

theorem kept_writeBurst {z : State} (s : State) (stack ch line : Nat) (mask : BitVec 64) (hz : Kept z s) : Kept z (writeBurst s stack ch line mask) := by
  unfold writeBurst
  try dsimp only
  repeat' (first | (intro _) | with_reducible assumption | with_reducible apply kept_ite | with_reducible apply kept_writeBursts | with_reducible apply kept_readBursts | (with_reducible first | apply kept_mk | apply kept_mem); first | (intro _) | with_reducible assumption | with_reducible apply kept_ite | with_reducible apply kept_writeBursts | with_reducible apply kept_readBursts | split)

theorem kept_leaveMerge {z : State} (s : State) (stack line : Nat) (hz : Kept z s) : Kept z (leaveMerge s stack line) := by
  unfold leaveMerge
  try dsimp only
  repeat' (first | (intro _) | with_reducible assumption | with_reducible apply kept_ite | (with_reducible first | apply kept_mk | apply kept_mem); first | (intro _) | with_reducible assumption | with_reducible apply kept_ite | split)

theorem kept_copyWrite {z : State} (s : State) (stack ch line : Nat) (hz : Kept z s) : Kept z (copyWrite s stack ch line) := by
  unfold copyWrite
  try dsimp only
  repeat' (first | (intro _) | with_reducible assumption | with_reducible apply kept_ite | with_reducible apply kept_drainQueue | with_reducible apply kept_writeBursts | with_reducible apply kept_turnAround | (with_reducible first | apply kept_mk | apply kept_mem); first | (intro _) | with_reducible assumption | with_reducible apply kept_ite | with_reducible apply kept_drainQueue | with_reducible apply kept_writeBursts | with_reducible apply kept_turnAround | split)

theorem kept_channelWrite {z : State} (s : State) (stack ch line : Nat) (placed : Bool) (data : Line) (mask : BitVec 64) (hz : Kept z s) : Kept z (channelWrite s stack ch line placed data mask) := by
  unfold channelWrite
  try dsimp only
  repeat' (first | (intro _) | with_reducible assumption | with_reducible apply kept_ite | with_reducible apply kept_turnAround | with_reducible apply kept_copyWrite | with_reducible apply kept_writeLineMasked | with_reducible apply kept_mergeGranule | with_reducible apply kept_writeBurst | with_reducible apply kept_drainQueue | with_reducible apply kept_leaveMerge | with_reducible apply kept_bankDone | (with_reducible first | apply kept_mk | apply kept_mem); first | (intro _) | with_reducible assumption | with_reducible apply kept_ite | with_reducible apply kept_turnAround | with_reducible apply kept_copyWrite | with_reducible apply kept_writeLineMasked | with_reducible apply kept_mergeGranule | with_reducible apply kept_writeBurst | with_reducible apply kept_drainQueue | with_reducible apply kept_leaveMerge | with_reducible apply kept_bankDone | split)

theorem kept_execChannelWrite {z : State} (stack ch line : Nat) (data : Line) (w : ChanWrite) (s : State) (hz : Kept z s) : ∀ zt, execChannelWrite stack ch line data w s = .next zt → Kept z zt := by
  intro zt e
  unfold execChannelWrite at e
  injection e with e
  subst e
  try dsimp only
  repeat' (first | (intro _) | with_reducible assumption | with_reducible apply kept_ite | with_reducible apply kept_channelWrite | (with_reducible first | apply kept_mk | apply kept_mem); first | (intro _) | with_reducible assumption | with_reducible apply kept_ite | with_reducible apply kept_channelWrite | split)

theorem kept_execChannelTurnaround {z : State} (stack ch : Nat) (s : State) (hz : Kept z s) : ∀ zt, execChannelTurnaround stack ch s = .next zt → Kept z zt := by
  intro zt e
  unfold execChannelTurnaround at e
  injection e with e
  subst e
  try dsimp only
  repeat' (first | (intro _) | with_reducible assumption | with_reducible apply kept_ite | with_reducible apply kept_turnAround | (with_reducible first | apply kept_mk | apply kept_mem); first | (intro _) | with_reducible assumption | with_reducible apply kept_ite | with_reducible apply kept_turnAround | split)

theorem kept_execBankRefresh {z : State} (stack ch bank : Nat) (s : State) (hz : Kept z s) : ∀ zt, execBankRefresh stack ch bank s = .next zt → Kept z zt := by
  intro zt e
  unfold execBankRefresh at e
  injection e with e
  subst e
  try dsimp only
  repeat' (first | (intro _) | with_reducible assumption | with_reducible apply kept_ite | with_reducible apply kept_setChan | (with_reducible first | apply kept_mk | apply kept_mem); first | (intro _) | with_reducible assumption | with_reducible apply kept_ite | with_reducible apply kept_setChan | split)

theorem kept_execInterfaceCalibration {z : State} (stack ch : Nat) (s : State) (hz : Kept z s) : ∀ zt, execInterfaceCalibration stack ch s = .next zt → Kept z zt := by
  intro zt e
  unfold execInterfaceCalibration at e
  injection e with e
  subst e
  try dsimp only
  repeat' (first | (intro _) | with_reducible assumption | with_reducible apply kept_ite | with_reducible apply kept_setChan | (with_reducible first | apply kept_mk | apply kept_mem); first | (intro _) | with_reducible assumption | with_reducible apply kept_ite | with_reducible apply kept_setChan | split)

theorem kept_putSet {z : State} (s : State) (slice line : Nat) (l : List CLine) (hz : Kept z s) : Kept z (putSet s slice line l) := by
  unfold putSet
  try dsimp only
  repeat' (first | (intro _) | with_reducible assumption | with_reducible apply kept_ite | (with_reducible first | apply kept_mk | apply kept_mem); first | (intro _) | with_reducible assumption | with_reducible apply kept_ite | split)

theorem kept_writeBack {z : State} (s : State) (slice line : Nat) (hz : Kept z s) : Kept z (writeBack s slice line) := by
  induction line generalizing s slice with
  | zero =>
    unfold writeBack
    try dsimp only
    repeat' (first | (intro _) | with_reducible assumption | with_reducible apply kept_ite | with_reducible apply kept_bump | with_reducible apply kept_bankArrive | (with_reducible first | apply kept_mk | apply kept_mem); first | (intro _) | with_reducible assumption | with_reducible apply kept_ite | with_reducible apply kept_bump | with_reducible apply kept_bankArrive | split)
  | succ n ih =>
    unfold writeBack
    try dsimp only
    repeat' (first | with_reducible apply ih | (intro _) | with_reducible assumption | with_reducible apply kept_ite | with_reducible apply kept_bump | with_reducible apply kept_bankArrive | (with_reducible first | apply kept_mk | apply kept_mem); first | with_reducible apply ih | (intro _) | with_reducible assumption | with_reducible apply kept_ite | with_reducible apply kept_bump | with_reducible apply kept_bankArrive | split)

theorem kept_cleanSet {z : State} (s : State) (slice : Nat) (l : List CLine) (hz : Kept z s) : Kept z (cleanSet s slice l) := by
  unfold cleanSet
  try dsimp only
  repeat' (first | (intro _) | with_reducible assumption | with_reducible apply kept_ite | with_reducible apply kept_foldl | with_reducible apply kept_foldl_fst | with_reducible apply kept_writeBack | with_reducible apply kept_putSet | (with_reducible first | apply kept_mk | apply kept_mem); first | (intro _) | with_reducible assumption | with_reducible apply kept_ite | with_reducible apply kept_foldl | with_reducible apply kept_foldl_fst | with_reducible apply kept_writeBack | with_reducible apply kept_putSet | split)

theorem kept_cleanSlice {z : State} (s : State) (slice : Nat) (hz : Kept z s) : Kept z (cleanSlice s slice) := by
  unfold cleanSlice
  try dsimp only
  repeat' (first | (intro _) | with_reducible assumption | with_reducible apply kept_ite | with_reducible apply kept_foldl | with_reducible apply kept_foldl_fst | with_reducible apply kept_cleanSet | (with_reducible first | apply kept_mk | apply kept_mem); first | (intro _) | with_reducible assumption | with_reducible apply kept_ite | with_reducible apply kept_foldl | with_reducible apply kept_foldl_fst | with_reducible apply kept_cleanSet | split)

theorem kept_allocate {z : State} (s : State) (slice line : Nat) (dirty : Bool) (hz : Kept z s) : Kept z (allocate s slice line dirty) := by
  unfold allocate
  try dsimp only
  repeat' (first | (intro _) | with_reducible assumption | with_reducible apply kept_ite | with_reducible apply kept_putSet | with_reducible apply kept_writeBack | (with_reducible first | apply kept_mk | apply kept_mem); first | (intro _) | with_reducible assumption | with_reducible apply kept_ite | with_reducible apply kept_putSet | with_reducible apply kept_writeBack | split)

theorem kept_recallLine {z : State} (s : State) (p line : Nat) (hz : Kept z s) : Kept z (recallLine s p line) := by
  unfold recallLine
  try dsimp only
  repeat' (first | (intro _) | with_reducible assumption | with_reducible apply kept_ite | with_reducible apply kept_bump | with_reducible apply kept_putSet | with_reducible apply kept_writeBack | (with_reducible first | apply kept_mk | apply kept_mem); first | (intro _) | with_reducible assumption | with_reducible apply kept_ite | with_reducible apply kept_bump | with_reducible apply kept_putSet | with_reducible apply kept_writeBack | split)

theorem kept_recallBlock {z : State} (s : State) (p b : Nat) (hz : Kept z s) : Kept z (recallBlock s p b) := by
  unfold recallBlock
  try dsimp only
  repeat' (first | (intro _) | with_reducible assumption | with_reducible apply kept_ite | with_reducible apply kept_foldl | with_reducible apply kept_foldl_fst | with_reducible apply kept_recallLine | (with_reducible first | apply kept_mk | apply kept_mem); first | (intro _) | with_reducible assumption | with_reducible apply kept_ite | with_reducible apply kept_foldl | with_reducible apply kept_foldl_fst | with_reducible apply kept_recallLine | split)

theorem kept_dropBlock {z : State} (s : State) (b : Nat) (hz : Kept z s) : Kept z (dropBlock s b) := by
  unfold dropBlock
  try dsimp only
  repeat' (first | (intro _) | with_reducible assumption | with_reducible apply kept_ite | (with_reducible first | apply kept_mk | apply kept_mem); first | (intro _) | with_reducible assumption | with_reducible apply kept_ite | split)

theorem kept_errAt {z : State} (s : State) (base line : Nat) (y0 : ErrClass) (hz : Kept z s) : Kept z (errAt s base line y0) := by
  unfold errAt
  try dsimp only
  repeat' (first | (intro _) | with_reducible assumption | with_reducible apply kept_ite | with_reducible apply kept_bump | with_reducible apply kept_poisonLine | (with_reducible first | apply kept_mk | apply kept_mem); first | (intro _) | with_reducible assumption | with_reducible apply kept_ite | with_reducible apply kept_bump | with_reducible apply kept_poisonLine | split)

theorem kept_missFill {z : State} (s : State) (sl line : Nat) (kind : AccKind) (b : Nat) (hz : Kept z s) : Kept z (missFill s sl line kind b) := by
  unfold missFill
  try dsimp only
  repeat' (first | (intro _) | with_reducible assumption | with_reducible apply kept_ite | with_reducible apply kept_queueAt | with_reducible apply kept_bump | with_reducible apply kept_allocate | (with_reducible first | apply kept_mk | apply kept_mem); first | (intro _) | with_reducible assumption | with_reducible apply kept_ite | with_reducible apply kept_queueAt | with_reducible apply kept_bump | with_reducible apply kept_allocate | split)

theorem kept_hitLine {z : State} (s : State) (sl line : Nat) (e : CLine) (kind : AccKind) (hz : Kept z s) : Kept z (hitLine s sl line e kind) := by
  unfold hitLine
  try dsimp only
  repeat' (first | (intro _) | with_reducible assumption | with_reducible apply kept_ite | with_reducible apply kept_putSet | with_reducible apply kept_bump | (with_reducible first | apply kept_mk | apply kept_mem); first | (intro _) | with_reducible assumption | with_reducible apply kept_ite | with_reducible apply kept_putSet | with_reducible apply kept_bump | split)

theorem kept_acceptCore {z : State} (s : State) (b : Nat) (hz : Kept z s) : Kept z (acceptCore s b) := by
  unfold acceptCore
  try dsimp only
  repeat' (first | (intro _) | with_reducible assumption | with_reducible apply kept_ite | with_reducible apply kept_setBank | (with_reducible first | apply kept_mk | apply kept_mem); first | (intro _) | with_reducible assumption | with_reducible apply kept_ite | with_reducible apply kept_setBank | split)

theorem kept_missToStack {z : State} (s : State) (who : Requester) (sl line : Nat) (kind : AccKind) (b : Nat) (hz : Kept z s) : Kept z (missToStack s who sl line kind b) := by
  unfold missToStack
  try dsimp only
  repeat' (first | (intro _) | with_reducible assumption | with_reducible apply kept_ite | with_reducible apply kept_bankArrive | with_reducible apply kept_bump | with_reducible apply kept_missFill | with_reducible apply kept_acceptCore | with_reducible apply kept_updCore | (with_reducible first | apply kept_mk | apply kept_mem); first | (intro _) | with_reducible assumption | with_reducible apply kept_ite | with_reducible apply kept_bankArrive | with_reducible apply kept_bump | with_reducible apply kept_missFill | with_reducible apply kept_acceptCore | with_reducible apply kept_updCore | split)

theorem kept_carafeAccess {z : State} (s : State) (who : Requester) (line : Nat) (kind : AccKind) (err : ErrClass) (hz : Kept z s) : Kept z (carafeAccess s who line kind err) := by
  unfold carafeAccess
  try dsimp only
  repeat' (first | (intro _) | with_reducible assumption | with_reducible apply kept_ite | with_reducible apply kept_sendBisnp | with_reducible apply kept_errAt | with_reducible apply kept_bump | with_reducible apply kept_hitLine | with_reducible apply kept_missToStack | (with_reducible first | apply kept_mk | apply kept_mem); first | (intro _) | with_reducible assumption | with_reducible apply kept_ite | with_reducible apply kept_sendBisnp | with_reducible apply kept_errAt | with_reducible apply kept_bump | with_reducible apply kept_hitLine | with_reducible apply kept_missToStack | split)

theorem kept_execCarafeAccess {z : State} (who : Requester) (line : Nat) (kind : AccKind) (err : ErrClass) (s : State) (hz : Kept z s) : ∀ zt, execCarafeAccess who line kind err s = .next zt → Kept z zt := by
  intro zt e
  unfold execCarafeAccess at e
  injection e with e
  subst e
  try dsimp only
  repeat' (first | (intro _) | with_reducible assumption | with_reducible apply kept_ite | with_reducible apply kept_wakeUp | with_reducible apply kept_carafeAccess | (with_reducible first | apply kept_mk | apply kept_mem); first | (intro _) | with_reducible assumption | with_reducible apply kept_ite | with_reducible apply kept_wakeUp | with_reducible apply kept_carafeAccess | split)

theorem kept_acceptGrant {z : State} (s : State) (b : Nat) (r : Req) (hz : Kept z s) : Kept z (acceptGrant s b r) := by
  unfold acceptGrant
  try dsimp only
  repeat' (first | (intro _) | with_reducible assumption | with_reducible apply kept_ite | with_reducible apply kept_pumpGrants | with_reducible apply kept_hitLine | with_reducible apply kept_missFill | with_reducible apply kept_acceptCore | (with_reducible first | apply kept_mk | apply kept_mem); first | (intro _) | with_reducible assumption | with_reducible apply kept_ite | with_reducible apply kept_pumpGrants | with_reducible apply kept_hitLine | with_reducible apply kept_missFill | with_reducible apply kept_acceptCore | split)

theorem kept_bankGrant {z : State} (s : State) (c b : Nat) (hz : Kept z s) : Kept z (bankGrant s c b) := by
  unfold bankGrant
  try dsimp only
  repeat' (first | (intro _) | with_reducible assumption | with_reducible apply kept_ite | with_reducible apply kept_setBank | with_reducible apply kept_pumpGrants | with_reducible apply kept_storePump | with_reducible apply kept_sendReady | with_reducible apply kept_goOut | with_reducible apply kept_acceptGrant | (with_reducible first | apply kept_mk | apply kept_mem); first | (intro _) | with_reducible assumption | with_reducible apply kept_ite | with_reducible apply kept_setBank | with_reducible apply kept_pumpGrants | with_reducible apply kept_storePump | with_reducible apply kept_sendReady | with_reducible apply kept_goOut | with_reducible apply kept_acceptGrant | split)

theorem kept_execBankGrant {z : State} (c bank : Nat) (s : State) (hz : Kept z s) : ∀ zt, execBankGrant c bank s = .next zt → Kept z zt := by
  intro zt e
  unfold execBankGrant at e
  injection e with e
  subst e
  try dsimp only
  repeat' (first | (intro _) | with_reducible assumption | with_reducible apply kept_ite | with_reducible apply kept_bankGrant | (with_reducible first | apply kept_mk | apply kept_mem); first | (intro _) | with_reducible assumption | with_reducible apply kept_ite | with_reducible apply kept_bankGrant | split)

theorem kept_atomCount {z : State} (s : State) (sl line : Nat) (hz : Kept z s) : Kept z (atomCount s sl line) := by
  unfold atomCount
  try dsimp only
  repeat' (first | (intro _) | with_reducible assumption | with_reducible apply kept_ite | with_reducible apply kept_bump | with_reducible apply kept_bumpIf | with_reducible apply kept_putSet | with_reducible apply kept_allocate | (with_reducible first | apply kept_mk | apply kept_mem); first | (intro _) | with_reducible assumption | with_reducible apply kept_ite | with_reducible apply kept_bump | with_reducible apply kept_bumpIf | with_reducible apply kept_putSet | with_reducible apply kept_allocate | split)

theorem kept_atomDo {z : State} (s : State) (c : Nat) (r : Req) (e : Sq) (i : AmoInfo) (d : Line) (sl : Nat) (hz : Kept z s) : Kept z (atomDo s c r e i d sl) := by
  unfold atomDo
  try dsimp only
  repeat' (first | (intro _) | with_reducible assumption | with_reducible apply kept_ite | with_reducible apply kept_atomCount | with_reducible apply kept_poisonLine | with_reducible apply kept_writeBytes | with_reducible apply kept_bumpEv | with_reducible apply kept_pumpPosted | with_reducible apply kept_updCore | (with_reducible first | apply kept_mk | apply kept_mem); first | (intro _) | with_reducible assumption | with_reducible apply kept_ite | with_reducible apply kept_atomCount | with_reducible apply kept_poisonLine | with_reducible apply kept_writeBytes | with_reducible apply kept_bumpEv | with_reducible apply kept_pumpPosted | with_reducible apply kept_updCore | split)

theorem kept_atomicPerform {z : State} (s : State) (y0 : AtomSrc) (hz : Kept z s) : Kept z (atomicPerform s y0) := by
  unfold atomicPerform
  try dsimp only
  repeat' (first | (intro _) | with_reducible assumption | with_reducible apply kept_ite | with_reducible apply kept_snoopFor | with_reducible apply kept_updCore | with_reducible apply kept_atomDo | with_reducible apply kept_sendBisnp | with_reducible apply kept_atomCount | with_reducible apply kept_writeLine | with_reducible apply kept_bumpIf | (with_reducible first | apply kept_mk | apply kept_mem); first | (intro _) | with_reducible assumption | with_reducible apply kept_ite | with_reducible apply kept_snoopFor | with_reducible apply kept_updCore | with_reducible apply kept_atomDo | with_reducible apply kept_sendBisnp | with_reducible apply kept_atomCount | with_reducible apply kept_writeLine | with_reducible apply kept_bumpIf | split)

theorem kept_execAtomicPerform {z : State} (src : AtomSrc) (s : State) (hz : Kept z s) : ∀ zt, execAtomicPerform src s = .next zt → Kept z zt := by
  intro zt e
  unfold execAtomicPerform at e
  injection e with e
  subst e
  try dsimp only
  repeat' (first | (intro _) | with_reducible assumption | with_reducible apply kept_ite | with_reducible apply kept_wakeUp | with_reducible apply kept_storePump | with_reducible apply kept_atomicPerform | (with_reducible first | apply kept_mk | apply kept_mem); first | (intro _) | with_reducible assumption | with_reducible apply kept_ite | with_reducible apply kept_wakeUp | with_reducible apply kept_storePump | with_reducible apply kept_atomicPerform | split)

theorem kept_mergeIn {z : State} (s : State) (stack line : Nat) (hz : Kept z s) : Kept z (mergeIn s stack line) := by
  unfold mergeIn
  try dsimp only
  repeat' (first | (intro _) | with_reducible assumption | with_reducible apply kept_ite | with_reducible apply kept_foldl | with_reducible apply kept_foldl_fst | with_reducible apply kept_queueLine | (with_reducible first | apply kept_mk | apply kept_mem); first | (intro _) | with_reducible assumption | with_reducible apply kept_ite | with_reducible apply kept_foldl | with_reducible apply kept_foldl_fst | with_reducible apply kept_queueLine | split)

theorem kept_narrowTouch {z : State} (s : State) (stack line : Nat) (write small : Bool) (hz : Kept z s) : Kept z (narrowTouch s stack line write small) := by
  unfold narrowTouch
  try dsimp only
  repeat' (first | (intro _) | with_reducible assumption | with_reducible apply kept_ite | with_reducible apply kept_bump | with_reducible apply kept_recallLine | with_reducible apply kept_mergeIn | with_reducible apply kept_queueLine | (with_reducible first | apply kept_mk | apply kept_mem); first | (intro _) | with_reducible assumption | with_reducible apply kept_ite | with_reducible apply kept_bump | with_reducible apply kept_recallLine | with_reducible apply kept_mergeIn | with_reducible apply kept_queueLine | split)

theorem kept_narrowAccess {z : State} (s : State) (stack addr size : Nat) (data : Option (BitVec 512)) (hz : Kept z s) : Kept z (narrowAccess s stack addr size data) := by
  unfold narrowAccess
  try dsimp only
  repeat' (first | (intro _) | with_reducible assumption | with_reducible apply kept_ite | with_reducible apply kept_sendBisnp | with_reducible apply kept_narrowTouch | with_reducible apply kept_writeBytes | (with_reducible first | apply kept_mk | apply kept_mem); first | (intro _) | with_reducible assumption | with_reducible apply kept_ite | with_reducible apply kept_sendBisnp | with_reducible apply kept_narrowTouch | with_reducible apply kept_writeBytes | split)

theorem kept_execNarrowAccess {z : State} (stack addr size : Nat) (data : Option (BitVec 512)) (s : State) (hz : Kept z s) : ∀ zt, execNarrowAccess stack addr size data s = .next zt → Kept z zt := by
  intro zt e
  unfold execNarrowAccess at e
  injection e with e
  subst e
  try dsimp only
  repeat' (first | (intro _) | with_reducible assumption | with_reducible apply kept_ite | with_reducible apply kept_wakeUp | with_reducible apply kept_narrowAccess | (with_reducible first | apply kept_mk | apply kept_mem); first | (intro _) | with_reducible assumption | with_reducible apply kept_ite | with_reducible apply kept_wakeUp | with_reducible apply kept_narrowAccess | split)

theorem kept_keepRoom {z : State} (s : State) (ring slot : Nat) (l : List Nat) (hz : Kept z s) : Kept z (keepRoom s ring slot l) := by
  unfold keepRoom
  try dsimp only
  repeat' (first | (intro _) | with_reducible assumption | with_reducible apply kept_ite | (with_reducible first | apply kept_mk | apply kept_mem); first | (intro _) | with_reducible assumption | with_reducible apply kept_ite | split)

theorem kept_zeroBlock {z : State} (s : State) (b : Nat) (h : Kept z s) : Kept z (zeroBlock s b) := by
  unfold zeroBlock
  exact kept_withMem h (twf_tclear _ _ _)

theorem kept_mapAt {z : State} (s : State) (b : Nat) (p : Place) (e : DirEntry) (hz : Kept z s) : Kept z (mapAt s b p e) := by
  unfold mapAt
  try dsimp only
  repeat' (first | (intro _) | with_reducible assumption | with_reducible apply kept_ite | with_reducible apply kept_encodeGranules | with_reducible apply kept_setPlace | with_reducible apply kept_setDir | with_reducible apply kept_zeroBlock | (with_reducible first | apply kept_mk | apply kept_mem); first | (intro _) | with_reducible assumption | with_reducible apply kept_ite | with_reducible apply kept_encodeGranules | with_reducible apply kept_setPlace | with_reducible apply kept_setDir | with_reducible apply kept_zeroBlock | split)

theorem kept_autoMap {z : State} (s : State) (b : Nat) (h : Kept z s) : ∀ t, autoMap s b = some t → Kept z t := by
  intro t e
  unfold autoMap at e
  split at e
  · injection e with e
    exact e ▸ h
  · split at e
    · cases e
    · rw [Option.map_eq_some_iff] at e
      obtain ⟨p, _, e⟩ := e
      exact e ▸ kept_mapAt _ _ _ _ h

theorem kept_waitFor1 {z : State} (s : State) (w : WaitMove) (hz : Kept z s) : Kept z (waitFor1 s w) := by
  unfold waitFor1
  try dsimp only
  repeat' (first | (intro _) | with_reducible assumption | with_reducible apply kept_ite | (with_reducible first | apply kept_mk | apply kept_mem); first | (intro _) | with_reducible assumption | with_reducible apply kept_ite | split)

theorem kept_recode {z : State} (s : State) (b : Nat) (e : DirEntry) (hz : Kept z s) : Kept z (recode s b e) := by
  unfold recode
  try dsimp only
  repeat' (first | (intro _) | with_reducible assumption | with_reducible apply kept_ite | with_reducible apply kept_setDir | with_reducible apply kept_encodeGranules | with_reducible apply kept_passGranules | with_reducible apply kept_recallBlock | (with_reducible first | apply kept_mk | apply kept_mem); first | (intro _) | with_reducible assumption | with_reducible apply kept_ite | with_reducible apply kept_setDir | with_reducible apply kept_encodeGranules | with_reducible apply kept_passGranules | with_reducible apply kept_recallBlock | split)

theorem kept_setAttrs {z : State} (s : State) (ring slot : Nat) (d : Line) (tier : Option Nat) (b : Nat) (hz : Kept z s) : Kept z (setAttrs s ring slot d tier b) := by
  unfold setAttrs
  try dsimp only
  repeat' (first | (intro _) | with_reducible assumption | with_reducible apply kept_ite | with_reducible apply kept_setDir | with_reducible apply kept_recode | with_reducible apply kept_waitFor1 | (with_reducible first | apply kept_mk | apply kept_mem); first | (intro _) | with_reducible assumption | with_reducible apply kept_ite | with_reducible apply kept_setDir | with_reducible apply kept_recode | with_reducible apply kept_waitFor1 | split)

theorem kept_mapBlock {z : State} (s : State) (ring slot : Nat) (d : Line) (tier : Option Nat) (b : Nat) (hz : Kept z s) : Kept z (mapBlock s ring slot d tier b) := by
  unfold mapBlock
  try dsimp only
  repeat' (first | (intro _) | with_reducible assumption | with_reducible apply kept_ite | with_reducible apply kept_setAttrs | with_reducible apply kept_mapAt | (with_reducible first | apply kept_mk | apply kept_mem); first | (intro _) | with_reducible assumption | with_reducible apply kept_ite | with_reducible apply kept_setAttrs | with_reducible apply kept_mapAt | split)

theorem kept_settleMoves {z : State} (s : State) (ring slot : Nat) (hz : Kept z s) : Kept z (settleMoves s ring slot) := by
  unfold settleMoves
  try dsimp only
  repeat' (first | (intro _) | with_reducible assumption | with_reducible apply kept_ite | with_reducible apply kept_setPhase | with_reducible apply kept_finishCmd | (with_reducible first | apply kept_mk | apply kept_mem); first | (intro _) | with_reducible assumption | with_reducible apply kept_ite | with_reducible apply kept_setPhase | with_reducible apply kept_finishCmd | split)

theorem kept_settleCause {z : State} (s : State) (y0 : MoveCause) (hz : Kept z s) : Kept z (settleCause s y0) := by
  unfold settleCause
  try dsimp only
  repeat' (first | (intro _) | with_reducible assumption | with_reducible apply kept_ite | with_reducible apply kept_settleMoves | (with_reducible first | apply kept_mk | apply kept_mem); first | (intro _) | with_reducible assumption | with_reducible apply kept_ite | with_reducible apply kept_settleMoves | split)

theorem kept_lockWait {z : State} (s : State) (ring slot : Nat) (hz : Kept z s) : Kept z (lockWait s ring slot) := by
  unfold lockWait
  try dsimp only
  repeat' (first | (intro _) | with_reducible assumption | with_reducible apply kept_ite | (with_reducible first | apply kept_mk | apply kept_mem); first | (intro _) | with_reducible assumption | with_reducible apply kept_ite | split)

theorem kept_lockEnd {z : State} (s : State) (ring slot : Nat) (hz : Kept z s) : Kept z (lockEnd s ring slot) := by
  unfold lockEnd
  try dsimp only
  repeat' (first | (intro _) | with_reducible assumption | with_reducible apply kept_ite | (with_reducible first | apply kept_mk | apply kept_mem); first | (intro _) | with_reducible assumption | with_reducible apply kept_ite | split)

theorem kept_whenFree {z : State} (s : State) (ring slot : Nat) (d : Line) (f : State → State) (hz : Kept z s) (hff : ∀ (q0 : State), Kept z q0 → Kept z (f q0)) : Kept z (whenFree s ring slot d f) := by
  unfold whenFree
  try dsimp only
  repeat' (first | (intro _) | with_reducible assumption | with_reducible apply kept_ite | with_reducible apply hff | with_reducible apply kept_lockWait | with_reducible apply kept_lockEnd | (with_reducible first | apply kept_mk | apply kept_mem); first | (intro _) | with_reducible assumption | with_reducible apply kept_ite | with_reducible apply hff | with_reducible apply kept_lockWait | with_reducible apply kept_lockEnd | split)

theorem kept_placeRun {z : State} (s : State) (ring slot : Nat) (d : Line) (newToo : Bool) (hz : Kept z s) : Kept z (placeRun s ring slot d newToo) := by
  unfold placeRun
  try dsimp only
  repeat' (first | (intro _) | with_reducible assumption | with_reducible apply kept_ite | with_reducible apply kept_foldl | with_reducible apply kept_foldl_fst | with_reducible apply kept_whenFree | with_reducible apply kept_finishCmd | with_reducible apply kept_settleMoves | with_reducible apply kept_mapBlock | with_reducible apply kept_setAttrs | (with_reducible first | apply kept_mk | apply kept_mem); first | (intro _) | with_reducible assumption | with_reducible apply kept_ite | with_reducible apply kept_foldl | with_reducible apply kept_foldl_fst | with_reducible apply kept_whenFree | with_reducible apply kept_finishCmd | with_reducible apply kept_settleMoves | with_reducible apply kept_mapBlock | with_reducible apply kept_setAttrs | split)

theorem kept_execPlaceMap {z : State} (ring slot : Nat) (s : State) (hz : Kept z s) : ∀ zt, execPlaceMap ring slot s = .next zt → Kept z zt := by
  intro zt e
  unfold execPlaceMap at e
  injection e with e
  subst e
  try dsimp only
  repeat' (first | (intro _) | with_reducible assumption | with_reducible apply kept_ite | with_reducible apply kept_withCmd | with_reducible apply kept_checked | with_reducible apply kept_placeRun | (with_reducible first | apply kept_mk | apply kept_mem); first | (intro _) | with_reducible assumption | with_reducible apply kept_ite | with_reducible apply kept_withCmd | with_reducible apply kept_checked | with_reducible apply kept_placeRun | split)

theorem kept_execPlaceAttr {z : State} (ring slot : Nat) (s : State) (hz : Kept z s) : ∀ zt, execPlaceAttr ring slot s = .next zt → Kept z zt := by
  intro zt e
  unfold execPlaceAttr at e
  injection e with e
  subst e
  try dsimp only
  repeat' (first | (intro _) | with_reducible assumption | with_reducible apply kept_ite | with_reducible apply kept_withCmd | with_reducible apply kept_checked | with_reducible apply kept_placeRun | (with_reducible first | apply kept_mk | apply kept_mem); first | (intro _) | with_reducible assumption | with_reducible apply kept_ite | with_reducible apply kept_withCmd | with_reducible apply kept_checked | with_reducible apply kept_placeRun | split)

theorem kept_execPlaceUnmap {z : State} (ring slot : Nat) (s : State) (hz : Kept z s) : ∀ zt, execPlaceUnmap ring slot s = .next zt → Kept z zt := by
  intro zt e
  unfold execPlaceUnmap at e
  injection e with e
  subst e
  try dsimp only
  repeat' (first | (intro _) | with_reducible assumption | with_reducible apply kept_ite | with_reducible apply kept_foldl | with_reducible apply kept_foldl_fst | with_reducible apply kept_withCmd | with_reducible apply kept_checked | with_reducible apply kept_whenFree | with_reducible apply kept_settleMoves | with_reducible apply kept_waitFor1 | (with_reducible first | apply kept_mk | apply kept_mem); first | (intro _) | with_reducible assumption | with_reducible apply kept_ite | with_reducible apply kept_foldl | with_reducible apply kept_foldl_fst | with_reducible apply kept_withCmd | with_reducible apply kept_checked | with_reducible apply kept_whenFree | with_reducible apply kept_settleMoves | with_reducible apply kept_waitFor1 | split)

theorem kept_pinBlock {z : State} (s : State) (ring slot : Nat) (tiers : BitVec 3) (tier : Option Nat) (b : Nat) (hz : Kept z s) : Kept z (pinBlock s ring slot tiers tier b) := by
  unfold pinBlock
  try dsimp only
  repeat' (first | (intro _) | with_reducible assumption | with_reducible apply kept_ite | with_reducible apply kept_setDir | with_reducible apply kept_waitFor1 | (with_reducible first | apply kept_mk | apply kept_mem); first | (intro _) | with_reducible assumption | with_reducible apply kept_ite | with_reducible apply kept_setDir | with_reducible apply kept_waitFor1 | split)

theorem kept_pinRun {z : State} (s : State) (ring slot : Nat) (d : Line) (hz : Kept z s) : Kept z (pinRun s ring slot d) := by
  unfold pinRun
  try dsimp only
  repeat' (first | (intro _) | with_reducible assumption | with_reducible apply kept_ite | with_reducible apply kept_foldl | with_reducible apply kept_foldl_fst | with_reducible apply kept_whenFree | with_reducible apply kept_finishCmd | with_reducible apply kept_settleMoves | with_reducible apply kept_pinBlock | (with_reducible first | apply kept_mk | apply kept_mem); first | (intro _) | with_reducible assumption | with_reducible apply kept_ite | with_reducible apply kept_foldl | with_reducible apply kept_foldl_fst | with_reducible apply kept_whenFree | with_reducible apply kept_finishCmd | with_reducible apply kept_settleMoves | with_reducible apply kept_pinBlock | split)

theorem kept_execPinSet {z : State} (ring slot : Nat) (s : State) (hz : Kept z s) : ∀ zt, execPinSet ring slot s = .next zt → Kept z zt := by
  intro zt e
  unfold execPinSet at e
  injection e with e
  subst e
  try dsimp only
  repeat' (first | (intro _) | with_reducible assumption | with_reducible apply kept_ite | with_reducible apply kept_withCmd | with_reducible apply kept_checked | with_reducible apply kept_pinRun | (with_reducible first | apply kept_mk | apply kept_mem); first | (intro _) | with_reducible assumption | with_reducible apply kept_ite | with_reducible apply kept_withCmd | with_reducible apply kept_checked | with_reducible apply kept_pinRun | split)

theorem kept_execPinClear {z : State} (ring slot : Nat) (s : State) (hz : Kept z s) : ∀ zt, execPinClear ring slot s = .next zt → Kept z zt := by
  intro zt e
  unfold execPinClear at e
  injection e with e
  subst e
  try dsimp only
  repeat' (first | (intro _) | with_reducible assumption | with_reducible apply kept_ite | with_reducible apply kept_foldl | with_reducible apply kept_foldl_fst | with_reducible apply kept_withCmd | with_reducible apply kept_checked | with_reducible apply kept_whenFree | with_reducible apply kept_finishCmd | with_reducible apply kept_setDir | (with_reducible first | apply kept_mk | apply kept_mem); first | (intro _) | with_reducible assumption | with_reducible apply kept_ite | with_reducible apply kept_foldl | with_reducible apply kept_foldl_fst | with_reducible apply kept_withCmd | with_reducible apply kept_checked | with_reducible apply kept_whenFree | with_reducible apply kept_finishCmd | with_reducible apply kept_setDir | split)

theorem kept_moveShares {z : State} (s : State) (p ch : Nat) (hz : Kept z s) : Kept z (moveShares s p ch) := by
  unfold moveShares
  try dsimp only
  repeat' (first | (intro _) | with_reducible assumption | with_reducible apply kept_ite | with_reducible apply kept_setChan | (with_reducible first | apply kept_mk | apply kept_mem); first | (intro _) | with_reducible assumption | with_reducible apply kept_ite | with_reducible apply kept_setChan | split)

theorem kept_removeTomb {z : State} (s : State) (b : Nat) (hz : Kept z s) : Kept z (removeTomb s b) := by
  unfold removeTomb
  try dsimp only
  repeat' (first | (intro _) | with_reducible assumption | with_reducible apply kept_ite | with_reducible apply kept_settleCause | (with_reducible first | apply kept_mk | apply kept_mem); first | (intro _) | with_reducible assumption | with_reducible apply kept_ite | with_reducible apply kept_settleCause | split)

theorem kept_callBack {z : State} (s : State) (b : Nat) (hz : Kept z s) : Kept z (callBack s b) := by
  unfold callBack
  try dsimp only
  repeat' (first | (intro _) | with_reducible assumption | with_reducible apply kept_ite | with_reducible apply kept_foldl | with_reducible apply kept_foldl_fst | with_reducible apply kept_sendBisnp | (with_reducible first | apply kept_mk | apply kept_mem); first | (intro _) | with_reducible assumption | with_reducible apply kept_ite | with_reducible apply kept_foldl | with_reducible apply kept_foldl_fst | with_reducible apply kept_sendBisnp | split)

theorem kept_startCopy {z : State} (s : State) (b : Nat) (dst : Place) (cause : MoveCause) (hz : Kept z s) : Kept z (startCopy s b dst cause) := by
  unfold startCopy
  try dsimp only
  repeat' (first | (intro _) | with_reducible assumption | with_reducible apply kept_ite | with_reducible apply kept_setDir | with_reducible apply kept_recallBlock | with_reducible apply kept_bumpIf | (with_reducible first | apply kept_mk | apply kept_mem); first | (intro _) | with_reducible assumption | with_reducible apply kept_ite | with_reducible apply kept_setDir | with_reducible apply kept_recallBlock | with_reducible apply kept_bumpIf | split)

theorem kept_startUnmap {z : State} (s : State) (b : Nat) (cause : MoveCause) (hz : Kept z s) : Kept z (startUnmap s b cause) := by
  unfold startUnmap
  try dsimp only
  repeat' (first | (intro _) | with_reducible assumption | with_reducible apply kept_ite | with_reducible apply kept_foldl | with_reducible apply kept_foldl_fst | with_reducible apply kept_updCore | with_reducible apply kept_zeroBlock | with_reducible apply kept_setPlace | with_reducible apply kept_setDir | with_reducible apply kept_dropBlock | with_reducible apply kept_bump | with_reducible apply kept_removeTomb | (with_reducible first | apply kept_mk | apply kept_mem); first | (intro _) | with_reducible assumption | with_reducible apply kept_ite | with_reducible apply kept_foldl | with_reducible apply kept_foldl_fst | with_reducible apply kept_updCore | with_reducible apply kept_zeroBlock | with_reducible apply kept_setPlace | with_reducible apply kept_setDir | with_reducible apply kept_dropBlock | with_reducible apply kept_bump | with_reducible apply kept_removeTomb | split)

theorem kept_migrationStart {z : State} (s : State) (hz : Kept z s) : Kept z (migrationStart s) := by
  unfold migrationStart
  try dsimp only
  repeat' (first | (intro _) | with_reducible assumption | with_reducible apply kept_ite | with_reducible apply kept_moveShares | with_reducible apply kept_settleCause | with_reducible apply kept_callBack | with_reducible apply kept_startUnmap | with_reducible apply kept_startCopy | (with_reducible first | apply kept_mk | apply kept_mem); first | (intro _) | with_reducible assumption | with_reducible apply kept_ite | with_reducible apply kept_moveShares | with_reducible apply kept_settleCause | with_reducible apply kept_callBack | with_reducible apply kept_startUnmap | with_reducible apply kept_startCopy | split)

theorem kept_execMigrationStart {z : State} (s : State) (hz : Kept z s) : ∀ zt, execMigrationStart s = .next zt → Kept z zt := by
  intro zt e
  unfold execMigrationStart at e
  injection e with e
  subst e
  try dsimp only
  repeat' (first | (intro _) | with_reducible assumption | with_reducible apply kept_ite | with_reducible apply kept_migrationStart | (with_reducible first | apply kept_mk | apply kept_mem); first | (intro _) | with_reducible assumption | with_reducible apply kept_ite | with_reducible apply kept_migrationStart | split)

theorem kept_reissueFaulted {z : State} (s : State) (c b : Nat) (y0 : List Req) (hz : Kept z s) : Kept z (reissueFaulted s c b y0) := by
  induction y0 generalizing s c b with
  | nil =>
    unfold reissueFaulted
    try dsimp only
    repeat' (first | (intro _) | with_reducible assumption | with_reducible apply kept_ite | with_reducible apply kept_rerequest | (with_reducible first | apply kept_mk | apply kept_mem); first | (intro _) | with_reducible assumption | with_reducible apply kept_ite | with_reducible apply kept_rerequest | split)
  | cons y l ih =>
    unfold reissueFaulted
    try dsimp only
    repeat' (first | with_reducible apply ih | (intro _) | with_reducible assumption | with_reducible apply kept_ite | with_reducible apply kept_rerequest | (with_reducible first | apply kept_mk | apply kept_mem); first | with_reducible apply ih | (intro _) | with_reducible assumption | with_reducible apply kept_ite | with_reducible apply kept_rerequest | split)

theorem kept_resolveFaults {z : State} (s : State) (b : Nat) (commit : Bool) (hz : Kept z s) : Kept z (resolveFaults s b commit) := by
  unfold resolveFaults
  try dsimp only
  repeat' (first | (intro _) | with_reducible assumption | with_reducible apply kept_ite | with_reducible apply kept_foldl | with_reducible apply kept_foldl_fst | with_reducible apply kept_updCore | with_reducible apply kept_bumpIf | with_reducible apply kept_reissueFaulted | with_reducible apply kept_reissueTiles | with_reducible apply kept_storePump | (with_reducible first | apply kept_mk | apply kept_mem); first | (intro _) | with_reducible assumption | with_reducible apply kept_ite | with_reducible apply kept_foldl | with_reducible apply kept_foldl_fst | with_reducible apply kept_updCore | with_reducible apply kept_bumpIf | with_reducible apply kept_reissueFaulted | with_reducible apply kept_reissueTiles | with_reducible apply kept_storePump | split)

theorem kept_askAgain {z : State} (s : State) (b : Nat) (hz : Kept z s) : Kept z (askAgain s b) := by
  unfold askAgain
  try dsimp only
  repeat' (first | (intro _) | with_reducible assumption | with_reducible apply kept_ite | with_reducible apply kept_askDirectory | (with_reducible first | apply kept_mk | apply kept_mem); first | (intro _) | with_reducible assumption | with_reducible apply kept_ite | with_reducible apply kept_askDirectory | split)

theorem kept_migrationCommit {z : State} (s : State) (b : Nat) (hz : Kept z s) : Kept z (migrationCommit s b) := by
  unfold migrationCommit
  try dsimp only
  repeat' (first | (intro _) | with_reducible assumption | with_reducible apply kept_ite | with_reducible apply kept_encodeGranules | with_reducible apply kept_setPlace | with_reducible apply kept_setDir | with_reducible apply kept_bump | with_reducible apply kept_removeTomb | with_reducible apply kept_pumpLog | with_reducible apply kept_settleCause | with_reducible apply kept_askAgain | with_reducible apply kept_resolveFaults | (with_reducible first | apply kept_mk | apply kept_mem); first | (intro _) | with_reducible assumption | with_reducible apply kept_ite | with_reducible apply kept_encodeGranules | with_reducible apply kept_setPlace | with_reducible apply kept_setDir | with_reducible apply kept_bump | with_reducible apply kept_removeTomb | with_reducible apply kept_pumpLog | with_reducible apply kept_settleCause | with_reducible apply kept_askAgain | with_reducible apply kept_resolveFaults | split)

theorem kept_execMigrationCommit {z : State} (block : Nat) (s : State) (hz : Kept z s) : ∀ zt, execMigrationCommit block s = .next zt → Kept z zt := by
  intro zt e
  unfold execMigrationCommit at e
  injection e with e
  subst e
  try dsimp only
  repeat' (first | (intro _) | with_reducible assumption | with_reducible apply kept_ite | with_reducible apply kept_migrationCommit | (with_reducible first | apply kept_mk | apply kept_mem); first | (intro _) | with_reducible assumption | with_reducible apply kept_ite | with_reducible apply kept_migrationCommit | split)

theorem kept_invalidation {z : State} (s : State) (who : Requester) (b : Nat) (hz : Kept z s) : Kept z (invalidation s who b) := by
  unfold invalidation
  try dsimp only
  repeat' (first | (intro _) | with_reducible assumption | with_reducible apply kept_ite | with_reducible apply kept_bump | with_reducible apply kept_updCore | (with_reducible first | apply kept_mk | apply kept_mem); first | (intro _) | with_reducible assumption | with_reducible apply kept_ite | with_reducible apply kept_bump | with_reducible apply kept_updCore | split)

theorem kept_execInvalidation {z : State} (who : Requester) (block : Nat) (s : State) (hz : Kept z s) : ∀ zt, execInvalidation who block s = .next zt → Kept z zt := by
  intro zt e
  unfold execInvalidation at e
  injection e with e
  subst e
  try dsimp only
  repeat' (first | (intro _) | with_reducible assumption | with_reducible apply kept_ite | with_reducible apply kept_invalidation | (with_reducible first | apply kept_mk | apply kept_mem); first | (intro _) | with_reducible assumption | with_reducible apply kept_ite | with_reducible apply kept_invalidation | split)

theorem kept_execInvalidationAck {z : State} (who : Requester) (block : Nat) (s : State) (hz : Kept z s) : ∀ zt, execInvalidationAck who block s = .next zt → Kept z zt := by
  intro zt e
  unfold execInvalidationAck at e
  injection e with e
  subst e
  try dsimp only
  repeat' (first | (intro _) | with_reducible assumption | with_reducible apply kept_ite | with_reducible apply kept_removeTomb | (with_reducible first | apply kept_mk | apply kept_mem); first | (intro _) | with_reducible assumption | with_reducible apply kept_ite | with_reducible apply kept_removeTomb | split)

theorem kept_forwardReceived {z : State} (s : State) (c id : Nat) (hz : Kept z s) : Kept z (forwardReceived s c id) := by
  unfold forwardReceived
  try dsimp only
  repeat' (first | (intro _) | with_reducible assumption | with_reducible apply kept_ite | with_reducible apply kept_updCore | with_reducible apply kept_dropAccess | with_reducible apply kept_pageFault | with_reducible apply kept_bump | with_reducible apply kept_setDir | with_reducible apply kept_storePump | with_reducible apply kept_sendReq | (with_reducible first | apply kept_mk | apply kept_mem); first | (intro _) | with_reducible assumption | with_reducible apply kept_ite | with_reducible apply kept_updCore | with_reducible apply kept_dropAccess | with_reducible apply kept_pageFault | with_reducible apply kept_bump | with_reducible apply kept_setDir | with_reducible apply kept_storePump | with_reducible apply kept_sendReq | split)

theorem kept_execForwardReceived {z : State} (c req : Nat) (s : State) (hz : Kept z s) : ∀ zt, execForwardReceived c req s = .next zt → Kept z zt := by
  intro zt e
  unfold execForwardReceived at e
  injection e with e
  subst e
  try dsimp only
  repeat' (first | (intro _) | with_reducible assumption | with_reducible apply kept_ite | with_reducible apply kept_forwardReceived | (with_reducible first | apply kept_mk | apply kept_mem); first | (intro _) | with_reducible assumption | with_reducible apply kept_ite | with_reducible apply kept_forwardReceived | split)

theorem kept_replaceMtc {z : State} (s : State) (b : Nat) (hz : Kept z s) : Kept z (replaceMtc s b) := by
  unfold replaceMtc
  try dsimp only
  repeat' (first | (intro _) | with_reducible assumption | with_reducible apply kept_ite | with_reducible apply kept_setDir | (with_reducible first | apply kept_mk | apply kept_mem); first | (intro _) | with_reducible assumption | with_reducible apply kept_ite | with_reducible apply kept_setDir | split)

theorem kept_moverTranslate {z : State} (s : State) (b : Nat) (hz : Kept z s) : Kept z (moverTranslate s b) := by
  unfold moverTranslate
  try dsimp only
  repeat' (first | (intro _) | with_reducible assumption | with_reducible apply kept_ite | with_reducible apply kept_replaceMtc | (with_reducible first | apply kept_mk | apply kept_mem); first | (intro _) | with_reducible assumption | with_reducible apply kept_ite | with_reducible apply kept_replaceMtc | split)

theorem kept_planBlock {z : State} (x : State × Table Nat) (b : Nat) (hz : Kept z x.1) : Kept z (planBlock x b).1 := by
  unfold planBlock
  try dsimp only
  repeat' (first | (intro _) | with_reducible assumption | with_reducible apply kept_ite | with_reducible apply kept_foldl | with_reducible apply kept_foldl_fst | with_reducible apply kept_waitFor1 | (with_reducible first | apply kept_mk | apply kept_mem); first | (intro _) | with_reducible assumption | with_reducible apply kept_ite | with_reducible apply kept_foldl | with_reducible apply kept_foldl_fst | with_reducible apply kept_waitFor1 | split)

theorem kept_plannerEpoch {z : State} (s : State) (hz : Kept z s) : Kept z (plannerEpoch s) := by
  unfold plannerEpoch
  try dsimp only
  repeat' (first | (intro _) | with_reducible assumption | with_reducible apply kept_ite | with_reducible apply kept_foldl | with_reducible apply kept_foldl_fst | with_reducible apply kept_planBlock | with_reducible apply kept_setDir | (with_reducible first | apply kept_mk | apply kept_mem); first | (intro _) | with_reducible assumption | with_reducible apply kept_ite | with_reducible apply kept_foldl | with_reducible apply kept_foldl_fst | with_reducible apply kept_planBlock | with_reducible apply kept_setDir | split)

theorem kept_execPlannerEpoch {z : State} (s : State) (hz : Kept z s) : ∀ zt, execPlannerEpoch s = .next zt → Kept z zt := by
  intro zt e
  unfold execPlannerEpoch at e
  injection e with e
  subst e
  try dsimp only
  repeat' (first | (intro _) | with_reducible assumption | with_reducible apply kept_ite | with_reducible apply kept_plannerEpoch | (with_reducible first | apply kept_mk | apply kept_mem); first | (intro _) | with_reducible assumption | with_reducible apply kept_ite | with_reducible apply kept_plannerEpoch | split)

theorem kept_releaseHeld {z : State} (s : State) (y0 : List HeldWrite) (hz : Kept z s) : Kept z (releaseHeld s y0) := by
  induction y0 generalizing s with
  | nil =>
    unfold releaseHeld
    try dsimp only
    repeat' (first | (intro _) | with_reducible assumption | with_reducible apply kept_ite | with_reducible apply kept_updCore | with_reducible apply kept_atomicPerform | with_reducible apply kept_sendReq | (with_reducible first | apply kept_mk | apply kept_mem); first | (intro _) | with_reducible assumption | with_reducible apply kept_ite | with_reducible apply kept_updCore | with_reducible apply kept_atomicPerform | with_reducible apply kept_sendReq | split)
  | cons y l ih =>
    unfold releaseHeld
    try dsimp only
    repeat' (first | with_reducible apply ih | (intro _) | with_reducible assumption | with_reducible apply kept_ite | with_reducible apply kept_updCore | with_reducible apply kept_atomicPerform | with_reducible apply kept_sendReq | (with_reducible first | apply kept_mk | apply kept_mem); first | with_reducible apply ih | (intro _) | with_reducible assumption | with_reducible apply kept_ite | with_reducible apply kept_updCore | with_reducible apply kept_atomicPerform | with_reducible apply kept_sendReq | split)

theorem kept_abortMove {z : State} (s : State) (v : Move) (hz : Kept z s) : Kept z (abortMove s v) := by
  unfold abortMove
  try dsimp only
  repeat' (first | (intro _) | with_reducible assumption | with_reducible apply kept_ite | with_reducible apply kept_foldl | with_reducible apply kept_foldl_fst | with_reducible apply kept_setDir | with_reducible apply kept_bump | with_reducible apply kept_waitFor1 | with_reducible apply kept_pumpLog | with_reducible apply kept_askAgain | with_reducible apply kept_resolveFaults | with_reducible apply kept_storePump | with_reducible apply kept_releaseHeld | (with_reducible first | apply kept_mk | apply kept_mem); first | (intro _) | with_reducible assumption | with_reducible apply kept_ite | with_reducible apply kept_foldl | with_reducible apply kept_foldl_fst | with_reducible apply kept_setDir | with_reducible apply kept_bump | with_reducible apply kept_waitFor1 | with_reducible apply kept_pumpLog | with_reducible apply kept_askAgain | with_reducible apply kept_resolveFaults | with_reducible apply kept_storePump | with_reducible apply kept_releaseHeld | split)

theorem kept_channelDraining {z : State} (s : State) (stack ch : Nat) (fw : Bool) (hz : Kept z s) : Kept z (channelDraining s stack ch fw) := by
  unfold channelDraining
  try dsimp only
  repeat' (first | (intro _) | with_reducible assumption | with_reducible apply kept_ite | with_reducible apply kept_foldl | with_reducible apply kept_foldl_fst | with_reducible apply kept_wakeUp | with_reducible apply kept_raiseEvent | with_reducible apply kept_setChan | with_reducible apply kept_abortMove | (with_reducible first | apply kept_mk | apply kept_mem); first | (intro _) | with_reducible assumption | with_reducible apply kept_ite | with_reducible apply kept_foldl | with_reducible apply kept_foldl_fst | with_reducible apply kept_wakeUp | with_reducible apply kept_raiseEvent | with_reducible apply kept_setChan | with_reducible apply kept_abortMove | split)

theorem kept_execChannelDraining {z : State} (stack ch : Nat) (byFirmware : Bool) (s : State) (hz : Kept z s) : ∀ zt, execChannelDraining stack ch byFirmware s = .next zt → Kept z zt := by
  intro zt e
  unfold execChannelDraining at e
  injection e with e
  subst e
  try dsimp only
  repeat' (first | (intro _) | with_reducible assumption | with_reducible apply kept_ite | with_reducible apply kept_channelDraining | (with_reducible first | apply kept_mk | apply kept_mem); first | (intro _) | with_reducible assumption | with_reducible apply kept_ite | with_reducible apply kept_channelDraining | split)

theorem kept_execChannelMappedOut {z : State} (stack ch : Nat) (s : State) (hz : Kept z s) : ∀ zt, execChannelMappedOut stack ch s = .next zt → Kept z zt := by
  intro zt e
  unfold execChannelMappedOut at e
  injection e with e
  subst e
  try dsimp only
  repeat' (first | (intro _) | with_reducible assumption | with_reducible apply kept_ite | with_reducible apply kept_setChan | (with_reducible first | apply kept_mk | apply kept_mem); first | (intro _) | with_reducible assumption | with_reducible apply kept_ite | with_reducible apply kept_setChan | split)

theorem kept_sendFlagAck {z : State} (s : State) (src seq : Nat) (st : Status) (hz : Kept z s) : Kept z (sendFlagAck s src seq st) := by
  unfold sendFlagAck
  try dsimp only
  repeat' (first | (intro _) | with_reducible assumption | with_reducible apply kept_ite | with_reducible apply kept_sendLow | with_reducible apply kept_sendFw | (with_reducible first | apply kept_mk | apply kept_mem); first | (intro _) | with_reducible assumption | with_reducible apply kept_ite | with_reducible apply kept_sendLow | with_reducible apply kept_sendFw | split)

theorem kept_answerFlag {z : State} (s : State) (m : FlagMsg) (err : Option Cause) (hz : Kept z s) : Kept z (answerFlag s m err) := by
  unfold answerFlag
  try dsimp only
  repeat' (first | (intro _) | with_reducible assumption | with_reducible apply kept_ite | with_reducible apply kept_sendFlagAck | with_reducible apply kept_bump | with_reducible apply kept_flagAckTo | (with_reducible first | apply kept_mk | apply kept_mem); first | (intro _) | with_reducible assumption | with_reducible apply kept_ite | with_reducible apply kept_sendFlagAck | with_reducible apply kept_bump | with_reducible apply kept_flagAckTo | split)

theorem kept_flagOpApply {z : State} (s : State) (f : FlagRef) (hz : Kept z s) : Kept z (flagOpApply s f) := by
  unfold flagOpApply
  try dsimp only
  repeat' (first | (intro _) | with_reducible assumption | with_reducible apply kept_ite | with_reducible apply kept_wakeUp | with_reducible apply kept_flagApply | with_reducible apply kept_answerFlag | (with_reducible first | apply kept_mk | apply kept_mem); first | (intro _) | with_reducible assumption | with_reducible apply kept_ite | with_reducible apply kept_wakeUp | with_reducible apply kept_flagApply | with_reducible apply kept_answerFlag | split)

theorem kept_execFlagOpApply {z : State} (flag : FlagRef) (s : State) (hz : Kept z s) : ∀ zt, execFlagOpApply flag s = .next zt → Kept z zt := by
  intro zt e
  unfold execFlagOpApply at e
  injection e with e
  subst e
  try dsimp only
  repeat' (first | (intro _) | with_reducible assumption | with_reducible apply kept_ite | with_reducible apply kept_flagOpApply | (with_reducible first | apply kept_mk | apply kept_mem); first | (intro _) | with_reducible assumption | with_reducible apply kept_ite | with_reducible apply kept_flagOpApply | split)

theorem kept_flagSet {z : State} (s : State) (ring slot : Nat) (d : Line) (bad : Bool) (op : FOp) (hz : Kept z s) : Kept z (flagSet s ring slot d bad op) := by
  unfold flagSet
  try dsimp only
  repeat' (first | (intro _) | with_reducible assumption | with_reducible apply kept_ite | with_reducible apply kept_checked | with_reducible apply kept_flagSend | with_reducible apply kept_setPhase | (with_reducible first | apply kept_mk | apply kept_mem); first | (intro _) | with_reducible assumption | with_reducible apply kept_ite | with_reducible apply kept_checked | with_reducible apply kept_flagSend | with_reducible apply kept_setPhase | split)

theorem kept_execFlagSetSet {z : State} (ring slot : Nat) (s : State) (hz : Kept z s) : ∀ zt, execFlagSetSet ring slot s = .next zt → Kept z zt := by
  intro zt e
  unfold execFlagSetSet at e
  injection e with e
  subst e
  try dsimp only
  repeat' (first | (intro _) | with_reducible assumption | with_reducible apply kept_ite | with_reducible apply kept_withCmd | with_reducible apply kept_flagSet | (with_reducible first | apply kept_mk | apply kept_mem); first | (intro _) | with_reducible assumption | with_reducible apply kept_ite | with_reducible apply kept_withCmd | with_reducible apply kept_flagSet | split)

theorem kept_execFlagSetClr {z : State} (ring slot : Nat) (s : State) (hz : Kept z s) : ∀ zt, execFlagSetClr ring slot s = .next zt → Kept z zt := by
  intro zt e
  unfold execFlagSetClr at e
  injection e with e
  subst e
  try dsimp only
  repeat' (first | (intro _) | with_reducible assumption | with_reducible apply kept_ite | with_reducible apply kept_withCmd | with_reducible apply kept_flagSet | (with_reducible first | apply kept_mk | apply kept_mem); first | (intro _) | with_reducible assumption | with_reducible apply kept_ite | with_reducible apply kept_withCmd | with_reducible apply kept_flagSet | split)

theorem kept_execFlagSetWrite {z : State} (ring slot : Nat) (s : State) (hz : Kept z s) : ∀ zt, execFlagSetWrite ring slot s = .next zt → Kept z zt := by
  intro zt e
  unfold execFlagSetWrite at e
  injection e with e
  subst e
  try dsimp only
  repeat' (first | (intro _) | with_reducible assumption | with_reducible apply kept_ite | with_reducible apply kept_withCmd | with_reducible apply kept_flagSet | (with_reducible first | apply kept_mk | apply kept_mem); first | (intro _) | with_reducible assumption | with_reducible apply kept_ite | with_reducible apply kept_withCmd | with_reducible apply kept_flagSet | split)

theorem kept_execFlagWait {z : State} (ring slot : Nat) (s : State) (hz : Kept z s) : ∀ zt, execFlagWait ring slot s = .next zt → Kept z zt := by
  intro zt e
  unfold execFlagWait at e
  injection e with e
  subst e
  try dsimp only
  repeat' (first | (intro _) | with_reducible assumption | with_reducible apply kept_ite | with_reducible apply kept_withCmd | with_reducible apply kept_checked | with_reducible apply kept_flagWaitc | with_reducible apply kept_finishCmd | with_reducible apply kept_setPhase | (with_reducible first | apply kept_mk | apply kept_mem); first | (intro _) | with_reducible assumption | with_reducible apply kept_ite | with_reducible apply kept_withCmd | with_reducible apply kept_checked | with_reducible apply kept_flagWaitc | with_reducible apply kept_finishCmd | with_reducible apply kept_setPhase | split)

theorem kept_fromInbox {z : State} (s : State) (p : Packet → Bool) (hz : Kept z s) : Kept z (fromInbox s p) := by
  unfold fromInbox
  try dsimp only
  repeat' (first | (intro _) | with_reducible assumption | with_reducible apply kept_ite | with_reducible apply kept_freeHeld | (with_reducible first | apply kept_mk | apply kept_mem); first | (intro _) | with_reducible assumption | with_reducible apply kept_ite | with_reducible apply kept_freeHeld | split)

theorem kept_acceptFlagOp {z : State} (s : State) (late : Bool) (src seq : Nat) (sel : Word) (op : FOp) (hz : Kept z s) : Kept z (acceptFlagOp s late src seq sel op) := by
  unfold acceptFlagOp
  try dsimp only
  repeat' (first | (intro _) | with_reducible assumption | with_reducible apply kept_ite | with_reducible apply kept_sendFlagAck | (with_reducible first | apply kept_mk | apply kept_mem); first | (intro _) | with_reducible assumption | with_reducible apply kept_ite | with_reducible apply kept_sendFlagAck | split)

theorem kept_holdFlagOp {z : State} (s : State) (src seq : Nat) (sel : Word) (op : FOp) (hz : Kept z s) : Kept z (holdFlagOp s src seq sel op) := by
  unfold holdFlagOp
  try dsimp only
  repeat' (first | (intro _) | with_reducible assumption | with_reducible apply kept_ite | with_reducible apply kept_holdPacket | with_reducible apply kept_keepPacket | (with_reducible first | apply kept_mk | apply kept_mem); first | (intro _) | with_reducible assumption | with_reducible apply kept_ite | with_reducible apply kept_holdPacket | with_reducible apply kept_keepPacket | split)

theorem kept_flagOp {z : State} (s : State) (src seq : Nat) (sel : Word) (op : FOp) (hz : Kept z s) : Kept z (flagOp s src seq sel op) := by
  unfold flagOp
  try dsimp only
  repeat' (first | (intro _) | with_reducible assumption | with_reducible apply kept_ite | with_reducible apply kept_fromInbox | with_reducible apply kept_wakeUp | with_reducible apply kept_holdFlagOp | with_reducible apply kept_bump | with_reducible apply kept_acceptFlagOp | with_reducible apply kept_sendFlagAck | (with_reducible first | apply kept_mk | apply kept_mem); first | (intro _) | with_reducible assumption | with_reducible apply kept_ite | with_reducible apply kept_fromInbox | with_reducible apply kept_wakeUp | with_reducible apply kept_holdFlagOp | with_reducible apply kept_bump | with_reducible apply kept_acceptFlagOp | with_reducible apply kept_sendFlagAck | split)

theorem kept_execFlagOp {z : State} (src seq : Nat) (sel : Word) (op : FOp) (s : State) (hz : Kept z s) : ∀ zt, execFlagOp src seq sel op s = .next zt → Kept z zt := by
  intro zt e
  unfold execFlagOp at e
  injection e with e
  subst e
  try dsimp only
  repeat' (first | (intro _) | with_reducible assumption | with_reducible apply kept_ite | with_reducible apply kept_flagOp | (with_reducible first | apply kept_mk | apply kept_mem); first | (intro _) | with_reducible assumption | with_reducible apply kept_ite | with_reducible apply kept_flagOp | split)

theorem kept_flagAck {z : State} (s : State) (src seq : Nat) (st : Status) (hz : Kept z s) : Kept z (flagAck s src seq st) := by
  unfold flagAck
  try dsimp only
  repeat' (first | (intro _) | with_reducible assumption | with_reducible apply kept_ite | with_reducible apply kept_fromInbox | with_reducible apply kept_pumpRemotes | with_reducible apply kept_flagAckTo | (with_reducible first | apply kept_mk | apply kept_mem); first | (intro _) | with_reducible assumption | with_reducible apply kept_ite | with_reducible apply kept_fromInbox | with_reducible apply kept_pumpRemotes | with_reducible apply kept_flagAckTo | split)

theorem kept_execFlagAck {z : State} (src seq : Nat) (st : Status) (s : State) (hz : Kept z s) : ∀ zt, execFlagAck src seq st s = .next zt → Kept z zt := by
  intro zt e
  unfold execFlagAck at e
  injection e with e
  subst e
  try dsimp only
  repeat' (first | (intro _) | with_reducible assumption | with_reducible apply kept_ite | with_reducible apply kept_flagAck | (with_reducible first | apply kept_mk | apply kept_mem); first | (intro _) | with_reducible assumption | with_reducible apply kept_ite | with_reducible apply kept_flagAck | split)

theorem kept_dropRemote {z : State} (s : State) (o : RemoteOp) (hz : Kept z s) : Kept z (dropRemote s o) := by
  unfold dropRemote
  try dsimp only
  repeat' (first | (intro _) | with_reducible assumption | with_reducible apply kept_ite | with_reducible apply kept_bump | with_reducible apply kept_pumpRemotes | with_reducible apply kept_flagAckTo | with_reducible apply kept_raiseEvent | (with_reducible first | apply kept_mk | apply kept_mem); first | (intro _) | with_reducible assumption | with_reducible apply kept_ite | with_reducible apply kept_bump | with_reducible apply kept_pumpRemotes | with_reducible apply kept_flagAckTo | with_reducible apply kept_raiseEvent | split)

theorem kept_execRemoteFlagHoldExpiry {z : State} (dst seq : Nat) (s : State) (hz : Kept z s) : ∀ zt, execRemoteFlagHoldExpiry dst seq s = .next zt → Kept z zt := by
  intro zt e
  unfold execRemoteFlagHoldExpiry at e
  injection e with e
  subst e
  try dsimp only
  repeat' (first | (intro _) | with_reducible assumption | with_reducible apply kept_ite | with_reducible apply kept_dropRemote | (with_reducible first | apply kept_mk | apply kept_mem); first | (intro _) | with_reducible assumption | with_reducible apply kept_ite | with_reducible apply kept_dropRemote | split)

theorem kept_execShutterPathChange {z : State} (fabric : Bool) (s : State) (hz : Kept z s) : ∀ zt, execShutterPathChange fabric s = .next zt → Kept z zt := by
  intro zt e
  unfold execShutterPathChange at e
  injection e with e
  subst e
  try dsimp only
  repeat' (first | (intro _) | with_reducible assumption | with_reducible apply kept_ite | with_reducible apply kept_pumpRemotes | (with_reducible first | apply kept_mk | apply kept_mem); first | (intro _) | with_reducible assumption | with_reducible apply kept_ite | with_reducible apply kept_pumpRemotes | split)

theorem kept_setRing {z : State} (s : State) (r : Nat) (x : Ring) (hz : Kept z s) : Kept z (setRing s r x) := by
  unfold setRing
  try dsimp only
  repeat' (first | (intro _) | with_reducible assumption | with_reducible apply kept_ite | (with_reducible first | apply kept_mk | apply kept_mem); first | (intro _) | with_reducible assumption | with_reducible apply kept_ite | split)

theorem kept_writeRecord {z : State} (s : State) (a n v : Nat) (h : Kept z s) : Kept z (writeRecord s a n v) := by
  unfold writeRecord
  split
  · rename_i s1 e
    exact kept_writeBytes _ _ _ _ (kept_autoMap s _ h _ e)
  · exact h

theorem kept_writeRecords {z : State} (s0 : State) (a : Nat) (y0 : List Member) (y1 : State) (hz : Kept z y1) : Kept z (writeRecords s0 a y0 y1) := by
  induction y0 generalizing s0 a y1 with
  | nil =>
    unfold writeRecords
    try dsimp only
    repeat' (first | (intro _) | with_reducible assumption | with_reducible apply kept_ite | with_reducible apply kept_writeRecord | (with_reducible first | apply kept_mk | apply kept_mem); first | (intro _) | with_reducible assumption | with_reducible apply kept_ite | with_reducible apply kept_writeRecord | split)
  | cons y l ih =>
    unfold writeRecords
    try dsimp only
    repeat' (first | with_reducible apply ih | (intro _) | with_reducible assumption | with_reducible apply kept_ite | with_reducible apply kept_writeRecord | (with_reducible first | apply kept_mk | apply kept_mem); first | with_reducible apply ih | (intro _) | with_reducible assumption | with_reducible apply kept_ite | with_reducible apply kept_writeRecord | split)

theorem kept_countNoRoom {z : State} (s : State) (l : List Nat) (hz : Kept z s) : Kept z (countNoRoom s l) := by
  unfold countNoRoom
  try dsimp only
  repeat' (first | (intro _) | with_reducible assumption | with_reducible apply kept_ite | with_reducible apply kept_bumpIf | (with_reducible first | apply kept_mk | apply kept_mem); first | (intro _) | with_reducible assumption | with_reducible apply kept_ite | with_reducible apply kept_bumpIf | split)

theorem kept_stopMember {z : State} (s : State) (y0 : Member) (hz : Kept z s) : Kept z (stopMember s y0) := by
  unfold stopMember
  try dsimp only
  repeat' (first | (intro _) | with_reducible assumption | with_reducible apply kept_ite | with_reducible apply kept_foldl | with_reducible apply kept_foldl_fst | with_reducible apply kept_updCore | with_reducible apply kept_finishCmd | (with_reducible first | apply kept_mk | apply kept_mem); first | (intro _) | with_reducible assumption | with_reducible apply kept_ite | with_reducible apply kept_foldl | with_reducible apply kept_foldl_fst | with_reducible apply kept_updCore | with_reducible apply kept_finishCmd | split)

theorem kept_stall {z : State} (s : State) (d : Nat) (hz : Kept z s) : Kept z (stall s d) := by
  unfold stall
  try dsimp only
  repeat' (first | (intro _) | with_reducible assumption | with_reducible apply kept_ite | with_reducible apply kept_foldl | with_reducible apply kept_foldl_fst | with_reducible apply kept_sendBisnp | with_reducible apply kept_countNoRoom | with_reducible apply kept_writeRecords | with_reducible apply kept_raiseEvent | with_reducible apply kept_stopMember | with_reducible apply kept_bump | (with_reducible first | apply kept_mk | apply kept_mem); first | (intro _) | with_reducible assumption | with_reducible apply kept_ite | with_reducible apply kept_foldl | with_reducible apply kept_foldl_fst | with_reducible apply kept_sendBisnp | with_reducible apply kept_countNoRoom | with_reducible apply kept_writeRecords | with_reducible apply kept_raiseEvent | with_reducible apply kept_stopMember | with_reducible apply kept_bump | split)

theorem kept_execStall {z : State} (domain : Nat) (s : State) (hz : Kept z s) : ∀ zt, execStall domain s = .next zt → Kept z zt := by
  intro zt e
  unfold execStall at e
  injection e with e
  subst e
  try dsimp only
  repeat' (first | (intro _) | with_reducible assumption | with_reducible apply kept_ite | with_reducible apply kept_stall | (with_reducible first | apply kept_mk | apply kept_mem); first | (intro _) | with_reducible assumption | with_reducible apply kept_ite | with_reducible apply kept_stall | split)

end Sys2Proof.Machine
end

