-- ==== Sys2Proof/Laws/KeptMover.lean ====
section
/-!
SUPPORT. The mover: each keeps the queue, the fuses and used indices, and the canonical form of memory.
-/
namespace Sys2Proof.Machine

set_option linter.unusedTactic false
set_option linter.unreachableTactic false

theorem kept_writeLineW {z : State} (s : State) (l : Nat) (x : LineW) (h : Kept z s) : Kept z (writeLineW s l x) := by
  unfold writeLineW
  split
  · exact kept_bump _ _ _ h
  · rename_i s1 e
    have h1 : Kept z s1 := kept_autoMap s _ h _ e
    repeat' (first | with_reducible assumption | with_reducible apply kept_ite | with_reducible apply kept_poisonLine | with_reducible apply kept_writeLine)

theorem kept_writeLinesW {z : State} (s : State) (y0 : List (Nat × LineW)) (hz : Kept z s) : Kept z (writeLinesW s y0) := by
  induction y0 generalizing s with
  | nil =>
    unfold writeLinesW
    try dsimp only
    repeat' (first | (intro _) | with_reducible assumption | with_reducible apply kept_ite | with_reducible apply kept_writeLineW | (with_reducible first | apply kept_mk | apply kept_mem); first | (intro _) | with_reducible assumption | with_reducible apply kept_ite | with_reducible apply kept_writeLineW | split)
  | cons y l ih =>
    unfold writeLinesW
    try dsimp only
    repeat' (first | with_reducible apply ih | (intro _) | with_reducible assumption | with_reducible apply kept_ite | with_reducible apply kept_writeLineW | (with_reducible first | apply kept_mk | apply kept_mem); first | with_reducible apply ih | (intro _) | with_reducible assumption | with_reducible apply kept_ite | with_reducible apply kept_writeLineW | split)

theorem kept_hostLineW {z : State} (s : State) (l : Nat) (x : LineW) (hz : Kept z s) : Kept z (hostLineW s l x) := by
  unfold hostLineW
  try dsimp only
  repeat' (first | (intro _) | with_reducible assumption | with_reducible apply kept_ite | with_reducible apply kept_bump | (with_reducible first | apply kept_mk | apply kept_mem); first | (intro _) | with_reducible assumption | with_reducible apply kept_ite | with_reducible apply kept_bump | split)

theorem kept_hostLinesW {z : State} (s : State) (y0 : List (Nat × LineW)) (hz : Kept z s) : Kept z (hostLinesW s y0) := by
  induction y0 generalizing s with
  | nil =>
    unfold hostLinesW
    try dsimp only
    repeat' (first | (intro _) | with_reducible assumption | with_reducible apply kept_ite | with_reducible apply kept_hostLineW | (with_reducible first | apply kept_mk | apply kept_mem); first | (intro _) | with_reducible assumption | with_reducible apply kept_ite | with_reducible apply kept_hostLineW | split)
  | cons y l ih =>
    unfold hostLinesW
    try dsimp only
    repeat' (first | with_reducible apply ih | (intro _) | with_reducible assumption | with_reducible apply kept_ite | with_reducible apply kept_hostLineW | (with_reducible first | apply kept_mk | apply kept_mem); first | with_reducible apply ih | (intro _) | with_reducible assumption | with_reducible apply kept_ite | with_reducible apply kept_hostLineW | split)

theorem kept_recallFromHost {z : State} (s : State) (l : List Nat) (hz : Kept z s) : Kept z (recallFromHost s l) := by
  unfold recallFromHost
  try dsimp only
  repeat' (first | (intro _) | with_reducible assumption | with_reducible apply kept_ite | with_reducible apply kept_foldl | with_reducible apply kept_foldl_fst | with_reducible apply kept_sendBisnp | (with_reducible first | apply kept_mk | apply kept_mem); first | (intro _) | with_reducible assumption | with_reducible apply kept_ite | with_reducible apply kept_foldl | with_reducible apply kept_foldl_fst | with_reducible apply kept_sendBisnp | split)

theorem kept_hostFirst {z : State} (s : State) (l : List Nat) (f : State) (h : Kept z s) (hf : Kept z f) : Kept z (hostFirst s l f) :=
  kept_ite hf (kept_recallFromHost _ _ h)

theorem kept_countRead {z : State} (s : State) (space n : Nat) (hz : Kept z s) : Kept z (countRead s space n) := by
  unfold countRead
  try dsimp only
  repeat' (first | (intro _) | with_reducible assumption | with_reducible apply kept_ite | with_reducible apply kept_bumpIf | (with_reducible first | apply kept_mk | apply kept_mem); first | (intro _) | with_reducible assumption | with_reducible apply kept_ite | with_reducible apply kept_bumpIf | split)

theorem kept_keepSnap {z : State} (s : State) (ring slot : Nat) (k : SnapKey) (raw : Nat) (hz : Kept z s) : Kept z (keepSnap s ring slot k raw) := by
  unfold keepSnap
  try dsimp only
  repeat' (first | (intro _) | with_reducible assumption | with_reducible apply kept_ite | (with_reducible first | apply kept_mk | apply kept_mem); first | (intro _) | with_reducible assumption | with_reducible apply kept_ite | split)

theorem kept_recallAt {z : State} (s : State) (l : Nat) (hz : Kept z s) : Kept z (recallAt s l) := by
  unfold recallAt
  try dsimp only
  repeat' (first | (intro _) | with_reducible assumption | with_reducible apply kept_ite | with_reducible apply kept_recallLine | (with_reducible first | apply kept_mk | apply kept_mem); first | (intro _) | with_reducible assumption | with_reducible apply kept_ite | with_reducible apply kept_recallLine | split)

theorem kept_sendBodies {z : State} (s : State) (k : Nat) (vc : BitVec 2) (dst : Nat) (y0 : List (Payload × Nat)) (hz : Kept z s) : Kept z (sendBodies s k vc dst y0) := by
  induction y0 generalizing s k vc dst with
  | nil =>
    unfold sendBodies
    try dsimp only
    repeat' (first | (intro _) | with_reducible assumption | with_reducible apply kept_ite | with_reducible apply kept_sendSpread | (with_reducible first | apply kept_mk | apply kept_mem); first | (intro _) | with_reducible assumption | with_reducible apply kept_ite | with_reducible apply kept_sendSpread | split)
  | cons y l ih =>
    unfold sendBodies
    try dsimp only
    repeat' (first | with_reducible apply ih | (intro _) | with_reducible assumption | with_reducible apply kept_ite | with_reducible apply kept_sendSpread | (with_reducible first | apply kept_mk | apply kept_mem); first | with_reducible apply ih | (intro _) | with_reducible assumption | with_reducible apply kept_ite | with_reducible apply kept_sendSpread | split)

theorem kept_sendSeg {z : State} (s : State) (o : OutSeg) (hz : Kept z s) : Kept z (sendSeg s o) := by
  unfold sendSeg
  try dsimp only
  repeat' (first | (intro _) | with_reducible assumption | with_reducible apply kept_ite | with_reducible apply kept_sendBodies | (with_reducible first | apply kept_mk | apply kept_mem); first | (intro _) | with_reducible assumption | with_reducible apply kept_ite | with_reducible apply kept_sendBodies | split)

theorem kept_takeSeg {z : State} (s : State) (hz : Kept z s) : Kept z (takeSeg s) := by
  unfold takeSeg
  try dsimp only
  repeat' (first | (intro _) | with_reducible assumption | with_reducible apply kept_ite | (with_reducible first | apply kept_mk | apply kept_mem); first | (intro _) | with_reducible assumption | with_reducible apply kept_ite | split)

theorem kept_remoteWrite {z : State} (s : State) (owner : SegOwner) (dst : Nat) (l : List (Nat × Line × Bool)) (y0 : List Nat) (hz : Kept z s) : Kept z (remoteWrite s owner dst l y0) := by
  induction y0 generalizing s owner dst l with
  | nil =>
    unfold remoteWrite
    try dsimp only
    repeat' (first | (intro _) | with_reducible assumption | with_reducible apply kept_ite | with_reducible apply kept_sendSeg | with_reducible apply kept_takeSeg | (with_reducible first | apply kept_mk | apply kept_mem); first | (intro _) | with_reducible assumption | with_reducible apply kept_ite | with_reducible apply kept_sendSeg | with_reducible apply kept_takeSeg | split)
  | cons y l ih =>
    unfold remoteWrite
    try dsimp only
    repeat' (first | with_reducible apply ih | (intro _) | with_reducible assumption | with_reducible apply kept_ite | with_reducible apply kept_sendSeg | with_reducible apply kept_takeSeg | (with_reducible first | apply kept_mk | apply kept_mem); first | with_reducible apply ih | (intro _) | with_reducible assumption | with_reducible apply kept_ite | with_reducible apply kept_sendSeg | with_reducible apply kept_takeSeg | split)

theorem kept_remoteWriteAll {z : State} (s : State) (owner : SegOwner) (dst : Nat) (l : List (Nat × Line × Bool)) (hz : Kept z s) : Kept z (remoteWriteAll s owner dst l) := by
  unfold remoteWriteAll
  try dsimp only
  repeat' (first | (intro _) | with_reducible assumption | with_reducible apply kept_ite | with_reducible apply kept_remoteWrite | (with_reducible first | apply kept_mk | apply kept_mem); first | (intro _) | with_reducible assumption | with_reducible apply kept_ite | with_reducible apply kept_remoteWrite | split)

theorem kept_remoteRead {z : State} (s : State) (ring slot dev : Nat) (l : List Nat) (y0 : List Nat) (hz : Kept z s) : Kept z (remoteRead s ring slot dev l y0) := by
  induction y0 generalizing s ring slot dev l with
  | nil =>
    unfold remoteRead
    try dsimp only
    repeat' (first | (intro _) | with_reducible assumption | with_reducible apply kept_ite | with_reducible apply kept_foldl | with_reducible apply kept_foldl_fst | with_reducible apply kept_takeSeg | with_reducible apply kept_sendSpread | (with_reducible first | apply kept_mk | apply kept_mem); first | (intro _) | with_reducible assumption | with_reducible apply kept_ite | with_reducible apply kept_foldl | with_reducible apply kept_foldl_fst | with_reducible apply kept_takeSeg | with_reducible apply kept_sendSpread | split)
  | cons y l ih =>
    unfold remoteRead
    try dsimp only
    repeat' (first | with_reducible apply ih | (intro _) | with_reducible assumption | with_reducible apply kept_ite | with_reducible apply kept_foldl | with_reducible apply kept_foldl_fst | with_reducible apply kept_takeSeg | with_reducible apply kept_sendSpread | (with_reducible first | apply kept_mk | apply kept_mem); first | with_reducible apply ih | (intro _) | with_reducible assumption | with_reducible apply kept_ite | with_reducible apply kept_foldl | with_reducible apply kept_foldl_fst | with_reducible apply kept_takeSeg | with_reducible apply kept_sendSpread | split)

theorem kept_remoteReadAll {z : State} (s : State) (ring slot dev : Nat) (l : List Nat) (hz : Kept z s) : Kept z (remoteReadAll s ring slot dev l) := by
  unfold remoteReadAll
  try dsimp only
  repeat' (first | (intro _) | with_reducible assumption | with_reducible apply kept_ite | with_reducible apply kept_remoteRead | (with_reducible first | apply kept_mk | apply kept_mem); first | (intro _) | with_reducible assumption | with_reducible apply kept_ite | with_reducible apply kept_remoteRead | split)

theorem kept_dropReads {z : State} (s : State) (ring slot : Nat) (hz : Kept z s) : Kept z (dropReads s ring slot) := by
  unfold dropReads
  try dsimp only
  repeat' (first | (intro _) | with_reducible assumption | with_reducible apply kept_ite | (with_reducible first | apply kept_mk | apply kept_mem); first | (intro _) | with_reducible assumption | with_reducible apply kept_ite | split)

theorem kept_pumpSegs {z : State} (s : State) (y0 : List OutSeg) (hz : Kept z s) : Kept z (pumpSegs s y0) := by
  induction y0 generalizing s with
  | nil =>
    unfold pumpSegs
    try dsimp only
    repeat' (first | (intro _) | with_reducible assumption | with_reducible apply kept_ite | with_reducible apply kept_sendBodies | (with_reducible first | apply kept_mk | apply kept_mem); first | (intro _) | with_reducible assumption | with_reducible apply kept_ite | with_reducible apply kept_sendBodies | split)
  | cons y l ih =>
    unfold pumpSegs
    try dsimp only
    repeat' (first | with_reducible apply ih | (intro _) | with_reducible assumption | with_reducible apply kept_ite | with_reducible apply kept_sendBodies | (with_reducible first | apply kept_mk | apply kept_mem); first | with_reducible apply ih | (intro _) | with_reducible assumption | with_reducible apply kept_ite | with_reducible apply kept_sendBodies | split)

theorem kept_pumpReads {z : State} (s : State) (y0 : List ReadOut) (hz : Kept z s) : Kept z (pumpReads s y0) := by
  induction y0 generalizing s with
  | nil =>
    unfold pumpReads
    try dsimp only
    repeat' (first | (intro _) | with_reducible assumption | with_reducible apply kept_ite | with_reducible apply kept_sendSpread | (with_reducible first | apply kept_mk | apply kept_mem); first | (intro _) | with_reducible assumption | with_reducible apply kept_ite | with_reducible apply kept_sendSpread | split)
  | cons y l ih =>
    unfold pumpReads
    try dsimp only
    repeat' (first | with_reducible apply ih | (intro _) | with_reducible assumption | with_reducible apply kept_ite | with_reducible apply kept_sendSpread | (with_reducible first | apply kept_mk | apply kept_mem); first | with_reducible apply ih | (intro _) | with_reducible assumption | with_reducible apply kept_ite | with_reducible apply kept_sendSpread | split)

theorem kept_pumpRoutes {z : State} (s : State) (hz : Kept z s) : Kept z (pumpRoutes s) := by
  unfold pumpRoutes
  try dsimp only
  repeat' (first | (intro _) | with_reducible assumption | with_reducible apply kept_ite | with_reducible apply kept_pumpRemotes | with_reducible apply kept_pumpSegs | with_reducible apply kept_pumpReads | (with_reducible first | apply kept_mk | apply kept_mem); first | (intro _) | with_reducible assumption | with_reducible apply kept_ite | with_reducible apply kept_pumpRemotes | with_reducible apply kept_pumpSegs | with_reducible apply kept_pumpReads | split)

theorem kept_markCmd {z : State} (s : State) (ring slot : Nat) (lost pois : Bool) (hz : Kept z s) : Kept z (markCmd s ring slot lost pois) := by
  unfold markCmd
  try dsimp only
  repeat' (first | (intro _) | with_reducible assumption | with_reducible apply kept_ite | with_reducible apply kept_setCmds | (with_reducible first | apply kept_mk | apply kept_mem); first | (intro _) | with_reducible assumption | with_reducible apply kept_ite | with_reducible apply kept_setCmds | split)

theorem kept_keepDescs {z : State} (s : State) (ring slot : Nat) (y0 : List Nat) (hz : Kept z s) : Kept z (keepDescs s ring slot y0) := by
  induction y0 generalizing s ring slot with
  | nil =>
    unfold keepDescs
    try dsimp only
    repeat' (first | (intro _) | with_reducible assumption | with_reducible apply kept_ite | with_reducible apply kept_keepSnap | (with_reducible first | apply kept_mk | apply kept_mem); first | (intro _) | with_reducible assumption | with_reducible apply kept_ite | with_reducible apply kept_keepSnap | split)
  | cons y l ih =>
    unfold keepDescs
    try dsimp only
    repeat' (first | with_reducible apply ih | (intro _) | with_reducible assumption | with_reducible apply kept_ite | with_reducible apply kept_keepSnap | (with_reducible first | apply kept_mk | apply kept_mem); first | with_reducible apply ih | (intro _) | with_reducible assumption | with_reducible apply kept_ite | with_reducible apply kept_keepSnap | split)

theorem kept_lossyBlock {z : State} (s : State) (j : MoveJob) (step : Nat) (x : State × Table LineW) (b : List Nat) (l : List Got) (hz : Kept z x.1) : Kept z (lossyBlock s j step x b l).1 := by
  unfold lossyBlock
  try dsimp only
  repeat' (first | (intro _) | with_reducible assumption | with_reducible apply kept_ite | with_reducible apply kept_foldl | with_reducible apply kept_foldl_fst | with_reducible apply kept_bumpEv | (with_reducible first | apply kept_mk | apply kept_mem); first | (intro _) | with_reducible assumption | with_reducible apply kept_ite | with_reducible apply kept_foldl | with_reducible apply kept_foldl_fst | with_reducible apply kept_bumpEv | split)

theorem kept_lossyAll {z : State} (s : State) (j : MoveJob) (step : Nat) (l : List Got) (y0 : List (List Nat)) (y1 : State × Table LineW) (hz : Kept z y1.1) : Kept z (lossyAll s j step l y0 y1).1 := by
  induction y0 generalizing s j step l y1 with
  | nil =>
    unfold lossyAll
    try dsimp only
    repeat' (first | (intro _) | with_reducible assumption | with_reducible apply kept_ite | with_reducible apply kept_lossyBlock | (with_reducible first | apply kept_mk | apply kept_mem); first | (intro _) | with_reducible assumption | with_reducible apply kept_ite | with_reducible apply kept_lossyBlock | split)
  | cons y l ih =>
    unfold lossyAll
    try dsimp only
    repeat' (first | with_reducible apply ih | (intro _) | with_reducible assumption | with_reducible apply kept_ite | with_reducible apply kept_lossyBlock | (with_reducible first | apply kept_mk | apply kept_mem); first | with_reducible apply ih | (intro _) | with_reducible assumption | with_reducible apply kept_ite | with_reducible apply kept_lossyBlock | split)

theorem kept_moveLines {z : State} (s : State) (j : MoveJob) (step : Nat) (l : List Got) (hz : Kept z s) : Kept z (moveLines s j step l).1 := by
  unfold moveLines
  try dsimp only
  repeat' (first | (intro _) | with_reducible assumption | with_reducible apply kept_ite | with_reducible apply kept_foldl | with_reducible apply kept_foldl_fst | with_reducible apply kept_lossyAll | (with_reducible first | apply kept_mk | apply kept_mem); first | (intro _) | with_reducible assumption | with_reducible apply kept_ite | with_reducible apply kept_foldl | with_reducible apply kept_foldl_fst | with_reducible apply kept_lossyAll | split)

theorem kept_redLine {z : State} (dst : TD) (line : Nat) (y0 : Nat) (y1 : State) (y2 : List Got) (h : Kept z y1) : Kept z (redLine dst line y0 y1 y2) := by
  induction y0 generalizing y1 y2 with
  | zero => exact h
  | succ n ih =>
    unfold redLine
    exact kept_ite h (ih _ _ (kept_bump _ _ _ (kept_atomicPerform _ _ h)))

theorem kept_redLines {z : State} (dst : TD) (l : List Got) (y0 : List Nat) (y1 : State) (h : Kept z y1) : Kept z (redLines dst l y0 y1) := by
  induction y0 generalizing y1 with
  | nil => exact h
  | cons n ns ih =>
    unfold redLines
    dsimp only
    split
    · exact ih _ (kept_bump _ _ _ h)
    · rename_i s1 e
      have h1 := kept_redLine dst n (l.filter (fun q => elemBitN dst q.c.di / 512 == n)).length s1 (l.filter (fun q => elemBitN dst q.c.di / 512 == n)) (kept_autoMap y1 _ h _ e)
      exact ih _ (kept_ite (kept_poisonLine h1 _) h1)

theorem kept_narrowOne {z : State} (s : State) (addr : Nat) (write small : Bool) (hz : Kept z s) : Kept z (narrowOne s addr write small) := by
  unfold narrowOne
  try dsimp only
  repeat' (first | (intro _) | with_reducible assumption | with_reducible apply kept_ite | with_reducible apply kept_bump | with_reducible apply kept_narrowTouch | (with_reducible first | apply kept_mk | apply kept_mem); first | (intro _) | with_reducible assumption | with_reducible apply kept_ite | with_reducible apply kept_bump | with_reducible apply kept_narrowTouch | split)

theorem kept_countNarrow {z : State} (y0 : List Narrow) (y1 : State) (hz : Kept z y1) : Kept z (countNarrow y0 y1) := by
  induction y0 generalizing y1 with
  | nil =>
    unfold countNarrow
    try dsimp only
    repeat' (first | (intro _) | with_reducible assumption | with_reducible apply kept_ite | with_reducible apply kept_foldl | with_reducible apply kept_foldl_fst | with_reducible apply kept_narrowOne | (with_reducible first | apply kept_mk | apply kept_mem); first | (intro _) | with_reducible assumption | with_reducible apply kept_ite | with_reducible apply kept_foldl | with_reducible apply kept_foldl_fst | with_reducible apply kept_narrowOne | split)
  | cons y l ih =>
    unfold countNarrow
    try dsimp only
    repeat' (first | with_reducible apply ih | (intro _) | with_reducible assumption | with_reducible apply kept_ite | with_reducible apply kept_foldl | with_reducible apply kept_foldl_fst | with_reducible apply kept_narrowOne | (with_reducible first | apply kept_mk | apply kept_mem); first | with_reducible apply ih | (intro _) | with_reducible assumption | with_reducible apply kept_ite | with_reducible apply kept_foldl | with_reducible apply kept_foldl_fst | with_reducible apply kept_narrowOne | split)

theorem kept_countLists {z : State} (s : State) (lists host : Nat) (hz : Kept z s) : Kept z (countLists s lists host) := by
  unfold countLists
  try dsimp only
  repeat' (first | (intro _) | with_reducible assumption | with_reducible apply kept_ite | with_reducible apply kept_bumpIf | (with_reducible first | apply kept_mk | apply kept_mem); first | (intro _) | with_reducible assumption | with_reducible apply kept_ite | with_reducible apply kept_bumpIf | split)

theorem kept_countMove {z : State} (s : State) (j : MoveJob) (hz : Kept z s) : Kept z (countMove s j) := by
  unfold countMove
  try dsimp only
  repeat' (first | (intro _) | with_reducible assumption | with_reducible apply kept_ite | with_reducible apply kept_bump | with_reducible apply kept_countLists | with_reducible apply kept_countNarrow | (with_reducible first | apply kept_mk | apply kept_mem); first | (intro _) | with_reducible assumption | with_reducible apply kept_ite | with_reducible apply kept_bump | with_reducible apply kept_countLists | with_reducible apply kept_countNarrow | split)

theorem kept_dropJob {z : State} (s : State) (ring slot : Nat) (hz : Kept z s) : Kept z (dropJob s ring slot) := by
  unfold dropJob
  try dsimp only
  repeat' (first | (intro _) | with_reducible assumption | with_reducible apply kept_ite | (with_reducible first | apply kept_mk | apply kept_mem); first | (intro _) | with_reducible assumption | with_reducible apply kept_ite | split)

theorem kept_lockView {z : State} (s : State) (v : View) (b : Bool) (hz : Kept z s) : Kept z (lockView s v b) := by
  unfold lockView
  try dsimp only
  repeat' (first | (intro _) | with_reducible assumption | with_reducible apply kept_ite | with_reducible apply kept_foldl | with_reducible apply kept_foldl_fst | with_reducible apply kept_updCore | (with_reducible first | apply kept_mk | apply kept_mem); first | (intro _) | with_reducible assumption | with_reducible apply kept_ite | with_reducible apply kept_foldl | with_reducible apply kept_foldl_fst | with_reducible apply kept_updCore | split)

theorem kept_releaseView {z : State} (s : State) (ring slot : Nat) (hz : Kept z s) : Kept z (releaseView s ring slot) := by
  unfold releaseView
  try dsimp only
  repeat' (first | (intro _) | with_reducible assumption | with_reducible apply kept_ite | with_reducible apply kept_lockView | (with_reducible first | apply kept_mk | apply kept_mem); first | (intro _) | with_reducible assumption | with_reducible apply kept_ite | with_reducible apply kept_lockView | split)

theorem kept_finishMove {z : State} (s : State) (ring slot : Nat) (hz : Kept z s) : Kept z (finishMove s ring slot) := by
  unfold finishMove
  try dsimp only
  repeat' (first | (intro _) | with_reducible assumption | with_reducible apply kept_ite | with_reducible apply kept_finishCmd | with_reducible apply kept_bump | with_reducible apply kept_dropReads | with_reducible apply kept_dropJob | with_reducible apply kept_releaseView | (with_reducible first | apply kept_mk | apply kept_mem); first | (intro _) | with_reducible assumption | with_reducible apply kept_ite | with_reducible apply kept_finishCmd | with_reducible apply kept_bump | with_reducible apply kept_dropReads | with_reducible apply kept_dropJob | with_reducible apply kept_releaseView | split)

theorem kept_turnAway {z : State} (s : State) (ring slot : Nat) (e : Status) (hz : Kept z s) : Kept z (turnAway s ring slot e) := by
  unfold turnAway
  try dsimp only
  repeat' (first | (intro _) | with_reducible assumption | with_reducible apply kept_ite | with_reducible apply kept_finishCmd | with_reducible apply kept_dropReads | (with_reducible first | apply kept_mk | apply kept_mem); first | (intro _) | with_reducible assumption | with_reducible apply kept_ite | with_reducible apply kept_finishCmd | with_reducible apply kept_dropReads | split)

theorem kept_rejectMove {z : State} (s : State) (ring slot : Nat) (e : Status) (hz : Kept z s) : Kept z (rejectMove s ring slot e) := by
  unfold rejectMove
  try dsimp only
  repeat' (first | (intro _) | with_reducible assumption | with_reducible apply kept_ite | with_reducible apply kept_turnAway | with_reducible apply kept_bump | (with_reducible first | apply kept_mk | apply kept_mem); first | (intro _) | with_reducible assumption | with_reducible apply kept_ite | with_reducible apply kept_turnAway | with_reducible apply kept_bump | split)

theorem kept_countPoison {z : State} (s : State) (ring slot : Nat) (lost : List Nat) (l : List (Nat × Bool)) (hz : Kept z s) : Kept z (countPoison s ring slot lost l) := by
  unfold countPoison
  try dsimp only
  repeat' (first | (intro _) | with_reducible assumption | with_reducible apply kept_ite | with_reducible apply kept_markCmd | with_reducible apply kept_bumpIf | (with_reducible first | apply kept_mk | apply kept_mem); first | (intro _) | with_reducible assumption | with_reducible apply kept_ite | with_reducible apply kept_markCmd | with_reducible apply kept_bumpIf | split)

theorem kept_emitLines {z : State} (s : State) (ring slot : Nat) (dst : TD) (rb : RBuf) (lost : List Nat) (t : List (Nat × LineW)) (hz : Kept z s) : Kept z (emitLines s ring slot dst rb lost t) := by
  unfold emitLines
  try dsimp only
  repeat' (first | (intro _) | with_reducible assumption | with_reducible apply kept_ite | with_reducible apply kept_bump | with_reducible apply kept_countPoison | with_reducible apply kept_hostLinesW | with_reducible apply kept_remoteWriteAll | with_reducible apply kept_writeLinesW | (with_reducible first | apply kept_mk | apply kept_mem); first | (intro _) | with_reducible assumption | with_reducible apply kept_ite | with_reducible apply kept_bump | with_reducible apply kept_countPoison | with_reducible apply kept_hostLinesW | with_reducible apply kept_remoteWriteAll | with_reducible apply kept_writeLinesW | split)

theorem kept_settleRemote {z : State} (s : State) (ring slot : Nat) (hz : Kept z s) : Kept z (settleRemote s ring slot) := by
  unfold settleRemote
  try dsimp only
  repeat' (first | (intro _) | with_reducible assumption | with_reducible apply kept_ite | with_reducible apply kept_setPhase | with_reducible apply kept_finishMove | (with_reducible first | apply kept_mk | apply kept_mem); first | (intro _) | with_reducible assumption | with_reducible apply kept_ite | with_reducible apply kept_setPhase | with_reducible apply kept_finishMove | split)

theorem kept_mapAll {z : State} (s : State) (l : List Nat) (h : Kept z s) : Kept z (mapAll s l) := by
  unfold mapAll
  refine kept_foldl _ h (fun t x k => ?_) _
  cases e : autoMap t x with
  | none => exact k
  | some y => exact kept_autoMap t _ k _ e

theorem kept_translateAll {z : State} (s : State) (j : MoveJob) (hz : Kept z s) : Kept z (translateAll s j) := by
  unfold translateAll
  try dsimp only
  repeat' (first | (intro _) | with_reducible assumption | with_reducible apply kept_ite | with_reducible apply kept_foldl | with_reducible apply kept_foldl_fst | with_reducible apply kept_moverTranslate | with_reducible apply kept_mapAll | (with_reducible first | apply kept_mk | apply kept_mem); first | (intro _) | with_reducible assumption | with_reducible apply kept_ite | with_reducible apply kept_foldl | with_reducible apply kept_foldl_fst | with_reducible apply kept_moverTranslate | with_reducible apply kept_mapAll | split)

theorem kept_grinderRecall {z : State} (s : State) (j : MoveJob) (t : List (Nat × LineW)) (hz : Kept z s) : Kept z (grinderRecall s j t) := by
  unfold grinderRecall
  try dsimp only
  repeat' (first | (intro _) | with_reducible assumption | with_reducible apply kept_ite | with_reducible apply kept_foldl | with_reducible apply kept_foldl_fst | with_reducible apply kept_queueLine | with_reducible apply kept_recallAt | (with_reducible first | apply kept_mk | apply kept_mem); first | (intro _) | with_reducible assumption | with_reducible apply kept_ite | with_reducible apply kept_foldl | with_reducible apply kept_foldl_fst | with_reducible apply kept_queueLine | with_reducible apply kept_recallAt | split)

theorem kept_runJob {z : State} (s : State) (j : MoveJob) (rb : RBuf) (hz : Kept z s) : Kept z (runJob s j rb) := by
  unfold runJob
  try dsimp only
  repeat' (first | (intro _) | with_reducible assumption | with_reducible apply kept_ite | with_reducible apply kept_countMove | with_reducible apply kept_translateAll | with_reducible apply kept_settleRemote | with_reducible apply kept_redLines | with_reducible apply kept_bump | with_reducible apply kept_countPoison | with_reducible apply kept_moveLines | with_reducible apply kept_emitLines | with_reducible apply kept_grinderRecall | (with_reducible first | apply kept_mk | apply kept_mem); first | (intro _) | with_reducible assumption | with_reducible apply kept_ite | with_reducible apply kept_countMove | with_reducible apply kept_translateAll | with_reducible apply kept_settleRemote | with_reducible apply kept_redLines | with_reducible apply kept_bump | with_reducible apply kept_countPoison | with_reducible apply kept_moveLines | with_reducible apply kept_emitLines | with_reducible apply kept_grinderRecall | split)

theorem kept_addJob {z : State} (s : State) (j : MoveJob) (hz : Kept z s) : Kept z (addJob s j) := by
  unfold addJob
  try dsimp only
  repeat' (first | (intro _) | with_reducible assumption | with_reducible apply kept_ite | (with_reducible first | apply kept_mk | apply kept_mem); first | (intro _) | with_reducible assumption | with_reducible apply kept_ite | split)

theorem kept_resumeJob {z : State} (s : State) (j : MoveJob) (hz : Kept z s) : Kept z (resumeJob s j) := by
  unfold resumeJob
  try dsimp only
  repeat' (first | (intro _) | with_reducible assumption | with_reducible apply kept_ite | with_reducible apply kept_recallFromHost | with_reducible apply kept_setPhase | with_reducible apply kept_remoteReadAll | with_reducible apply kept_runJob | (with_reducible first | apply kept_mk | apply kept_mem); first | (intro _) | with_reducible assumption | with_reducible apply kept_ite | with_reducible apply kept_recallFromHost | with_reducible apply kept_setPhase | with_reducible apply kept_remoteReadAll | with_reducible apply kept_runJob | split)

theorem kept_startJob {z : State} (s : State) (xp : Bool) (j : MoveJob) (hz : Kept z s) : Kept z (startJob s xp j) := by
  unfold startJob
  try dsimp only
  repeat' (first | (intro _) | with_reducible assumption | with_reducible apply kept_ite | with_reducible apply kept_lockWait | with_reducible apply kept_lockEnd | with_reducible apply kept_rejectMove | with_reducible apply kept_countLists | with_reducible apply kept_turnAway | with_reducible apply kept_resumeJob | with_reducible apply kept_addJob | with_reducible apply kept_keepRoom | (with_reducible first | apply kept_mk | apply kept_mem); first | (intro _) | with_reducible assumption | with_reducible apply kept_ite | with_reducible apply kept_lockWait | with_reducible apply kept_lockEnd | with_reducible apply kept_rejectMove | with_reducible apply kept_countLists | with_reducible apply kept_turnAway | with_reducible apply kept_resumeJob | with_reducible apply kept_addJob | with_reducible apply kept_keepRoom | split)

theorem kept_clearView {z : State} (s : State) (v : View) (hz : Kept z s) : Kept z (clearView s v) := by
  unfold clearView
  try dsimp only
  repeat' (first | (intro _) | with_reducible assumption | with_reducible apply kept_ite | with_reducible apply kept_foldl | with_reducible apply kept_foldl_fst | with_reducible apply kept_updCore | with_reducible apply kept_bump | with_reducible apply kept_bumpIf | (with_reducible first | apply kept_mk | apply kept_mem); first | (intro _) | with_reducible assumption | with_reducible apply kept_ite | with_reducible apply kept_foldl | with_reducible apply kept_foldl_fst | with_reducible apply kept_updCore | with_reducible apply kept_bump | with_reducible apply kept_bumpIf | split)

theorem kept_advanceWgb {z : State} (s : State) (v : View) (hz : Kept z s) : Kept z (advanceWgb s v) := by
  unfold advanceWgb
  try dsimp only
  repeat' (first | (intro _) | with_reducible assumption | with_reducible apply kept_ite | with_reducible apply kept_updCore | (with_reducible first | apply kept_mk | apply kept_mem); first | (intro _) | with_reducible assumption | with_reducible apply kept_ite | with_reducible apply kept_updCore | split)

theorem kept_resumeView {z : State} (s : State) (ring slot : Nat) (v : View) (dst : Option TD) (hz : Kept z s) : Kept z (resumeView s ring slot v dst) := by
  unfold resumeView
  try dsimp only
  repeat' (first | (intro _) | with_reducible assumption | with_reducible apply kept_ite | with_reducible apply kept_recallFromHost | with_reducible apply kept_lockView | with_reducible apply kept_setPhase | with_reducible apply kept_remoteReadAll | (with_reducible first | apply kept_mk | apply kept_mem); first | (intro _) | with_reducible assumption | with_reducible apply kept_ite | with_reducible apply kept_recallFromHost | with_reducible apply kept_lockView | with_reducible apply kept_setPhase | with_reducible apply kept_remoteReadAll | split)

theorem kept_moveViewTo {z : State} (s : State) (ring slot : Nat) (d : Line) (r : Except Status (Option TD)) (hz : Kept z s) : Kept z (moveViewTo s ring slot d r) := by
  unfold moveViewTo
  try dsimp only
  repeat' (first | (intro _) | with_reducible assumption | with_reducible apply kept_ite | with_reducible apply kept_rejectMove | with_reducible apply kept_countRead | with_reducible apply kept_lockWait | with_reducible apply kept_lockEnd | with_reducible apply kept_turnAway | with_reducible apply kept_resumeView | with_reducible apply kept_addJob | with_reducible apply kept_keepRoom | (with_reducible first | apply kept_mk | apply kept_mem); first | (intro _) | with_reducible assumption | with_reducible apply kept_ite | with_reducible apply kept_rejectMove | with_reducible apply kept_countRead | with_reducible apply kept_lockWait | with_reducible apply kept_lockEnd | with_reducible apply kept_turnAway | with_reducible apply kept_resumeView | with_reducible apply kept_addJob | with_reducible apply kept_keepRoom | split)

theorem kept_moveView {z : State} (s : State) (ring slot : Nat) (d : Line) (hz : Kept z s) : Kept z (moveView s ring slot d) := by
  unfold moveView
  try dsimp only
  repeat' (first | (intro _) | with_reducible assumption | with_reducible apply kept_ite | with_reducible apply kept_hostFirst | with_reducible apply kept_moveViewTo | (with_reducible first | apply kept_mk | apply kept_mem); first | (intro _) | with_reducible assumption | with_reducible apply kept_ite | with_reducible apply kept_hostFirst | with_reducible apply kept_moveViewTo | split)

theorem kept_drainTell {z : State} (s : State) (ring slot : Nat) (v : View) (e : Ev) (hz : Kept z s) : Kept z (drainTell s ring slot v e) := by
  unfold drainTell
  try dsimp only
  repeat' (first | (intro _) | with_reducible assumption | with_reducible apply kept_ite | with_reducible apply kept_advanceWgb | with_reducible apply kept_clearView | with_reducible apply kept_tsReport | with_reducible apply kept_bumpEv | with_reducible apply kept_markCmd | (with_reducible first | apply kept_mk | apply kept_mem); first | (intro _) | with_reducible assumption | with_reducible apply kept_ite | with_reducible apply kept_advanceWgb | with_reducible apply kept_clearView | with_reducible apply kept_tsReport | with_reducible apply kept_bumpEv | with_reducible apply kept_markCmd | split)

theorem kept_drainReads {z : State} (s : State) (v : View) (t : TD) (hz : Kept z s) : Kept z (drainReads s v t) := by
  unfold drainReads
  try dsimp only
  repeat' (first | (intro _) | with_reducible assumption | with_reducible apply kept_ite | with_reducible apply kept_bumpIf | (with_reducible first | apply kept_mk | apply kept_mem); first | (intro _) | with_reducible assumption | with_reducible apply kept_ite | with_reducible apply kept_bumpIf | split)

theorem kept_drainMove {z : State} (s : State) (ring slot : Nat) (d : Line) (hz : Kept z s) : Kept z (drainMove s ring slot d) := by
  unfold drainMove
  try dsimp only
  repeat' (first | (intro _) | with_reducible assumption | with_reducible apply kept_ite | with_reducible apply kept_foldl | with_reducible apply kept_foldl_fst | with_reducible apply kept_recallFromHost | with_reducible apply kept_finishMove | with_reducible apply kept_drainTell | with_reducible apply kept_setPhase | with_reducible apply kept_moverTranslate | with_reducible apply kept_mapAll | with_reducible apply kept_drainReads | with_reducible apply kept_settleRemote | with_reducible apply kept_emitLines | (with_reducible first | apply kept_mk | apply kept_mem); first | (intro _) | with_reducible assumption | with_reducible apply kept_ite | with_reducible apply kept_foldl | with_reducible apply kept_foldl_fst | with_reducible apply kept_recallFromHost | with_reducible apply kept_finishMove | with_reducible apply kept_drainTell | with_reducible apply kept_setPhase | with_reducible apply kept_moverTranslate | with_reducible apply kept_mapAll | with_reducible apply kept_drainReads | with_reducible apply kept_settleRemote | with_reducible apply kept_emitLines | split)

theorem kept_startMove {z : State} (s : State) (ring slot : Nat) (xp : Bool) (y0 : GRes) (hz : Kept z s) : Kept z (startMove s ring slot xp y0) := by
  unfold startMove
  try dsimp only
  repeat' (first | (intro _) | with_reducible assumption | with_reducible apply kept_ite | with_reducible apply kept_rejectMove | with_reducible apply kept_countLists | with_reducible apply kept_setPhase | with_reducible apply kept_remoteReadAll | with_reducible apply kept_turnAway | with_reducible apply kept_startJob | (with_reducible first | apply kept_mk | apply kept_mem); first | (intro _) | with_reducible assumption | with_reducible apply kept_ite | with_reducible apply kept_rejectMove | with_reducible apply kept_countLists | with_reducible apply kept_setPhase | with_reducible apply kept_remoteReadAll | with_reducible apply kept_turnAway | with_reducible apply kept_startJob | split)

theorem kept_moveRun {z : State} (s : State) (ring slot : Nat) (d : Line) (hz : Kept z s) : Kept z (moveRun s ring slot d) := by
  unfold moveRun
  try dsimp only
  repeat' (first | (intro _) | with_reducible assumption | with_reducible apply kept_ite | with_reducible apply kept_resumeView | with_reducible apply kept_resumeJob | with_reducible apply kept_moveView | with_reducible apply kept_hostFirst | with_reducible apply kept_startMove | (with_reducible first | apply kept_mk | apply kept_mem); first | (intro _) | with_reducible assumption | with_reducible apply kept_ite | with_reducible apply kept_resumeView | with_reducible apply kept_resumeJob | with_reducible apply kept_moveView | with_reducible apply kept_hostFirst | with_reducible apply kept_startMove | split)

theorem kept_execMove {z : State} (ring slot : Nat) (s : State) (hz : Kept z s) : ∀ zt, execMove ring slot s = .next zt → Kept z zt := by
  intro zt e
  unfold execMove at e
  injection e with e
  subst e
  try dsimp only
  repeat' (first | (intro _) | with_reducible assumption | with_reducible apply kept_ite | with_reducible apply kept_withCmd | with_reducible apply kept_moveRun | (with_reducible first | apply kept_mk | apply kept_mem); first | (intro _) | with_reducible assumption | with_reducible apply kept_ite | with_reducible apply kept_withCmd | with_reducible apply kept_moveRun | split)

theorem kept_gatherRun {z : State} (s : State) (ring slot : Nat) (d : Line) (scatter : Bool) (hz : Kept z s) : Kept z (gatherRun s ring slot d scatter) := by
  unfold gatherRun
  try dsimp only
  repeat' (first | (intro _) | with_reducible assumption | with_reducible apply kept_ite | with_reducible apply kept_resumeJob | with_reducible apply kept_hostFirst | with_reducible apply kept_startMove | with_reducible apply kept_keepDescs | (with_reducible first | apply kept_mk | apply kept_mem); first | (intro _) | with_reducible assumption | with_reducible apply kept_ite | with_reducible apply kept_resumeJob | with_reducible apply kept_hostFirst | with_reducible apply kept_startMove | with_reducible apply kept_keepDescs | split)

theorem kept_execGather {z : State} (ring slot : Nat) (s : State) (hz : Kept z s) : ∀ zt, execGather ring slot s = .next zt → Kept z zt := by
  intro zt e
  unfold execGather at e
  injection e with e
  subst e
  try dsimp only
  repeat' (first | (intro _) | with_reducible assumption | with_reducible apply kept_ite | with_reducible apply kept_withCmd | with_reducible apply kept_gatherRun | (with_reducible first | apply kept_mk | apply kept_mem); first | (intro _) | with_reducible assumption | with_reducible apply kept_ite | with_reducible apply kept_withCmd | with_reducible apply kept_gatherRun | split)

theorem kept_execScatter {z : State} (ring slot : Nat) (s : State) (hz : Kept z s) : ∀ zt, execScatter ring slot s = .next zt → Kept z zt := by
  intro zt e
  unfold execScatter at e
  injection e with e
  subst e
  try dsimp only
  repeat' (first | (intro _) | with_reducible assumption | with_reducible apply kept_ite | with_reducible apply kept_withCmd | with_reducible apply kept_gatherRun | (with_reducible first | apply kept_mk | apply kept_mem); first | (intro _) | with_reducible assumption | with_reducible apply kept_ite | with_reducible apply kept_withCmd | with_reducible apply kept_gatherRun | split)

end Sys2Proof.Machine
end

