-- ==== Sys2Proof/Laws/KeptFabric.lean ====
section
/-!
SUPPORT. The fabric: each keeps the queue, the fuses and used indices, and the canonical form of memory.
-/
namespace Sys2Proof.Machine

set_option linter.unusedTactic false
set_option linter.unreachableTactic false

theorem kept_sendCtrlOn {z : State} (s : State) (dst k : Nat) (m : CtrlMsg) (hz : Kept z s) : Kept z (sendCtrlOn s dst k m) := by
  unfold sendCtrlOn
  try dsimp only
  repeat' (first | (intro _) | with_reducible assumption | with_reducible apply kept_ite | with_reducible apply kept_enqueue | (with_reducible first | apply kept_mk | apply kept_mem); first | (intro _) | with_reducible assumption | with_reducible apply kept_ite | with_reducible apply kept_enqueue | split)

theorem kept_sendCtrl {z : State} (s : State) (dst : Nat) (m : CtrlMsg) (hz : Kept z s) : Kept z (sendCtrl s dst m) := by
  unfold sendCtrl
  try dsimp only
  repeat' (first | (intro _) | with_reducible assumption | with_reducible apply kept_ite | with_reducible apply kept_sendCtrlOn | (with_reducible first | apply kept_mk | apply kept_mem); first | (intro _) | with_reducible assumption | with_reducible apply kept_ite | with_reducible apply kept_sendCtrlOn | split)

theorem kept_sendKept {z : State} (s : State) (dst : Nat) (m : CtrlMsg) (hz : Kept z s) : Kept z (sendKept s dst m) := by
  unfold sendKept
  try dsimp only
  repeat' (first | (intro _) | with_reducible assumption | with_reducible apply kept_ite | with_reducible apply kept_sendCtrl | (with_reducible first | apply kept_mk | apply kept_mem); first | (intro _) | with_reducible assumption | with_reducible apply kept_ite | with_reducible apply kept_sendCtrl | split)

theorem kept_countSubs {z : State} (s : State) (p : Nat) (y0 : List SubFlit) (hz : Kept z s) : Kept z (countSubs s p y0) := by
  induction y0 generalizing s p with
  | nil =>
    unfold countSubs
    try dsimp only
    repeat' (first | (intro _) | with_reducible assumption | with_reducible apply kept_ite | with_reducible apply kept_bumpIf | (with_reducible first | apply kept_mk | apply kept_mem); first | (intro _) | with_reducible assumption | with_reducible apply kept_ite | with_reducible apply kept_bumpIf | split)
  | cons y l ih =>
    unfold countSubs
    try dsimp only
    repeat' (first | with_reducible apply ih | (intro _) | with_reducible assumption | with_reducible apply kept_ite | with_reducible apply kept_bumpIf | (with_reducible first | apply kept_mk | apply kept_mem); first | with_reducible apply ih | (intro _) | with_reducible assumption | with_reducible apply kept_ite | with_reducible apply kept_bumpIf | split)

theorem kept_putFlit {z : State} (s : State) (p : Nat) (x : Port) (f : Flit) (hz : Kept z s) : Kept z (putFlit s p x f) := by
  unfold putFlit
  try dsimp only
  repeat' (first | (intro _) | with_reducible assumption | with_reducible apply kept_ite | with_reducible apply kept_countSubs | with_reducible apply kept_bump | with_reducible apply kept_setPort | (with_reducible first | apply kept_mk | apply kept_mem); first | (intro _) | with_reducible assumption | with_reducible apply kept_ite | with_reducible apply kept_countSubs | with_reducible apply kept_bump | with_reducible apply kept_setPort | split)

theorem kept_freeSent {z : State} (s : State) (f : Flit) (hz : Kept z s) : Kept z (freeSent s f) := by
  unfold freeSent
  try dsimp only
  repeat' (first | (intro _) | with_reducible assumption | with_reducible apply kept_ite | with_reducible apply kept_foldl | with_reducible apply kept_foldl_fst | with_reducible apply kept_freeHeld | (with_reducible first | apply kept_mk | apply kept_mem); first | (intro _) | with_reducible assumption | with_reducible apply kept_ite | with_reducible apply kept_foldl | with_reducible apply kept_foldl_fst | with_reducible apply kept_freeHeld | split)

theorem kept_flitTransmit {z : State} (s : State) (p : Nat) (hz : Kept z s) : Kept z (flitTransmit s p) := by
  unfold flitTransmit
  try dsimp only
  repeat' (first | (intro _) | with_reducible assumption | with_reducible apply kept_ite | with_reducible apply kept_bump | with_reducible apply kept_putFlit | with_reducible apply kept_freeSent | (with_reducible first | apply kept_mk | apply kept_mem); first | (intro _) | with_reducible assumption | with_reducible apply kept_ite | with_reducible apply kept_bump | with_reducible apply kept_putFlit | with_reducible apply kept_freeSent | split)

theorem kept_execFlitTransmit {z : State} (port : Nat) (s : State) (hz : Kept z s) : ∀ zt, execFlitTransmit port s = .next zt → Kept z zt := by
  intro zt e
  unfold execFlitTransmit at e
  injection e with e
  subst e
  try dsimp only
  repeat' (first | (intro _) | with_reducible assumption | with_reducible apply kept_ite | with_reducible apply kept_flitTransmit | (with_reducible first | apply kept_mk | apply kept_mem); first | (intro _) | with_reducible assumption | with_reducible apply kept_ite | with_reducible apply kept_flitTransmit | split)

theorem kept_controlFlit {z : State} (s : State) (p : Nat) (hz : Kept z s) : Kept z (controlFlit s p) := by
  unfold controlFlit
  try dsimp only
  repeat' (first | (intro _) | with_reducible assumption | with_reducible apply kept_ite | with_reducible apply kept_putFlit | (with_reducible first | apply kept_mk | apply kept_mem); first | (intro _) | with_reducible assumption | with_reducible apply kept_ite | with_reducible apply kept_putFlit | split)

theorem kept_execControlFlit {z : State} (port : Nat) (s : State) (hz : Kept z s) : ∀ zt, execControlFlit port s = .next zt → Kept z zt := by
  intro zt e
  unfold execControlFlit at e
  injection e with e
  subst e
  try dsimp only
  repeat' (first | (intro _) | with_reducible assumption | with_reducible apply kept_ite | with_reducible apply kept_controlFlit | (with_reducible first | apply kept_mk | apply kept_mem); first | (intro _) | with_reducible assumption | with_reducible apply kept_ite | with_reducible apply kept_controlFlit | split)

theorem kept_takePacket {z : State} (s : State) (v : BitVec 2) (k : Packet) (hz : Kept z s) : Kept z (takePacket s v k).1 := by
  unfold takePacket
  try dsimp only
  repeat' (first | (intro _) | with_reducible assumption | with_reducible apply kept_ite | with_reducible apply kept_bump | with_reducible apply kept_wakeUp | with_reducible apply kept_holdPacket | with_reducible apply kept_enqueue | (with_reducible first | apply kept_mk | apply kept_mem); first | (intro _) | with_reducible assumption | with_reducible apply kept_ite | with_reducible apply kept_bump | with_reducible apply kept_wakeUp | with_reducible apply kept_holdPacket | with_reducible apply kept_enqueue | split)

theorem kept_occupy {z : State} (s : State) (p v : Nat) (k : Option Packet) (n : Nat) (hz : Kept z s) : Kept z (occupy s p v k n) := by
  unfold occupy
  try dsimp only
  repeat' (first | (intro _) | with_reducible assumption | with_reducible apply kept_ite | with_reducible apply kept_setPort | with_reducible apply kept_creditBack | (with_reducible first | apply kept_mk | apply kept_mem); first | (intro _) | with_reducible assumption | with_reducible apply kept_ite | with_reducible apply kept_setPort | with_reducible apply kept_creditBack | split)

theorem kept_takeParts {z : State} (p : Nat) (v : BitVec 2) (y0 : State) (y1 : Nat) (y2 : List Part) (hz : Kept z y0) : Kept z (takeParts p v y0 y1 y2).1 := by
  induction y2 generalizing p v y0 y1 with
  | nil =>
    unfold takeParts
    try dsimp only
    repeat' (first | (intro _) | with_reducible assumption | with_reducible apply kept_ite | with_reducible apply kept_creditBack | with_reducible apply kept_takePacket | with_reducible apply kept_occupy | (with_reducible first | apply kept_mk | apply kept_mem); first | (intro _) | with_reducible assumption | with_reducible apply kept_ite | with_reducible apply kept_creditBack | with_reducible apply kept_takePacket | with_reducible apply kept_occupy | split)
  | cons y l ih =>
    unfold takeParts
    try dsimp only
    repeat' (first | with_reducible apply ih | (intro _) | with_reducible assumption | with_reducible apply kept_ite | with_reducible apply kept_creditBack | with_reducible apply kept_takePacket | with_reducible apply kept_occupy | (with_reducible first | apply kept_mk | apply kept_mem); first | with_reducible apply ih | (intro _) | with_reducible assumption | with_reducible apply kept_ite | with_reducible apply kept_creditBack | with_reducible apply kept_takePacket | with_reducible apply kept_occupy | split)

theorem kept_takeSub {z : State} (s : State) (p : Nat) (f : SubFlit) (hz : Kept z s) : Kept z (takeSub s p f) := by
  unfold takeSub
  try dsimp only
  repeat' (first | (intro _) | with_reducible assumption | with_reducible apply kept_ite | with_reducible apply kept_takeParts | with_reducible apply kept_setPort | (with_reducible first | apply kept_mk | apply kept_mem); first | (intro _) | with_reducible assumption | with_reducible apply kept_ite | with_reducible apply kept_takeParts | with_reducible apply kept_setPort | split)

theorem kept_takeSubs {z : State} (s : State) (p : Nat) (y0 : List SubFlit) (hz : Kept z s) : Kept z (takeSubs s p y0) := by
  induction y0 generalizing s p with
  | nil =>
    unfold takeSubs
    try dsimp only
    repeat' (first | (intro _) | with_reducible assumption | with_reducible apply kept_ite | with_reducible apply kept_takeSub | (with_reducible first | apply kept_mk | apply kept_mem); first | (intro _) | with_reducible assumption | with_reducible apply kept_ite | with_reducible apply kept_takeSub | split)
  | cons y l ih =>
    unfold takeSubs
    try dsimp only
    repeat' (first | with_reducible apply ih | (intro _) | with_reducible assumption | with_reducible apply kept_ite | with_reducible apply kept_takeSub | (with_reducible first | apply kept_mk | apply kept_mem); first | with_reducible apply ih | (intro _) | with_reducible assumption | with_reducible apply kept_ite | with_reducible apply kept_takeSub | split)

theorem kept_freeCredits {z : State} (s : State) (hz : Kept z s) : Kept z (freeCredits s) := by
  unfold freeCredits
  try dsimp only
  repeat' (first | (intro _) | with_reducible assumption | with_reducible apply kept_ite | (with_reducible first | apply kept_mk | apply kept_mem); first | (intro _) | with_reducible assumption | with_reducible apply kept_ite | split)

theorem kept_takeWords {z : State} (s : State) (p : Nat) (x : Port) (c : RxCheck) (hz : Kept z s) : Kept z (takeWords s p x c) := by
  unfold takeWords
  try dsimp only
  repeat' (first | (intro _) | with_reducible assumption | with_reducible apply kept_ite | with_reducible apply kept_foldl | with_reducible apply kept_foldl_fst | with_reducible apply kept_bumpIf | with_reducible apply kept_setPort | (with_reducible first | apply kept_mk | apply kept_mem); first | (intro _) | with_reducible assumption | with_reducible apply kept_ite | with_reducible apply kept_foldl | with_reducible apply kept_foldl_fst | with_reducible apply kept_bumpIf | with_reducible apply kept_setPort | split)

theorem kept_flitReceive {z : State} (s : State) (p : Nat) (f : Flit) (c : RxCheck) (hz : Kept z s) : Kept z (flitReceive s p f c) := by
  unfold flitReceive
  try dsimp only
  repeat' (first | (intro _) | with_reducible assumption | with_reducible apply kept_ite | with_reducible apply kept_takeWords | with_reducible apply kept_takeSubs | with_reducible apply kept_bump | with_reducible apply kept_setPort | (with_reducible first | apply kept_mk | apply kept_mem); first | (intro _) | with_reducible assumption | with_reducible apply kept_ite | with_reducible apply kept_takeWords | with_reducible apply kept_takeSubs | with_reducible apply kept_bump | with_reducible apply kept_setPort | split)

theorem kept_execFlitReceive {z : State} (port : Nat) (flit : Flit) (check : RxCheck) (s : State) (hz : Kept z s) : ∀ zt, execFlitReceive port flit check s = .next zt → Kept z zt := by
  intro zt e
  unfold execFlitReceive at e
  injection e with e
  subst e
  try dsimp only
  repeat' (first | (intro _) | with_reducible assumption | with_reducible apply kept_ite | with_reducible apply kept_flitReceive | (with_reducible first | apply kept_mk | apply kept_mem); first | (intro _) | with_reducible assumption | with_reducible apply kept_ite | with_reducible apply kept_flitReceive | split)

theorem kept_noteLinks {z : State} (s : State) (hz : Kept z s) : Kept z (noteLinks s) := by
  unfold noteLinks
  try dsimp only
  repeat' (first | (intro _) | with_reducible assumption | with_reducible apply kept_ite | with_reducible apply kept_sendKept | (with_reducible first | apply kept_mk | apply kept_mem); first | (intro _) | with_reducible assumption | with_reducible apply kept_ite | with_reducible apply kept_sendKept | split)

theorem kept_settleP3 {z : State} (s : State) (hz : Kept z s) : Kept z (settleP3 s) := by
  unfold settleP3
  try dsimp only
  repeat' (first | (intro _) | with_reducible assumption | with_reducible apply kept_ite | (with_reducible first | apply kept_mk | apply kept_mem); first | (intro _) | with_reducible assumption | with_reducible apply kept_ite | split)

theorem kept_resendRemotes {z : State} (s : State) (lost : RemoteOp → Bool) (hz : Kept z s) : Kept z (resendRemotes s lost) := by
  unfold resendRemotes
  try dsimp only
  repeat' (first | (intro _) | with_reducible assumption | with_reducible apply kept_ite | with_reducible apply kept_pumpRemotes | (with_reducible first | apply kept_mk | apply kept_mem); first | (intro _) | with_reducible assumption | with_reducible apply kept_ite | with_reducible apply kept_pumpRemotes | split)

theorem kept_routeFailed {z : State} (s : State) (p : Nat) (hz : Kept z s) : Kept z (routeFailed s p) := by
  unfold routeFailed
  try dsimp only
  repeat' (first | (intro _) | with_reducible assumption | with_reducible apply kept_ite | with_reducible apply kept_resendRemotes | (with_reducible first | apply kept_mk | apply kept_mem); first | (intro _) | with_reducible assumption | with_reducible apply kept_ite | with_reducible apply kept_resendRemotes | split)

theorem kept_resendChunks {z : State} (s : State) (p : Nat) (hz : Kept z s) : Kept z (resendChunks s p) := by
  unfold resendChunks
  try dsimp only
  repeat' (first | (intro _) | with_reducible assumption | with_reducible apply kept_ite | with_reducible apply kept_pumpSegs | (with_reducible first | apply kept_mk | apply kept_mem); first | (intro _) | with_reducible assumption | with_reducible apply kept_ite | with_reducible apply kept_pumpSegs | split)

theorem kept_portDown {z : State} (s : State) (p : Nat) (hz : Kept z s) : Kept z (portDown s p) := by
  unfold portDown
  try dsimp only
  repeat' (first | (intro _) | with_reducible assumption | with_reducible apply kept_ite | with_reducible apply kept_foldl | with_reducible apply kept_foldl_fst | with_reducible apply kept_noteLinks | with_reducible apply kept_resendChunks | with_reducible apply kept_routeFailed | with_reducible apply kept_raiseEvent | with_reducible apply kept_bump | with_reducible apply kept_freeHeld | with_reducible apply kept_setPort | with_reducible apply kept_settleP3 | (with_reducible first | apply kept_mk | apply kept_mem); first | (intro _) | with_reducible assumption | with_reducible apply kept_ite | with_reducible apply kept_foldl | with_reducible apply kept_foldl_fst | with_reducible apply kept_noteLinks | with_reducible apply kept_resendChunks | with_reducible apply kept_routeFailed | with_reducible apply kept_raiseEvent | with_reducible apply kept_bump | with_reducible apply kept_freeHeld | with_reducible apply kept_setPort | with_reducible apply kept_settleP3 | split)

theorem kept_recovery {z : State} (s : State) (p : Nat) (hz : Kept z s) : Kept z (recovery s p) := by
  induction p generalizing s with
  | zero =>
    unfold recovery
    try dsimp only
    repeat' (first | (intro _) | with_reducible assumption | with_reducible apply kept_ite | with_reducible apply kept_bump | with_reducible apply kept_setPort | (with_reducible first | apply kept_mk | apply kept_mem); first | (intro _) | with_reducible assumption | with_reducible apply kept_ite | with_reducible apply kept_bump | with_reducible apply kept_setPort | split)
  | succ n ih =>
    unfold recovery
    try dsimp only
    repeat' (first | with_reducible apply ih | (intro _) | with_reducible assumption | with_reducible apply kept_ite | with_reducible apply kept_bump | with_reducible apply kept_setPort | (with_reducible first | apply kept_mk | apply kept_mem); first | with_reducible apply ih | (intro _) | with_reducible assumption | with_reducible apply kept_ite | with_reducible apply kept_bump | with_reducible apply kept_setPort | split)

theorem kept_execRecovery {z : State} (port : Nat) (s : State) (hz : Kept z s) : ∀ zt, execRecovery port s = .next zt → Kept z zt := by
  intro zt e
  unfold execRecovery at e
  injection e with e
  subst e
  try dsimp only
  repeat' (first | (intro _) | with_reducible assumption | with_reducible apply kept_ite | with_reducible apply kept_recovery | (with_reducible first | apply kept_mk | apply kept_mem); first | (intro _) | with_reducible assumption | with_reducible apply kept_ite | with_reducible apply kept_recovery | split)

theorem kept_recoveryComplete {z : State} (s : State) (p : Nat) (hz : Kept z s) : Kept z (recoveryComplete s p) := by
  unfold recoveryComplete
  try dsimp only
  repeat' (first | (intro _) | with_reducible assumption | with_reducible apply kept_ite | with_reducible apply kept_recovery | with_reducible apply kept_pumpRoutes | with_reducible apply kept_setPort | (with_reducible first | apply kept_mk | apply kept_mem); first | (intro _) | with_reducible assumption | with_reducible apply kept_ite | with_reducible apply kept_recovery | with_reducible apply kept_pumpRoutes | with_reducible apply kept_setPort | split)

theorem kept_execRecoveryComplete {z : State} (port : Nat) (s : State) (hz : Kept z s) : ∀ zt, execRecoveryComplete port s = .next zt → Kept z zt := by
  intro zt e
  unfold execRecoveryComplete at e
  injection e with e
  subst e
  try dsimp only
  repeat' (first | (intro _) | with_reducible assumption | with_reducible apply kept_ite | with_reducible apply kept_recoveryComplete | (with_reducible first | apply kept_mk | apply kept_mem); first | (intro _) | with_reducible assumption | with_reducible apply kept_ite | with_reducible apply kept_recoveryComplete | split)

theorem kept_execRecoveryTimeout {z : State} (port : Nat) (s : State) (hz : Kept z s) : ∀ zt, execRecoveryTimeout port s = .next zt → Kept z zt := by
  intro zt e
  unfold execRecoveryTimeout at e
  injection e with e
  subst e
  try dsimp only
  repeat' (first | (intro _) | with_reducible assumption | with_reducible apply kept_ite | with_reducible apply kept_recovery | with_reducible apply kept_portDown | (with_reducible first | apply kept_mk | apply kept_mem); first | (intro _) | with_reducible assumption | with_reducible apply kept_ite | with_reducible apply kept_recovery | with_reducible apply kept_portDown | split)

theorem kept_laneFailure {z : State} (s : State) (p lane : Nat) (hz : Kept z s) : Kept z (laneFailure s p lane) := by
  unfold laneFailure
  try dsimp only
  repeat' (first | (intro _) | with_reducible assumption | with_reducible apply kept_ite | with_reducible apply kept_setPort | with_reducible apply kept_portDown | (with_reducible first | apply kept_mk | apply kept_mem); first | (intro _) | with_reducible assumption | with_reducible apply kept_ite | with_reducible apply kept_setPort | with_reducible apply kept_portDown | split)

theorem kept_execLaneFailure {z : State} (port lane : Nat) (s : State) (hz : Kept z s) : ∀ zt, execLaneFailure port lane s = .next zt → Kept z zt := by
  intro zt e
  unfold execLaneFailure at e
  injection e with e
  subst e
  try dsimp only
  repeat' (first | (intro _) | with_reducible assumption | with_reducible apply kept_ite | with_reducible apply kept_laneFailure | (with_reducible first | apply kept_mk | apply kept_mem); first | (intro _) | with_reducible assumption | with_reducible apply kept_ite | with_reducible apply kept_laneFailure | split)

end Sys2Proof.Machine
end

