-- ==== Sys2Proof/Laws/KeptFixer.lean ====
section
/-!
SUPPORT. The Fixer: each keeps the queue, the fuses and used indices, and the canonical form of memory.
-/
namespace Sys2Proof.Machine

set_option linter.unusedTactic false
set_option linter.unreachableTactic false

theorem kept_writeHeader {z : State} (s : State) (hz : Kept z s) : Kept z (writeHeader s) := by
  unfold writeHeader
  try dsimp only
  repeat' (first | (intro _) | with_reducible assumption | with_reducible apply kept_ite | with_reducible apply kept_foldl | with_reducible apply kept_foldl_fst | with_reducible apply kept_logWrite | (with_reducible first | apply kept_mk | apply kept_mem); first | (intro _) | with_reducible assumption | with_reducible apply kept_ite | with_reducible apply kept_foldl | with_reducible apply kept_foldl_fst | with_reducible apply kept_logWrite | split)

theorem kept_logOpen {z : State} (s : State) (d : Line) (ring slot : Nat) (hz : Kept z s) : Kept z (logOpen s d ring slot) := by
  unfold logOpen
  try dsimp only
  repeat' (first | (intro _) | with_reducible assumption | with_reducible apply kept_ite | with_reducible apply kept_logAppend | (with_reducible first | apply kept_mk | apply kept_mem); first | (intro _) | with_reducible assumption | with_reducible apply kept_ite | with_reducible apply kept_logAppend | split)

theorem kept_openSegment {z : State} (s0 : State) (d : Line) (ring slot : Nat) (hz : Kept z s0) : Kept z (openSegment s0 d ring slot) := by
  unfold openSegment
  try dsimp only
  repeat' (first | (intro _) | with_reducible assumption | with_reducible apply kept_ite | with_reducible apply kept_writeHeader | with_reducible apply kept_logOpen | (with_reducible first | apply kept_mk | apply kept_mem); first | (intro _) | with_reducible assumption | with_reducible apply kept_ite | with_reducible apply kept_writeHeader | with_reducible apply kept_logOpen | split)

theorem kept_openOr {z : State} (s : State) (ring slot : Nat) (d : Line) (y0 : Option Status) (hz : Kept z s) : Kept z (openOr s ring slot d y0) := by
  unfold openOr
  try dsimp only
  repeat' (first | (intro _) | with_reducible assumption | with_reducible apply kept_ite | with_reducible apply kept_finishCmd | with_reducible apply kept_logOpen | with_reducible apply kept_openSegment | (with_reducible first | apply kept_mk | apply kept_mem); first | (intro _) | with_reducible assumption | with_reducible apply kept_ite | with_reducible apply kept_finishCmd | with_reducible apply kept_logOpen | with_reducible apply kept_openSegment | split)

theorem kept_stepOpen {z : State} (s : State) (ring slot : Nat) (d : Line) (hz : Kept z s) : Kept z (stepOpen s ring slot d) := by
  unfold stepOpen
  try dsimp only
  repeat' (first | (intro _) | with_reducible assumption | with_reducible apply kept_ite | with_reducible apply kept_openOr | (with_reducible first | apply kept_mk | apply kept_mem); first | (intro _) | with_reducible assumption | with_reducible apply kept_ite | with_reducible apply kept_openOr | split)

theorem kept_execStepBeginOpen {z : State} (ring slot : Nat) (s : State) (hz : Kept z s) : ∀ zt, execStepBeginOpen ring slot s = .next zt → Kept z zt := by
  intro zt e
  unfold execStepBeginOpen at e
  injection e with e
  subst e
  try dsimp only
  repeat' (first | (intro _) | with_reducible assumption | with_reducible apply kept_ite | with_reducible apply kept_withCmd | with_reducible apply kept_stepOpen | (with_reducible first | apply kept_mk | apply kept_mem); first | (intro _) | with_reducible assumption | with_reducible apply kept_ite | with_reducible apply kept_withCmd | with_reducible apply kept_stepOpen | split)

theorem kept_stepResolve {z : State} (s : State) (ring slot : Nat) (d : Line) (hz : Kept z s) : Kept z (stepResolve s ring slot d) := by
  unfold stepResolve
  try dsimp only
  repeat' (first | (intro _) | with_reducible assumption | with_reducible apply kept_ite | with_reducible apply kept_checked | with_reducible apply kept_finishCmd | with_reducible apply kept_discardStep | (with_reducible first | apply kept_mk | apply kept_mem); first | (intro _) | with_reducible assumption | with_reducible apply kept_ite | with_reducible apply kept_checked | with_reducible apply kept_finishCmd | with_reducible apply kept_discardStep | split)

theorem kept_execStepBeginResolve {z : State} (ring slot : Nat) (s : State) (hz : Kept z s) : ∀ zt, execStepBeginResolve ring slot s = .next zt → Kept z zt := by
  intro zt e
  unfold execStepBeginResolve at e
  injection e with e
  subst e
  try dsimp only
  repeat' (first | (intro _) | with_reducible assumption | with_reducible apply kept_ite | with_reducible apply kept_withCmd | with_reducible apply kept_stepResolve | (with_reducible first | apply kept_mk | apply kept_mem); first | (intro _) | with_reducible assumption | with_reducible apply kept_ite | with_reducible apply kept_withCmd | with_reducible apply kept_stepResolve | split)

theorem kept_stripWithdraw {z : State} (s : State) (hz : Kept z s) : Kept z (stripWithdraw s) := by
  unfold stripWithdraw
  try dsimp only
  repeat' (first | (intro _) | with_reducible assumption | with_reducible apply kept_ite | (with_reducible first | apply kept_mk | apply kept_mem); first | (intro _) | with_reducible assumption | with_reducible apply kept_ite | split)

theorem kept_stripPlace {z : State} (s : State) (hz : Kept z s) : Kept z (stripPlace s) := by
  unfold stripPlace
  try dsimp only
  repeat' (first | (intro _) | with_reducible assumption | with_reducible apply kept_ite | with_reducible apply kept_stripWait | with_reducible apply kept_stripPost | with_reducible apply kept_flagPut | (with_reducible first | apply kept_mk | apply kept_mem); first | (intro _) | with_reducible assumption | with_reducible apply kept_ite | with_reducible apply kept_stripWait | with_reducible apply kept_stripPost | with_reducible apply kept_flagPut | split)

theorem kept_setTstrip {z : State} (s : State) (v : BitVec 64) (hz : Kept z s) : Kept z (setTstrip s v) := by
  unfold setTstrip
  try dsimp only
  repeat' (first | (intro _) | with_reducible assumption | with_reducible apply kept_ite | with_reducible apply kept_setReg64 | with_reducible apply kept_stripWithdraw | with_reducible apply kept_stripPlace | (with_reducible first | apply kept_mk | apply kept_mem); first | (intro _) | with_reducible assumption | with_reducible apply kept_ite | with_reducible apply kept_setReg64 | with_reducible apply kept_stripWithdraw | with_reducible apply kept_stripPlace | split)

theorem kept_execTstripConfigWrite {z : State} (v : BitVec 64) (s : State) (hz : Kept z s) : ∀ zt, execTstripConfigWrite v s = .next zt → Kept z zt := by
  intro zt e
  unfold execTstripConfigWrite at e
  injection e with e
  subst e
  try dsimp only
  repeat' (first | (intro _) | with_reducible assumption | with_reducible apply kept_ite | with_reducible apply kept_setTstrip | (with_reducible first | apply kept_mk | apply kept_mem); first | (intro _) | with_reducible assumption | with_reducible apply kept_ite | with_reducible apply kept_setTstrip | split)

theorem kept_setGroup {z : State} (s : State) (g : Nat) (x : GroupSt) (hz : Kept z s) : Kept z (setGroup s g x) := by
  unfold setGroup
  try dsimp only
  repeat' (first | (intro _) | with_reducible assumption | with_reducible apply kept_ite | (with_reducible first | apply kept_mk | apply kept_mem); first | (intro _) | with_reducible assumption | with_reducible apply kept_ite | split)

theorem kept_zeroBytes {z : State} (s : State) (a n : Nat) (h : Kept z s) : Kept z (zeroBytes s a n) := by
  unfold zeroBytes
  exact kept_withMem h (twf_tclear _ _ _)

theorem kept_defineBlock {z : State} (s : State) (ring slot : Nat) (x : Nat × Nat) (hz : Kept z s) : Kept z (defineBlock s ring slot x) := by
  unfold defineBlock
  try dsimp only
  repeat' (first | (intro _) | with_reducible assumption | with_reducible apply kept_ite | with_reducible apply kept_setDir | with_reducible apply kept_waitFor1 | with_reducible apply kept_mapAt | (with_reducible first | apply kept_mk | apply kept_mem); first | (intro _) | with_reducible assumption | with_reducible apply kept_ite | with_reducible apply kept_setDir | with_reducible apply kept_waitFor1 | with_reducible apply kept_mapAt | split)

theorem kept_defineGroup {z : State} (s : State) (ring slot g r : Nat) (hz : Kept z s) : Kept z (defineGroup s ring slot g r) := by
  unfold defineGroup
  try dsimp only
  repeat' (first | (intro _) | with_reducible assumption | with_reducible apply kept_ite | with_reducible apply kept_foldl | with_reducible apply kept_foldl_fst | with_reducible apply kept_defineBlock | with_reducible apply kept_zeroBytes | with_reducible apply kept_queueLine | with_reducible apply kept_recallAt | with_reducible apply kept_setGroup | (with_reducible first | apply kept_mk | apply kept_mem); first | (intro _) | with_reducible assumption | with_reducible apply kept_ite | with_reducible apply kept_foldl | with_reducible apply kept_foldl_fst | with_reducible apply kept_defineBlock | with_reducible apply kept_zeroBytes | with_reducible apply kept_queueLine | with_reducible apply kept_recallAt | with_reducible apply kept_setGroup | split)

theorem kept_defineWith {z : State} (s : State) (ring slot g v r : Nat) (hz : Kept z s) : Kept z (defineWith s ring slot g v r) := by
  unfold defineWith
  try dsimp only
  repeat' (first | (intro _) | with_reducible assumption | with_reducible apply kept_ite | with_reducible apply kept_finishCmd | with_reducible apply kept_keepSnap | with_reducible apply kept_hostFirst | with_reducible apply kept_settleMoves | with_reducible apply kept_defineGroup | (with_reducible first | apply kept_mk | apply kept_mem); first | (intro _) | with_reducible assumption | with_reducible apply kept_ite | with_reducible apply kept_finishCmd | with_reducible apply kept_keepSnap | with_reducible apply kept_hostFirst | with_reducible apply kept_settleMoves | with_reducible apply kept_defineGroup | split)

theorem kept_updateDefine {z : State} (s : State) (ring slot : Nat) (d : Line) (hz : Kept z s) : Kept z (updateDefine s ring slot d) := by
  unfold updateDefine
  try dsimp only
  repeat' (first | (intro _) | with_reducible assumption | with_reducible apply kept_ite | with_reducible apply kept_checked | with_reducible apply kept_defineWith | with_reducible apply kept_hostFirst | with_reducible apply kept_finishCmd | with_reducible apply kept_countRead | (with_reducible first | apply kept_mk | apply kept_mem); first | (intro _) | with_reducible assumption | with_reducible apply kept_ite | with_reducible apply kept_checked | with_reducible apply kept_defineWith | with_reducible apply kept_hostFirst | with_reducible apply kept_finishCmd | with_reducible apply kept_countRead | split)

theorem kept_execUpdateDefine {z : State} (ring slot : Nat) (s : State) (hz : Kept z s) : ∀ zt, execUpdateDefine ring slot s = .next zt → Kept z zt := by
  intro zt e
  unfold execUpdateDefine at e
  injection e with e
  subst e
  try dsimp only
  repeat' (first | (intro _) | with_reducible assumption | with_reducible apply kept_ite | with_reducible apply kept_withCmd | with_reducible apply kept_updateDefine | (with_reducible first | apply kept_mk | apply kept_mem); first | (intro _) | with_reducible assumption | with_reducible apply kept_ite | with_reducible apply kept_withCmd | with_reducible apply kept_updateDefine | split)

theorem kept_updateModify {z : State} (s : State) (ring slot : Nat) (d : Line) (hz : Kept z s) : Kept z (updateModify s ring slot d) := by
  unfold updateModify
  try dsimp only
  repeat' (first | (intro _) | with_reducible assumption | with_reducible apply kept_ite | with_reducible apply kept_checked | with_reducible apply kept_hostFirst | with_reducible apply kept_finishCmd | with_reducible apply kept_countRead | with_reducible apply kept_setGroup | (with_reducible first | apply kept_mk | apply kept_mem); first | (intro _) | with_reducible assumption | with_reducible apply kept_ite | with_reducible apply kept_checked | with_reducible apply kept_hostFirst | with_reducible apply kept_finishCmd | with_reducible apply kept_countRead | with_reducible apply kept_setGroup | split)

theorem kept_execUpdateModify {z : State} (ring slot : Nat) (s : State) (hz : Kept z s) : ∀ zt, execUpdateModify ring slot s = .next zt → Kept z zt := by
  intro zt e
  unfold execUpdateModify at e
  injection e with e
  subst e
  try dsimp only
  repeat' (first | (intro _) | with_reducible assumption | with_reducible apply kept_ite | with_reducible apply kept_withCmd | with_reducible apply kept_updateModify | (with_reducible first | apply kept_mk | apply kept_mem); first | (intro _) | with_reducible assumption | with_reducible apply kept_ite | with_reducible apply kept_withCmd | with_reducible apply kept_updateModify | split)

theorem kept_releaseGroup {z : State} (s : State) (g : Nat) (hz : Kept z s) : Kept z (releaseGroup s g) := by
  unfold releaseGroup
  try dsimp only
  repeat' (first | (intro _) | with_reducible assumption | with_reducible apply kept_ite | with_reducible apply kept_foldl | with_reducible apply kept_foldl_fst | with_reducible apply kept_setDir | with_reducible apply kept_setGroup | (with_reducible first | apply kept_mk | apply kept_mem); first | (intro _) | with_reducible assumption | with_reducible apply kept_ite | with_reducible apply kept_foldl | with_reducible apply kept_foldl_fst | with_reducible apply kept_setDir | with_reducible apply kept_setGroup | split)

theorem kept_updateRelease {z : State} (s : State) (ring slot : Nat) (d : Line) (hz : Kept z s) : Kept z (updateRelease s ring slot d) := by
  unfold updateRelease
  try dsimp only
  repeat' (first | (intro _) | with_reducible assumption | with_reducible apply kept_ite | with_reducible apply kept_checked | with_reducible apply kept_finishCmd | with_reducible apply kept_releaseGroup | (with_reducible first | apply kept_mk | apply kept_mem); first | (intro _) | with_reducible assumption | with_reducible apply kept_ite | with_reducible apply kept_checked | with_reducible apply kept_finishCmd | with_reducible apply kept_releaseGroup | split)

theorem kept_execUpdateRelease {z : State} (ring slot : Nat) (s : State) (hz : Kept z s) : ∀ zt, execUpdateRelease ring slot s = .next zt → Kept z zt := by
  intro zt e
  unfold execUpdateRelease at e
  injection e with e
  subst e
  try dsimp only
  repeat' (first | (intro _) | with_reducible assumption | with_reducible apply kept_ite | with_reducible apply kept_withCmd | with_reducible apply kept_updateRelease | (with_reducible first | apply kept_mk | apply kept_mem); first | (intro _) | with_reducible assumption | with_reducible apply kept_ite | with_reducible apply kept_withCmd | with_reducible apply kept_updateRelease | split)

theorem kept_fixRecall {z : State} (p : Nat) (s : State) (l : Nat) (hz : Kept z s) : Kept z (fixRecall p s l) := by
  unfold fixRecall
  try dsimp only
  repeat' (first | (intro _) | with_reducible assumption | with_reducible apply kept_ite | with_reducible apply kept_recallLine | (with_reducible first | apply kept_mk | apply kept_mem); first | (intro _) | with_reducible assumption | with_reducible apply kept_ite | with_reducible apply kept_recallLine | split)

theorem kept_fixTouch {z : State} (p : Nat) (write : Bool) (s : State) (l : Nat) (hz : Kept z s) : Kept z (fixTouch p write s l) := by
  unfold fixTouch
  try dsimp only
  repeat' (first | (intro _) | with_reducible assumption | with_reducible apply kept_ite | with_reducible apply kept_queueLine | with_reducible apply kept_fixRecall | (with_reducible first | apply kept_mk | apply kept_mem); first | (intro _) | with_reducible assumption | with_reducible apply kept_ite | with_reducible apply kept_queueLine | with_reducible apply kept_fixRecall | split)

theorem kept_touchAt {z : State} (s : State) (addr : Nat) (write small : Bool) (hz : Kept z s) : Kept z (touchAt s addr write small) := by
  unfold touchAt
  try dsimp only
  repeat' (first | (intro _) | with_reducible assumption | with_reducible apply kept_ite | with_reducible apply kept_narrowTouch | (with_reducible first | apply kept_mk | apply kept_mem); first | (intro _) | with_reducible assumption | with_reducible apply kept_ite | with_reducible apply kept_narrowTouch | split)

theorem kept_rowTouch {z : State} (write : Bool) (r b : Nat) (s : State) (hz : Kept z s) : Kept z (rowTouch write r b s) := by
  unfold rowTouch
  try dsimp only
  repeat' (first | (intro _) | with_reducible assumption | with_reducible apply kept_ite | with_reducible apply kept_foldl | with_reducible apply kept_foldl_fst | with_reducible apply kept_touchAt | (with_reducible first | apply kept_mk | apply kept_mem); first | (intro _) | with_reducible assumption | with_reducible apply kept_ite | with_reducible apply kept_foldl | with_reducible apply kept_foldl_fst | with_reducible apply kept_touchAt | split)

theorem kept_skipNf {z : State} (x : StepRun) (p n : Nat) (h : Kept z x.s) : Kept z (skipNf x p n).s := kept_bump _ _ _ h
theorem kept_skipPoison {z : State} (x : StepRun) (p n : Nat) (h : Kept z x.s) : Kept z (skipPoison x p n).s := kept_bump _ _ _ h
theorem kept_writeBlock {z : State} (x : StepRun) (p : Nat) (l : List Nat) (t : Table LineW) (h : Kept z x.s) : Kept z (writeBlock x p l t).s :=
  kept_writeLinesW _ _ (kept_foldl _ h (fun _ _ k => kept_ite k (kept_fixTouch _ _ _ _ k)) _)
theorem kept_recallBlockOf {z : State} (r p b : Nat) (x : StepRun) (h : Kept z x.s) : Kept z (recallBlockOf r p b x).s :=
  kept_foldl _ h (fun _ _ k => kept_fixTouch _ _ _ _ k) _
theorem kept_addEvents {z : State} (x : StepRun) (p : Nat) (e : Ev) (h : Kept z x.s) : Kept z (addEvents x p e).s := kept_bumpEv _ _ _ h
theorem kept_countBlocks {z : State} (x : StepRun) (p n : Nat) (e : Ev) (h : Kept z x.s) : Kept z (countBlocks x p n e).s :=
  kept_bump _ _ _ (kept_addEvents _ _ _ h)

theorem kept_applyRes {z : State} (x : StepRun) (p n : Nat) (q : BlockRes) (h : Kept z x.s) : Kept z (applyRes x p n q).s := by
  cases q with
  | poison => exact kept_skipPoison _ _ _ h
  | skip e => exact kept_skipNf _ _ _ (kept_addEvents _ _ _ h)
  | write t e => exact kept_countBlocks _ _ _ _ (kept_writeBlock _ _ _ _ h)

theorem kept_stepFold {α : Type} {z : State} (f : StepRun → α → StepRun) (k : ∀ x a, Kept z x.s → Kept z (f x a).s) (l : List α) (x : StepRun)
    (h : Kept z x.s) : Kept z (l.foldl f x).s := by
  induction l generalizing x with
  | nil => exact h
  | cons a l ih => exact ih _ (k _ _ h)

theorem kept_stepIte {z : State} {p : Prop} [Decidable p] {x y : StepRun} (h : Kept z x.s) (k : Kept z y.s) : Kept z (if p then x else y).s := by
  split <;> assumption

theorem kept_stepBlock {z : State} (r n : Nat) (y : Hyper) (k : Nat) (gr : Grad) (b : Nat) (x : StepRun) (h : Kept z x.s) :
    Kept z (stepBlock r n y k gr b x).s := kept_applyRes _ _ _ _ (kept_recallBlockOf _ _ _ _ h)

theorem kept_pass1 {z : State} (r n : Nat) (y : Hyper) (gr : Nat → State → Grad) (l : List Nat) (x : StepRun × List SegSum × List Nat)
    (h : Kept z x.1.s) : Kept z (pass1 r n y gr l x).1.s := by
  induction l generalizing x with
  | nil => exact h
  | cons b l ih =>
    obtain ⟨x, sums, skips⟩ := x
    unfold pass1
    dsimp only
    have h := kept_recallBlockOf r (fixStack x.s r b) b x h
    split
    · exact ih _ (kept_skipPoison _ _ _ h)
    · split
      · exact ih _ (kept_skipNf _ _ _ (kept_addEvents _ _ _ h))
      · exact ih _ (kept_addEvents _ _ _ (kept_writeBlock _ _ _ _ h))

theorem kept_pass2 {z : State} (r n : Nat) (y : Hyper) (sums : List SegSum) (b : Nat) (x : StepRun) (h : Kept z x.s) :
    Kept z (pass2 r n y sums b x).s := by
  unfold pass2
  exact kept_stepIte (kept_applyRes _ _ _ _ h) (kept_applyRes _ _ _ _ h)

theorem kept_ratioEvents {z : State} (r : Nat) (sums : List SegSum) (x : StepRun) (h : Kept z x.s) : Kept z (ratioEvents r sums x).s :=
  kept_stepFold _ (fun _ _ k => kept_addEvents _ _ _ k) _ _ h

theorem kept_stepNorm {z : State} (r n : Nat) (y : Hyper) (gr : Nat → State → Grad) (x : StepRun) (h : Kept z x.s) :
    Kept z (stepNorm r n y gr x).s := by
  unfold stepNorm
  exact kept_stepFold _ (fun _ _ k => kept_pass2 _ _ _ _ _ _ k) _ _ (kept_ratioEvents _ _ _ (kept_pass1 _ _ _ _ _ _ h))

theorem kept_stepPre {z : State} (r n : Nat) (y : Hyper) (gr : Nat → State → Grad) (bb : Nat) (x : StepRun) (h : Kept z x.s) :
    Kept z (stepPre r n y gr bb x).s := by
  unfold stepPre
  have h : Kept z ((List.range 32).foldl (fun y i => recallBlockOf r (fixStack x.s r (32 * bb)) (32 * bb + i) y) x).s :=
    kept_stepFold _ (fun _ _ k => kept_recallBlockOf _ _ _ _ k) _ _ h
  refine kept_stepIte (kept_applyRes _ _ _ _ h) (kept_stepIte (kept_applyRes _ _ _ _ h) (kept_stepIte (kept_applyRes _ _ _ _ ?_)
    (kept_applyRes _ _ _ _ ?_))) <;>
  exact kept_ite (kept_bumpIf _ _ _ _ (kept_bumpIf _ _ _ _ (kept_bump _ _ _ h))) h

theorem kept_embedBlock {z : State} (r n : Nat) (y : Hyper) (k : Nat) (rb : RBuf) (t : TD) (pois : Bool) (j c b : Nat) (x : StepRun)
    (h : Kept z x.s) : Kept z (embedBlock r n y k rb t pois j c b x).s := by
  unfold embedBlock
  dsimp only
  have h0 := kept_rowTouch false r b _ (kept_ite (p := t.space = 0) (kept_foldl (fixTouch (fixStack x.s r b) false) h
    (fun _ _ k => kept_fixTouch _ _ _ _ k) (growsLines t j c)) h)
  split
  · exact kept_countBlocks _ _ _ _ (kept_writeBlock _ _ _ _ (kept_rowTouch _ _ _ _ h0))
  · exact kept_applyRes _ _ _ _ h0

theorem kept_embedRow {z : State} (r n : Nat) (y : Hyper) (rb : RBuf) (t : TD) (j row : Nat) (x : StepRun) (h : Kept z x.s) :
    Kept z (embedRow r n y rb t j row x).s := by
  unfold embedRow
  exact kept_writeLineW _ _ _ (kept_touchAt _ _ _ _ (kept_bumpIf _ _ _ _ (kept_bump _ _ _
    (kept_stepFold _ (fun _ _ k => kept_embedBlock _ _ _ _ _ _ _ _ _ _ _ k) _ _ (kept_touchAt _ _ _ _ h)))))

theorem kept_embedRows {z : State} (r n : Nat) (y : Hyper) (rb : RBuf) (t : TD) (j : Nat) (l : List Int) (x : StepRun) (h : Kept z x.s) :
    Kept z (embedRows r n y rb t j l x).s := by
  induction l generalizing j x with
  | nil => exact h
  | cons v l ih => exact ih _ _ (kept_embedRow _ _ _ _ _ _ _ _ h)

theorem kept_runStep {z : State} (s : State) (ring slot : Nat) (d : Line) (g r : Nat) (e : Option EmbedIn) (h : Kept z s) :
    Kept z (runStep s ring slot d g r e) := by
  unfold runStep
  refine kept_finishCmd _ _ _ _ _ (kept_dropReads _ _ _ (kept_setGroup _ _ _ (kept_tsReport _ _ _ ?_)))
  cases e with
  | some q => exact kept_embedRows _ _ _ _ _ _ _ _ h
  | none =>
    exact kept_stepIte (kept_stepNorm _ _ _ _ _ h) (kept_stepIte (kept_stepFold _ (fun _ _ k => kept_stepPre _ _ _ _ _ _ k) _ _ h)
      (kept_stepFold _ (fun _ _ k => kept_stepBlock _ _ _ _ _ _ _ k) _ _ h))

theorem kept_latchStep {z : State} (s : State) (ring slot : Nat) (d : Line) (g r : Nat) (idx : Option (List Int)) (hz : Kept z s) : Kept z (latchStep s ring slot d g r idx) := by
  unfold latchStep
  try dsimp only
  repeat' (first | (intro _) | with_reducible assumption | with_reducible apply kept_ite | with_reducible apply kept_keepSnap | with_reducible apply kept_keepDescs | (with_reducible first | apply kept_mk | apply kept_mem); first | (intro _) | with_reducible assumption | with_reducible apply kept_ite | with_reducible apply kept_keepSnap | with_reducible apply kept_keepDescs | split)

theorem kept_stepNext {z : State} (s : State) (ring slot : Nat) (d : Line) (g r : Nat) (q : StepIn) (hz : Kept z s) : Kept z (stepNext s ring slot d g r q) := by
  unfold stepNext
  try dsimp only
  repeat' (first | (intro _) | with_reducible assumption | with_reducible apply kept_ite | with_reducible apply kept_finishCmd | with_reducible apply kept_dropReads | with_reducible apply kept_countRead | with_reducible apply kept_setPhase | with_reducible apply kept_remoteReadAll | with_reducible apply kept_latchStep | with_reducible apply kept_recallFromHost | with_reducible apply kept_runStep | (with_reducible first | apply kept_mk | apply kept_mem); first | (intro _) | with_reducible assumption | with_reducible apply kept_ite | with_reducible apply kept_finishCmd | with_reducible apply kept_dropReads | with_reducible apply kept_countRead | with_reducible apply kept_setPhase | with_reducible apply kept_remoteReadAll | with_reducible apply kept_latchStep | with_reducible apply kept_recallFromHost | with_reducible apply kept_runStep | split)

theorem kept_updateStep {z : State} (s : State) (ring slot : Nat) (d : Line) (hz : Kept z s) : Kept z (updateStep s ring slot d) := by
  unfold updateStep
  try dsimp only
  repeat' (first | (intro _) | with_reducible assumption | with_reducible apply kept_ite | with_reducible apply kept_finishCmd | with_reducible apply kept_hostFirst | with_reducible apply kept_stepNext | (with_reducible first | apply kept_mk | apply kept_mem); first | (intro _) | with_reducible assumption | with_reducible apply kept_ite | with_reducible apply kept_finishCmd | with_reducible apply kept_hostFirst | with_reducible apply kept_stepNext | split)

theorem kept_execUpdateStep {z : State} (ring slot : Nat) (s : State) (hz : Kept z s) : ∀ zt, execUpdateStep ring slot s = .next zt → Kept z zt := by
  intro zt e
  unfold execUpdateStep at e
  injection e with e
  subst e
  try dsimp only
  repeat' (first | (intro _) | with_reducible assumption | with_reducible apply kept_ite | with_reducible apply kept_withCmd | with_reducible apply kept_updateStep | (with_reducible first | apply kept_mk | apply kept_mem); first | (intro _) | with_reducible assumption | with_reducible apply kept_ite | with_reducible apply kept_withCmd | with_reducible apply kept_updateStep | split)

end Sys2Proof.Machine
end

