-- ==== Sys2Proof/Laws/KeptReduce.lean ====
section
/-!
SUPPORT. Collectives: each keeps the queue, the fuses and used indices, and the canonical form of memory.
-/
namespace Sys2Proof.Machine

set_option linter.unusedTactic false
set_option linter.unreachableTactic false

theorem kept_setSlot {z : State} (s : State) (k : Nat) (x : Slot) (hz : Kept z s) : Kept z (setSlot s k x) := by
  unfold setSlot
  try dsimp only
  repeat' (first | (intro _) | with_reducible assumption | with_reducible apply kept_ite | (with_reducible first | apply kept_mk | apply kept_mem); first | (intro _) | with_reducible assumption | with_reducible apply kept_ite | split)

theorem kept_updSlot {z : State} (s : State) (k : Nat) (f : Slot → Slot) (hz : Kept z s) : Kept z (updSlot s k f) := by
  unfold updSlot
  try dsimp only
  repeat' (first | (intro _) | with_reducible assumption | with_reducible apply kept_ite | with_reducible apply kept_setSlot | (with_reducible first | apply kept_mk | apply kept_mem); first | (intro _) | with_reducible assumption | with_reducible apply kept_ite | with_reducible apply kept_setSlot | split)

theorem kept_slotSettle {z : State} (s : State) (x : Slot) (more : List Nat) (hz : Kept z s) : ∀ t, slotSettle s x more = some t → Kept z t := by
  intro zt e
  unfold slotSettle at e
  try dsimp only at e
  repeat' (split at e)
  all_goals first | (injection e with e; subst e) | (unfold illFormed at e; cases e; done) | simp at e
  all_goals (try dsimp only)
  all_goals repeat' (first | (intro _) | with_reducible assumption | with_reducible apply kept_ite | with_reducible apply kept_recallFromHost | (with_reducible first | apply kept_mk | apply kept_mem); first | (intro _) | with_reducible assumption | with_reducible apply kept_ite | with_reducible apply kept_recallFromHost | split)

theorem kept_sendWin {z : State} (s : State) (x : Slot) (dst : Nat) (m : WinMsg) (hz : Kept z s) : Kept z (sendWin s x dst m) := by
  unfold sendWin
  try dsimp only
  repeat' (first | (intro _) | with_reducible assumption | with_reducible apply kept_ite | with_reducible apply kept_sendLow | (with_reducible first | apply kept_mk | apply kept_mem); first | (intro _) | with_reducible assumption | with_reducible apply kept_ite | with_reducible apply kept_sendLow | split)

theorem kept_storeLines {z : State} (s : State) (y0 : List (Nat × LineW)) (hz : Kept z s) : Kept z (storeLines s y0).1 := by
  induction y0 generalizing s with
  | nil =>
    unfold storeLines
    try dsimp only
    repeat' (first | (intro _) | with_reducible assumption | with_reducible apply kept_ite | (with_reducible refine kept_autoMap _ _ ?_ _ (by assumption)) | with_reducible apply kept_writeLineW | (with_reducible first | apply kept_mk | apply kept_mem); first | (intro _) | with_reducible assumption | with_reducible apply kept_ite | (with_reducible refine kept_autoMap _ _ ?_ _ (by assumption)) | with_reducible apply kept_writeLineW | split)
  | cons y l ih =>
    unfold storeLines
    try dsimp only
    repeat' (first | with_reducible apply ih | (intro _) | with_reducible assumption | with_reducible apply kept_ite | (with_reducible refine kept_autoMap _ _ ?_ _ (by assumption)) | with_reducible apply kept_writeLineW | (with_reducible first | apply kept_mk | apply kept_mem); first | with_reducible apply ih | (intro _) | with_reducible assumption | with_reducible apply kept_ite | (with_reducible refine kept_autoMap _ _ ?_ _ (by assumption)) | with_reducible apply kept_writeLineW | split)

theorem kept_slotLost {z : State} (s : State) (k : Nat) (b : Bool) (hz : Kept z s) : Kept z (slotLost s k b) := by
  unfold slotLost
  try dsimp only
  repeat' (first | (intro _) | with_reducible assumption | with_reducible apply kept_ite | with_reducible apply kept_updSlot | (with_reducible first | apply kept_mk | apply kept_mem); first | (intro _) | with_reducible assumption | with_reducible apply kept_ite | with_reducible apply kept_updSlot | split)

theorem kept_storeDst {z : State} (s : State) (k : Nat) (t : TD) (w : List (Nat × LineW)) (hz : Kept z s) : Kept z (storeDst s k t w) := by
  unfold storeDst
  try dsimp only
  repeat' (first | (intro _) | with_reducible assumption | with_reducible apply kept_ite | with_reducible apply kept_slotLost | with_reducible apply kept_hostLinesW | with_reducible apply kept_remoteWriteAll | with_reducible apply kept_storeLines | (with_reducible first | apply kept_mk | apply kept_mem); first | (intro _) | with_reducible assumption | with_reducible apply kept_ite | with_reducible apply kept_slotLost | with_reducible apply kept_hostLinesW | with_reducible apply kept_remoteWriteAll | with_reducible apply kept_storeLines | split)

theorem kept_storeResult {z : State} (s : State) (k j off : Nat) (bits : List (BitVec 32)) (scales pois : List Nat) (hz : Kept z s) : Kept z (storeResult s k j off bits scales pois) := by
  unfold storeResult
  try dsimp only
  repeat' (first | (intro _) | with_reducible assumption | with_reducible apply kept_ite | with_reducible apply kept_updSlot | with_reducible apply kept_storeDst | (with_reducible first | apply kept_mk | apply kept_mem); first | (intro _) | with_reducible assumption | with_reducible apply kept_ite | with_reducible apply kept_updSlot | with_reducible apply kept_storeDst | split)

theorem kept_sendPieces {z : State} (s : State) (k inst chunk dst : Nat) (res : Bool) (y : Encoded) (y0 : List Nat) (hz : Kept z s) : Kept z (sendPieces s k inst chunk dst res y y0) := by
  induction y0 generalizing s k inst chunk dst res y with
  | nil =>
    unfold sendPieces
    try dsimp only
    repeat' (first | (intro _) | with_reducible assumption | with_reducible apply kept_ite | with_reducible apply kept_sendSeg | with_reducible apply kept_takeSeg | (with_reducible first | apply kept_mk | apply kept_mem); first | (intro _) | with_reducible assumption | with_reducible apply kept_ite | with_reducible apply kept_sendSeg | with_reducible apply kept_takeSeg | split)
  | cons y l ih =>
    unfold sendPieces
    try dsimp only
    repeat' (first | with_reducible apply ih | (intro _) | with_reducible assumption | with_reducible apply kept_ite | with_reducible apply kept_sendSeg | with_reducible apply kept_takeSeg | (with_reducible first | apply kept_mk | apply kept_mem); first | with_reducible apply ih | (intro _) | with_reducible assumption | with_reducible apply kept_ite | with_reducible apply kept_sendSeg | with_reducible apply kept_takeSeg | split)

theorem kept_sendChunk {z : State} (s : State) (k inst chunk dst : Nat) (res : Bool) (y : Encoded) (hz : Kept z s) : Kept z (sendChunk s k inst chunk dst res y) := by
  unfold sendChunk
  try dsimp only
  repeat' (first | (intro _) | with_reducible assumption | with_reducible apply kept_ite | with_reducible apply kept_sendPieces | (with_reducible first | apply kept_mk | apply kept_mem); first | (intro _) | with_reducible assumption | with_reducible apply kept_ite | with_reducible apply kept_sendPieces | split)

theorem kept_addPart {z : State} (s : State) (k : Nat) (p : RedPart) (hz : Kept z s) : Kept z (addPart s k p) := by
  unfold addPart
  try dsimp only
  repeat' (first | (intro _) | with_reducible assumption | with_reducible apply kept_ite | with_reducible apply kept_updSlot | (with_reducible first | apply kept_mk | apply kept_mem); first | (intro _) | with_reducible assumption | with_reducible apply kept_ite | with_reducible apply kept_updSlot | split)

theorem kept_sendContribs {z : State} (s : State) (k inst : Nat) (bits : List (BitVec 32)) (pois : List Nat) (y0 : List Nat) (hz : Kept z s) : Kept z (sendContribs s k inst bits pois y0) := by
  induction y0 generalizing s k inst bits pois with
  | nil =>
    unfold sendContribs
    try dsimp only
    repeat' (first | (intro _) | with_reducible assumption | with_reducible apply kept_ite | with_reducible apply kept_addPart | with_reducible apply kept_sendChunk | (with_reducible first | apply kept_mk | apply kept_mem); first | (intro _) | with_reducible assumption | with_reducible apply kept_ite | with_reducible apply kept_addPart | with_reducible apply kept_sendChunk | split)
  | cons y l ih =>
    unfold sendContribs
    try dsimp only
    repeat' (first | with_reducible apply ih | (intro _) | with_reducible assumption | with_reducible apply kept_ite | with_reducible apply kept_addPart | with_reducible apply kept_sendChunk | (with_reducible first | apply kept_mk | apply kept_mem); first | with_reducible apply ih | (intro _) | with_reducible assumption | with_reducible apply kept_ite | with_reducible apply kept_addPart | with_reducible apply kept_sendChunk | split)

theorem kept_sendGather {z : State} (s : State) (k inst : Nat) (src : List (BitVec 32)) (bad : List Nat) (hz : Kept z s) : Kept z (sendGather s k inst src bad) := by
  unfold sendGather
  try dsimp only
  repeat' (first | (intro _) | with_reducible assumption | with_reducible apply kept_ite | with_reducible apply kept_foldl | with_reducible apply kept_foldl_fst | with_reducible apply kept_storeResult | with_reducible apply kept_addPart | with_reducible apply kept_sendChunk | (with_reducible first | apply kept_mk | apply kept_mem); first | (intro _) | with_reducible assumption | with_reducible apply kept_ite | with_reducible apply kept_foldl | with_reducible apply kept_foldl_fst | with_reducible apply kept_storeResult | with_reducible apply kept_addPart | with_reducible apply kept_sendChunk | split)

theorem kept_deferLate {z : State} (s : State) (k : Nat) (bits : List (BitVec 32)) (pois : List Nat) (hz : Kept z s) : Kept z (deferLate s k bits pois) := by
  unfold deferLate
  try dsimp only
  repeat' (first | (intro _) | with_reducible assumption | with_reducible apply kept_ite | with_reducible apply kept_foldl | with_reducible apply kept_foldl_fst | with_reducible apply kept_storeLines | with_reducible apply kept_bump | with_reducible apply kept_slotLost | with_reducible apply kept_updSlot | (with_reducible first | apply kept_mk | apply kept_mem); first | (intro _) | with_reducible assumption | with_reducible apply kept_ite | with_reducible apply kept_foldl | with_reducible apply kept_foldl_fst | with_reducible apply kept_storeLines | with_reducible apply kept_bump | with_reducible apply kept_slotLost | with_reducible apply kept_updSlot | split)

theorem kept_giveContrib {z : State} (s : State) (k : Nat) (x : Slot) (r : RedRun) (c : CloseMsg) (b : List (BitVec 32) × List Nat) (hz : Kept z s) : Kept z (giveContrib s k x r c b) := by
  unfold giveContrib
  try dsimp only
  repeat' (first | (intro _) | with_reducible assumption | with_reducible apply kept_ite | with_reducible apply kept_updSlot | with_reducible apply kept_countRead | with_reducible apply kept_sendGather | with_reducible apply kept_sendContribs | with_reducible apply kept_deferLate | with_reducible apply kept_bump | (with_reducible first | apply kept_mk | apply kept_mem); first | (intro _) | with_reducible assumption | with_reducible apply kept_ite | with_reducible apply kept_updSlot | with_reducible apply kept_countRead | with_reducible apply kept_sendGather | with_reducible apply kept_sendContribs | with_reducible apply kept_deferLate | with_reducible apply kept_bump | split)

theorem kept_giveSettle {z : State} (s : State) (x : Slot) (r : RedRun) (c : CloseMsg) (h : Kept z s) : ∀ t, giveSettle s x r c = some t → Kept z t := by
  intro t e
  unfold giveSettle at e
  split at e
  · exact kept_slotSettle _ _ _ h _ e
  · split at e
    · cases e
    · injection e with e
      exact e ▸ kept_recallFromHost _ _ h

theorem kept_contribute {z : State} (s : State) (k : Nat) (hz : Kept z s) : Kept z (contribute s k) := by
  unfold contribute
  try dsimp only
  repeat' (first | (intro _) | with_reducible assumption | with_reducible apply kept_ite | (with_reducible refine kept_giveSettle _ _ _ _ ?_ _ (by assumption)) | with_reducible apply kept_giveContrib | (with_reducible first | apply kept_mk | apply kept_mem); first | (intro _) | with_reducible assumption | with_reducible apply kept_ite | (with_reducible refine kept_giveSettle _ _ _ _ ?_ _ (by assumption)) | with_reducible apply kept_giveContrib | split)

theorem kept_memberClose {z : State} (s : State) (k : Nat) (c : CloseMsg) (hz : Kept z s) : Kept z (memberClose s k c) := by
  unfold memberClose
  try dsimp only
  repeat' (first | (intro _) | with_reducible assumption | with_reducible apply kept_ite | with_reducible apply kept_contribute | with_reducible apply kept_setSlot | (with_reducible first | apply kept_mk | apply kept_mem); first | (intro _) | with_reducible assumption | with_reducible apply kept_ite | with_reducible apply kept_contribute | with_reducible apply kept_setSlot | split)

theorem kept_closeWindow {z : State} (s : State) (k : Nat) (c : CloseMsg) (hz : Kept z s) : Kept z (closeWindow s k c) := by
  unfold closeWindow
  try dsimp only
  repeat' (first | (intro _) | with_reducible assumption | with_reducible apply kept_ite | with_reducible apply kept_foldl | with_reducible apply kept_foldl_fst | with_reducible apply kept_setSlot | with_reducible apply kept_bumpIf | with_reducible apply kept_memberClose | with_reducible apply kept_sendWin | (with_reducible first | apply kept_mk | apply kept_mem); first | (intro _) | with_reducible assumption | with_reducible apply kept_ite | with_reducible apply kept_foldl | with_reducible apply kept_foldl_fst | with_reducible apply kept_setSlot | with_reducible apply kept_bumpIf | with_reducible apply kept_memberClose | with_reducible apply kept_sendWin | split)

theorem kept_tryClose {z : State} (s : State) (k : Nat) (reason : Nat) (hz : Kept z s) : Kept z (tryClose s k reason) := by
  unfold tryClose
  try dsimp only
  repeat' (first | (intro _) | with_reducible assumption | with_reducible apply kept_ite | with_reducible apply kept_closeWindow | (with_reducible first | apply kept_mk | apply kept_mem); first | (intro _) | with_reducible assumption | with_reducible apply kept_ite | with_reducible apply kept_closeWindow | split)

theorem kept_openWindow {z : State} (s : State) (k : Nat) (hz : Kept z s) : Kept z (openWindow s k) := by
  unfold openWindow
  try dsimp only
  repeat' (first | (intro _) | with_reducible assumption | with_reducible apply kept_ite | with_reducible apply kept_tryClose | with_reducible apply kept_setSlot | (with_reducible first | apply kept_mk | apply kept_mem); first | (intro _) | with_reducible assumption | with_reducible apply kept_ite | with_reducible apply kept_tryClose | with_reducible apply kept_setSlot | split)

theorem kept_sendHold {z : State} (s : State) (k r : Nat) (hz : Kept z s) : Kept z (sendHold s k r) := by
  unfold sendHold
  try dsimp only
  repeat' (first | (intro _) | with_reducible assumption | with_reducible apply kept_ite | with_reducible apply kept_updSlot | with_reducible apply kept_sendWin | (with_reducible first | apply kept_mk | apply kept_mem); first | (intro _) | with_reducible assumption | with_reducible apply kept_ite | with_reducible apply kept_updSlot | with_reducible apply kept_sendWin | split)

theorem kept_dropView {z : State} (s : State) (ring slot : Nat) (hz : Kept z s) : Kept z (dropView s ring slot) := by
  unfold dropView
  try dsimp only
  repeat' (first | (intro _) | with_reducible assumption | with_reducible apply kept_ite | with_reducible apply kept_withBusy | with_reducible apply kept_dropJob | with_reducible apply kept_lockView | (with_reducible first | apply kept_mk | apply kept_mem); first | (intro _) | with_reducible assumption | with_reducible apply kept_ite | with_reducible apply kept_withBusy | with_reducible apply kept_dropJob | with_reducible apply kept_lockView | split)

theorem kept_memberMismatch {z : State} (s : State) (k inst : Nat) (hz : Kept z s) : Kept z (memberMismatch s k inst) := by
  unfold memberMismatch
  try dsimp only
  repeat' (first | (intro _) | with_reducible assumption | with_reducible apply kept_ite | with_reducible apply kept_dropView | with_reducible apply kept_setSlot | with_reducible apply kept_finishCmd | with_reducible apply kept_dropReads | with_reducible apply kept_bump | with_reducible apply kept_sendWin | (with_reducible first | apply kept_mk | apply kept_mem); first | (intro _) | with_reducible assumption | with_reducible apply kept_ite | with_reducible apply kept_dropView | with_reducible apply kept_setSlot | with_reducible apply kept_finishCmd | with_reducible apply kept_dropReads | with_reducible apply kept_bump | with_reducible apply kept_sendWin | split)

theorem kept_leaderReady {z : State} (s : State) (k inst rank crc : Nat) (hz : Kept z s) : Kept z (leaderReady s k inst rank crc) := by
  unfold leaderReady
  try dsimp only
  repeat' (first | (intro _) | with_reducible assumption | with_reducible apply kept_ite | with_reducible apply kept_memberMismatch | with_reducible apply kept_sendWin | with_reducible apply kept_memberClose | with_reducible apply kept_setSlot | with_reducible apply kept_sendHold | with_reducible apply kept_openWindow | with_reducible apply kept_tryClose | (with_reducible first | apply kept_mk | apply kept_mem); first | (intro _) | with_reducible assumption | with_reducible apply kept_ite | with_reducible apply kept_memberMismatch | with_reducible apply kept_sendWin | with_reducible apply kept_memberClose | with_reducible apply kept_setSlot | with_reducible apply kept_sendHold | with_reducible apply kept_openWindow | with_reducible apply kept_tryClose | split)

theorem kept_leaderDone {z : State} (s : State) (k inst rank : Nat) (hz : Kept z s) : Kept z (leaderDone s k inst rank) := by
  unfold leaderDone
  try dsimp only
  repeat' (first | (intro _) | with_reducible assumption | with_reducible apply kept_ite | with_reducible apply kept_setSlot | with_reducible apply kept_openWindow | (with_reducible first | apply kept_mk | apply kept_mem); first | (intro _) | with_reducible assumption | with_reducible apply kept_ite | with_reducible apply kept_setSlot | with_reducible apply kept_openWindow | split)

theorem kept_leaderExtend {z : State} (s : State) (k inst rank req : Nat) (hz : Kept z s) : Kept z (leaderExtend s k inst rank req) := by
  unfold leaderExtend
  try dsimp only
  repeat' (first | (intro _) | with_reducible assumption | with_reducible apply kept_ite | with_reducible apply kept_bump | with_reducible apply kept_bumpIf | with_reducible apply kept_setSlot | (with_reducible first | apply kept_mk | apply kept_mem); first | (intro _) | with_reducible assumption | with_reducible apply kept_ite | with_reducible apply kept_bump | with_reducible apply kept_bumpIf | with_reducible apply kept_setSlot | split)

theorem kept_abandonLate {z : State} (s : State) (x : Slot) (hz : Kept z s) : Kept z (abandonLate s x) := by
  unfold abandonLate
  try dsimp only
  repeat' (first | (intro _) | with_reducible assumption | with_reducible apply kept_ite | with_reducible apply kept_bumpIf | (with_reducible first | apply kept_mk | apply kept_mem); first | (intro _) | with_reducible assumption | with_reducible apply kept_ite | with_reducible apply kept_bumpIf | split)

theorem kept_reduceDefine {z : State} (s : State) (ring slot : Nat) (d : Line) (hz : Kept z s) : Kept z (reduceDefine s ring slot d) := by
  unfold reduceDefine
  try dsimp only
  repeat' (first | (intro _) | with_reducible assumption | with_reducible apply kept_ite | with_reducible apply kept_checked | with_reducible apply kept_hostFirst | with_reducible apply kept_finishCmd | with_reducible apply kept_countRead | with_reducible apply kept_setSlot | with_reducible apply kept_abandonLate | (with_reducible first | apply kept_mk | apply kept_mem); first | (intro _) | with_reducible assumption | with_reducible apply kept_ite | with_reducible apply kept_checked | with_reducible apply kept_hostFirst | with_reducible apply kept_finishCmd | with_reducible apply kept_countRead | with_reducible apply kept_setSlot | with_reducible apply kept_abandonLate | split)

theorem kept_execReduceDefine {z : State} (ring slot : Nat) (s : State) (hz : Kept z s) : ∀ zt, execReduceDefine ring slot s = .next zt → Kept z zt := by
  intro zt e
  unfold execReduceDefine at e
  injection e with e
  subst e
  try dsimp only
  repeat' (first | (intro _) | with_reducible assumption | with_reducible apply kept_ite | with_reducible apply kept_withCmd | with_reducible apply kept_reduceDefine | (with_reducible first | apply kept_mk | apply kept_mem); first | (intro _) | with_reducible assumption | with_reducible apply kept_ite | with_reducible apply kept_withCmd | with_reducible apply kept_reduceDefine | split)

theorem kept_reduceRelease {z : State} (s : State) (ring slot : Nat) (d : Line) (hz : Kept z s) : Kept z (reduceRelease s ring slot d) := by
  unfold reduceRelease
  try dsimp only
  repeat' (first | (intro _) | with_reducible assumption | with_reducible apply kept_ite | with_reducible apply kept_checked | with_reducible apply kept_finishCmd | with_reducible apply kept_setSlot | with_reducible apply kept_abandonLate | (with_reducible first | apply kept_mk | apply kept_mem); first | (intro _) | with_reducible assumption | with_reducible apply kept_ite | with_reducible apply kept_checked | with_reducible apply kept_finishCmd | with_reducible apply kept_setSlot | with_reducible apply kept_abandonLate | split)

theorem kept_execReduceRelease {z : State} (ring slot : Nat) (s : State) (hz : Kept z s) : ∀ zt, execReduceRelease ring slot s = .next zt → Kept z zt := by
  intro zt e
  unfold execReduceRelease at e
  injection e with e
  subst e
  try dsimp only
  repeat' (first | (intro _) | with_reducible assumption | with_reducible apply kept_ite | with_reducible apply kept_withCmd | with_reducible apply kept_reduceRelease | (with_reducible first | apply kept_mk | apply kept_mem); first | (intro _) | with_reducible assumption | with_reducible apply kept_ite | with_reducible apply kept_withCmd | with_reducible apply kept_reduceRelease | split)

theorem kept_beginRun {z : State} (s : State) (k : Nat) (r : RedRun) (hz : Kept z s) : Kept z (beginRun s k r) := by
  unfold beginRun
  try dsimp only
  repeat' (first | (intro _) | with_reducible assumption | with_reducible apply kept_ite | with_reducible apply kept_setSlot | with_reducible apply kept_leaderReady | with_reducible apply kept_sendWin | with_reducible apply kept_contribute | (with_reducible first | apply kept_mk | apply kept_mem); first | (intro _) | with_reducible assumption | with_reducible apply kept_ite | with_reducible apply kept_setSlot | with_reducible apply kept_leaderReady | with_reducible apply kept_sendWin | with_reducible apply kept_contribute | split)

theorem kept_runView {z : State} (s : State) (ring slot k : Nat) (d : Line) (hz : Kept z s) : Kept z (runView s ring slot k d) := by
  unfold runView
  try dsimp only
  repeat' (first | (intro _) | with_reducible assumption | with_reducible apply kept_ite | with_reducible apply kept_finishCmd | (with_reducible refine kept_slotSettle _ _ _ ?_ _ (by assumption)) | with_reducible apply kept_beginRun | with_reducible apply kept_setPhase | with_reducible apply kept_lockView | with_reducible apply kept_addJob | (with_reducible first | apply kept_mk | apply kept_mem); first | (intro _) | with_reducible assumption | with_reducible apply kept_ite | with_reducible apply kept_finishCmd | (with_reducible refine kept_slotSettle _ _ _ ?_ _ (by assumption)) | with_reducible apply kept_beginRun | with_reducible apply kept_setPhase | with_reducible apply kept_lockView | with_reducible apply kept_addJob | split)

theorem kept_runSource {z : State} (s : State) (ring slot k inst : Nat) (y0 : SrcIn) (hz : Kept z s) : Kept z (runSource s ring slot k inst y0) := by
  unfold runSource
  try dsimp only
  repeat' (first | (intro _) | with_reducible assumption | with_reducible apply kept_ite | with_reducible apply kept_finishCmd | with_reducible apply kept_dropReads | with_reducible apply kept_setPhase | with_reducible apply kept_remoteReadAll | (with_reducible refine kept_slotSettle _ _ _ ?_ _ (by assumption)) | with_reducible apply kept_beginRun | (with_reducible first | apply kept_mk | apply kept_mem); first | (intro _) | with_reducible assumption | with_reducible apply kept_ite | with_reducible apply kept_finishCmd | with_reducible apply kept_dropReads | with_reducible apply kept_setPhase | with_reducible apply kept_remoteReadAll | (with_reducible refine kept_slotSettle _ _ _ ?_ _ (by assumption)) | with_reducible apply kept_beginRun | split)

theorem kept_latchSource {z : State} (s : State) (ring slot v : Nat) (hz : Kept z s) : Kept z (latchSource s ring slot v) := by
  unfold latchSource
  try dsimp only
  repeat' (first | (intro _) | with_reducible assumption | with_reducible apply kept_ite | with_reducible apply kept_keepDescs | with_reducible apply kept_countRead | (with_reducible first | apply kept_mk | apply kept_mem); first | (intro _) | with_reducible assumption | with_reducible apply kept_ite | with_reducible apply kept_keepDescs | with_reducible apply kept_countRead | split)

theorem kept_reduceRun {z : State} (s : State) (ring slot : Nat) (d : Line) (hz : Kept z s) : Kept z (reduceRun s ring slot d) := by
  unfold reduceRun
  try dsimp only
  repeat' (first | (intro _) | with_reducible assumption | with_reducible apply kept_ite | with_reducible apply kept_finishCmd | with_reducible apply kept_runView | with_reducible apply kept_recallFromHost | with_reducible apply kept_latchSource | with_reducible apply kept_runSource | (with_reducible first | apply kept_mk | apply kept_mem); first | (intro _) | with_reducible assumption | with_reducible apply kept_ite | with_reducible apply kept_finishCmd | with_reducible apply kept_runView | with_reducible apply kept_recallFromHost | with_reducible apply kept_latchSource | with_reducible apply kept_runSource | split)

theorem kept_execReduceRun {z : State} (ring slot : Nat) (s : State) (hz : Kept z s) : ∀ zt, execReduceRun ring slot s = .next zt → Kept z zt := by
  intro zt e
  unfold execReduceRun at e
  injection e with e
  subst e
  try dsimp only
  repeat' (first | (intro _) | with_reducible assumption | with_reducible apply kept_ite | with_reducible apply kept_withCmd | with_reducible apply kept_reduceRun | (with_reducible first | apply kept_mk | apply kept_mem); first | (intro _) | with_reducible assumption | with_reducible apply kept_ite | with_reducible apply kept_withCmd | with_reducible apply kept_reduceRun | split)

theorem kept_drainReduce {z : State} (s : State) (ring slot : Nat) (d : Line) (hz : Kept z s) : Kept z (drainReduce s ring slot d) := by
  unfold drainReduce
  try dsimp only
  repeat' (first | (intro _) | with_reducible assumption | with_reducible apply kept_ite | with_reducible apply kept_foldl | with_reducible apply kept_foldl_fst | with_reducible apply kept_lockView | with_reducible apply kept_drainTell | with_reducible apply kept_setPhase | with_reducible apply kept_dropJob | with_reducible apply kept_contribute | with_reducible apply kept_updSlot | (with_reducible first | apply kept_mk | apply kept_mem); first | (intro _) | with_reducible assumption | with_reducible apply kept_ite | with_reducible apply kept_foldl | with_reducible apply kept_foldl_fst | with_reducible apply kept_lockView | with_reducible apply kept_drainTell | with_reducible apply kept_setPhase | with_reducible apply kept_dropJob | with_reducible apply kept_contribute | with_reducible apply kept_updSlot | split)

theorem kept_execWgbDrain {z : State} (ring slot : Nat) (s : State) (hz : Kept z s) : ∀ zt, execWgbDrain ring slot s = .next zt → Kept z zt := by
  intro zt e
  unfold execWgbDrain at e
  injection e with e
  subst e
  try dsimp only
  repeat' (first | (intro _) | with_reducible assumption | with_reducible apply kept_ite | with_reducible apply kept_withBusy | with_reducible apply kept_drainMove | with_reducible apply kept_drainReduce | (with_reducible first | apply kept_mk | apply kept_mem); first | (intro _) | with_reducible assumption | with_reducible apply kept_ite | with_reducible apply kept_withBusy | with_reducible apply kept_drainMove | with_reducible apply kept_drainReduce | split)

theorem kept_takeFrom {z : State} (s : State) (p : Packet) (hz : Kept z s) : Kept z (takeFrom s p) := by
  unfold takeFrom
  try dsimp only
  repeat' (first | (intro _) | with_reducible assumption | with_reducible apply kept_ite | with_reducible apply kept_fromInbox | (with_reducible first | apply kept_mk | apply kept_mem); first | (intro _) | with_reducible assumption | with_reducible apply kept_ite | with_reducible apply kept_fromInbox | split)

theorem kept_execReady {z : State} (p : Packet) (s : State) (hz : Kept z s) : ∀ zt, execReady p s = .next zt → Kept z zt := by
  intro zt e
  unfold execReady at e
  try dsimp only at e
  repeat' (split at e)
  all_goals first | (injection e with e; subst e) | (unfold illFormed at e; cases e; done) | simp at e
  all_goals (try dsimp only)
  all_goals repeat' (first | (intro _) | with_reducible assumption | with_reducible apply kept_ite | with_reducible apply kept_leaderReady | with_reducible apply kept_takeFrom | (with_reducible first | apply kept_mk | apply kept_mem); first | (intro _) | with_reducible assumption | with_reducible apply kept_ite | with_reducible apply kept_leaderReady | with_reducible apply kept_takeFrom | split)

theorem kept_execMismatch {z : State} (p : Packet) (s : State) (hz : Kept z s) : ∀ zt, execMismatch p s = .next zt → Kept z zt := by
  intro zt e
  unfold execMismatch at e
  try dsimp only at e
  repeat' (split at e)
  all_goals first | (injection e with e; subst e) | (unfold illFormed at e; cases e; done) | simp at e
  all_goals (try dsimp only)
  all_goals repeat' (first | (intro _) | with_reducible assumption | with_reducible apply kept_ite | with_reducible apply kept_memberMismatch | with_reducible apply kept_takeFrom | (with_reducible first | apply kept_mk | apply kept_mem); first | (intro _) | with_reducible assumption | with_reducible apply kept_ite | with_reducible apply kept_memberMismatch | with_reducible apply kept_takeFrom | split)

theorem kept_execClose {z : State} (p : Packet) (s : State) (hz : Kept z s) : ∀ zt, execClose p s = .next zt → Kept z zt := by
  intro zt e
  unfold execClose at e
  try dsimp only at e
  repeat' (split at e)
  all_goals first | (injection e with e; subst e) | (unfold illFormed at e; cases e; done) | simp at e
  all_goals (try dsimp only)
  all_goals repeat' (first | (intro _) | with_reducible assumption | with_reducible apply kept_ite | with_reducible apply kept_memberClose | with_reducible apply kept_takeFrom | (with_reducible first | apply kept_mk | apply kept_mem); first | (intro _) | with_reducible assumption | with_reducible apply kept_ite | with_reducible apply kept_memberClose | with_reducible apply kept_takeFrom | split)

theorem kept_execDone {z : State} (p : Packet) (s : State) (hz : Kept z s) : ∀ zt, execDone p s = .next zt → Kept z zt := by
  intro zt e
  unfold execDone at e
  try dsimp only at e
  repeat' (split at e)
  all_goals first | (injection e with e; subst e) | (unfold illFormed at e; cases e; done) | simp at e
  all_goals (try dsimp only)
  all_goals repeat' (first | (intro _) | with_reducible assumption | with_reducible apply kept_ite | with_reducible apply kept_leaderDone | with_reducible apply kept_takeFrom | (with_reducible first | apply kept_mk | apply kept_mem); first | (intro _) | with_reducible assumption | with_reducible apply kept_ite | with_reducible apply kept_leaderDone | with_reducible apply kept_takeFrom | split)

theorem kept_execHold {z : State} (p : Packet) (s : State) (hz : Kept z s) : ∀ zt, execHold p s = .next zt → Kept z zt := by
  intro zt e
  unfold execHold at e
  try dsimp only at e
  repeat' (split at e)
  all_goals first | (injection e with e; subst e) | (unfold illFormed at e; cases e; done) | simp at e
  all_goals (try dsimp only)
  all_goals repeat' (first | (intro _) | with_reducible assumption | with_reducible apply kept_ite | with_reducible apply kept_updSlot | with_reducible apply kept_takeFrom | (with_reducible first | apply kept_mk | apply kept_mem); first | (intro _) | with_reducible assumption | with_reducible apply kept_ite | with_reducible apply kept_updSlot | with_reducible apply kept_takeFrom | split)

theorem kept_execExtend {z : State} (p : Packet) (s : State) (hz : Kept z s) : ∀ zt, execExtend p s = .next zt → Kept z zt := by
  intro zt e
  unfold execExtend at e
  try dsimp only at e
  repeat' (split at e)
  all_goals first | (injection e with e; subst e) | (unfold illFormed at e; cases e; done) | simp at e
  all_goals (try dsimp only)
  all_goals repeat' (first | (intro _) | with_reducible assumption | with_reducible apply kept_ite | with_reducible apply kept_leaderExtend | with_reducible apply kept_takeFrom | (with_reducible first | apply kept_mk | apply kept_mem); first | (intro _) | with_reducible assumption | with_reducible apply kept_ite | with_reducible apply kept_leaderExtend | with_reducible apply kept_takeFrom | split)

theorem kept_execWindowDeadline {z : State} (slot : Nat) (s : State) (hz : Kept z s) : ∀ zt, execWindowDeadline slot s = .next zt → Kept z zt := by
  intro zt e
  unfold execWindowDeadline at e
  injection e with e
  subst e
  try dsimp only
  repeat' (first | (intro _) | with_reducible assumption | with_reducible apply kept_ite | with_reducible apply kept_tryClose | with_reducible apply kept_setSlot | (with_reducible first | apply kept_mk | apply kept_mem); first | (intro _) | with_reducible assumption | with_reducible apply kept_ite | with_reducible apply kept_tryClose | with_reducible apply kept_setSlot | split)

theorem kept_execHoldResend {z : State} (slot : Nat) (s : State) (hz : Kept z s) : ∀ zt, execHoldResend slot s = .next zt → Kept z zt := by
  intro zt e
  unfold execHoldResend at e
  injection e with e
  subst e
  try dsimp only
  repeat' (first | (intro _) | with_reducible assumption | with_reducible apply kept_ite | with_reducible apply kept_foldl | with_reducible apply kept_foldl_fst | with_reducible apply kept_sendHold | (with_reducible first | apply kept_mk | apply kept_mem); first | (intro _) | with_reducible assumption | with_reducible apply kept_ite | with_reducible apply kept_foldl | with_reducible apply kept_foldl_fst | with_reducible apply kept_sendHold | split)

theorem kept_extendSend {z : State} (s : State) (d : Line) (hz : Kept z s) : Kept z (extendSend s d) := by
  unfold extendSend
  try dsimp only
  repeat' (first | (intro _) | with_reducible assumption | with_reducible apply kept_ite | with_reducible apply kept_setSlot | with_reducible apply kept_leaderExtend | with_reducible apply kept_bump | with_reducible apply kept_sendWin | (with_reducible first | apply kept_mk | apply kept_mem); first | (intro _) | with_reducible assumption | with_reducible apply kept_ite | with_reducible apply kept_setSlot | with_reducible apply kept_leaderExtend | with_reducible apply kept_bump | with_reducible apply kept_sendWin | split)

theorem kept_execExtendSend {z : State} (ring slot : Nat) (s : State) (hz : Kept z s) : ∀ zt, execExtendSend ring slot s = .next zt → Kept z zt := by
  intro zt e
  unfold execExtendSend at e
  injection e with e
  subst e
  try dsimp only
  repeat' (first | (intro _) | with_reducible assumption | with_reducible apply kept_ite | with_reducible apply kept_extendSend | (with_reducible first | apply kept_mk | apply kept_mem); first | (intro _) | with_reducible assumption | with_reducible apply kept_ite | with_reducible apply kept_extendSend | split)

theorem kept_ownerSum {z : State} (s : State) (k : Nat) (hz : Kept z s) : Kept z (ownerSum s k) := by
  unfold ownerSum
  try dsimp only
  repeat' (first | (intro _) | with_reducible assumption | with_reducible apply kept_ite | with_reducible apply kept_foldl | with_reducible apply kept_foldl_fst | (with_reducible refine kept_slotSettle _ _ _ ?_ _ (by assumption)) | with_reducible apply kept_storeResult | with_reducible apply kept_updSlot | with_reducible apply kept_tsReport | with_reducible apply kept_sendChunk | (with_reducible first | apply kept_mk | apply kept_mem); first | (intro _) | with_reducible assumption | with_reducible apply kept_ite | with_reducible apply kept_foldl | with_reducible apply kept_foldl_fst | (with_reducible refine kept_slotSettle _ _ _ ?_ _ (by assumption)) | with_reducible apply kept_storeResult | with_reducible apply kept_updSlot | with_reducible apply kept_tsReport | with_reducible apply kept_sendChunk | split)

theorem kept_execOwnerSum {z : State} (slot : Nat) (s : State) (hz : Kept z s) : ∀ zt, execOwnerSum slot s = .next zt → Kept z zt := by
  intro zt e
  unfold execOwnerSum at e
  injection e with e
  subst e
  try dsimp only
  repeat' (first | (intro _) | with_reducible assumption | with_reducible apply kept_ite | with_reducible apply kept_ownerSum | (with_reducible first | apply kept_mk | apply kept_mem); first | (intro _) | with_reducible assumption | with_reducible apply kept_ite | with_reducible apply kept_ownerSum | split)

theorem kept_finishRun {z : State} (s : State) (k : Nat) (x : Slot) (r : RedRun) (c : CloseMsg) (hz : Kept z s) : Kept z (finishRun s k x r c) := by
  unfold finishRun
  try dsimp only
  repeat' (first | (intro _) | with_reducible assumption | with_reducible apply kept_ite | with_reducible apply kept_storeLines | with_reducible apply kept_setSlot | with_reducible apply kept_bumpIf | with_reducible apply kept_bump | with_reducible apply kept_finishCmd | with_reducible apply kept_dropReads | with_reducible apply kept_leaderDone | with_reducible apply kept_sendWin | (with_reducible first | apply kept_mk | apply kept_mem); first | (intro _) | with_reducible assumption | with_reducible apply kept_ite | with_reducible apply kept_storeLines | with_reducible apply kept_setSlot | with_reducible apply kept_bumpIf | with_reducible apply kept_bump | with_reducible apply kept_finishCmd | with_reducible apply kept_dropReads | with_reducible apply kept_leaderDone | with_reducible apply kept_sendWin | split)

theorem kept_runComplete' {z : State} (s : State) (ring slot k : Nat) (hz : Kept z s) : Kept z (runComplete' s ring slot k) := by
  unfold runComplete'
  try dsimp only
  repeat' (first | (intro _) | with_reducible assumption | with_reducible apply kept_ite | with_reducible apply kept_contribute | (with_reducible refine kept_slotSettle _ _ _ ?_ _ (by assumption)) | with_reducible apply kept_finishRun | (with_reducible first | apply kept_mk | apply kept_mem); first | (intro _) | with_reducible assumption | with_reducible apply kept_ite | with_reducible apply kept_contribute | (with_reducible refine kept_slotSettle _ _ _ ?_ _ (by assumption)) | with_reducible apply kept_finishRun | split)

theorem kept_execRunComplete {z : State} (ring slot : Nat) (s : State) (hz : Kept z s) : ∀ zt, execRunComplete ring slot s = .next zt → Kept z zt := by
  intro zt e
  unfold execRunComplete at e
  injection e with e
  subst e
  try dsimp only
  repeat' (first | (intro _) | with_reducible assumption | with_reducible apply kept_ite | with_reducible apply kept_withBusy | with_reducible apply kept_runComplete' | (with_reducible first | apply kept_mk | apply kept_mem); first | (intro _) | with_reducible assumption | with_reducible apply kept_ite | with_reducible apply kept_withBusy | with_reducible apply kept_runComplete' | split)

theorem kept_loseElems {z : State} (s : State) (k j : Nat) (l : List Nat) (hz : Kept z s) : Kept z (loseElems s k j l) := by
  unfold loseElems
  try dsimp only
  repeat' (first | (intro _) | with_reducible assumption | with_reducible apply kept_ite | with_reducible apply kept_foldl | with_reducible apply kept_foldl_fst | with_reducible apply kept_storeDst | (with_reducible first | apply kept_mk | apply kept_mem); first | (intro _) | with_reducible assumption | with_reducible apply kept_ite | with_reducible apply kept_foldl | with_reducible apply kept_foldl_fst | with_reducible apply kept_storeDst | split)

theorem kept_loseChunk {z : State} (s : State) (k inst j : Nat) (hz : Kept z s) : Kept z (loseChunk s k inst j) := by
  unfold loseChunk
  try dsimp only
  repeat' (first | (intro _) | with_reducible assumption | with_reducible apply kept_ite | with_reducible apply kept_loseElems | (with_reducible first | apply kept_mk | apply kept_mem); first | (intro _) | with_reducible assumption | with_reducible apply kept_ite | with_reducible apply kept_loseElems | split)

theorem kept_contributionTimeout {z : State} (s : State) (k : Nat) (hz : Kept z s) : Kept z (contributionTimeout s k) := by
  unfold contributionTimeout
  try dsimp only
  repeat' (first | (intro _) | with_reducible assumption | with_reducible apply kept_ite | with_reducible apply kept_foldl | with_reducible apply kept_foldl_fst | (with_reducible refine kept_slotSettle _ _ _ ?_ _ (by assumption)) | with_reducible apply kept_bumpIf | with_reducible apply kept_setSlot | with_reducible apply kept_loseChunk | (with_reducible first | apply kept_mk | apply kept_mem); first | (intro _) | with_reducible assumption | with_reducible apply kept_ite | with_reducible apply kept_foldl | with_reducible apply kept_foldl_fst | (with_reducible refine kept_slotSettle _ _ _ ?_ _ (by assumption)) | with_reducible apply kept_bumpIf | with_reducible apply kept_setSlot | with_reducible apply kept_loseChunk | split)

theorem kept_execContributionTimeout {z : State} (slot : Nat) (s : State) (hz : Kept z s) : ∀ zt, execContributionTimeout slot s = .next zt → Kept z zt := by
  intro zt e
  unfold execContributionTimeout at e
  injection e with e
  subst e
  try dsimp only
  repeat' (first | (intro _) | with_reducible assumption | with_reducible apply kept_ite | with_reducible apply kept_contributionTimeout | (with_reducible first | apply kept_mk | apply kept_mem); first | (intro _) | with_reducible assumption | with_reducible apply kept_ite | with_reducible apply kept_contributionTimeout | split)

theorem kept_closeTimeout {z : State} (s : State) (k : Nat) (hz : Kept z s) : Kept z (closeTimeout s k) := by
  unfold closeTimeout
  try dsimp only
  repeat' (first | (intro _) | with_reducible assumption | with_reducible apply kept_ite | with_reducible apply kept_dropView | with_reducible apply kept_bump | with_reducible apply kept_finishCmd | with_reducible apply kept_dropReads | with_reducible apply kept_setSlot | (with_reducible first | apply kept_mk | apply kept_mem); first | (intro _) | with_reducible assumption | with_reducible apply kept_ite | with_reducible apply kept_dropView | with_reducible apply kept_bump | with_reducible apply kept_finishCmd | with_reducible apply kept_dropReads | with_reducible apply kept_setSlot | split)

theorem kept_execCloseTimeout {z : State} (slot : Nat) (s : State) (hz : Kept z s) : ∀ zt, execCloseTimeout slot s = .next zt → Kept z zt := by
  intro zt e
  unfold execCloseTimeout at e
  injection e with e
  subst e
  try dsimp only
  repeat' (first | (intro _) | with_reducible assumption | with_reducible apply kept_ite | with_reducible apply kept_closeTimeout | (with_reducible first | apply kept_mk | apply kept_mem); first | (intro _) | with_reducible assumption | with_reducible apply kept_ite | with_reducible apply kept_closeTimeout | split)

theorem kept_execReplayReadyTimeout {z : State} (slot : Nat) (s : State) (hz : Kept z s) : ∀ zt, execReplayReadyTimeout slot s = .next zt → Kept z zt := by
  intro zt e
  unfold execReplayReadyTimeout at e
  injection e with e
  subst e
  try dsimp only
  repeat' (first | (intro _) | with_reducible assumption | with_reducible apply kept_ite | with_reducible apply kept_closeWindow | (with_reducible first | apply kept_mk | apply kept_mem); first | (intro _) | with_reducible assumption | with_reducible apply kept_ite | with_reducible apply kept_closeWindow | split)

end Sys2Proof.Machine
end

