-- ==== Sys2Proof/Laws/KeptRing.lean ====
section
/-!
SUPPORT. Rings, sheets, replay and LAUNCH: each keeps the queue, the fuses and used indices, and the canonical form of memory.
-/
namespace Sys2Proof.Machine

set_option linter.unusedTactic false
set_option linter.unreachableTactic false

theorem kept_tickEngine {z : State} (s : State) (c : Nat) (x : Bool) (hz : Kept z s) : Kept z (tickEngine s c x) := by
  unfold tickEngine
  try dsimp only
  repeat' (first | (intro _) | with_reducible assumption | with_reducible apply kept_ite | with_reducible apply kept_updCore | with_reducible apply kept_bump | (with_reducible first | apply kept_mk | apply kept_mem); first | (intro _) | with_reducible assumption | with_reducible apply kept_ite | with_reducible apply kept_updCore | with_reducible apply kept_bump | split)

theorem kept_bumpN {z : State} (s : State) (ix n : Nat) (hz : Kept z s) : Kept z (bumpN s ix n) := by
  unfold bumpN
  try dsimp only
  repeat' (first | (intro _) | with_reducible assumption | with_reducible apply kept_ite | with_reducible apply kept_bumpIf | (with_reducible first | apply kept_mk | apply kept_mem); first | (intro _) | with_reducible assumption | with_reducible apply kept_ite | with_reducible apply kept_bumpIf | split)

theorem kept_tickUnit {z : State} (s : State) (c : Nat) (hz : Kept z s) : Kept z (tickUnit s c) := by
  unfold tickUnit
  try dsimp only
  repeat' (first | (intro _) | with_reducible assumption | with_reducible apply kept_ite | with_reducible apply kept_setCore | with_reducible apply kept_bumpN | (with_reducible first | apply kept_mk | apply kept_mem); first | (intro _) | with_reducible assumption | with_reducible apply kept_ite | with_reducible apply kept_setCore | with_reducible apply kept_bumpN | split)

theorem kept_tickCore {z : State} (s0 : State) (c : Nat) (hz : Kept z s0) : Kept z (tickCore s0 c) := by
  unfold tickCore
  try dsimp only
  repeat' (first | (intro _) | with_reducible assumption | with_reducible apply kept_ite | with_reducible apply kept_updCore | with_reducible apply kept_settleReport | with_reducible apply kept_tickUnit | with_reducible apply kept_tickEngine | with_reducible apply kept_bumpIf | (with_reducible first | apply kept_mk | apply kept_mem); first | (intro _) | with_reducible assumption | with_reducible apply kept_ite | with_reducible apply kept_updCore | with_reducible apply kept_settleReport | with_reducible apply kept_tickUnit | with_reducible apply kept_tickEngine | with_reducible apply kept_bumpIf | split)

theorem kept_tickDomain {z : State} (s : State) (d : Nat) (hz : Kept z s) : Kept z (tickDomain s d) := by
  unfold tickDomain
  try dsimp only
  repeat' (first | (intro _) | with_reducible assumption | with_reducible apply kept_ite | (with_reducible first | apply kept_mk | apply kept_mem); first | (intro _) | with_reducible assumption | with_reducible apply kept_ite | split)

theorem kept_tickRing {z : State} (s : State) (r : Nat) (hz : Kept z s) : Kept z (tickRing s r) := by
  unfold tickRing
  try dsimp only
  repeat' (first | (intro _) | with_reducible assumption | with_reducible apply kept_ite | with_reducible apply kept_setRing | (with_reducible first | apply kept_mk | apply kept_mem); first | (intro _) | with_reducible assumption | with_reducible apply kept_ite | with_reducible apply kept_setRing | split)

theorem kept_tickHalf {z : State} (s : State) (hz : Kept z s) : Kept z (tickHalf s) := by
  unfold tickHalf
  try dsimp only
  repeat' (first | (intro _) | with_reducible assumption | with_reducible apply kept_ite | with_reducible apply kept_bumpIf | (with_reducible first | apply kept_mk | apply kept_mem); first | (intro _) | with_reducible assumption | with_reducible apply kept_ite | with_reducible apply kept_bumpIf | split)

theorem kept_tick {z : State} (s0 : State) (hz : Kept z s0) : Kept z (tick s0) := by
  unfold tick
  try dsimp only
  repeat' (first | (intro _) | with_reducible assumption | with_reducible apply kept_ite | with_reducible apply kept_foldl | with_reducible apply kept_foldl_fst | with_reducible apply kept_tickHalf | with_reducible apply kept_tickCore | with_reducible apply kept_tickRing | with_reducible apply kept_tickDomain | (with_reducible first | apply kept_mk | apply kept_mem); first | (intro _) | with_reducible assumption | with_reducible apply kept_ite | with_reducible apply kept_foldl | with_reducible apply kept_foldl_fst | with_reducible apply kept_tickHalf | with_reducible apply kept_tickCore | with_reducible apply kept_tickRing | with_reducible apply kept_tickDomain | split)

theorem kept_placeCmd {z : State} (s : State) (ring slot : Nat) (d : Line) (ph : CmdPhase) (replayed : Bool) (hz : Kept z s) : Kept z (placeCmd s ring slot d ph replayed) := by
  unfold placeCmd
  try dsimp only
  repeat' (first | (intro _) | with_reducible assumption | with_reducible apply kept_ite | (with_reducible first | apply kept_mk | apply kept_mem); first | (intro _) | with_reducible assumption | with_reducible apply kept_ite | split)

theorem kept_startCmd {z : State} (s : State) (ring slot : Nat) (d : Line) (replayed : Bool) (hz : Kept z s) : Kept z (startCmd s ring slot d replayed) := by
  unfold startCmd
  try dsimp only
  repeat' (first | (intro _) | with_reducible assumption | with_reducible apply kept_ite | with_reducible apply kept_placeCmd | with_reducible apply kept_flagWaitc | with_reducible apply kept_setPhase | with_reducible apply kept_logCmd | (with_reducible first | apply kept_mk | apply kept_mem); first | (intro _) | with_reducible assumption | with_reducible apply kept_ite | with_reducible apply kept_placeCmd | with_reducible apply kept_flagWaitc | with_reducible apply kept_setPhase | with_reducible apply kept_logCmd | split)

theorem kept_pumpReplayGo {z : State} (s : State) (y0 : List (Line × Nat × Nat)) (hz : Kept z s) : Kept z (pumpReplayGo s y0).1 := by
  induction y0 generalizing s with
  | nil =>
    unfold pumpReplayGo
    try dsimp only
    repeat' (first | (intro _) | with_reducible assumption | with_reducible apply kept_ite | with_reducible apply kept_startCmd | (with_reducible first | apply kept_mk | apply kept_mem); first | (intro _) | with_reducible assumption | with_reducible apply kept_ite | with_reducible apply kept_startCmd | split)
  | cons y l ih =>
    unfold pumpReplayGo
    try dsimp only
    repeat' (first | with_reducible apply ih | (intro _) | with_reducible assumption | with_reducible apply kept_ite | with_reducible apply kept_startCmd | (with_reducible first | apply kept_mk | apply kept_mem); first | with_reducible apply ih | (intro _) | with_reducible assumption | with_reducible apply kept_ite | with_reducible apply kept_startCmd | split)

theorem kept_pumpReplay {z : State} (s : State) (hz : Kept z s) : Kept z (pumpReplay s) := by
  unfold pumpReplay
  try dsimp only
  repeat' (first | (intro _) | with_reducible assumption | with_reducible apply kept_ite | with_reducible apply kept_pumpReplayGo | with_reducible apply kept_wakeUp | (with_reducible first | apply kept_mk | apply kept_mem); first | (intro _) | with_reducible assumption | with_reducible apply kept_ite | with_reducible apply kept_pumpReplayGo | with_reducible apply kept_wakeUp | split)

theorem kept_finishSheet {z : State} (s : State) (ring slot : Nat) (hz : Kept z s) : Kept z (finishSheet s ring slot) := by
  unfold finishSheet
  try dsimp only
  repeat' (first | (intro _) | with_reducible assumption | with_reducible apply kept_ite | with_reducible apply kept_bump | with_reducible apply kept_finishCmd | (with_reducible first | apply kept_mk | apply kept_mem); first | (intro _) | with_reducible assumption | with_reducible apply kept_ite | with_reducible apply kept_bump | with_reducible apply kept_finishCmd | split)

theorem kept_sheetSettled {z : State} (s : State) (ring slot : Nat) (hz : Kept z s) : Kept z (sheetSettled s ring slot) := by
  unfold sheetSettled
  try dsimp only
  repeat' (first | (intro _) | with_reducible assumption | with_reducible apply kept_ite | with_reducible apply kept_finishSheet | with_reducible apply kept_setPhase | with_reducible apply kept_remoteWriteAll | (with_reducible first | apply kept_mk | apply kept_mem); first | (intro _) | with_reducible assumption | with_reducible apply kept_ite | with_reducible apply kept_finishSheet | with_reducible apply kept_setPhase | with_reducible apply kept_remoteWriteAll | split)

theorem kept_writeSheet {z : State} (s : State) (ring slot : Nat) (d : Line) (seq : Nat) (b : Bytes × Bytes × Nat) (hz : Kept z s) : Kept z (writeSheet s ring slot d seq b) := by
  unfold writeSheet
  try dsimp only
  repeat' (first | (intro _) | with_reducible assumption | with_reducible apply kept_ite | with_reducible apply kept_hostLinesW | with_reducible apply kept_setPhase | with_reducible apply kept_remoteWriteAll | with_reducible apply kept_finishSheet | (with_reducible first | apply kept_mk | apply kept_mem); first | (intro _) | with_reducible assumption | with_reducible apply kept_ite | with_reducible apply kept_hostLinesW | with_reducible apply kept_setPhase | with_reducible apply kept_remoteWriteAll | with_reducible apply kept_finishSheet | split)

theorem kept_spoilSheet {z : State} (s : State) (ring slot : Nat) (d : Line) (seq : Nat) (hz : Kept z s) : Kept z (spoilSheet s ring slot d seq) := by
  unfold spoilSheet
  try dsimp only
  repeat' (first | (intro _) | with_reducible assumption | with_reducible apply kept_ite | with_reducible apply kept_hostLinesW | with_reducible apply kept_finishCmd | with_reducible apply kept_remoteWriteAll | (with_reducible first | apply kept_mk | apply kept_mem); first | (intro _) | with_reducible assumption | with_reducible apply kept_ite | with_reducible apply kept_hostLinesW | with_reducible apply kept_finishCmd | with_reducible apply kept_remoteWriteAll | split)

theorem kept_checkpoint {z : State} (s : State) (ring slot : Nat) (d : Line) (hz : Kept z s) : Kept z (checkpoint s ring slot d) := by
  unfold checkpoint
  try dsimp only
  repeat' (first | (intro _) | with_reducible assumption | with_reducible apply kept_ite | with_reducible apply kept_checked | with_reducible apply kept_finishCmd | with_reducible apply kept_recallFromHost | with_reducible apply kept_spoilSheet | with_reducible apply kept_setPhase | with_reducible apply kept_writeSheet | (with_reducible first | apply kept_mk | apply kept_mem); first | (intro _) | with_reducible assumption | with_reducible apply kept_ite | with_reducible apply kept_checked | with_reducible apply kept_finishCmd | with_reducible apply kept_recallFromHost | with_reducible apply kept_spoilSheet | with_reducible apply kept_setPhase | with_reducible apply kept_writeSheet | split)

theorem kept_execCheckpoint {z : State} (ring slot : Nat) (s : State) (hz : Kept z s) : ∀ zt, execCheckpoint ring slot s = .next zt → Kept z zt := by
  intro zt e
  unfold execCheckpoint at e
  injection e with e
  subst e
  try dsimp only
  repeat' (first | (intro _) | with_reducible assumption | with_reducible apply kept_ite | with_reducible apply kept_withCmd | with_reducible apply kept_checkpoint | (with_reducible first | apply kept_mk | apply kept_mem); first | (intro _) | with_reducible assumption | with_reducible apply kept_ite | with_reducible apply kept_withCmd | with_reducible apply kept_checkpoint | split)

theorem kept_restoreTensor {z : State} (s : State) (a n v : Nat) (hz : Kept z s) : Kept z (restoreTensor s a n v).1 := by
  unfold restoreTensor
  try dsimp only
  repeat' (first | (intro _) | with_reducible assumption | with_reducible apply kept_ite | with_reducible apply kept_foldl | with_reducible apply kept_foldl_fst | with_reducible apply kept_writeLinesW | (with_reducible first | apply kept_mk | apply kept_mem); first | (intro _) | with_reducible assumption | with_reducible apply kept_ite | with_reducible apply kept_foldl | with_reducible apply kept_foldl_fst | with_reducible apply kept_writeLinesW | split)

theorem kept_restoreSec {z : State} (h : SheetIn) (x : State × Bool) (q : SecIn) (hz : Kept z x.1) : Kept z (restoreSec h x q).1 := by
  unfold restoreSec
  try dsimp only
  repeat' (first | (intro _) | with_reducible assumption | with_reducible apply kept_ite | with_reducible apply kept_foldl | with_reducible apply kept_foldl_fst | with_reducible apply kept_setReg32 | with_reducible apply kept_setGroup | with_reducible apply kept_restoreTensor | with_reducible apply kept_updSlot | (with_reducible first | apply kept_mk | apply kept_mem); first | (intro _) | with_reducible assumption | with_reducible apply kept_ite | with_reducible apply kept_foldl | with_reducible apply kept_foldl_fst | with_reducible apply kept_setReg32 | with_reducible apply kept_setGroup | with_reducible apply kept_restoreTensor | with_reducible apply kept_updSlot | split)

theorem kept_restoreWc {z : State} (s : State) (g : Nat) (h : Kept z s) : Kept z (restoreWc s g) := by
  unfold restoreWc
  exact kept_stepFold _ (fun _ _ k => kept_stepIte k (kept_bumpEv _ _ _ (kept_writeBlock _ _ _ _ k))) _ _ h

theorem kept_applySheet {z : State} (s : State) (ring slot : Nat) (h : SheetIn) (hz : Kept z s) : Kept z (applySheet s ring slot h) := by
  unfold applySheet
  try dsimp only
  repeat' (first | (intro _) | with_reducible assumption | with_reducible apply kept_ite | with_reducible apply kept_foldl | with_reducible apply kept_foldl_fst | with_reducible apply kept_restoreSec | with_reducible apply kept_restoreWc | with_reducible apply kept_finishCmd | with_reducible apply kept_dropReads | with_reducible apply kept_bump | (with_reducible first | apply kept_mk | apply kept_mem); first | (intro _) | with_reducible assumption | with_reducible apply kept_ite | with_reducible apply kept_foldl | with_reducible apply kept_foldl_fst | with_reducible apply kept_restoreSec | with_reducible apply kept_restoreWc | with_reducible apply kept_finishCmd | with_reducible apply kept_dropReads | with_reducible apply kept_bump | split)

theorem kept_restoreSettle {z : State} (s : State) (ring slot : Nat) (h : SheetIn) (hz : Kept z s) : Kept z (restoreSettle s ring slot h) := by
  unfold restoreSettle
  try dsimp only
  repeat' (first | (intro _) | with_reducible assumption | with_reducible apply kept_ite | with_reducible apply kept_setPhase | with_reducible apply kept_recallFromHost | with_reducible apply kept_applySheet | (with_reducible first | apply kept_mk | apply kept_mem); first | (intro _) | with_reducible assumption | with_reducible apply kept_ite | with_reducible apply kept_setPhase | with_reducible apply kept_recallFromHost | with_reducible apply kept_applySheet | split)

theorem kept_rejectRestore {z : State} (s : State) (ring slot : Nat) (e : Status) (hz : Kept z s) : Kept z (rejectRestore s ring slot e) := by
  unfold rejectRestore
  try dsimp only
  repeat' (first | (intro _) | with_reducible assumption | with_reducible apply kept_ite | with_reducible apply kept_finishCmd | with_reducible apply kept_dropReads | (with_reducible first | apply kept_mk | apply kept_mem); first | (intro _) | with_reducible assumption | with_reducible apply kept_ite | with_reducible apply kept_finishCmd | with_reducible apply kept_dropReads | split)

theorem kept_restore {z : State} (s : State) (ring slot : Nat) (d : Line) (hz : Kept z s) : Kept z (restore s ring slot d) := by
  unfold restore
  try dsimp only
  repeat' (first | (intro _) | with_reducible assumption | with_reducible apply kept_ite | with_reducible apply kept_foldl | with_reducible apply kept_foldl_fst | with_reducible apply kept_rejectRestore | with_reducible apply kept_setPhase | with_reducible apply kept_remoteReadAll | with_reducible apply kept_bumpIf | with_reducible apply kept_discardStep | with_reducible apply kept_restoreSettle | with_reducible apply kept_keepRoom | with_reducible apply kept_defineGroup | (with_reducible first | apply kept_mk | apply kept_mem); first | (intro _) | with_reducible assumption | with_reducible apply kept_ite | with_reducible apply kept_foldl | with_reducible apply kept_foldl_fst | with_reducible apply kept_rejectRestore | with_reducible apply kept_setPhase | with_reducible apply kept_remoteReadAll | with_reducible apply kept_bumpIf | with_reducible apply kept_discardStep | with_reducible apply kept_restoreSettle | with_reducible apply kept_keepRoom | with_reducible apply kept_defineGroup | split)

theorem kept_execRestore {z : State} (ring slot : Nat) (s : State) (hz : Kept z s) : ∀ zt, execRestore ring slot s = .next zt → Kept z zt := by
  intro zt e
  unfold execRestore at e
  injection e with e
  subst e
  try dsimp only
  repeat' (first | (intro _) | with_reducible assumption | with_reducible apply kept_ite | with_reducible apply kept_wakeUp | with_reducible apply kept_restore | with_reducible apply kept_restoreSettle | (with_reducible first | apply kept_mk | apply kept_mem); first | (intro _) | with_reducible assumption | with_reducible apply kept_ite | with_reducible apply kept_wakeUp | with_reducible apply kept_restore | with_reducible apply kept_restoreSettle | split)

theorem kept_backFlags {z : State} (q : Snapshot) (s : State) (c : Nat) (hz : Kept z s) : Kept z (backFlags q s c) := by
  unfold backFlags
  try dsimp only
  repeat' (first | (intro _) | with_reducible assumption | with_reducible apply kept_ite | with_reducible apply kept_updCore | (with_reducible first | apply kept_mk | apply kept_mem); first | (intro _) | with_reducible assumption | with_reducible apply kept_ite | with_reducible apply kept_updCore | split)

theorem kept_backSlot {z : State} (l : List LogSeg) (q : Snapshot) (s : State) (k : Nat) (hz : Kept z s) : Kept z (backSlot l q s k) := by
  unfold backSlot
  try dsimp only
  repeat' (first | (intro _) | with_reducible assumption | with_reducible apply kept_ite | with_reducible apply kept_updSlot | (with_reducible first | apply kept_mk | apply kept_mem); first | (intro _) | with_reducible assumption | with_reducible apply kept_ite | with_reducible apply kept_updSlot | split)

theorem kept_goBack {z : State} (s : State) (l : List LogSeg) (q : Snapshot) (a : Nat) (hz : Kept z s) : Kept z (goBack s l q a) := by
  unfold goBack
  try dsimp only
  repeat' (first | (intro _) | with_reducible assumption | with_reducible apply kept_ite | with_reducible apply kept_foldl | with_reducible apply kept_foldl_fst | with_reducible apply kept_backFlags | with_reducible apply kept_backSlot | with_reducible apply kept_stripPlace | with_reducible apply kept_stripWithdraw | (with_reducible first | apply kept_mk | apply kept_mem); first | (intro _) | with_reducible assumption | with_reducible apply kept_ite | with_reducible apply kept_foldl | with_reducible apply kept_foldl_fst | with_reducible apply kept_backFlags | with_reducible apply kept_backSlot | with_reducible apply kept_stripPlace | with_reducible apply kept_stripWithdraw | split)

theorem kept_endReplay {z : State} (s : State) (ring slot : Nat) (st : Status) (reason at_ : Nat) (hz : Kept z s) : Kept z (endReplay s ring slot st reason at_) := by
  unfold endReplay
  try dsimp only
  repeat' (first | (intro _) | with_reducible assumption | with_reducible apply kept_ite | with_reducible apply kept_finishCmd | (with_reducible first | apply kept_mk | apply kept_mem); first | (intro _) | with_reducible assumption | with_reducible apply kept_ite | with_reducible apply kept_finishCmd | split)

theorem kept_settleReplay {z : State} (s : State) (hz : Kept z s) : Kept z (settleReplay s) := by
  unfold settleReplay
  try dsimp only
  repeat' (first | (intro _) | with_reducible assumption | with_reducible apply kept_ite | with_reducible apply kept_bump | with_reducible apply kept_endReplay | (with_reducible first | apply kept_mk | apply kept_mem); first | (intro _) | with_reducible assumption | with_reducible apply kept_ite | with_reducible apply kept_bump | with_reducible apply kept_endReplay | split)

theorem kept_noteReplayed {z : State} (s : State) (slot : Nat) (st : Status) (hz : Kept z s) : Kept z (noteReplayed s slot st) := by
  unfold noteReplayed
  try dsimp only
  repeat' (first | (intro _) | with_reducible assumption | with_reducible apply kept_ite | (with_reducible first | apply kept_mk | apply kept_mem); first | (intro _) | with_reducible assumption | with_reducible apply kept_ite | split)

theorem kept_replay {z : State} (s : State) (ring slot : Nat) (d : Line) (hz : Kept z s) : Kept z (replay s ring slot d) := by
  induction slot generalizing s ring d with
  | zero =>
    unfold replay
    try dsimp only
    repeat' (first | (intro _) | with_reducible assumption | with_reducible apply kept_ite | with_reducible apply kept_checked | with_reducible apply kept_endReplay | with_reducible apply kept_setPhase | with_reducible apply kept_goBack | with_reducible apply kept_settleReplay | with_reducible apply kept_pumpReplay | (with_reducible first | apply kept_mk | apply kept_mem); first | (intro _) | with_reducible assumption | with_reducible apply kept_ite | with_reducible apply kept_checked | with_reducible apply kept_endReplay | with_reducible apply kept_setPhase | with_reducible apply kept_goBack | with_reducible apply kept_settleReplay | with_reducible apply kept_pumpReplay | split)
  | succ n ih =>
    unfold replay
    try dsimp only
    repeat' (first | with_reducible apply ih | (intro _) | with_reducible assumption | with_reducible apply kept_ite | with_reducible apply kept_checked | with_reducible apply kept_endReplay | with_reducible apply kept_setPhase | with_reducible apply kept_goBack | with_reducible apply kept_settleReplay | with_reducible apply kept_pumpReplay | (with_reducible first | apply kept_mk | apply kept_mem); first | with_reducible apply ih | (intro _) | with_reducible assumption | with_reducible apply kept_ite | with_reducible apply kept_checked | with_reducible apply kept_endReplay | with_reducible apply kept_setPhase | with_reducible apply kept_goBack | with_reducible apply kept_settleReplay | with_reducible apply kept_pumpReplay | split)

theorem kept_execReplay {z : State} (ring slot : Nat) (s : State) (hz : Kept z s) : ∀ zt, execReplay ring slot s = .next zt → Kept z zt := by
  intro zt e
  unfold execReplay at e
  injection e with e
  subst e
  try dsimp only
  repeat' (first | (intro _) | with_reducible assumption | with_reducible apply kept_ite | with_reducible apply kept_withCmd | with_reducible apply kept_replay | (with_reducible first | apply kept_mk | apply kept_mem); first | (intro _) | with_reducible assumption | with_reducible apply kept_ite | with_reducible apply kept_withCmd | with_reducible apply kept_replay | split)

theorem kept_settleFirst {z : State} (s : State) (p : Packet) (lines : List Nat) (writes : Bool) (hz : Kept z s) : ∀ t, settleFirst s p lines writes = some t → Kept z t := by
  intro zt e
  unfold settleFirst at e
  try dsimp only at e
  repeat' (split at e)
  all_goals first | (injection e with e; subst e) | (unfold illFormed at e; cases e; done) | simp at e
  all_goals (try dsimp only)
  all_goals repeat' (first | (intro _) | with_reducible assumption | with_reducible apply kept_ite | with_reducible apply kept_wakeUp | with_reducible apply kept_holdPacket | with_reducible apply kept_keepPacket | with_reducible apply kept_recallFromHost | (with_reducible first | apply kept_mk | apply kept_mem); first | (intro _) | with_reducible assumption | with_reducible apply kept_ite | with_reducible apply kept_wakeUp | with_reducible apply kept_holdPacket | with_reducible apply kept_keepPacket | with_reducible apply kept_recallFromHost | split)

theorem kept_putInSeg {z : State} (s : State) (q : InSeg) (hz : Kept z s) : Kept z (putInSeg s q) := by
  unfold putInSeg
  try dsimp only
  repeat' (first | (intro _) | with_reducible assumption | with_reducible apply kept_ite | (with_reducible first | apply kept_mk | apply kept_mem); first | (intro _) | with_reducible assumption | with_reducible apply kept_ite | split)

theorem kept_sendSegAck {z : State} (s : State) (k : SegKey) (dropped : Nat) (hz : Kept z s) : Kept z (sendSegAck s k dropped) := by
  unfold sendSegAck
  try dsimp only
  repeat' (first | (intro _) | with_reducible assumption | with_reducible apply kept_ite | with_reducible apply kept_sendLow | (with_reducible first | apply kept_mk | apply kept_mem); first | (intro _) | with_reducible assumption | with_reducible apply kept_ite | with_reducible apply kept_sendLow | split)

theorem kept_segArrive {z : State} (s : State) (k : SegKey) (lines lost : List Nat) (total : Option Nat) (hz : Kept z s) : Kept z (segArrive s k lines lost total) := by
  unfold segArrive
  try dsimp only
  repeat' (first | (intro _) | with_reducible assumption | with_reducible apply kept_ite | with_reducible apply kept_putInSeg | with_reducible apply kept_sendSegAck | (with_reducible first | apply kept_mk | apply kept_mem); first | (intro _) | with_reducible assumption | with_reducible apply kept_ite | with_reducible apply kept_putInSeg | with_reducible apply kept_sendSegAck | split)

theorem kept_writeArrived {z : State} (s : State) (y0 : List (Nat × Line × Bool)) (hz : Kept z s) : Kept z (writeArrived s y0).1 := by
  induction y0 generalizing s with
  | nil =>
    unfold writeArrived
    try dsimp only
    repeat' (first | (intro _) | with_reducible assumption | with_reducible apply kept_ite | (with_reducible refine kept_autoMap _ _ ?_ _ (by assumption)) | with_reducible apply kept_bump | with_reducible apply kept_writeLineW | (with_reducible first | apply kept_mk | apply kept_mem); first | (intro _) | with_reducible assumption | with_reducible apply kept_ite | (with_reducible refine kept_autoMap _ _ ?_ _ (by assumption)) | with_reducible apply kept_bump | with_reducible apply kept_writeLineW | split)
  | cons y l ih =>
    unfold writeArrived
    try dsimp only
    repeat' (first | with_reducible apply ih | (intro _) | with_reducible assumption | with_reducible apply kept_ite | (with_reducible refine kept_autoMap _ _ ?_ _ (by assumption)) | with_reducible apply kept_bump | with_reducible apply kept_writeLineW | (with_reducible first | apply kept_mk | apply kept_mem); first | with_reducible apply ih | (intro _) | with_reducible assumption | with_reducible apply kept_ite | (with_reducible refine kept_autoMap _ _ ?_ _ (by assumption)) | with_reducible apply kept_bump | with_reducible apply kept_writeLineW | split)

theorem kept_execWritePacket {z : State} (p : Packet) (s : State) (hz : Kept z s) : ∀ zt, execWritePacket p s = .next zt → Kept z zt := by
  intro zt e
  unfold execWritePacket at e
  try dsimp only at e
  repeat' (split at e)
  all_goals first | (injection e with e; subst e) | (unfold illFormed at e; cases e; done) | simp at e
  all_goals (try dsimp only)
  all_goals repeat' (first | (intro _) | with_reducible assumption | with_reducible apply kept_ite | (with_reducible refine kept_settleFirst _ _ _ _ ?_ _ (by assumption)) | with_reducible apply kept_writeArrived | with_reducible apply kept_takeFrom | with_reducible apply kept_segArrive | (with_reducible first | apply kept_mk | apply kept_mem); first | (intro _) | with_reducible assumption | with_reducible apply kept_ite | (with_reducible refine kept_settleFirst _ _ _ _ ?_ _ (by assumption)) | with_reducible apply kept_writeArrived | with_reducible apply kept_takeFrom | with_reducible apply kept_segArrive | split)

theorem kept_execReadReq {z : State} (p : Packet) (s : State) (hz : Kept z s) : ∀ zt, execReadReq p s = .next zt → Kept z zt := by
  intro zt e
  unfold execReadReq at e
  try dsimp only at e
  repeat' (split at e)
  all_goals first | (injection e with e; subst e) | (unfold illFormed at e; cases e; done) | simp at e
  all_goals (try dsimp only)
  all_goals repeat' (first | (intro _) | with_reducible assumption | with_reducible apply kept_ite | (with_reducible refine kept_settleFirst _ _ _ _ ?_ _ (by assumption)) | with_reducible apply kept_takeFrom | with_reducible apply kept_sendSpread | (with_reducible first | apply kept_mk | apply kept_mem); first | (intro _) | with_reducible assumption | with_reducible apply kept_ite | (with_reducible refine kept_settleFirst _ _ _ _ ?_ _ (by assumption)) | with_reducible apply kept_takeFrom | with_reducible apply kept_sendSpread | split)

theorem kept_readsDone {z : State} (s : State) (ring slot : Nat) (hz : Kept z s) : Kept z (readsDone s ring slot) := by
  unfold readsDone
  try dsimp only
  repeat' (first | (intro _) | with_reducible assumption | with_reducible apply kept_ite | with_reducible apply kept_setPhase | with_reducible apply kept_resumeJob | (with_reducible first | apply kept_mk | apply kept_mem); first | (intro _) | with_reducible assumption | with_reducible apply kept_ite | with_reducible apply kept_setPhase | with_reducible apply kept_resumeJob | split)

theorem kept_takeRead {z : State} (s : State) (dev group tag : Nat) (l : List (Nat × Line × Bool)) (hz : Kept z s) : Kept z (takeRead s dev group tag l) := by
  unfold takeRead
  try dsimp only
  repeat' (first | (intro _) | with_reducible assumption | with_reducible apply kept_ite | with_reducible apply kept_readsDone | (with_reducible first | apply kept_mk | apply kept_mem); first | (intro _) | with_reducible assumption | with_reducible apply kept_ite | with_reducible apply kept_readsDone | split)

theorem kept_execReadData {z : State} (p : Packet) (s : State) (hz : Kept z s) : ∀ zt, execReadData p s = .next zt → Kept z zt := by
  intro zt e
  unfold execReadData at e
  try dsimp only at e
  repeat' (split at e)
  all_goals first | (injection e with e; subst e) | (unfold illFormed at e; cases e; done) | simp at e
  all_goals (try dsimp only)
  all_goals repeat' (first | (intro _) | with_reducible assumption | with_reducible apply kept_ite | with_reducible apply kept_takeRead | with_reducible apply kept_takeFrom | (with_reducible first | apply kept_mk | apply kept_mem); first | (intro _) | with_reducible assumption | with_reducible apply kept_ite | with_reducible apply kept_takeRead | with_reducible apply kept_takeFrom | split)

theorem kept_readTimeout {z : State} (s : State) (group tag : Nat) (hz : Kept z s) : Kept z (readTimeout s group tag) := by
  unfold readTimeout
  try dsimp only
  repeat' (first | (intro _) | with_reducible assumption | with_reducible apply kept_ite | with_reducible apply kept_markCmd | with_reducible apply kept_bump | with_reducible apply kept_takeRead | (with_reducible first | apply kept_mk | apply kept_mem); first | (intro _) | with_reducible assumption | with_reducible apply kept_ite | with_reducible apply kept_markCmd | with_reducible apply kept_bump | with_reducible apply kept_takeRead | split)

theorem kept_execReadTimeout {z : State} (group tag : Nat) (s : State) (hz : Kept z s) : ∀ zt, execReadTimeout group tag s = .next zt → Kept z zt := by
  intro zt e
  unfold execReadTimeout at e
  injection e with e
  subst e
  try dsimp only
  repeat' (first | (intro _) | with_reducible assumption | with_reducible apply kept_ite | with_reducible apply kept_readTimeout | (with_reducible first | apply kept_mk | apply kept_mem); first | (intro _) | with_reducible assumption | with_reducible apply kept_ite | with_reducible apply kept_readTimeout | split)

theorem kept_ownerLost {z : State} (s : State) (o : SegOwner) (n : Nat) (hz : Kept z s) : Kept z (ownerLost s o n) := by
  unfold ownerLost
  try dsimp only
  repeat' (first | (intro _) | with_reducible assumption | with_reducible apply kept_ite | with_reducible apply kept_markCmd | with_reducible apply kept_updSlot | (with_reducible first | apply kept_mk | apply kept_mem); first | (intro _) | with_reducible assumption | with_reducible apply kept_ite | with_reducible apply kept_markCmd | with_reducible apply kept_updSlot | split)

theorem kept_ownerSettled {z : State} (s : State) (o : SegOwner) (hz : Kept z s) : Kept z (ownerSettled s o) := by
  unfold ownerSettled
  try dsimp only
  repeat' (first | (intro _) | with_reducible assumption | with_reducible apply kept_ite | with_reducible apply kept_sheetSettled | with_reducible apply kept_finishMove | (with_reducible first | apply kept_mk | apply kept_mem); first | (intro _) | with_reducible assumption | with_reducible apply kept_ite | with_reducible apply kept_sheetSettled | with_reducible apply kept_finishMove | split)

theorem kept_dropOutSeg {z : State} (s : State) (k : SegKey) (hz : Kept z s) : Kept z (dropOutSeg s k) := by
  unfold dropOutSeg
  try dsimp only
  repeat' (first | (intro _) | with_reducible assumption | with_reducible apply kept_ite | (with_reducible first | apply kept_mk | apply kept_mem); first | (intro _) | with_reducible assumption | with_reducible apply kept_ite | split)

theorem kept_endSeg {z : State} (s : State) (o : OutSeg) (lost : Bool) (n : Nat) (hz : Kept z s) : Kept z (endSeg s o lost n) := by
  unfold endSeg
  try dsimp only
  repeat' (first | (intro _) | with_reducible assumption | with_reducible apply kept_ite | with_reducible apply kept_ownerSettled | with_reducible apply kept_ownerLost | with_reducible apply kept_dropOutSeg | (with_reducible first | apply kept_mk | apply kept_mem); first | (intro _) | with_reducible assumption | with_reducible apply kept_ite | with_reducible apply kept_ownerSettled | with_reducible apply kept_ownerLost | with_reducible apply kept_dropOutSeg | split)

theorem kept_execSegAck {z : State} (p : Packet) (s : State) (hz : Kept z s) : ∀ zt, execSegAck p s = .next zt → Kept z zt := by
  intro zt e
  unfold execSegAck at e
  try dsimp only at e
  repeat' (split at e)
  all_goals first | (injection e with e; subst e) | (unfold illFormed at e; cases e; done) | simp at e
  all_goals (try dsimp only)
  all_goals repeat' (first | (intro _) | with_reducible assumption | with_reducible apply kept_ite | with_reducible apply kept_takeFrom | with_reducible apply kept_endSeg | with_reducible apply kept_bumpIf | (with_reducible first | apply kept_mk | apply kept_mem); first | (intro _) | with_reducible assumption | with_reducible apply kept_ite | with_reducible apply kept_takeFrom | with_reducible apply kept_endSeg | with_reducible apply kept_bumpIf | split)

theorem kept_segTimeout {z : State} (s : State) (k : SegKey) (dst : Nat) (hz : Kept z s) : Kept z (segTimeout s k dst) := by
  unfold segTimeout
  try dsimp only
  repeat' (first | (intro _) | with_reducible assumption | with_reducible apply kept_ite | with_reducible apply kept_sendLow | with_reducible apply kept_bump | (with_reducible first | apply kept_mk | apply kept_mem); first | (intro _) | with_reducible assumption | with_reducible apply kept_ite | with_reducible apply kept_sendLow | with_reducible apply kept_bump | split)

theorem kept_execSegTimeout {z : State} (k : SegKey) (dst : Nat) (s : State) (hz : Kept z s) : ∀ zt, execSegTimeout k dst s = .next zt → Kept z zt := by
  intro zt e
  unfold execSegTimeout at e
  injection e with e
  subst e
  try dsimp only
  repeat' (first | (intro _) | with_reducible assumption | with_reducible apply kept_ite | with_reducible apply kept_segTimeout | (with_reducible first | apply kept_mk | apply kept_mem); first | (intro _) | with_reducible assumption | with_reducible apply kept_ite | with_reducible apply kept_segTimeout | split)

theorem kept_execSegAbortTimeout {z : State} (k : SegKey) (dst : Nat) (s : State) (hz : Kept z s) : ∀ zt, execSegAbortTimeout k dst s = .next zt → Kept z zt := by
  intro zt e
  unfold execSegAbortTimeout at e
  injection e with e
  subst e
  try dsimp only
  repeat' (first | (intro _) | with_reducible assumption | with_reducible apply kept_ite | with_reducible apply kept_endSeg | (with_reducible first | apply kept_mk | apply kept_mem); first | (intro _) | with_reducible assumption | with_reducible apply kept_ite | with_reducible apply kept_endSeg | split)

theorem kept_loseLines {z : State} (s : State) (src block : Nat) (lines : List Nat) (hz : Kept z s) : Kept z (loseLines s src block lines) := by
  unfold loseLines
  try dsimp only
  repeat' (first | (intro _) | with_reducible assumption | with_reducible apply kept_ite | with_reducible apply kept_foldl | with_reducible apply kept_foldl_fst | with_reducible apply kept_updSlot | with_reducible apply kept_loseElems | with_reducible apply kept_addPart | (with_reducible first | apply kept_mk | apply kept_mem); first | (intro _) | with_reducible assumption | with_reducible apply kept_ite | with_reducible apply kept_foldl | with_reducible apply kept_foldl_fst | with_reducible apply kept_updSlot | with_reducible apply kept_loseElems | with_reducible apply kept_addPart | split)

theorem kept_execSegAbort {z : State} (p : Packet) (s : State) (hz : Kept z s) : ∀ zt, execSegAbort p s = .next zt → Kept z zt := by
  intro zt e
  unfold execSegAbort at e
  try dsimp only at e
  repeat' (split at e)
  all_goals first | (injection e with e; subst e) | (unfold illFormed at e; cases e; done) | simp at e
  all_goals (try dsimp only)
  all_goals repeat' (first | (intro _) | with_reducible assumption | with_reducible apply kept_ite | (with_reducible refine kept_settleFirst _ _ _ _ ?_ _ (by assumption)) | with_reducible apply kept_bumpIf | with_reducible apply kept_takeFrom | with_reducible apply kept_writeLinesW | with_reducible apply kept_loseLines | with_reducible apply kept_sendSegAck | with_reducible apply kept_putInSeg | (with_reducible first | apply kept_mk | apply kept_mem); first | (intro _) | with_reducible assumption | with_reducible apply kept_ite | (with_reducible refine kept_settleFirst _ _ _ _ ?_ _ (by assumption)) | with_reducible apply kept_bumpIf | with_reducible apply kept_takeFrom | with_reducible apply kept_writeLinesW | with_reducible apply kept_loseLines | with_reducible apply kept_sendSegAck | with_reducible apply kept_putInSeg | split)

theorem kept_redArrive {z : State} (s : State) (p : Packet) (k inst seg chunk off : Nat) (total : Option Nat) (res : Bool) (bits : List (BitVec 32)) (scales pois : List Nat) (hz : Kept z s) : Kept z (redArrive s p k inst seg chunk off total res bits scales pois) := by
  unfold redArrive
  try dsimp only
  repeat' (first | (intro _) | with_reducible assumption | with_reducible apply kept_ite | with_reducible apply kept_takeFrom | with_reducible apply kept_storeResult | with_reducible apply kept_addPart | with_reducible apply kept_segArrive | (with_reducible first | apply kept_mk | apply kept_mem); first | (intro _) | with_reducible assumption | with_reducible apply kept_ite | with_reducible apply kept_takeFrom | with_reducible apply kept_storeResult | with_reducible apply kept_addPart | with_reducible apply kept_segArrive | split)

theorem kept_execRedData {z : State} (p : Packet) (s : State) (hz : Kept z s) : ∀ zt, execRedData p s = .next zt → Kept z zt := by
  intro zt e
  unfold execRedData at e
  try dsimp only at e
  repeat' (split at e)
  all_goals first | (injection e with e; subst e) | (unfold illFormed at e; cases e; done) | simp at e
  all_goals (try dsimp only)
  all_goals repeat' (first | (intro _) | with_reducible assumption | with_reducible apply kept_ite | (with_reducible refine kept_settleFirst _ _ _ _ ?_ _ (by assumption)) | with_reducible apply kept_keepPacket | with_reducible apply kept_redArrive | (with_reducible first | apply kept_mk | apply kept_mem); first | (intro _) | with_reducible assumption | with_reducible apply kept_ite | (with_reducible refine kept_settleFirst _ _ _ _ ?_ _ (by assumption)) | with_reducible apply kept_keepPacket | with_reducible apply kept_redArrive | split)

theorem kept_ringError {z : State} (s : State) (r code : Nat) (hz : Kept z s) : Kept z (ringError s r code) := by
  unfold ringError
  try dsimp only
  repeat' (first | (intro _) | with_reducible assumption | with_reducible apply kept_ite | with_reducible apply kept_raiseEvent | with_reducible apply kept_setRing | (with_reducible first | apply kept_mk | apply kept_mem); first | (intro _) | with_reducible assumption | with_reducible apply kept_ite | with_reducible apply kept_raiseEvent | with_reducible apply kept_setRing | split)

theorem kept_ringEnable {z : State} (s : State) (r : Nat) (w3 : BitVec 64) (hz : Kept z s) : Kept z (ringEnable s r w3) := by
  unfold ringEnable
  try dsimp only
  repeat' (first | (intro _) | with_reducible assumption | with_reducible apply kept_ite | with_reducible apply kept_setReg64 | with_reducible apply kept_setRing | with_reducible apply kept_ringError | (with_reducible first | apply kept_mk | apply kept_mem); first | (intro _) | with_reducible assumption | with_reducible apply kept_ite | with_reducible apply kept_setReg64 | with_reducible apply kept_setRing | with_reducible apply kept_ringError | split)

theorem kept_execRingEnable {z : State} (ring : Nat) (w3 : BitVec 64) (s : State) (hz : Kept z s) : ∀ zt, execRingEnable ring w3 s = .next zt → Kept z zt := by
  intro zt e
  unfold execRingEnable at e
  injection e with e
  subst e
  try dsimp only
  repeat' (first | (intro _) | with_reducible assumption | with_reducible apply kept_ite | with_reducible apply kept_ringEnable | (with_reducible first | apply kept_mk | apply kept_mem); first | (intro _) | with_reducible assumption | with_reducible apply kept_ite | with_reducible apply kept_ringEnable | split)

theorem kept_withdrawHeld {z : State} (s : State) (r : Nat) (hz : Kept z s) : Kept z (withdrawHeld s r) := by
  unfold withdrawHeld
  try dsimp only
  repeat' (first | (intro _) | with_reducible assumption | with_reducible apply kept_ite | with_reducible apply kept_foldl | with_reducible apply kept_foldl_fst | with_reducible apply kept_finishCmd | (with_reducible first | apply kept_mk | apply kept_mem); first | (intro _) | with_reducible assumption | with_reducible apply kept_ite | with_reducible apply kept_foldl | with_reducible apply kept_foldl_fst | with_reducible apply kept_finishCmd | split)

theorem kept_ringDrained {z : State} (s : State) (r : Nat) (hz : Kept z s) : Kept z (ringDrained s r) := by
  unfold ringDrained
  try dsimp only
  repeat' (first | (intro _) | with_reducible assumption | with_reducible apply kept_ite | with_reducible apply kept_setRing | (with_reducible first | apply kept_mk | apply kept_mem); first | (intro _) | with_reducible assumption | with_reducible apply kept_ite | with_reducible apply kept_setRing | split)

theorem kept_ringDisable {z : State} (s : State) (r : Nat) (hz : Kept z s) : Kept z (ringDisable s r) := by
  unfold ringDisable
  try dsimp only
  repeat' (first | (intro _) | with_reducible assumption | with_reducible apply kept_ite | with_reducible apply kept_setReg64 | with_reducible apply kept_withdrawHeld | with_reducible apply kept_setRing | (with_reducible first | apply kept_mk | apply kept_mem); first | (intro _) | with_reducible assumption | with_reducible apply kept_ite | with_reducible apply kept_setReg64 | with_reducible apply kept_withdrawHeld | with_reducible apply kept_setRing | split)

theorem kept_execRingDisable {z : State} (ring : Nat) (s : State) (hz : Kept z s) : ∀ zt, execRingDisable ring s = .next zt → Kept z zt := by
  intro zt e
  unfold execRingDisable at e
  injection e with e
  subst e
  try dsimp only
  repeat' (first | (intro _) | with_reducible assumption | with_reducible apply kept_ite | with_reducible apply kept_ringDisable | (with_reducible first | apply kept_mk | apply kept_mem); first | (intro _) | with_reducible assumption | with_reducible apply kept_ite | with_reducible apply kept_ringDisable | split)

theorem kept_execRingDrained {z : State} (ring : Nat) (s : State) (hz : Kept z s) : ∀ zt, execRingDrained ring s = .next zt → Kept z zt := by
  intro zt e
  unfold execRingDrained at e
  injection e with e
  subst e
  try dsimp only
  repeat' (first | (intro _) | with_reducible assumption | with_reducible apply kept_ite | with_reducible apply kept_ringDrained | (with_reducible first | apply kept_mk | apply kept_mem); first | (intro _) | with_reducible assumption | with_reducible apply kept_ite | with_reducible apply kept_ringDrained | split)

theorem kept_doorbellSnoop {z : State} (s : State) (line : Nat) (hz : Kept z s) : Kept z (doorbellSnoop s line) := by
  unfold doorbellSnoop
  try dsimp only
  repeat' (first | (intro _) | with_reducible assumption | with_reducible apply kept_ite | with_reducible apply kept_wakeUp | (with_reducible first | apply kept_mk | apply kept_mem); first | (intro _) | with_reducible assumption | with_reducible apply kept_ite | with_reducible apply kept_wakeUp | split)

theorem kept_execDoorbellSnoop {z : State} (line : Nat) (s : State) (hz : Kept z s) : ∀ zt, execDoorbellSnoop line s = .next zt → Kept z zt := by
  intro zt e
  unfold execDoorbellSnoop at e
  injection e with e
  subst e
  try dsimp only
  repeat' (first | (intro _) | with_reducible assumption | with_reducible apply kept_ite | with_reducible apply kept_doorbellSnoop | (with_reducible first | apply kept_mk | apply kept_mem); first | (intro _) | with_reducible assumption | with_reducible apply kept_ite | with_reducible apply kept_doorbellSnoop | split)

theorem kept_takeDoorbell {z : State} (s : State) (r : Nat) (v : BitVec 64) (hz : Kept z s) : Kept z (takeDoorbell s r v) := by
  unfold takeDoorbell
  try dsimp only
  repeat' (first | (intro _) | with_reducible assumption | with_reducible apply kept_ite | with_reducible apply kept_ringError | with_reducible apply kept_setRing | (with_reducible first | apply kept_mk | apply kept_mem); first | (intro _) | with_reducible assumption | with_reducible apply kept_ite | with_reducible apply kept_ringError | with_reducible apply kept_setRing | split)

theorem kept_doorbellRead {z : State} (s : State) (r : Nat) (v : Option (BitVec 64)) (hz : Kept z s) : Kept z (doorbellRead s r v) := by
  unfold doorbellRead
  try dsimp only
  repeat' (first | (intro _) | with_reducible assumption | with_reducible apply kept_ite | with_reducible apply kept_bumpIf | with_reducible apply kept_setRing | with_reducible apply kept_ringError | with_reducible apply kept_takeDoorbell | with_reducible apply kept_bump | (with_reducible first | apply kept_mk | apply kept_mem); first | (intro _) | with_reducible assumption | with_reducible apply kept_ite | with_reducible apply kept_bumpIf | with_reducible apply kept_setRing | with_reducible apply kept_ringError | with_reducible apply kept_takeDoorbell | with_reducible apply kept_bump | split)

theorem kept_execDoorbellRead {z : State} (ring : Nat) (value : Option (BitVec 64)) (s : State) (hz : Kept z s) : ∀ zt, execDoorbellRead ring value s = .next zt → Kept z zt := by
  intro zt e
  unfold execDoorbellRead at e
  injection e with e
  subst e
  try dsimp only
  repeat' (first | (intro _) | with_reducible assumption | with_reducible apply kept_ite | with_reducible apply kept_doorbellRead | (with_reducible first | apply kept_mk | apply kept_mem); first | (intro _) | with_reducible assumption | with_reducible apply kept_ite | with_reducible apply kept_doorbellRead | split)

theorem kept_descriptorRead {z : State} (s : State) (r : Nat) (desc : Option Line) (hz : Kept z s) : Kept z (descriptorRead s r desc) := by
  unfold descriptorRead
  try dsimp only
  repeat' (first | (intro _) | with_reducible assumption | with_reducible apply kept_ite | with_reducible apply kept_wakeUp | with_reducible apply kept_setRing | with_reducible apply kept_startCmd | with_reducible apply kept_bump | with_reducible apply kept_ringError | with_reducible apply kept_placeCmd | (with_reducible first | apply kept_mk | apply kept_mem); first | (intro _) | with_reducible assumption | with_reducible apply kept_ite | with_reducible apply kept_wakeUp | with_reducible apply kept_setRing | with_reducible apply kept_startCmd | with_reducible apply kept_bump | with_reducible apply kept_ringError | with_reducible apply kept_placeCmd | split)

theorem kept_execDescriptorRead {z : State} (ring : Nat) (desc : Option Line) (s : State) (hz : Kept z s) : ∀ zt, execDescriptorRead ring desc s = .next zt → Kept z zt := by
  intro zt e
  unfold execDescriptorRead at e
  injection e with e
  subst e
  try dsimp only
  repeat' (first | (intro _) | with_reducible assumption | with_reducible apply kept_ite | with_reducible apply kept_descriptorRead | (with_reducible first | apply kept_mk | apply kept_mem); first | (intro _) | with_reducible assumption | with_reducible apply kept_ite | with_reducible apply kept_descriptorRead | split)

theorem kept_setFlagOf {z : State} (s : State) (m : Cmd) (st : Status) (hz : Kept z s) : Kept z (setFlagOf s m st).1 := by
  unfold setFlagOf
  try dsimp only
  repeat' (first | (intro _) | with_reducible assumption | with_reducible apply kept_ite | with_reducible apply kept_flagApply | (with_reducible first | apply kept_mk | apply kept_mem); first | (intro _) | with_reducible assumption | with_reducible apply kept_ite | with_reducible apply kept_flagApply | split)

theorem kept_writeCompletion {z : State} (s : State) (m : Cmd) (st : Status) (info : BitVec 64) (hz : Kept z s) : Kept z (writeCompletion s m st info) := by
  unfold writeCompletion
  try dsimp only
  repeat' (first | (intro _) | with_reducible assumption | with_reducible apply kept_ite | with_reducible apply kept_setRing | with_reducible apply kept_ringError | with_reducible apply kept_writeHost | with_reducible apply kept_msixSend | (with_reducible first | apply kept_mk | apply kept_mem); first | (intro _) | with_reducible assumption | with_reducible apply kept_ite | with_reducible apply kept_setRing | with_reducible apply kept_ringError | with_reducible apply kept_writeHost | with_reducible apply kept_msixSend | split)

theorem kept_dropCmd {z : State} (s : State) (ring slot : Nat) (hz : Kept z s) : Kept z (dropCmd s ring slot) := by
  unfold dropCmd
  try dsimp only
  repeat' (first | (intro _) | with_reducible assumption | with_reducible apply kept_ite | with_reducible apply kept_setCmds | (with_reducible first | apply kept_mk | apply kept_mem); first | (intro _) | with_reducible assumption | with_reducible apply kept_ite | with_reducible apply kept_setCmds | split)

theorem kept_commandComplete {z : State} (s : State) (ring slot : Nat) (hz : Kept z s) : Kept z (commandComplete s ring slot) := by
  unfold commandComplete
  try dsimp only
  repeat' (first | (intro _) | with_reducible assumption | with_reducible apply kept_ite | with_reducible apply kept_wakeUp | with_reducible apply kept_setFlagOf | with_reducible apply kept_dropReads | with_reducible apply kept_dropCmd | with_reducible apply kept_settleReplay | with_reducible apply kept_pumpReplay | with_reducible apply kept_noteReplayed | with_reducible apply kept_bumpIf | with_reducible apply kept_bump | with_reducible apply kept_writeCompletion | (with_reducible first | apply kept_mk | apply kept_mem); first | (intro _) | with_reducible assumption | with_reducible apply kept_ite | with_reducible apply kept_wakeUp | with_reducible apply kept_setFlagOf | with_reducible apply kept_dropReads | with_reducible apply kept_dropCmd | with_reducible apply kept_settleReplay | with_reducible apply kept_pumpReplay | with_reducible apply kept_noteReplayed | with_reducible apply kept_bumpIf | with_reducible apply kept_bump | with_reducible apply kept_writeCompletion | split)

theorem kept_execCommandComplete {z : State} (ring slot : Nat) (s : State) (hz : Kept z s) : ∀ zt, execCommandComplete ring slot s = .next zt → Kept z zt := by
  intro zt e
  unfold execCommandComplete at e
  injection e with e
  subst e
  try dsimp only
  repeat' (first | (intro _) | with_reducible assumption | with_reducible apply kept_ite | with_reducible apply kept_commandComplete | (with_reducible first | apply kept_mk | apply kept_mem); first | (intro _) | with_reducible assumption | with_reducible apply kept_ite | with_reducible apply kept_commandComplete | split)

theorem kept_execNop {z : State} (ring slot : Nat) (s : State) (hz : Kept z s) : ∀ zt, execNop ring slot s = .next zt → Kept z zt := by
  intro zt e
  unfold execNop at e
  injection e with e
  subst e
  try dsimp only
  repeat' (first | (intro _) | with_reducible assumption | with_reducible apply kept_ite | with_reducible apply kept_withCmd | with_reducible apply kept_checked | with_reducible apply kept_finishCmd | (with_reducible first | apply kept_mk | apply kept_mem); first | (intro _) | with_reducible assumption | with_reducible apply kept_ite | with_reducible apply kept_withCmd | with_reducible apply kept_checked | with_reducible apply kept_finishCmd | split)

theorem kept_execFence {z : State} (ring slot : Nat) (s : State) (hz : Kept z s) : ∀ zt, execFence ring slot s = .next zt → Kept z zt := by
  intro zt e
  unfold execFence at e
  injection e with e
  subst e
  try dsimp only
  repeat' (first | (intro _) | with_reducible assumption | with_reducible apply kept_ite | with_reducible apply kept_withCmd | with_reducible apply kept_checked | with_reducible apply kept_finishCmd | (with_reducible first | apply kept_mk | apply kept_mem); first | (intro _) | with_reducible assumption | with_reducible apply kept_ite | with_reducible apply kept_withCmd | with_reducible apply kept_checked | with_reducible apply kept_finishCmd | split)

theorem kept_clearCounters {z : State} (s : State) (a n : Nat) (hz : Kept z s) : Kept z (clearCounters s a n) := by
  unfold clearCounters
  try dsimp only
  repeat' (first | (intro _) | with_reducible assumption | with_reducible apply kept_ite | (with_reducible first | apply kept_mk | apply kept_mem); first | (intro _) | with_reducible assumption | with_reducible apply kept_ite | split)

theorem kept_queryCounters {z : State} (s : State) (ring slot : Nat) (d : Line) (hz : Kept z s) : Kept z (queryCounters s ring slot d) := by
  unfold queryCounters
  try dsimp only
  repeat' (first | (intro _) | with_reducible assumption | with_reducible apply kept_ite | with_reducible apply kept_checked | with_reducible apply kept_setPhase | with_reducible apply kept_recallFromHost | with_reducible apply kept_clearCounters | with_reducible apply kept_hostLinesW | with_reducible apply kept_writeLinesW | with_reducible apply kept_finishCmd | (with_reducible first | apply kept_mk | apply kept_mem); first | (intro _) | with_reducible assumption | with_reducible apply kept_ite | with_reducible apply kept_checked | with_reducible apply kept_setPhase | with_reducible apply kept_recallFromHost | with_reducible apply kept_clearCounters | with_reducible apply kept_hostLinesW | with_reducible apply kept_writeLinesW | with_reducible apply kept_finishCmd | split)

theorem kept_execQueryCounters {z : State} (ring slot : Nat) (s : State) (hz : Kept z s) : ∀ zt, execQueryCounters ring slot s = .next zt → Kept z zt := by
  intro zt e
  unfold execQueryCounters at e
  injection e with e
  subst e
  try dsimp only
  repeat' (first | (intro _) | with_reducible assumption | with_reducible apply kept_ite | with_reducible apply kept_withCmd | with_reducible apply kept_queryCounters | (with_reducible first | apply kept_mk | apply kept_mem); first | (intro _) | with_reducible assumption | with_reducible apply kept_ite | with_reducible apply kept_withCmd | with_reducible apply kept_queryCounters | split)

theorem kept_countRefused {z : State} (s : State) (j : MoveJob) (hz : Kept z s) : Kept z (countRefused s j) := by
  unfold countRefused
  try dsimp only
  repeat' (first | (intro _) | with_reducible assumption | with_reducible apply kept_ite | with_reducible apply kept_countMove | (with_reducible first | apply kept_mk | apply kept_mem); first | (intro _) | with_reducible assumption | with_reducible apply kept_ite | with_reducible apply kept_countMove | split)

theorem kept_deadLines {z : State} (s : State) (j : MoveJob) (l : List Nat) (hz : Kept z s) : Kept z (deadLines s j l) := by
  unfold deadLines
  try dsimp only
  repeat' (first | (intro _) | with_reducible assumption | with_reducible apply kept_ite | with_reducible apply kept_bumpIf | with_reducible apply kept_remoteWriteAll | with_reducible apply kept_writeLinesW | (with_reducible first | apply kept_mk | apply kept_mem); first | (intro _) | with_reducible assumption | with_reducible apply kept_ite | with_reducible apply kept_bumpIf | with_reducible apply kept_remoteWriteAll | with_reducible apply kept_writeLinesW | split)

theorem kept_refuseJob {z : State} (s : State) (j : MoveJob) (hz : Kept z s) : Kept z (refuseJob s j) := by
  unfold refuseJob
  try dsimp only
  repeat' (first | (intro _) | with_reducible assumption | with_reducible apply kept_ite | with_reducible apply kept_countRefused | with_reducible apply kept_translateAll | with_reducible apply kept_markCmd | with_reducible apply kept_nextFree | with_reducible apply kept_redLines | with_reducible apply kept_bump | with_reducible apply kept_settleRemote | with_reducible apply kept_deadLines | with_reducible apply kept_moveLines | with_reducible apply kept_emitLines | with_reducible apply kept_grinderRecall | (with_reducible first | apply kept_mk | apply kept_mem); first | (intro _) | with_reducible assumption | with_reducible apply kept_ite | with_reducible apply kept_countRefused | with_reducible apply kept_translateAll | with_reducible apply kept_markCmd | with_reducible apply kept_nextFree | with_reducible apply kept_redLines | with_reducible apply kept_bump | with_reducible apply kept_settleRemote | with_reducible apply kept_deadLines | with_reducible apply kept_moveLines | with_reducible apply kept_emitLines | with_reducible apply kept_grinderRecall | split)

theorem kept_refuseView {z : State} (s : State) (ring slot : Nat) (d : Line) (j : MoveJob) (hz : Kept z s) : Kept z (refuseView s ring slot d j) := by
  unfold refuseView
  try dsimp only
  repeat' (first | (intro _) | with_reducible assumption | with_reducible apply kept_ite | with_reducible apply kept_drainTell | with_reducible apply kept_drainReads | with_reducible apply kept_markCmd | with_reducible apply kept_nextFree | with_reducible apply kept_finishMove | with_reducible apply kept_emitLines | (with_reducible first | apply kept_mk | apply kept_mem); first | (intro _) | with_reducible assumption | with_reducible apply kept_ite | with_reducible apply kept_drainTell | with_reducible apply kept_drainReads | with_reducible apply kept_markCmd | with_reducible apply kept_nextFree | with_reducible apply kept_finishMove | with_reducible apply kept_emitLines | split)

theorem kept_refuseSheet {z : State} (s : State) (ring slot : Nat) (hz : Kept z s) : Kept z (refuseSheet s ring slot) := by
  unfold refuseSheet
  try dsimp only
  repeat' (first | (intro _) | with_reducible assumption | with_reducible apply kept_ite | with_reducible apply kept_finishCmd | with_reducible apply kept_hostLinesW | with_reducible apply kept_nextFree | (with_reducible first | apply kept_mk | apply kept_mem); first | (intro _) | with_reducible assumption | with_reducible apply kept_ite | with_reducible apply kept_finishCmd | with_reducible apply kept_hostLinesW | with_reducible apply kept_nextFree | split)

theorem kept_hostAccessRefused {z : State} (s : State) (ring slot : Nat) (hz : Kept z s) : Kept z (hostAccessRefused s ring slot) := by
  unfold hostAccessRefused
  try dsimp only
  repeat' (first | (intro _) | with_reducible assumption | with_reducible apply kept_ite | with_reducible apply kept_refuseSheet | with_reducible apply kept_finishCmd | with_reducible apply kept_hostLinesW | with_reducible apply kept_nextFree | with_reducible apply kept_refuseView | with_reducible apply kept_refuseJob | (with_reducible first | apply kept_mk | apply kept_mem); first | (intro _) | with_reducible assumption | with_reducible apply kept_ite | with_reducible apply kept_refuseSheet | with_reducible apply kept_finishCmd | with_reducible apply kept_hostLinesW | with_reducible apply kept_nextFree | with_reducible apply kept_refuseView | with_reducible apply kept_refuseJob | split)

theorem kept_execHostAccessRefused {z : State} (ring slot : Nat) (s : State) (hz : Kept z s) : ∀ zt, execHostAccessRefused ring slot s = .next zt → Kept z zt := by
  intro zt e
  unfold execHostAccessRefused at e
  injection e with e
  subst e
  try dsimp only
  repeat' (first | (intro _) | with_reducible assumption | with_reducible apply kept_ite | with_reducible apply kept_hostAccessRefused | (with_reducible first | apply kept_mk | apply kept_mem); first | (intro _) | with_reducible assumption | with_reducible apply kept_ite | with_reducible apply kept_hostAccessRefused | split)

theorem kept_loadCore {z : State} (x : Loaded) (s : State) (c : Nat) (hz : Kept z s) : Kept z (loadCore x s c) := by
  unfold loadCore
  try dsimp only
  repeat' (first | (intro _) | with_reducible assumption | with_reducible apply kept_ite | with_reducible apply kept_foldl | with_reducible apply kept_foldl_fst | with_reducible apply kept_updCore | (with_reducible first | apply kept_mk | apply kept_mem); first | (intro _) | with_reducible assumption | with_reducible apply kept_ite | with_reducible apply kept_foldl | with_reducible apply kept_foldl_fst | with_reducible apply kept_updCore | split)

theorem kept_finishLoad {z : State} (s : State) (ring slot : Nat) (d : Line) (x : Loaded) (hz : Kept z s) : Kept z (finishLoad s ring slot d x) := by
  unfold finishLoad
  try dsimp only
  repeat' (first | (intro _) | with_reducible assumption | with_reducible apply kept_ite | with_reducible apply kept_foldl | with_reducible apply kept_foldl_fst | with_reducible apply kept_finishCmd | with_reducible apply kept_loadCore | (with_reducible first | apply kept_mk | apply kept_mem); first | (intro _) | with_reducible assumption | with_reducible apply kept_ite | with_reducible apply kept_foldl | with_reducible apply kept_foldl_fst | with_reducible apply kept_finishCmd | with_reducible apply kept_loadCore | split)

theorem kept_loadProgram {z : State} (s : State) (ring slot : Nat) (d : Line) (hz : Kept z s) : Kept z (loadProgram s ring slot d) := by
  unfold loadProgram
  try dsimp only
  repeat' (first | (intro _) | with_reducible assumption | with_reducible apply kept_ite | with_reducible apply kept_checked | with_reducible apply kept_recallFromHost | with_reducible apply kept_finishCmd | with_reducible apply kept_countRead | with_reducible apply kept_finishLoad | (with_reducible first | apply kept_mk | apply kept_mem); first | (intro _) | with_reducible assumption | with_reducible apply kept_ite | with_reducible apply kept_checked | with_reducible apply kept_recallFromHost | with_reducible apply kept_finishCmd | with_reducible apply kept_countRead | with_reducible apply kept_finishLoad | split)

theorem kept_execLoadProgram {z : State} (ring slot : Nat) (s : State) (hz : Kept z s) : ∀ zt, execLoadProgram ring slot s = .next zt → Kept z zt := by
  intro zt e
  unfold execLoadProgram at e
  injection e with e
  subst e
  try dsimp only
  repeat' (first | (intro _) | with_reducible assumption | with_reducible apply kept_ite | with_reducible apply kept_withCmd | with_reducible apply kept_loadProgram | (with_reducible first | apply kept_mk | apply kept_mem); first | (intro _) | with_reducible assumption | with_reducible apply kept_ite | with_reducible apply kept_withCmd | with_reducible apply kept_loadProgram | split)

theorem kept_setMap {z : State} (s : State) (ring slot : Nat) (l : List Nat) (hz : Kept z s) : Kept z (setMap s ring slot l) := by
  unfold setMap
  try dsimp only
  repeat' (first | (intro _) | with_reducible assumption | with_reducible apply kept_ite | with_reducible apply kept_setCmds | (with_reducible first | apply kept_mk | apply kept_mem); first | (intro _) | with_reducible assumption | with_reducible apply kept_ite | with_reducible apply kept_setCmds | split)

theorem kept_awaitCores {z : State} (s : State) (ring slot : Nat) (l : List Nat) (hz : Kept z s) : Kept z (awaitCores s ring slot l) := by
  unfold awaitCores
  try dsimp only
  repeat' (first | (intro _) | with_reducible assumption | with_reducible apply kept_ite | with_reducible apply kept_setPhase | with_reducible apply kept_setMap | (with_reducible first | apply kept_mk | apply kept_mem); first | (intro _) | with_reducible assumption | with_reducible apply kept_ite | with_reducible apply kept_setPhase | with_reducible apply kept_setMap | split)

theorem kept_takeMap {z : State} (s : State) (ring slot : Nat) (l : List Nat) (hz : Kept z s) : Kept z (takeMap s ring slot l) := by
  unfold takeMap
  try dsimp only
  repeat' (first | (intro _) | with_reducible assumption | with_reducible apply kept_ite | with_reducible apply kept_checked | with_reducible apply kept_awaitCores | (with_reducible first | apply kept_mk | apply kept_mem); first | (intro _) | with_reducible assumption | with_reducible apply kept_ite | with_reducible apply kept_checked | with_reducible apply kept_awaitCores | split)

theorem kept_launch {z : State} (s : State) (ring slot : Nat) (d : Line) (hz : Kept z s) : Kept z (launch s ring slot d) := by
  unfold launch
  try dsimp only
  repeat' (first | (intro _) | with_reducible assumption | with_reducible apply kept_ite | with_reducible apply kept_checked | with_reducible apply kept_recallFromHost | with_reducible apply kept_finishCmd | with_reducible apply kept_takeMap | with_reducible apply kept_awaitCores | (with_reducible first | apply kept_mk | apply kept_mem); first | (intro _) | with_reducible assumption | with_reducible apply kept_ite | with_reducible apply kept_checked | with_reducible apply kept_recallFromHost | with_reducible apply kept_finishCmd | with_reducible apply kept_takeMap | with_reducible apply kept_awaitCores | split)

theorem kept_execLaunch {z : State} (ring slot : Nat) (s : State) (hz : Kept z s) : ∀ zt, execLaunch ring slot s = .next zt → Kept z zt := by
  intro zt e
  unfold execLaunch at e
  injection e with e
  subst e
  try dsimp only
  repeat' (first | (intro _) | with_reducible assumption | with_reducible apply kept_ite | with_reducible apply kept_withCmd | with_reducible apply kept_launch | (with_reducible first | apply kept_mk | apply kept_mem); first | (intro _) | with_reducible assumption | with_reducible apply kept_ite | with_reducible apply kept_withCmd | with_reducible apply kept_launch | split)

theorem kept_startCore {z : State} (d : Line) (ring slot : Nat) (s : State) (t c : Nat) (hz : Kept z s) : Kept z (startCore d ring slot s t c) := by
  unfold startCore
  try dsimp only
  repeat' (first | (intro _) | with_reducible assumption | with_reducible apply kept_ite | with_reducible apply kept_updCore | (with_reducible first | apply kept_mk | apply kept_mem); first | (intro _) | with_reducible assumption | with_reducible apply kept_ite | with_reducible apply kept_updCore | split)

theorem kept_startTiles {z : State} (d : Line) (ring slot : Nat) (s : State) (y0 : List (Nat × Nat)) (hz : Kept z s) : Kept z (startTiles d ring slot s y0) := by
  induction y0 generalizing d ring slot s with
  | nil =>
    unfold startTiles
    try dsimp only
    repeat' (first | (intro _) | with_reducible assumption | with_reducible apply kept_ite | with_reducible apply kept_startCore | (with_reducible first | apply kept_mk | apply kept_mem); first | (intro _) | with_reducible assumption | with_reducible apply kept_ite | with_reducible apply kept_startCore | split)
  | cons y l ih =>
    unfold startTiles
    try dsimp only
    repeat' (first | with_reducible apply ih | (intro _) | with_reducible assumption | with_reducible apply kept_ite | with_reducible apply kept_startCore | (with_reducible first | apply kept_mk | apply kept_mem); first | with_reducible apply ih | (intro _) | with_reducible assumption | with_reducible apply kept_ite | with_reducible apply kept_startCore | split)

theorem kept_startRun {z : State} (s : State) (ring slot : Nat) (d : Line) (l : List Nat) (write : Bool) (hz : Kept z s) : Kept z (startRun s ring slot d l write) := by
  unfold startRun
  try dsimp only
  repeat' (first | (intro _) | with_reducible assumption | with_reducible apply kept_ite | with_reducible apply kept_wakeUp | with_reducible apply kept_finishCmd | with_reducible apply kept_recallFromHost | with_reducible apply kept_setPhase | with_reducible apply kept_setMap | with_reducible apply kept_writeLinesW | with_reducible apply kept_startTiles | (with_reducible first | apply kept_mk | apply kept_mem); first | (intro _) | with_reducible assumption | with_reducible apply kept_ite | with_reducible apply kept_wakeUp | with_reducible apply kept_finishCmd | with_reducible apply kept_recallFromHost | with_reducible apply kept_setPhase | with_reducible apply kept_setMap | with_reducible apply kept_writeLinesW | with_reducible apply kept_startTiles | split)

theorem kept_coresStart {z : State} (s : State) (ring slot : Nat) (d : Line) (hz : Kept z s) : Kept z (coresStart s ring slot d) := by
  unfold coresStart
  try dsimp only
  repeat' (first | (intro _) | with_reducible assumption | with_reducible apply kept_ite | with_reducible apply kept_startRun | (with_reducible first | apply kept_mk | apply kept_mem); first | (intro _) | with_reducible assumption | with_reducible apply kept_ite | with_reducible apply kept_startRun | split)

theorem kept_execLaunchCoresStart {z : State} (ring slot : Nat) (s : State) (hz : Kept z s) : ∀ zt, execLaunchCoresStart ring slot s = .next zt → Kept z zt := by
  intro zt e
  unfold execLaunchCoresStart at e
  injection e with e
  subst e
  try dsimp only
  repeat' (first | (intro _) | with_reducible assumption | with_reducible apply kept_ite | with_reducible apply kept_withBusy | with_reducible apply kept_coresStart | (with_reducible first | apply kept_mk | apply kept_mem); first | (intro _) | with_reducible assumption | with_reducible apply kept_ite | with_reducible apply kept_withBusy | with_reducible apply kept_coresStart | split)

theorem kept_freeCore {z : State} (s : State) (c : Nat) (hz : Kept z s) : Kept z (freeCore s c) := by
  unfold freeCore
  try dsimp only
  repeat' (first | (intro _) | with_reducible assumption | with_reducible apply kept_ite | with_reducible apply kept_updCore | (with_reducible first | apply kept_mk | apply kept_mem); first | (intro _) | with_reducible assumption | with_reducible apply kept_ite | with_reducible apply kept_updCore | split)

theorem kept_launchComplete {z : State} (s : State) (ring slot : Nat) (hz : Kept z s) : Kept z (launchComplete s ring slot) := by
  unfold launchComplete
  try dsimp only
  repeat' (first | (intro _) | with_reducible assumption | with_reducible apply kept_ite | with_reducible apply kept_foldl | with_reducible apply kept_foldl_fst | with_reducible apply kept_finishCmd | with_reducible apply kept_freeCore | (with_reducible first | apply kept_mk | apply kept_mem); first | (intro _) | with_reducible assumption | with_reducible apply kept_ite | with_reducible apply kept_foldl | with_reducible apply kept_foldl_fst | with_reducible apply kept_finishCmd | with_reducible apply kept_freeCore | split)

theorem kept_execLaunchComplete {z : State} (ring slot : Nat) (s : State) (hz : Kept z s) : ∀ zt, execLaunchComplete ring slot s = .next zt → Kept z zt := by
  intro zt e
  unfold execLaunchComplete at e
  injection e with e
  subst e
  try dsimp only
  repeat' (first | (intro _) | with_reducible assumption | with_reducible apply kept_ite | with_reducible apply kept_withBusy | with_reducible apply kept_launchComplete | (with_reducible first | apply kept_mk | apply kept_mem); first | (intro _) | with_reducible assumption | with_reducible apply kept_ite | with_reducible apply kept_withBusy | with_reducible apply kept_launchComplete | split)

theorem kept_dumpStop {z : State} (s : State) (c : Nat) (hz : Kept z s) : Kept z (dumpStop s c) := by
  unfold dumpStop
  try dsimp only
  repeat' (first | (intro _) | with_reducible assumption | with_reducible apply kept_ite | with_reducible apply kept_writeLinesW | with_reducible apply kept_bump | with_reducible apply kept_nextFree | (with_reducible first | apply kept_mk | apply kept_mem); first | (intro _) | with_reducible assumption | with_reducible apply kept_ite | with_reducible apply kept_writeLinesW | with_reducible apply kept_bump | with_reducible apply kept_nextFree | split)

theorem kept_afterStop {z : State} (s : State) (c : Nat) (hz : Kept z s) : Kept z (afterStop s c) := by
  unfold afterStop
  try dsimp only
  repeat' (first | (intro _) | with_reducible assumption | with_reducible apply kept_ite | with_reducible apply kept_resumeCore | with_reducible apply kept_updCore | (with_reducible first | apply kept_mk | apply kept_mem); first | (intro _) | with_reducible assumption | with_reducible apply kept_ite | with_reducible apply kept_resumeCore | with_reducible apply kept_updCore | split)

theorem kept_coreStopped {z : State} (s : State) (c : Nat) (hz : Kept z s) : Kept z (coreStopped s c) := by
  unfold coreStopped
  try dsimp only
  repeat' (first | (intro _) | with_reducible assumption | with_reducible apply kept_ite | with_reducible apply kept_recallFromHost | with_reducible apply kept_bump | with_reducible apply kept_updCore | with_reducible apply kept_afterStop | with_reducible apply kept_dumpStop | (with_reducible first | apply kept_mk | apply kept_mem); first | (intro _) | with_reducible assumption | with_reducible apply kept_ite | with_reducible apply kept_recallFromHost | with_reducible apply kept_bump | with_reducible apply kept_updCore | with_reducible apply kept_afterStop | with_reducible apply kept_dumpStop | split)

theorem kept_execCoreResume {z : State} (c : Nat) (s : State) (hz : Kept z s) : ∀ zt, execCoreResume c s = .next zt → Kept z zt := by
  intro zt e
  unfold execCoreResume at e
  injection e with e
  subst e
  try dsimp only
  repeat' (first | (intro _) | with_reducible assumption | with_reducible apply kept_ite | with_reducible apply kept_resumeCore | (with_reducible first | apply kept_mk | apply kept_mem); first | (intro _) | with_reducible assumption | with_reducible apply kept_ite | with_reducible apply kept_resumeCore | split)

theorem kept_execCoreStopped {z : State} (c : Nat) (s : State) (hz : Kept z s) : ∀ zt, execCoreStopped c s = .next zt → Kept z zt := by
  intro zt e
  unfold execCoreStopped at e
  injection e with e
  subst e
  try dsimp only
  repeat' (first | (intro _) | with_reducible assumption | with_reducible apply kept_ite | with_reducible apply kept_coreStopped | (with_reducible first | apply kept_mk | apply kept_mem); first | (intro _) | with_reducible assumption | with_reducible apply kept_ite | with_reducible apply kept_coreStopped | split)

end Sys2Proof.Machine
end

