-- ==== Sys2Proof/Laws/KeptSystem.lean ====
section
/-!
SUPPORT. The host, power, bring-up, security, debug and the registers: each keeps the queue, the fuses and used indices, and the canonical form of memory.
-/
namespace Sys2Proof.Machine

set_option linter.unusedTactic false
set_option linter.unreachableTactic false

theorem kept_hdmWait {z : State} (s : State) (hz : Kept z s) : Kept z (hdmWait s) := by
  unfold hdmWait
  try dsimp only
  repeat' (first | (intro _) | with_reducible assumption | with_reducible apply kept_ite | with_reducible apply kept_wakeUp | (with_reducible first | apply kept_mk | apply kept_mem); first | (intro _) | with_reducible assumption | with_reducible apply kept_ite | with_reducible apply kept_wakeUp | split)

theorem kept_hdmTranslate {z : State} (s : State) (b : Nat) (hz : Kept z s) : ∀ t, hdmTranslate s b = some t → Kept z t := by
  intro zt e
  unfold hdmTranslate at e
  try dsimp only at e
  repeat' (split at e)
  all_goals first | (injection e with e; subst e) | (unfold illFormed at e; cases e; done) | simp at e
  all_goals (try dsimp only)
  all_goals repeat' (first | (intro _) | with_reducible assumption | with_reducible apply kept_ite | with_reducible apply kept_replaceMtc | (with_reducible first | apply kept_mk | apply kept_mem); first | (intro _) | with_reducible assumption | with_reducible apply kept_ite | with_reducible apply kept_replaceMtc | split)

theorem kept_hdmDiscard {z : State} (s : State) (addr : Nat) (hz : Kept z s) : Kept z (hdmDiscard s addr) := by
  unfold hdmDiscard
  try dsimp only
  repeat' (first | (intro _) | with_reducible assumption | with_reducible apply kept_ite | with_reducible apply kept_bump | (with_reducible first | apply kept_mk | apply kept_mem); first | (intro _) | with_reducible assumption | with_reducible apply kept_ite | with_reducible apply kept_bump | split)

theorem kept_record {z : State} (s : State) (line : Nat) (hz : Kept z s) : Kept z (record s line) := by
  unfold record
  try dsimp only
  repeat' (first | (intro _) | with_reducible assumption | with_reducible apply kept_ite | (with_reducible first | apply kept_mk | apply kept_mem); first | (intro _) | with_reducible assumption | with_reducible apply kept_ite | split)

theorem kept_hdmAnswer {z : State} (s : State) (addr : Nat) (cacheable : Bool) (hz : Kept z s) : Kept z (hdmAnswer s addr cacheable) := by
  unfold hdmAnswer
  try dsimp only
  repeat' (first | (intro _) | with_reducible assumption | with_reducible apply kept_ite | with_reducible apply kept_record | with_reducible apply kept_bump | (with_reducible first | apply kept_mk | apply kept_mem); first | (intro _) | with_reducible assumption | with_reducible apply kept_ite | with_reducible apply kept_record | with_reducible apply kept_bump | split)

theorem kept_hdmRead {z : State} (s : State) (addr : Nat) (cacheable : Bool) (hz : Kept z s) : Kept z (hdmRead s addr cacheable) := by
  unfold hdmRead
  try dsimp only
  repeat' (first | (intro _) | with_reducible assumption | with_reducible apply kept_ite | with_reducible apply kept_hdmWait | with_reducible apply kept_sendBisnp | with_reducible apply kept_hdmAnswer | with_reducible apply kept_bump | (with_reducible refine kept_hdmTranslate _ _ ?_ _ (by assumption)) | with_reducible apply kept_askDirectory | (with_reducible first | apply kept_mk | apply kept_mem); first | (intro _) | with_reducible assumption | with_reducible apply kept_ite | with_reducible apply kept_hdmWait | with_reducible apply kept_sendBisnp | with_reducible apply kept_hdmAnswer | with_reducible apply kept_bump | (with_reducible refine kept_hdmTranslate _ _ ?_ _ (by assumption)) | with_reducible apply kept_askDirectory | split)

theorem kept_execHdmRead {z : State} (addr : Nat) (cacheable : Bool) (s : State) (hz : Kept z s) : ∀ zt, execHdmRead addr cacheable s = .next zt → Kept z zt := by
  intro zt e
  unfold execHdmRead at e
  injection e with e
  subst e
  try dsimp only
  repeat' (first | (intro _) | with_reducible assumption | with_reducible apply kept_ite | with_reducible apply kept_hdmRead | (with_reducible first | apply kept_mk | apply kept_mem); first | (intro _) | with_reducible assumption | with_reducible apply kept_ite | with_reducible apply kept_hdmRead | split)

theorem kept_hdmWrite {z : State} (s : State) (addr : Nat) (data : Line) (mask : BitVec 64) (hz : Kept z s) : Kept z (hdmWrite s addr data mask) := by
  unfold hdmWrite
  try dsimp only
  repeat' (first | (intro _) | with_reducible assumption | with_reducible apply kept_ite | with_reducible apply kept_hdmWait | (with_reducible refine kept_autoMap _ _ ?_ _ (by assumption)) | with_reducible apply kept_bump | with_reducible apply kept_writeLineMasked | with_reducible apply kept_hdmDiscard | (with_reducible refine kept_hdmTranslate _ _ ?_ _ (by assumption)) | with_reducible apply kept_askDirectory | (with_reducible first | apply kept_mk | apply kept_mem); first | (intro _) | with_reducible assumption | with_reducible apply kept_ite | with_reducible apply kept_hdmWait | (with_reducible refine kept_autoMap _ _ ?_ _ (by assumption)) | with_reducible apply kept_bump | with_reducible apply kept_writeLineMasked | with_reducible apply kept_hdmDiscard | (with_reducible refine kept_hdmTranslate _ _ ?_ _ (by assumption)) | with_reducible apply kept_askDirectory | split)

theorem kept_execHdmWrite {z : State} (addr : Nat) (data : Line) (mask : BitVec 64) (s : State) (hz : Kept z s) : ∀ zt, execHdmWrite addr data mask s = .next zt → Kept z zt := by
  intro zt e
  unfold execHdmWrite at e
  injection e with e
  subst e
  try dsimp only
  repeat' (first | (intro _) | with_reducible assumption | with_reducible apply kept_ite | with_reducible apply kept_hdmWrite | (with_reducible first | apply kept_mk | apply kept_mem); first | (intro _) | with_reducible assumption | with_reducible apply kept_ite | with_reducible apply kept_hdmWrite | split)

theorem kept_bisnpResponse {z : State} (s : State) (line : Nat) (dirty : Option Line) (hz : Kept z s) : Kept z (bisnpResponse s line dirty) := by
  unfold bisnpResponse
  try dsimp only
  repeat' (first | (intro _) | with_reducible assumption | with_reducible apply kept_ite | with_reducible apply kept_pumpLog | (with_reducible refine kept_autoMap _ _ ?_ _ (by assumption)) | with_reducible apply kept_writeLine | with_reducible apply kept_hdmDiscard | (with_reducible first | apply kept_mk | apply kept_mem); first | (intro _) | with_reducible assumption | with_reducible apply kept_ite | with_reducible apply kept_pumpLog | (with_reducible refine kept_autoMap _ _ ?_ _ (by assumption)) | with_reducible apply kept_writeLine | with_reducible apply kept_hdmDiscard | split)

theorem kept_execBisnpResponse {z : State} (line : Nat) (dirty : Option Line) (s : State) (hz : Kept z s) : ∀ zt, execBisnpResponse line dirty s = .next zt → Kept z zt := by
  intro zt e
  unfold execBisnpResponse at e
  injection e with e
  subst e
  try dsimp only
  repeat' (first | (intro _) | with_reducible assumption | with_reducible apply kept_ite | with_reducible apply kept_bisnpResponse | (with_reducible first | apply kept_mk | apply kept_mem); first | (intro _) | with_reducible assumption | with_reducible apply kept_ite | with_reducible apply kept_bisnpResponse | split)

theorem kept_execAtsInvalidation {z : State} (tag : Nat) (pages : List Nat) (s : State) (hz : Kept z s) : ∀ zt, execAtsInvalidation tag pages s = .next zt → Kept z zt := by
  intro zt e
  unfold execAtsInvalidation at e
  injection e with e
  subst e
  try dsimp only
  repeat' (first | (intro _) | with_reducible assumption | with_reducible apply kept_ite | (with_reducible first | apply kept_mk | apply kept_mem); first | (intro _) | with_reducible assumption | with_reducible apply kept_ite | split)

theorem kept_configurationRequest {z : State} (s : State) (fn reg : Nat) (hz : Kept z s) : Kept z (configurationRequest s fn reg) := by
  unfold configurationRequest
  try dsimp only
  repeat' (first | (intro _) | with_reducible assumption | with_reducible apply kept_ite | (with_reducible first | apply kept_mk | apply kept_mem); first | (intro _) | with_reducible assumption | with_reducible apply kept_ite | split)

theorem kept_execConfigurationRequest {z : State} (fn reg : Nat) (s : State) (hz : Kept z s) : ∀ zt, execConfigurationRequest fn reg s = .next zt → Kept z zt := by
  intro zt e
  unfold execConfigurationRequest at e
  injection e with e
  subst e
  try dsimp only
  repeat' (first | (intro _) | with_reducible assumption | with_reducible apply kept_ite | with_reducible apply kept_configurationRequest | (with_reducible first | apply kept_mk | apply kept_mem); first | (intro _) | with_reducible assumption | with_reducible apply kept_ite | with_reducible apply kept_configurationRequest | split)

theorem kept_flrState {z : State} (s : State) (h : Kept z s) : Kept z (flrState s) := by
  exact ⟨h.1, h.2.1, fun _ => rfl⟩

theorem kept_functionLevelReset {z : State} (s : State) (hz : Kept z s) : Kept z (functionLevelReset s) := by
  unfold functionLevelReset
  try dsimp only
  repeat' (first | (intro _) | with_reducible assumption | with_reducible apply kept_ite | with_reducible apply kept_foldl | with_reducible apply kept_foldl_fst | with_reducible apply kept_freeCredits | with_reducible apply kept_freeHeld | with_reducible apply kept_flrState | (with_reducible first | apply kept_mk | apply kept_mem); first | (intro _) | with_reducible assumption | with_reducible apply kept_ite | with_reducible apply kept_foldl | with_reducible apply kept_foldl_fst | with_reducible apply kept_freeCredits | with_reducible apply kept_freeHeld | with_reducible apply kept_flrState | split)

theorem kept_execFunctionLevelReset {z : State} (s : State) (hz : Kept z s) : ∀ zt, execFunctionLevelReset s = .next zt → Kept z zt := by
  intro zt e
  unfold execFunctionLevelReset at e
  injection e with e
  subst e
  try dsimp only
  repeat' (first | (intro _) | with_reducible assumption | with_reducible apply kept_ite | with_reducible apply kept_functionLevelReset | (with_reducible first | apply kept_mk | apply kept_mem); first | (intro _) | with_reducible assumption | with_reducible apply kept_ite | with_reducible apply kept_functionLevelReset | split)

theorem kept_perstAssert {z : State} (s : State) (hz : Kept z s) : Kept z (perstAssert s) := by
  unfold perstAssert
  try dsimp only
  repeat' (first | (intro _) | with_reducible assumption | with_reducible apply kept_ite | with_reducible apply kept_functionLevelReset | (with_reducible first | apply kept_mk | apply kept_mem); first | (intro _) | with_reducible assumption | with_reducible apply kept_ite | with_reducible apply kept_functionLevelReset | split)

theorem kept_execPerst {z : State} (s : State) (hz : Kept z s) : ∀ zt, execPerst s = .next zt → Kept z zt := by
  intro zt e
  unfold execPerst at e
  injection e with e
  subst e
  try dsimp only
  repeat' (first | (intro _) | with_reducible assumption | with_reducible apply kept_ite | with_reducible apply kept_perstAssert | (with_reducible first | apply kept_mk | apply kept_mem); first | (intro _) | with_reducible assumption | with_reducible apply kept_ite | with_reducible apply kept_perstAssert | split)

theorem kept_perstRelease {z : State} (s : State) (hz : Kept z s) : Kept z (perstRelease s) := by
  unfold perstRelease
  try dsimp only
  repeat' (first | (intro _) | with_reducible assumption | with_reducible apply kept_ite | (with_reducible first | apply kept_mk | apply kept_mem); first | (intro _) | with_reducible assumption | with_reducible apply kept_ite | split)

theorem kept_execPerstRelease {z : State} (s : State) (hz : Kept z s) : ∀ zt, execPerstRelease s = .next zt → Kept z zt := by
  intro zt e
  unfold execPerstRelease at e
  injection e with e
  subst e
  try dsimp only
  repeat' (first | (intro _) | with_reducible assumption | with_reducible apply kept_ite | with_reducible apply kept_perstRelease | (with_reducible first | apply kept_mk | apply kept_mem); first | (intro _) | with_reducible assumption | with_reducible apply kept_ite | with_reducible apply kept_perstRelease | split)

theorem kept_beginEntry {z : State} (s : State) (target : Nat) (hz : Kept z s) : Kept z (beginEntry s target) := by
  unfold beginEntry
  try dsimp only
  repeat' (first | (intro _) | with_reducible assumption | with_reducible apply kept_ite | (with_reducible first | apply kept_mk | apply kept_mem); first | (intro _) | with_reducible assumption | with_reducible apply kept_ite | split)

theorem kept_beginExit {z : State} (s : State) (next : Nat) (hz : Kept z s) : Kept z (beginExit s next) := by
  unfold beginExit
  try dsimp only
  repeat' (first | (intro _) | with_reducible assumption | with_reducible apply kept_ite | (with_reducible first | apply kept_mk | apply kept_mem); first | (intro _) | with_reducible assumption | with_reducible apply kept_ite | split)

theorem kept_powerDone {z : State} (s : State) (st : Status) (info : BitVec 64) (hz : Kept z s) : Kept z (powerDone s st info) := by
  unfold powerDone
  try dsimp only
  repeat' (first | (intro _) | with_reducible assumption | with_reducible apply kept_ite | with_reducible apply kept_finishCmd | (with_reducible first | apply kept_mk | apply kept_mem); first | (intro _) | with_reducible assumption | with_reducible apply kept_ite | with_reducible apply kept_finishCmd | split)

theorem kept_powerGo {z : State} (s : State) (ring slot target : Nat) (hz : Kept z s) : Kept z (powerGo s ring slot target) := by
  unfold powerGo
  try dsimp only
  repeat' (first | (intro _) | with_reducible assumption | with_reducible apply kept_ite | with_reducible apply kept_finishCmd | with_reducible apply kept_beginEntry | with_reducible apply kept_setPhase | with_reducible apply kept_beginExit | (with_reducible first | apply kept_mk | apply kept_mem); first | (intro _) | with_reducible assumption | with_reducible apply kept_ite | with_reducible apply kept_finishCmd | with_reducible apply kept_beginEntry | with_reducible apply kept_setPhase | with_reducible apply kept_beginExit | split)

theorem kept_powerCmd {z : State} (s : State) (ring slot : Nat) (d : Line) (hz : Kept z s) : Kept z (powerCmd s ring slot d) := by
  unfold powerCmd
  try dsimp only
  repeat' (first | (intro _) | with_reducible assumption | with_reducible apply kept_ite | with_reducible apply kept_checked | with_reducible apply kept_powerGo | (with_reducible first | apply kept_mk | apply kept_mem); first | (intro _) | with_reducible assumption | with_reducible apply kept_ite | with_reducible apply kept_checked | with_reducible apply kept_powerGo | split)

theorem kept_execPowerD0 {z : State} (ring slot : Nat) (s : State) (hz : Kept z s) : ∀ zt, execPowerD0 ring slot s = .next zt → Kept z zt := by
  intro zt e
  unfold execPowerD0 at e
  injection e with e
  subst e
  try dsimp only
  repeat' (first | (intro _) | with_reducible assumption | with_reducible apply kept_ite | with_reducible apply kept_withCmd | with_reducible apply kept_powerCmd | (with_reducible first | apply kept_mk | apply kept_mem); first | (intro _) | with_reducible assumption | with_reducible apply kept_ite | with_reducible apply kept_withCmd | with_reducible apply kept_powerCmd | split)

theorem kept_execPowerEnter {z : State} (ring slot : Nat) (s : State) (hz : Kept z s) : ∀ zt, execPowerEnter ring slot s = .next zt → Kept z zt := by
  intro zt e
  unfold execPowerEnter at e
  injection e with e
  subst e
  try dsimp only
  repeat' (first | (intro _) | with_reducible assumption | with_reducible apply kept_ite | with_reducible apply kept_withCmd | with_reducible apply kept_powerCmd | (with_reducible first | apply kept_mk | apply kept_mem); first | (intro _) | with_reducible assumption | with_reducible apply kept_ite | with_reducible apply kept_withCmd | with_reducible apply kept_powerCmd | split)

theorem kept_resumeFaults {z : State} (s : State) (hz : Kept z s) : Kept z (resumeFaults s) := by
  unfold resumeFaults
  try dsimp only
  repeat' (first | (intro _) | with_reducible assumption | with_reducible apply kept_ite | with_reducible apply kept_foldl | with_reducible apply kept_foldl_fst | with_reducible apply kept_resolveFaults | (with_reducible first | apply kept_mk | apply kept_mem); first | (intro _) | with_reducible assumption | with_reducible apply kept_ite | with_reducible apply kept_foldl | with_reducible apply kept_foldl_fst | with_reducible apply kept_resolveFaults | split)

theorem kept_wakeHeld {z : State} (s : State) (hz : Kept z s) : Kept z (wakeHeld s) := by
  unfold wakeHeld
  try dsimp only
  repeat' (first | (intro _) | with_reducible assumption | with_reducible apply kept_ite | with_reducible apply kept_pumpReplay | with_reducible apply kept_freeCredits | with_reducible apply kept_pumpRoutes | with_reducible apply kept_resumeFaults | (with_reducible first | apply kept_mk | apply kept_mem); first | (intro _) | with_reducible assumption | with_reducible apply kept_ite | with_reducible apply kept_pumpReplay | with_reducible apply kept_freeCredits | with_reducible apply kept_pumpRoutes | with_reducible apply kept_resumeFaults | split)

theorem kept_cancelEntry {z : State} (s : State) (block reason : Nat) (hz : Kept z s) : Kept z (cancelEntry s block reason) := by
  unfold cancelEntry
  try dsimp only
  repeat' (first | (intro _) | with_reducible assumption | with_reducible apply kept_ite | with_reducible apply kept_wakeHeld | with_reducible apply kept_powerDone | with_reducible apply kept_wakeUp | (with_reducible first | apply kept_mk | apply kept_mem); first | (intro _) | with_reducible assumption | with_reducible apply kept_ite | with_reducible apply kept_wakeHeld | with_reducible apply kept_powerDone | with_reducible apply kept_wakeUp | split)

theorem kept_takeAck {z : State} (s : State) (block : Nat) (hz : Kept z s) : Kept z (takeAck s block) := by
  unfold takeAck
  try dsimp only
  repeat' (first | (intro _) | with_reducible assumption | with_reducible apply kept_ite | (with_reducible first | apply kept_mk | apply kept_mem); first | (intro _) | with_reducible assumption | with_reducible apply kept_ite | split)

theorem kept_cleanMeanwhile {z : State} (s : State) (block : Nat) (hz : Kept z s) : Kept z (cleanMeanwhile s block) := by
  unfold cleanMeanwhile
  try dsimp only
  repeat' (first | (intro _) | with_reducible assumption | with_reducible apply kept_ite | with_reducible apply kept_cleanSlice | (with_reducible first | apply kept_mk | apply kept_mem); first | (intro _) | with_reducible assumption | with_reducible apply kept_ite | with_reducible apply kept_cleanSlice | split)

theorem kept_powerAnswer {z : State} (s : State) (block : Nat) (ans : PwrAnswer) (hz : Kept z s) : Kept z (powerAnswer s block ans) := by
  unfold powerAnswer
  try dsimp only
  repeat' (first | (intro _) | with_reducible assumption | with_reducible apply kept_ite | with_reducible apply kept_takeAck | with_reducible apply kept_cleanMeanwhile | with_reducible apply kept_cancelEntry | with_reducible apply kept_bump | (with_reducible first | apply kept_mk | apply kept_mem); first | (intro _) | with_reducible assumption | with_reducible apply kept_ite | with_reducible apply kept_takeAck | with_reducible apply kept_cleanMeanwhile | with_reducible apply kept_cancelEntry | with_reducible apply kept_bump | split)

theorem kept_execPowerAnswer {z : State} (block : Nat) (ans : PwrAnswer) (s : State) (hz : Kept z s) : ∀ zt, execPowerAnswer block ans s = .next zt → Kept z zt := by
  intro zt e
  unfold execPowerAnswer at e
  injection e with e
  subst e
  try dsimp only
  repeat' (first | (intro _) | with_reducible assumption | with_reducible apply kept_ite | with_reducible apply kept_powerAnswer | (with_reducible first | apply kept_mk | apply kept_mem); first | (intro _) | with_reducible assumption | with_reducible apply kept_ite | with_reducible apply kept_powerAnswer | split)

theorem kept_entryLimitTimeout {z : State} (s : State) (hz : Kept z s) : Kept z (entryLimitTimeout s) := by
  unfold entryLimitTimeout
  try dsimp only
  repeat' (first | (intro _) | with_reducible assumption | with_reducible apply kept_ite | with_reducible apply kept_cancelEntry | with_reducible apply kept_bump | (with_reducible first | apply kept_mk | apply kept_mem); first | (intro _) | with_reducible assumption | with_reducible apply kept_ite | with_reducible apply kept_cancelEntry | with_reducible apply kept_bump | split)

theorem kept_execEntryLimitTimeout {z : State} (s : State) (hz : Kept z s) : ∀ zt, execEntryLimitTimeout s = .next zt → Kept z zt := by
  intro zt e
  unfold execEntryLimitTimeout at e
  injection e with e
  subst e
  try dsimp only
  repeat' (first | (intro _) | with_reducible assumption | with_reducible apply kept_ite | with_reducible apply kept_entryLimitTimeout | (with_reducible first | apply kept_mk | apply kept_mem); first | (intro _) | with_reducible assumption | with_reducible apply kept_ite | with_reducible apply kept_entryLimitTimeout | split)

theorem kept_powerStateReached {z : State} (s : State) (hz : Kept z s) : Kept z (powerStateReached s) := by
  unfold powerStateReached
  try dsimp only
  repeat' (first | (intro _) | with_reducible assumption | with_reducible apply kept_ite | with_reducible apply kept_powerDone | with_reducible apply kept_bump | with_reducible apply kept_beginExit | with_reducible apply kept_pumpReplay | (with_reducible first | apply kept_mk | apply kept_mem); first | (intro _) | with_reducible assumption | with_reducible apply kept_ite | with_reducible apply kept_powerDone | with_reducible apply kept_bump | with_reducible apply kept_beginExit | with_reducible apply kept_pumpReplay | split)

theorem kept_execPowerStateReached {z : State} (s : State) (hz : Kept z s) : ∀ zt, execPowerStateReached s = .next zt → Kept z zt := by
  intro zt e
  unfold execPowerStateReached at e
  injection e with e
  subst e
  try dsimp only
  repeat' (first | (intro _) | with_reducible assumption | with_reducible apply kept_ite | with_reducible apply kept_powerStateReached | (with_reducible first | apply kept_mk | apply kept_mem); first | (intro _) | with_reducible assumption | with_reducible apply kept_ite | with_reducible apply kept_powerStateReached | split)

theorem kept_execWake {z : State} (ev : WakeEv) (s : State) (hz : Kept z s) : ∀ zt, execWake ev s = .next zt → Kept z zt := by
  intro zt e
  unfold execWake at e
  injection e with e
  subst e
  try dsimp only
  repeat' (first | (intro _) | with_reducible assumption | with_reducible apply kept_ite | with_reducible apply kept_wakeUp | (with_reducible first | apply kept_mk | apply kept_mem); first | (intro _) | with_reducible assumption | with_reducible apply kept_ite | with_reducible apply kept_wakeUp | split)

theorem kept_computeReset {z : State} (s : State) (hz : Kept z s) : Kept z (computeReset s) := by
  unfold computeReset
  try dsimp only
  repeat' (first | (intro _) | with_reducible assumption | with_reducible apply kept_ite | with_reducible apply kept_foldl | with_reducible apply kept_foldl_fst | (with_reducible first | apply kept_mk | apply kept_mem); first | (intro _) | with_reducible assumption | with_reducible apply kept_ite | with_reducible apply kept_foldl | with_reducible apply kept_foldl_fst | split)

theorem kept_exitComplete {z : State} (s : State) (hz : Kept z s) : Kept z (exitComplete s) := by
  unfold exitComplete
  try dsimp only
  repeat' (first | (intro _) | with_reducible assumption | with_reducible apply kept_ite | with_reducible apply kept_computeReset | with_reducible apply kept_wakeHeld | with_reducible apply kept_powerDone | with_reducible apply kept_beginEntry | (with_reducible first | apply kept_mk | apply kept_mem); first | (intro _) | with_reducible assumption | with_reducible apply kept_ite | with_reducible apply kept_computeReset | with_reducible apply kept_wakeHeld | with_reducible apply kept_powerDone | with_reducible apply kept_beginEntry | split)

theorem kept_execExitComplete {z : State} (s : State) (hz : Kept z s) : ∀ zt, execExitComplete s = .next zt → Kept z zt := by
  intro zt e
  unfold execExitComplete at e
  injection e with e
  subst e
  try dsimp only
  repeat' (first | (intro _) | with_reducible assumption | with_reducible apply kept_ite | with_reducible apply kept_exitComplete | (with_reducible first | apply kept_mk | apply kept_mem); first | (intro _) | with_reducible assumption | with_reducible apply kept_ite | with_reducible apply kept_exitComplete | split)

theorem kept_governorSample {z : State} (s : State) (watts tj : Nat) (hz : Kept z s) : Kept z (governorSample s watts tj) := by
  unfold governorSample
  try dsimp only
  repeat' (first | (intro _) | with_reducible assumption | with_reducible apply kept_ite | with_reducible apply kept_foldl | with_reducible apply kept_foldl_fst | (with_reducible first | apply kept_mk | apply kept_mem); first | (intro _) | with_reducible assumption | with_reducible apply kept_ite | with_reducible apply kept_foldl | with_reducible apply kept_foldl_fst | split)

theorem kept_execGovernorSample {z : State} (watts tj : Nat) (s : State) (hz : Kept z s) : ∀ zt, execGovernorSample watts tj s = .next zt → Kept z zt := by
  intro zt e
  unfold execGovernorSample at e
  injection e with e
  subst e
  try dsimp only
  repeat' (first | (intro _) | with_reducible assumption | with_reducible apply kept_ite | with_reducible apply kept_governorSample | (with_reducible first | apply kept_mk | apply kept_mem); first | (intro _) | with_reducible assumption | with_reducible apply kept_ite | with_reducible apply kept_governorSample | split)

theorem kept_governorAdjust {z : State} (s : State) (hz : Kept z s) : Kept z (governorAdjust s) := by
  unfold governorAdjust
  try dsimp only
  repeat' (first | (intro _) | with_reducible assumption | with_reducible apply kept_ite | with_reducible apply kept_bump | (with_reducible first | apply kept_mk | apply kept_mem); first | (intro _) | with_reducible assumption | with_reducible apply kept_ite | with_reducible apply kept_bump | split)

theorem kept_execGovernorAdjust {z : State} (s : State) (hz : Kept z s) : ∀ zt, execGovernorAdjust s = .next zt → Kept z zt := by
  intro zt e
  unfold execGovernorAdjust at e
  injection e with e
  subst e
  try dsimp only
  repeat' (first | (intro _) | with_reducible assumption | with_reducible apply kept_ite | with_reducible apply kept_governorAdjust | (with_reducible first | apply kept_mk | apply kept_mem); first | (intro _) | with_reducible assumption | with_reducible apply kept_ite | with_reducible apply kept_governorAdjust | split)

theorem kept_fastClamp {z : State} (s : State) (hz : Kept z s) : Kept z (fastClamp s) := by
  unfold fastClamp
  try dsimp only
  repeat' (first | (intro _) | with_reducible assumption | with_reducible apply kept_ite | with_reducible apply kept_bump | (with_reducible first | apply kept_mk | apply kept_mem); first | (intro _) | with_reducible assumption | with_reducible apply kept_ite | with_reducible apply kept_bump | split)

theorem kept_execFastClamp {z : State} (s : State) (hz : Kept z s) : ∀ zt, execFastClamp s = .next zt → Kept z zt := by
  intro zt e
  unfold execFastClamp at e
  injection e with e
  subst e
  try dsimp only
  repeat' (first | (intro _) | with_reducible assumption | with_reducible apply kept_ite | with_reducible apply kept_fastClamp | (with_reducible first | apply kept_mk | apply kept_mem); first | (intro _) | with_reducible assumption | with_reducible apply kept_ite | with_reducible apply kept_fastClamp | split)

theorem kept_tokenRefill {z : State} (s : State) (hz : Kept z s) : Kept z (tokenRefill s) := by
  unfold tokenRefill
  try dsimp only
  repeat' (first | (intro _) | with_reducible assumption | with_reducible apply kept_ite | with_reducible apply kept_foldl | with_reducible apply kept_foldl_fst | with_reducible apply kept_updCore | (with_reducible first | apply kept_mk | apply kept_mem); first | (intro _) | with_reducible assumption | with_reducible apply kept_ite | with_reducible apply kept_foldl | with_reducible apply kept_foldl_fst | with_reducible apply kept_updCore | split)

theorem kept_execTokenRefill {z : State} (s : State) (hz : Kept z s) : ∀ zt, execTokenRefill s = .next zt → Kept z zt := by
  intro zt e
  unfold execTokenRefill at e
  injection e with e
  subst e
  try dsimp only
  repeat' (first | (intro _) | with_reducible assumption | with_reducible apply kept_ite | with_reducible apply kept_tokenRefill | (with_reducible first | apply kept_mk | apply kept_mem); first | (intro _) | with_reducible assumption | with_reducible apply kept_ite | with_reducible apply kept_tokenRefill | split)

theorem kept_offState {z : State} (s : State) (h : Kept z s) : Kept z (offState s) := by
  exact ⟨h.1, h.2.1, fun _ => rfl⟩

theorem kept_execPowerOffTrip {z : State} (_cause : OffCause) (s : State) (hz : Kept z s) : ∀ zt, execPowerOffTrip _cause s = .next zt → Kept z zt := by
  intro zt e
  unfold execPowerOffTrip at e
  injection e with e
  subst e
  try dsimp only
  repeat' (first | (intro _) | with_reducible assumption | with_reducible apply kept_ite | with_reducible apply kept_offState | (with_reducible first | apply kept_mk | apply kept_mem); first | (intro _) | with_reducible assumption | with_reducible apply kept_ite | with_reducible apply kept_offState | split)

theorem kept_nv {z s : State} {nv : Nv} (h : Kept z s) (k : NvLater s.nv nv) : Kept z { s with nv := nv } :=
  ⟨h.1, nvLater_trans h.2.1 k, h.2.2⟩

/-- A journal that replaces `j`: its next index is that of its entries, if `j`'s was, and none comes back. -/
def JournalLater (j k : Journal) : Prop :=
  JournalOk j → JournalOk k ∧ (∀ n, j.next = some n → ∃ m, k.next = some m ∧ n ≤ m) ∧ ∀ m, k.next = some m → ∃ n, j.next = some n ∧ n ≤ m

theorem kept_setJournal {z : State} (s : State) (j : Journal) (h : Kept z s) (k : JournalLater (journalOf s) j) :
    Kept z (setJournal s j) := by
  unfold setJournal
  apply kept_nv h
  unfold journalOf at k
  cases e : kindOf s
  · rw [e] at k
    exact ⟨Nat.le_refl _, id, id, id, fun w => ⟨(k w).1, (k w).2.2⟩, dbg_refl _⟩
  · rw [e] at k
    exact ⟨Nat.le_refl _, id, id, id, prod_refl _, fun w => ⟨(k w).1, (k w).2.1⟩⟩

/-- A journal whose entries and next index are those of `j`. -/
theorem journalLater_same {j k : Journal} (a : k.cells = j.cells) (b : k.next = j.next) : JournalLater j k := by
  intro w
  have i : nextIndex k = nextIndex j := by unfold nextIndex indexes; rw [a]
  exact ⟨i.trans (w.trans b.symm), fun n e => ⟨n, b.trans e, Nat.le_refl _⟩, fun m e => ⟨m, b.symm.trans e, Nat.le_refl _⟩⟩

/-- A journal that got the entry of its next index. -/
theorem journalLater_entry {j k : Journal} {n p : Nat} (e : j.next = some n) (l : n < 2 ^ 32) (a : k.cells = j.cells ++ [(p, journalEntry n)])
    (b : k.next = some (n + 1)) : JournalLater j k := by
  intro w
  have i : nextIndex k = some (n + 1) := by
    have := nextIndex_append j n p (Or.inl (w.trans e)) l
    unfold nextIndex indexes at this ⊢
    rw [a]
    exact this
  refine ⟨i.trans b.symm, fun m f => ⟨n + 1, b, ?_⟩, fun m f => ⟨n, e, ?_⟩⟩
  · rw [e] at f; injection f with f; omega
  · rw [b] at f; injection f with f; omega

/-- What a journal's store does (R690): it gains an entry of the index, and says so, or no entry. -/
theorem storeEntry_cases (j : Journal) (n : Nat) :
    ((storeEntry j n).2 = true ∧ ∃ p, (storeEntry j n).1.cells = j.cells ++ [(p, journalEntry n)]) ∨
      ((storeEntry j n).2 = false ∧ (storeEntry j n).1.cells = j.cells ∧ (storeEntry j n).1.next = j.next) := by
  unfold storeEntry putEntry
  split
  · exact Or.inr ⟨rfl, rfl, rfl⟩
  · split
    · exact Or.inl ⟨rfl, _, rfl⟩
    · split
      · exact Or.inl ⟨rfl, _, rfl⟩
      · exact Or.inr ⟨rfl, rfl, rfl⟩

theorem kept_signPair {z : State} (s : State) (h : Kept z s) : Kept z (signPair s).1 := by
  unfold signPair
  dsimp only
  split
  · exact kept_bump _ _ _ h
  · rename_i n e
    split
    · exact kept_bump _ _ _ h
    · rename_i l
      rcases storeEntry_cases (journalOf s) n with ⟨a, p, b⟩ | ⟨a, b, c⟩
      · rw [if_pos a]
        exact kept_bump _ _ _ (kept_setJournal _ _ h (journalLater_entry e (by omega) b rfl))
      · rw [if_neg (by rw [a]; exact Bool.false_ne_true)]
        exact kept_bump _ _ _ (kept_setJournal _ _ h (journalLater_same b c))

theorem kept_eraseSecrets {z : State} (s : State) (h : Kept z s) : Kept z (eraseSecrets s) := by
  refine ⟨h.1, nvLater_trans h.2.1 ⟨Nat.le_refl _, id, fun _ => rfl, fun _ => rfl, fun _ => ⟨rfl, fun n k => ?_⟩, fun w => ?_⟩, h.2.2⟩
  · cases k
  · unfold eraseSecrets
    dsimp only
    cases e : s.nv.dbgJournal.next with
    | none => exact ⟨nextIndex_append s.nv.dbgJournal 0 _ (Or.inr ⟨w.trans e, rfl⟩) (by decide), fun n k => (nomatch k)⟩
    | some m => exact ⟨w, fun n k => ⟨n, e.trans k, Nat.le_refl _⟩⟩

theorem kept_finishErase {z : State} (s : State) (hz : Kept z s) : Kept z (finishErase s) := by
  unfold finishErase
  try dsimp only
  repeat' (first | (intro _) | with_reducible assumption | with_reducible apply kept_ite | with_reducible apply kept_eraseSecrets | (with_reducible first | apply kept_mk | apply kept_mem); first | (intro _) | with_reducible assumption | with_reducible apply kept_ite | with_reducible apply kept_eraseSecrets | split)

theorem kept_bootImages {z : State} (s : State) (hz : Kept z s) : Kept z (bootImages s) := by
  unfold bootImages
  try dsimp only
  repeat' (first | (intro _) | with_reducible assumption | with_reducible apply kept_ite | (with_reducible first | apply kept_mk | apply kept_mem); first | (intro _) | with_reducible assumption | with_reducible apply kept_ite | split)

theorem kept_deriveIds {z : State} (s : State) (h : Kept z s) : Kept z (deriveIds s) := by
  unfold deriveIds
  dsimp only
  have ok : ∀ j : Journal, JournalOk j → ({ j with next := nextIndex j } : Journal) = j := by
    intro j w
    unfold JournalOk at w
    rw [w]
  have k : NvLater s.nv { s.nv with prod := { s.nv.prod with next := nextIndex s.nv.prod }, dbgJournal := { s.nv.dbgJournal with next := nextIndex s.nv.dbgJournal } } := by
    refine ⟨Nat.le_refl _, id, id, id, fun w => ?_, fun w => ?_⟩
    · have e := ok _ w
      exact e.symm ▸ prod_refl _ w
    · have e := ok _ w
      exact e.symm ▸ dbg_refl _ w
  exact ⟨h.1, nvLater_trans h.2.1 k, h.2.2⟩

theorem kept_drawNonce {z : State} (s : State) (hz : Kept z s) : Kept z (drawNonce s) := by
  unfold drawNonce
  try dsimp only
  repeat' (first | (intro _) | with_reducible assumption | with_reducible apply kept_ite | with_reducible apply kept_nextFree | (with_reducible first | apply kept_mk | apply kept_mem); first | (intro _) | with_reducible assumption | with_reducible apply kept_ite | with_reducible apply kept_nextFree | split)

theorem kept_bootRom {z : State} (s : State) (hz : Kept z s) : Kept z (bootRom s) := by
  unfold bootRom
  try dsimp only
  repeat' (first | (intro _) | with_reducible assumption | with_reducible apply kept_ite | with_reducible apply kept_bootImages | with_reducible apply kept_deriveIds | with_reducible apply kept_finishErase | (with_reducible first | apply kept_mk | apply kept_mem); first | (intro _) | with_reducible assumption | with_reducible apply kept_ite | with_reducible apply kept_bootImages | with_reducible apply kept_deriveIds | with_reducible apply kept_finishErase | split)

theorem kept_moduleState {z : State} (s : State) (hz : Kept z s) : Kept z (moduleState s) := by
  unfold moduleState
  try dsimp only
  repeat' (first | (intro _) | with_reducible assumption | with_reducible apply kept_ite | with_reducible apply kept_offState | (with_reducible first | apply kept_mk | apply kept_mem); first | (intro _) | with_reducible assumption | with_reducible apply kept_ite | with_reducible apply kept_offState | split)

theorem kept_powerOn {z : State} (s : State) (hz : Kept z s) : Kept z (powerOn s) := by
  unfold powerOn
  try dsimp only
  repeat' (first | (intro _) | with_reducible assumption | with_reducible apply kept_ite | with_reducible apply kept_moduleState | (with_reducible first | apply kept_mk | apply kept_mem); first | (intro _) | with_reducible assumption | with_reducible apply kept_ite | with_reducible apply kept_moduleState | split)

theorem kept_execPowerOn {z : State} (s : State) (hz : Kept z s) : ∀ zt, execPowerOn s = .next zt → Kept z zt := by
  intro zt e
  unfold execPowerOn at e
  injection e with e
  subst e
  try dsimp only
  repeat' (first | (intro _) | with_reducible assumption | with_reducible apply kept_ite | with_reducible apply kept_powerOn | (with_reducible first | apply kept_mk | apply kept_mem); first | (intro _) | with_reducible assumption | with_reducible apply kept_ite | with_reducible apply kept_powerOn | split)

theorem kept_moduleReset {z : State} (s : State) (hz : Kept z s) : Kept z (moduleReset s) := by
  unfold moduleReset
  try dsimp only
  repeat' (first | (intro _) | with_reducible assumption | with_reducible apply kept_ite | with_reducible apply kept_moduleState | (with_reducible first | apply kept_mk | apply kept_mem); first | (intro _) | with_reducible assumption | with_reducible apply kept_ite | with_reducible apply kept_moduleState | split)

theorem kept_execModuleReset {z : State} (s : State) (hz : Kept z s) : ∀ zt, execModuleReset s = .next zt → Kept z zt := by
  intro zt e
  unfold execModuleReset at e
  injection e with e
  subst e
  try dsimp only
  repeat' (first | (intro _) | with_reducible assumption | with_reducible apply kept_ite | with_reducible apply kept_moduleReset | (with_reducible first | apply kept_mk | apply kept_mem); first | (intro _) | with_reducible assumption | with_reducible apply kept_ite | with_reducible apply kept_moduleReset | split)

theorem kept_execResetNRelease {z : State} (s : State) (hz : Kept z s) : ∀ zt, execResetNRelease s = .next zt → Kept z zt := by
  intro zt e
  unfold execResetNRelease at e
  injection e with e
  subst e
  try dsimp only
  repeat' (first | (intro _) | with_reducible assumption | with_reducible apply kept_ite | (with_reducible first | apply kept_mk | apply kept_mem); first | (intro _) | with_reducible assumption | with_reducible apply kept_ite | split)

theorem kept_trainPort {z : State} (s : State) (p : Nat) (hz : Kept z s) : Kept z (trainPort s p) := by
  unfold trainPort
  try dsimp only
  repeat' (first | (intro _) | with_reducible assumption | with_reducible apply kept_ite | with_reducible apply kept_setPort | (with_reducible first | apply kept_mk | apply kept_mem); first | (intro _) | with_reducible assumption | with_reducible apply kept_ite | with_reducible apply kept_setPort | split)

theorem kept_enablePort {z : State} (s : State) (p : Nat) (hz : Kept z s) : Kept z (enablePort s p) := by
  unfold enablePort
  try dsimp only
  repeat' (first | (intro _) | with_reducible assumption | with_reducible apply kept_ite | with_reducible apply kept_trainPort | with_reducible apply kept_setReg32 | (with_reducible first | apply kept_mk | apply kept_mem); first | (intro _) | with_reducible assumption | with_reducible apply kept_ite | with_reducible apply kept_trainPort | with_reducible apply kept_setReg32 | split)

theorem kept_joinPort {z : State} (s : State) (p : Nat) (hz : Kept z s) : Kept z (joinPort s p) := by
  unfold joinPort
  try dsimp only
  repeat' (first | (intro _) | with_reducible assumption | with_reducible apply kept_ite | with_reducible apply kept_trainPort | with_reducible apply kept_setReg32 | (with_reducible first | apply kept_mk | apply kept_mem); first | (intro _) | with_reducible assumption | with_reducible apply kept_ite | with_reducible apply kept_trainPort | with_reducible apply kept_setReg32 | split)

theorem kept_disablePort {z : State} (s : State) (p : Nat) (hz : Kept z s) : Kept z (disablePort s p) := by
  unfold disablePort
  try dsimp only
  repeat' (first | (intro _) | with_reducible assumption | with_reducible apply kept_ite | with_reducible apply kept_portDown | with_reducible apply kept_setReg32 | (with_reducible first | apply kept_mk | apply kept_mem); first | (intro _) | with_reducible assumption | with_reducible apply kept_ite | with_reducible apply kept_portDown | with_reducible apply kept_setReg32 | split)

theorem kept_execPortEnable {z : State} (port : Nat) (s : State) (hz : Kept z s) : ∀ zt, execPortEnable port s = .next zt → Kept z zt := by
  intro zt e
  unfold execPortEnable at e
  injection e with e
  subst e
  try dsimp only
  repeat' (first | (intro _) | with_reducible assumption | with_reducible apply kept_ite | with_reducible apply kept_enablePort | (with_reducible first | apply kept_mk | apply kept_mem); first | (intro _) | with_reducible assumption | with_reducible apply kept_ite | with_reducible apply kept_enablePort | split)

theorem kept_laneLock {z : State} (s : State) (p width : Nat) (polarity : BitVec 8) (reversed : Bool) (nonce : BitVec 256) (hz : Kept z s) : Kept z (laneLock s p width polarity reversed nonce) := by
  unfold laneLock
  try dsimp only
  repeat' (first | (intro _) | with_reducible assumption | with_reducible apply kept_ite | with_reducible apply kept_setPort | with_reducible apply kept_recovery | (with_reducible first | apply kept_mk | apply kept_mem); first | (intro _) | with_reducible assumption | with_reducible apply kept_ite | with_reducible apply kept_setPort | with_reducible apply kept_recovery | split)

theorem kept_execLaneLock {z : State} (port : Nat) (lanes : LaneFinding) (nonce : BitVec 256) (s : State) (hz : Kept z s) : ∀ zt, execLaneLock port lanes nonce s = .next zt → Kept z zt := by
  intro zt e
  unfold execLaneLock at e
  injection e with e
  subst e
  try dsimp only
  repeat' (first | (intro _) | with_reducible assumption | with_reducible apply kept_ite | with_reducible apply kept_laneLock | (with_reducible first | apply kept_mk | apply kept_mem); first | (intro _) | with_reducible assumption | with_reducible apply kept_ite | with_reducible apply kept_laneLock | split)

theorem kept_holdDown {z : State} (s : State) (p : Nat) (hz : Kept z s) : Kept z (holdDown s p) := by
  unfold holdDown
  try dsimp only
  repeat' (first | (intro _) | with_reducible assumption | with_reducible apply kept_ite | with_reducible apply kept_portDown | with_reducible apply kept_settleP3 | with_reducible apply kept_setPort | (with_reducible first | apply kept_mk | apply kept_mem); first | (intro _) | with_reducible assumption | with_reducible apply kept_ite | with_reducible apply kept_portDown | with_reducible apply kept_settleP3 | with_reducible apply kept_setPort | split)

theorem kept_identityFrame {z : State} (s : State) (p : Nat) (who : Partner) (nonce : BitVec 256) (hz : Kept z s) : Kept z (identityFrame s p who nonce) := by
  unfold identityFrame
  try dsimp only
  repeat' (first | (intro _) | with_reducible assumption | with_reducible apply kept_ite | with_reducible apply kept_setPort | with_reducible apply kept_pumpRemotes | with_reducible apply kept_pumpRoutes | with_reducible apply kept_noteLinks | with_reducible apply kept_settleP3 | with_reducible apply kept_holdDown | with_reducible apply kept_bump | (with_reducible first | apply kept_mk | apply kept_mem); first | (intro _) | with_reducible assumption | with_reducible apply kept_ite | with_reducible apply kept_setPort | with_reducible apply kept_pumpRemotes | with_reducible apply kept_pumpRoutes | with_reducible apply kept_noteLinks | with_reducible apply kept_settleP3 | with_reducible apply kept_holdDown | with_reducible apply kept_bump | split)

theorem kept_execIdentityFrame {z : State} (port : Nat) (who : Partner) (nonce : BitVec 256) (s : State) (hz : Kept z s) : ∀ zt, execIdentityFrame port who nonce s = .next zt → Kept z zt := by
  intro zt e
  unfold execIdentityFrame at e
  injection e with e
  subst e
  try dsimp only
  repeat' (first | (intro _) | with_reducible assumption | with_reducible apply kept_ite | with_reducible apply kept_identityFrame | (with_reducible first | apply kept_mk | apply kept_mem); first | (intro _) | with_reducible assumption | with_reducible apply kept_ite | with_reducible apply kept_identityFrame | split)

theorem kept_execPortTrainTimeout {z : State} (port : Nat) (s : State) (hz : Kept z s) : ∀ zt, execPortTrainTimeout port s = .next zt → Kept z zt := by
  intro zt e
  unfold execPortTrainTimeout at e
  injection e with e
  subst e
  try dsimp only
  repeat' (first | (intro _) | with_reducible assumption | with_reducible apply kept_ite | with_reducible apply kept_holdDown | (with_reducible first | apply kept_mk | apply kept_mem); first | (intro _) | with_reducible assumption | with_reducible apply kept_ite | with_reducible apply kept_holdDown | split)

theorem kept_setDevNum {z : State} (s : State) (n : Nat) (hz : Kept z s) : Kept z (setDevNum s n) := by
  unfold setDevNum
  try dsimp only
  repeat' (first | (intro _) | with_reducible assumption | with_reducible apply kept_ite | with_reducible apply kept_setReg32 | (with_reducible first | apply kept_mk | apply kept_mem); first | (intro _) | with_reducible assumption | with_reducible apply kept_ite | with_reducible apply kept_setReg32 | split)

theorem kept_setReach {z : State} (s : State) (lr : Bool) (hz : Kept z s) : Kept z (setReach s lr) := by
  unfold setReach
  try dsimp only
  repeat' (first | (intro _) | with_reducible assumption | with_reducible apply kept_ite | with_reducible apply kept_foldl | with_reducible apply kept_foldl_fst | with_reducible apply kept_setReg32 | (with_reducible first | apply kept_mk | apply kept_mem); first | (intro _) | with_reducible assumption | with_reducible apply kept_ite | with_reducible apply kept_foldl | with_reducible apply kept_foldl_fst | with_reducible apply kept_setReg32 | split)

theorem kept_settleSingle {z : State} (s : State) (hz : Kept z s) : Kept z (settleSingle s) := by
  unfold settleSingle
  try dsimp only
  repeat' (first | (intro _) | with_reducible assumption | with_reducible apply kept_ite | with_reducible apply kept_freeCredits | (with_reducible first | apply kept_mk | apply kept_mem); first | (intro _) | with_reducible assumption | with_reducible apply kept_ite | with_reducible apply kept_freeCredits | split)

theorem kept_joinWith {z : State} (s : State) (t : SysTab) (hz : Kept z s) : Kept z (joinWith s t) := by
  unfold joinWith
  try dsimp only
  repeat' (first | (intro _) | with_reducible assumption | with_reducible apply kept_ite | with_reducible apply kept_foldl | with_reducible apply kept_foldl_fst | with_reducible apply kept_setDevNum | with_reducible apply kept_settleSingle | with_reducible apply kept_settleP3 | with_reducible apply kept_joinPort | with_reducible apply kept_disablePort | with_reducible apply kept_setReach | (with_reducible first | apply kept_mk | apply kept_mem); first | (intro _) | with_reducible assumption | with_reducible apply kept_ite | with_reducible apply kept_foldl | with_reducible apply kept_foldl_fst | with_reducible apply kept_setDevNum | with_reducible apply kept_settleSingle | with_reducible apply kept_settleP3 | with_reducible apply kept_joinPort | with_reducible apply kept_disablePort | with_reducible apply kept_setReach | split)

theorem kept_systabGo {z : State} (s : State) (hz : Kept z s) : Kept z (systabGo s) := by
  unfold systabGo
  try dsimp only
  repeat' (first | (intro _) | with_reducible assumption | with_reducible apply kept_ite | with_reducible apply kept_joinWith | with_reducible apply kept_setReg64 | (with_reducible first | apply kept_mk | apply kept_mem); first | (intro _) | with_reducible assumption | with_reducible apply kept_ite | with_reducible apply kept_joinWith | with_reducible apply kept_setReg64 | split)

theorem kept_execSystabGo {z : State} (s : State) (hz : Kept z s) : ∀ zt, execSystabGo s = .next zt → Kept z zt := by
  intro zt e
  unfold execSystabGo at e
  injection e with e
  subst e
  try dsimp only
  repeat' (first | (intro _) | with_reducible assumption | with_reducible apply kept_ite | with_reducible apply kept_systabGo | (with_reducible first | apply kept_mk | apply kept_mem); first | (intro _) | with_reducible assumption | with_reducible apply kept_ite | with_reducible apply kept_systabGo | split)

theorem kept_latchTop {z : State} (s : State) (hz : Kept z s) : Kept z (latchTop s) := by
  unfold latchTop
  try dsimp only
  repeat' (first | (intro _) | with_reducible assumption | with_reducible apply kept_ite | (with_reducible first | apply kept_mk | apply kept_mem); first | (intro _) | with_reducible assumption | with_reducible apply kept_ite | split)

theorem kept_beginP2 {z : State} (s : State) (hz : Kept z s) : Kept z (beginP2 s) := by
  unfold beginP2
  try dsimp only
  repeat' (first | (intro _) | with_reducible assumption | with_reducible apply kept_ite | with_reducible apply kept_joinWith | (with_reducible first | apply kept_mk | apply kept_mem); first | (intro _) | with_reducible assumption | with_reducible apply kept_ite | with_reducible apply kept_joinWith | split)

theorem kept_railPowerGood {z : State} (s : State) (hz : Kept z s) : Kept z (railPowerGood s) := by
  unfold railPowerGood
  try dsimp only
  repeat' (first | (intro _) | with_reducible assumption | with_reducible apply kept_ite | with_reducible apply kept_foldl | with_reducible apply kept_foldl_fst | with_reducible apply kept_drawNonce | with_reducible apply kept_latchTop | with_reducible apply kept_bootRom | with_reducible apply kept_beginP2 | with_reducible apply kept_trainPort | (with_reducible first | apply kept_mk | apply kept_mem); first | (intro _) | with_reducible assumption | with_reducible apply kept_ite | with_reducible apply kept_foldl | with_reducible apply kept_foldl_fst | with_reducible apply kept_drawNonce | with_reducible apply kept_latchTop | with_reducible apply kept_bootRom | with_reducible apply kept_beginP2 | with_reducible apply kept_trainPort | split)

theorem kept_execRailPowerGood {z : State} (s : State) (hz : Kept z s) : ∀ zt, execRailPowerGood s = .next zt → Kept z zt := by
  intro zt e
  unfold execRailPowerGood at e
  injection e with e
  subst e
  try dsimp only
  repeat' (first | (intro _) | with_reducible assumption | with_reducible apply kept_ite | with_reducible apply kept_railPowerGood | (with_reducible first | apply kept_mk | apply kept_mem); first | (intro _) | with_reducible assumption | with_reducible apply kept_ite | with_reducible apply kept_railPowerGood | split)

theorem kept_execRailTimeout {z : State} (s : State) (hz : Kept z s) : ∀ zt, execRailTimeout s = .next zt → Kept z zt := by
  intro zt e
  unfold execRailTimeout at e
  injection e with e
  subst e
  try dsimp only
  repeat' (first | (intro _) | with_reducible assumption | with_reducible apply kept_ite | (with_reducible first | apply kept_mk | apply kept_mem); first | (intro _) | with_reducible assumption | with_reducible apply kept_ite | split)

theorem kept_localReady {z : State} (s : State) (t : SelfTest) (h : Kept z s) : Kept z (localReady s t) := by
  unfold localReady
  split
  · exact h
  · apply kept_settleP3
    apply kept_settleSingle
    exact ⟨h.1, nvLater_trans h.2.1 ⟨Nat.le_refl _, id, id, id, prod_refl _, dbg_refl _⟩, fun _ => rfl⟩

theorem kept_execLocalReady {z : State} (t : SelfTest) (s : State) (hz : Kept z s) : ∀ zt, execLocalReady t s = .next zt → Kept z zt := by
  intro zt e
  unfold execLocalReady at e
  injection e with e
  subst e
  try dsimp only
  repeat' (first | (intro _) | with_reducible assumption | with_reducible apply kept_ite | with_reducible apply kept_localReady | (with_reducible first | apply kept_mk | apply kept_mem); first | (intro _) | with_reducible assumption | with_reducible apply kept_ite | with_reducible apply kept_localReady | split)

theorem kept_takeCtrl {z : State} (s : State) (m : CtrlMsg) (hz : Kept z s) : Kept z (takeCtrl s m) := by
  unfold takeCtrl
  try dsimp only
  repeat' (first | (intro _) | with_reducible assumption | with_reducible apply kept_ite | with_reducible apply kept_fromInbox | (with_reducible first | apply kept_mk | apply kept_mem); first | (intro _) | with_reducible assumption | with_reducible apply kept_ite | with_reducible apply kept_fromInbox | split)

theorem kept_acked {z : State} (s : State) (dst : Nat) (f : CtrlMsg → Bool) (hz : Kept z s) : Kept z (acked s dst f) := by
  unfold acked
  try dsimp only
  repeat' (first | (intro _) | with_reducible assumption | with_reducible apply kept_ite | (with_reducible first | apply kept_mk | apply kept_mem); first | (intro _) | with_reducible assumption | with_reducible apply kept_ite | split)

theorem kept_sendAll {z : State} (s : State) (m : CtrlMsg) (y0 : List Nat) (hz : Kept z s) : Kept z (sendAll s m y0) := by
  induction y0 generalizing s m with
  | nil =>
    unfold sendAll
    try dsimp only
    repeat' (first | (intro _) | with_reducible assumption | with_reducible apply kept_ite | with_reducible apply kept_sendKept | (with_reducible first | apply kept_mk | apply kept_mem); first | (intro _) | with_reducible assumption | with_reducible apply kept_ite | with_reducible apply kept_sendKept | split)
  | cons y l ih =>
    unfold sendAll
    try dsimp only
    repeat' (first | with_reducible apply ih | (intro _) | with_reducible assumption | with_reducible apply kept_ite | with_reducible apply kept_sendKept | (with_reducible first | apply kept_mk | apply kept_mem); first | with_reducible apply ih | (intro _) | with_reducible assumption | with_reducible apply kept_ite | with_reducible apply kept_sendKept | split)

theorem kept_ctrlResend {z : State} (s : State) (hz : Kept z s) : Kept z (ctrlResend s) := by
  unfold ctrlResend
  try dsimp only
  repeat' (first | (intro _) | with_reducible assumption | with_reducible apply kept_ite | with_reducible apply kept_foldl | with_reducible apply kept_foldl_fst | with_reducible apply kept_sendCtrlOn | (with_reducible first | apply kept_mk | apply kept_mem); first | (intro _) | with_reducible assumption | with_reducible apply kept_ite | with_reducible apply kept_foldl | with_reducible apply kept_foldl_fst | with_reducible apply kept_sendCtrlOn | split)

theorem kept_execCtrlResend {z : State} (s : State) (hz : Kept z s) : ∀ zt, execCtrlResend s = .next zt → Kept z zt := by
  intro zt e
  unfold execCtrlResend at e
  injection e with e
  subst e
  try dsimp only
  repeat' (first | (intro _) | with_reducible assumption | with_reducible apply kept_ite | with_reducible apply kept_ctrlResend | (with_reducible first | apply kept_mk | apply kept_mem); first | (intro _) | with_reducible assumption | with_reducible apply kept_ite | with_reducible apply kept_ctrlResend | split)

theorem kept_joined {z : State} (s : State) (hz : Kept z s) : Kept z (joined s) := by
  unfold joined
  try dsimp only
  repeat' (first | (intro _) | with_reducible assumption | with_reducible apply kept_ite | (with_reducible first | apply kept_mk | apply kept_mem); first | (intro _) | with_reducible assumption | with_reducible apply kept_ite | split)

theorem kept_claimNow {z : State} (s : State) (k : Nat) (hz : Kept z s) : Kept z (claimNow s k) := by
  unfold claimNow
  try dsimp only
  repeat' (first | (intro _) | with_reducible assumption | with_reducible apply kept_ite | with_reducible apply kept_bumpIf | with_reducible apply kept_joined | with_reducible apply kept_nextFree | with_reducible apply kept_sendAll | (with_reducible first | apply kept_mk | apply kept_mem); first | (intro _) | with_reducible assumption | with_reducible apply kept_ite | with_reducible apply kept_bumpIf | with_reducible apply kept_joined | with_reducible apply kept_nextFree | with_reducible apply kept_sendAll | split)

theorem kept_claimTimer {z : State} (s : State) (hz : Kept z s) : Kept z (claimTimer s) := by
  unfold claimTimer
  try dsimp only
  repeat' (first | (intro _) | with_reducible assumption | with_reducible apply kept_ite | with_reducible apply kept_claimNow | (with_reducible first | apply kept_mk | apply kept_mem); first | (intro _) | with_reducible assumption | with_reducible apply kept_ite | with_reducible apply kept_claimNow | split)

theorem kept_execClaimTimer {z : State} (s : State) (hz : Kept z s) : ∀ zt, execClaimTimer s = .next zt → Kept z zt := by
  intro zt e
  unfold execClaimTimer at e
  injection e with e
  subst e
  try dsimp only
  repeat' (first | (intro _) | with_reducible assumption | with_reducible apply kept_ite | with_reducible apply kept_claimTimer | (with_reducible first | apply kept_mk | apply kept_mem); first | (intro _) | with_reducible assumption | with_reducible apply kept_ite | with_reducible apply kept_claimTimer | split)

theorem kept_follow {z : State} (s : State) (k dev : Nat) (hz : Kept z s) : Kept z (follow s k dev) := by
  unfold follow
  try dsimp only
  repeat' (first | (intro _) | with_reducible assumption | with_reducible apply kept_ite | with_reducible apply kept_bumpIf | with_reducible apply kept_joined | (with_reducible first | apply kept_mk | apply kept_mem); first | (intro _) | with_reducible assumption | with_reducible apply kept_ite | with_reducible apply kept_bumpIf | with_reducible apply kept_joined | split)

theorem kept_claimMsg {z : State} (s : State) (src k dev : Nat) (hz : Kept z s) : Kept z (claimMsg s src k dev) := by
  unfold claimMsg
  try dsimp only
  repeat' (first | (intro _) | with_reducible assumption | with_reducible apply kept_ite | with_reducible apply kept_follow | (with_reducible first | apply kept_mk | apply kept_mem); first | (intro _) | with_reducible assumption | with_reducible apply kept_ite | with_reducible apply kept_follow | split)

theorem kept_execClaim {z : State} (p : Packet) (s : State) (hz : Kept z s) : ∀ zt, execClaim p s = .next zt → Kept z zt := by
  intro zt e
  unfold execClaim at e
  try dsimp only at e
  repeat' (split at e)
  all_goals first | (injection e with e; subst e) | (unfold illFormed at e; cases e; done) | simp at e
  all_goals (try dsimp only)
  all_goals repeat' (first | (intro _) | with_reducible assumption | with_reducible apply kept_ite | with_reducible apply kept_claimMsg | with_reducible apply kept_takeCtrl | (with_reducible first | apply kept_mk | apply kept_mem); first | (intro _) | with_reducible assumption | with_reducible apply kept_ite | with_reducible apply kept_claimMsg | with_reducible apply kept_takeCtrl | split)

theorem kept_execNoCoordTimeout {z : State} (s : State) (hz : Kept z s) : ∀ zt, execNoCoordTimeout s = .next zt → Kept z zt := by
  intro zt e
  unfold execNoCoordTimeout at e
  injection e with e
  subst e
  try dsimp only
  repeat' (first | (intro _) | with_reducible assumption | with_reducible apply kept_ite | (with_reducible first | apply kept_mk | apply kept_mem); first | (intro _) | with_reducible assumption | with_reducible apply kept_ite | split)

theorem kept_coordinatorGather {z : State} (s : State) (src : Nat) (nonce : BitVec 256) (epoch : Nat) (hz : Kept z s) : Kept z (coordinatorGather s src nonce epoch) := by
  unfold coordinatorGather
  try dsimp only
  repeat' (first | (intro _) | with_reducible assumption | with_reducible apply kept_ite | with_reducible apply kept_signPair | with_reducible apply kept_sendAll | with_reducible apply kept_report | (with_reducible first | apply kept_mk | apply kept_mem); first | (intro _) | with_reducible assumption | with_reducible apply kept_ite | with_reducible apply kept_signPair | with_reducible apply kept_sendAll | with_reducible apply kept_report | split)

theorem kept_execCoordinatorGather {z : State} (p : Packet) (s : State) (hz : Kept z s) : ∀ zt, execCoordinatorGather p s = .next zt → Kept z zt := by
  intro zt e
  unfold execCoordinatorGather at e
  try dsimp only at e
  repeat' (split at e)
  all_goals first | (injection e with e; subst e) | (unfold illFormed at e; cases e; done) | simp at e
  all_goals (try dsimp only)
  all_goals repeat' (first | (intro _) | with_reducible assumption | with_reducible apply kept_ite | with_reducible apply kept_coordinatorGather | with_reducible apply kept_takeCtrl | (with_reducible first | apply kept_mk | apply kept_mem); first | (intro _) | with_reducible assumption | with_reducible apply kept_ite | with_reducible apply kept_coordinatorGather | with_reducible apply kept_takeCtrl | split)

theorem kept_partnerCheck {z : State} (s : State) (r : Report) (hz : Kept z s) : Kept z (partnerCheck s r) := by
  unfold partnerCheck
  try dsimp only
  repeat' (first | (intro _) | with_reducible assumption | with_reducible apply kept_ite | with_reducible apply kept_holdDown | with_reducible apply kept_bump | (with_reducible first | apply kept_mk | apply kept_mem); first | (intro _) | with_reducible assumption | with_reducible apply kept_ite | with_reducible apply kept_holdDown | with_reducible apply kept_bump | split)

theorem kept_issueRoster {z : State} (s : State) (epoch : Nat) (recs : List RosterRec) (goesTo : List Nat) (hz : Kept z s) : Kept z (issueRoster s epoch recs goesTo) := by
  unfold issueRoster
  try dsimp only
  repeat' (first | (intro _) | with_reducible assumption | with_reducible apply kept_ite | with_reducible apply kept_signPair | with_reducible apply kept_sendAll | (with_reducible first | apply kept_mk | apply kept_mem); first | (intro _) | with_reducible assumption | with_reducible apply kept_ite | with_reducible apply kept_signPair | with_reducible apply kept_sendAll | split)

theorem kept_finishGather {z : State} (s : State) (hz : Kept z s) : Kept z (finishGather s) := by
  unfold finishGather
  try dsimp only
  repeat' (first | (intro _) | with_reducible assumption | with_reducible apply kept_ite | with_reducible apply kept_issueRoster | (with_reducible first | apply kept_mk | apply kept_mem); first | (intro _) | with_reducible assumption | with_reducible apply kept_ite | with_reducible apply kept_issueRoster | split)

theorem kept_reportMsg {z : State} (s : State) (r : Report) (hz : Kept z s) : Kept z (reportMsg s r) := by
  unfold reportMsg
  try dsimp only
  repeat' (first | (intro _) | with_reducible assumption | with_reducible apply kept_ite | with_reducible apply kept_acked | with_reducible apply kept_partnerCheck | with_reducible apply kept_finishGather | (with_reducible first | apply kept_mk | apply kept_mem); first | (intro _) | with_reducible assumption | with_reducible apply kept_ite | with_reducible apply kept_acked | with_reducible apply kept_partnerCheck | with_reducible apply kept_finishGather | split)

theorem kept_execReport {z : State} (r : Report) (s : State) (hz : Kept z s) : ∀ zt, execReport r s = .next zt → Kept z zt := by
  intro zt e
  unfold execReport at e
  injection e with e
  subst e
  try dsimp only
  repeat' (first | (intro _) | with_reducible assumption | with_reducible apply kept_ite | with_reducible apply kept_reportMsg | with_reducible apply kept_takeCtrl | with_reducible apply kept_report | (with_reducible first | apply kept_mk | apply kept_mem); first | (intro _) | with_reducible assumption | with_reducible apply kept_ite | with_reducible apply kept_reportMsg | with_reducible apply kept_takeCtrl | with_reducible apply kept_report | split)

theorem kept_execGatherLimit {z : State} (s : State) (hz : Kept z s) : ∀ zt, execGatherLimit s = .next zt → Kept z zt := by
  intro zt e
  unfold execGatherLimit at e
  injection e with e
  subst e
  try dsimp only
  repeat' (first | (intro _) | with_reducible assumption | with_reducible apply kept_ite | with_reducible apply kept_finishGather | (with_reducible first | apply kept_mk | apply kept_mem); first | (intro _) | with_reducible assumption | with_reducible apply kept_ite | with_reducible apply kept_finishGather | split)

theorem kept_writeRoutes {z : State} (s : State) (t : SysTab) (r : Roster) (x : Nat) (e : RosterRec) (hz : Kept z s) : Kept z (writeRoutes s t r x e) := by
  unfold writeRoutes
  try dsimp only
  repeat' (first | (intro _) | with_reducible assumption | with_reducible apply kept_ite | with_reducible apply kept_foldl | with_reducible apply kept_foldl_fst | with_reducible apply kept_setReg64 | (with_reducible first | apply kept_mk | apply kept_mem); first | (intro _) | with_reducible assumption | with_reducible apply kept_ite | with_reducible apply kept_foldl | with_reducible apply kept_foldl_fst | with_reducible apply kept_setReg64 | split)

theorem kept_computeRoutes {z : State} (s : State) (t : SysTab) (r : Roster) (x : Nat) (hz : Kept z s) : Kept z (computeRoutes s t r x) := by
  unfold computeRoutes
  try dsimp only
  repeat' (first | (intro _) | with_reducible assumption | with_reducible apply kept_ite | with_reducible apply kept_foldl | with_reducible apply kept_foldl_fst | with_reducible apply kept_writeRoutes | (with_reducible first | apply kept_mk | apply kept_mem); first | (intro _) | with_reducible assumption | with_reducible apply kept_ite | with_reducible apply kept_foldl | with_reducible apply kept_foldl_fst | with_reducible apply kept_writeRoutes | split)

theorem kept_rosterAcks {z : State} (s : State) (r : Roster) (hz : Kept z s) : Kept z (rosterAcks s r) := by
  unfold rosterAcks
  try dsimp only
  repeat' (first | (intro _) | with_reducible assumption | with_reducible apply kept_ite | (with_reducible first | apply kept_mk | apply kept_mem); first | (intro _) | with_reducible assumption | with_reducible apply kept_ite | split)

theorem kept_applyRoster {z : State} (s : State) (t : SysTab) (r : Roster) (x : Nat) (me : RosterRec) (hz : Kept z s) : Kept z (applyRoster s t r x me) := by
  unfold applyRoster
  try dsimp only
  repeat' (first | (intro _) | with_reducible assumption | with_reducible apply kept_ite | with_reducible apply kept_setDevNum | with_reducible apply kept_computeRoutes | with_reducible apply kept_setReg32 | with_reducible apply kept_rosterAcks | with_reducible apply kept_freeCredits | with_reducible apply kept_sendCtrl | with_reducible apply kept_bumpIf | with_reducible apply kept_pumpRoutes | with_reducible apply kept_resendRemotes | (with_reducible first | apply kept_mk | apply kept_mem); first | (intro _) | with_reducible assumption | with_reducible apply kept_ite | with_reducible apply kept_setDevNum | with_reducible apply kept_computeRoutes | with_reducible apply kept_setReg32 | with_reducible apply kept_rosterAcks | with_reducible apply kept_freeCredits | with_reducible apply kept_sendCtrl | with_reducible apply kept_bumpIf | with_reducible apply kept_pumpRoutes | with_reducible apply kept_resendRemotes | split)

theorem kept_rosterMsg {z : State} (s : State) (r : Roster) (hz : Kept z s) : Kept z (rosterMsg s r) := by
  unfold rosterMsg
  try dsimp only
  repeat' (first | (intro _) | with_reducible assumption | with_reducible apply kept_ite | with_reducible apply kept_sendCtrl | with_reducible apply kept_rosterAcks | with_reducible apply kept_applyRoster | (with_reducible first | apply kept_mk | apply kept_mem); first | (intro _) | with_reducible assumption | with_reducible apply kept_ite | with_reducible apply kept_sendCtrl | with_reducible apply kept_rosterAcks | with_reducible apply kept_applyRoster | split)

theorem kept_execRoster {z : State} (r : Roster) (s : State) (hz : Kept z s) : ∀ zt, execRoster r s = .next zt → Kept z zt := by
  intro zt e
  unfold execRoster at e
  injection e with e
  subst e
  try dsimp only
  repeat' (first | (intro _) | with_reducible assumption | with_reducible apply kept_ite | with_reducible apply kept_rosterMsg | with_reducible apply kept_takeCtrl | (with_reducible first | apply kept_mk | apply kept_mem); first | (intro _) | with_reducible assumption | with_reducible apply kept_ite | with_reducible apply kept_rosterMsg | with_reducible apply kept_takeCtrl | split)

theorem kept_execReadyNote {z : State} (dev : Nat) (s : State) (hz : Kept z s) : ∀ zt, execReadyNote dev s = .next zt → Kept z zt := by
  intro zt e
  unfold execReadyNote at e
  injection e with e
  subst e
  try dsimp only
  repeat' (first | (intro _) | with_reducible assumption | with_reducible apply kept_ite | with_reducible apply kept_acked | with_reducible apply kept_takeCtrl | (with_reducible first | apply kept_mk | apply kept_mem); first | (intro _) | with_reducible assumption | with_reducible apply kept_ite | with_reducible apply kept_acked | with_reducible apply kept_takeCtrl | split)

theorem kept_nextRoster {z : State} (s : State) (r : Roster) (dev : Nat) (up : BitVec 32) (hz : Kept z s) : Kept z (nextRoster s r dev up) := by
  unfold nextRoster
  try dsimp only
  repeat' (first | (intro _) | with_reducible assumption | with_reducible apply kept_ite | with_reducible apply kept_sendCtrl | with_reducible apply kept_issueRoster | (with_reducible first | apply kept_mk | apply kept_mem); first | (intro _) | with_reducible assumption | with_reducible apply kept_ite | with_reducible apply kept_sendCtrl | with_reducible apply kept_issueRoster | split)

theorem kept_linkNote {z : State} (s : State) (dev : Nat) (up : BitVec 32) (hz : Kept z s) : Kept z (linkNote s dev up) := by
  unfold linkNote
  try dsimp only
  repeat' (first | (intro _) | with_reducible assumption | with_reducible apply kept_ite | with_reducible apply kept_nextRoster | with_reducible apply kept_claimNow | (with_reducible first | apply kept_mk | apply kept_mem); first | (intro _) | with_reducible assumption | with_reducible apply kept_ite | with_reducible apply kept_nextRoster | with_reducible apply kept_claimNow | split)

theorem kept_execLinkNote {z : State} (dev : Nat) (up : BitVec 32) (s : State) (hz : Kept z s) : ∀ zt, execLinkNote dev up s = .next zt → Kept z zt := by
  intro zt e
  unfold execLinkNote at e
  injection e with e
  subst e
  try dsimp only
  repeat' (first | (intro _) | with_reducible assumption | with_reducible apply kept_ite | with_reducible apply kept_linkNote | with_reducible apply kept_takeCtrl | (with_reducible first | apply kept_mk | apply kept_mem); first | (intro _) | with_reducible assumption | with_reducible apply kept_ite | with_reducible apply kept_linkNote | with_reducible apply kept_takeCtrl | split)

theorem kept_linkNoteTimeout {z : State} (s : State) (hz : Kept z s) : Kept z (linkNoteTimeout s) := by
  unfold linkNoteTimeout
  try dsimp only
  repeat' (first | (intro _) | with_reducible assumption | with_reducible apply kept_ite | with_reducible apply kept_sendKept | with_reducible apply kept_acked | (with_reducible first | apply kept_mk | apply kept_mem); first | (intro _) | with_reducible assumption | with_reducible apply kept_ite | with_reducible apply kept_sendKept | with_reducible apply kept_acked | split)

theorem kept_execLinkNoteTimeout {z : State} (s : State) (hz : Kept z s) : ∀ zt, execLinkNoteTimeout s = .next zt → Kept z zt := by
  intro zt e
  unfold execLinkNoteTimeout at e
  injection e with e
  subst e
  try dsimp only
  repeat' (first | (intro _) | with_reducible assumption | with_reducible apply kept_ite | with_reducible apply kept_linkNoteTimeout | (with_reducible first | apply kept_mk | apply kept_mem); first | (intro _) | with_reducible assumption | with_reducible apply kept_ite | with_reducible apply kept_linkNoteTimeout | split)

theorem kept_answer {z : State} (s : State) (r : SpdmResp) (hz : Kept z s) : Kept z (answer s r) := by
  unfold answer
  try dsimp only
  repeat' (first | (intro _) | with_reducible assumption | with_reducible apply kept_ite | (with_reducible first | apply kept_mk | apply kept_mem); first | (intro _) | with_reducible assumption | with_reducible apply kept_ite | split)

theorem kept_spdm {z : State} (s f : State) (hf : Kept z f) (h : Kept z s) : ∀ zt, spdm s f = .next zt → Kept z zt := by
  intro zt e
  unfold spdm at e
  injection e with e
  subst e
  exact kept_ite hf h

theorem kept_spdmSlot {z : State} (s : State) (slot : Nat) (f : State) (hf : Kept z f) (h : Kept z s) : ∀ zt, spdmSlot s slot f = .next zt → Kept z zt :=
  kept_spdm _ _ (kept_ite hf (kept_answer _ _ h)) h

theorem kept_signedAnswer {z : State} (s : State) (f : State → List Nat → SpdmResp) (g : State → State) (hz : Kept z s) (hfg : ∀ (q0 : State), Kept z q0 → Kept z (g q0)) : Kept z (signedAnswer s f g) := by
  unfold signedAnswer
  try dsimp only
  repeat' (first | (intro _) | with_reducible assumption | with_reducible apply kept_ite | with_reducible apply hfg | with_reducible apply kept_signPair | with_reducible apply kept_answer | with_reducible apply kept_nextFree | (with_reducible first | apply kept_mk | apply kept_mem); first | (intro _) | with_reducible assumption | with_reducible apply kept_ite | with_reducible apply hfg | with_reducible apply kept_signPair | with_reducible apply kept_answer | with_reducible apply kept_nextFree | split)

theorem kept_execGetVersion {z : State} (s : State) (hz : Kept z s) : ∀ zt, execGetVersion s = .next zt → Kept z zt := by
  intro zt e
  unfold execGetVersion at e
  refine kept_spdm _ _ ?_ hz zt e
  try dsimp only
  repeat' (first | (intro _) | with_reducible assumption | with_reducible apply kept_ite | with_reducible apply kept_answer | (with_reducible first | apply kept_mk | apply kept_mem); first | (intro _) | with_reducible assumption | with_reducible apply kept_ite | with_reducible apply kept_answer | split)

theorem kept_execGetCapabilities {z : State} (s : State) (hz : Kept z s) : ∀ zt, execGetCapabilities s = .next zt → Kept z zt := by
  intro zt e
  unfold execGetCapabilities at e
  refine kept_spdm _ _ ?_ hz zt e
  try dsimp only
  repeat' (first | (intro _) | with_reducible assumption | with_reducible apply kept_ite | with_reducible apply kept_answer | (with_reducible first | apply kept_mk | apply kept_mem); first | (intro _) | with_reducible assumption | with_reducible apply kept_ite | with_reducible apply kept_answer | split)

theorem kept_execNegotiateAlgorithms {z : State} (s : State) (hz : Kept z s) : ∀ zt, execNegotiateAlgorithms s = .next zt → Kept z zt := by
  intro zt e
  unfold execNegotiateAlgorithms at e
  refine kept_spdm _ _ ?_ hz zt e
  try dsimp only
  repeat' (first | (intro _) | with_reducible assumption | with_reducible apply kept_ite | with_reducible apply kept_answer | (with_reducible first | apply kept_mk | apply kept_mem); first | (intro _) | with_reducible assumption | with_reducible apply kept_ite | with_reducible apply kept_answer | split)

theorem kept_execGetDigests {z : State} (s : State) (hz : Kept z s) : ∀ zt, execGetDigests s = .next zt → Kept z zt := by
  intro zt e
  unfold execGetDigests at e
  refine kept_spdm _ _ ?_ hz zt e
  try dsimp only
  repeat' (first | (intro _) | with_reducible assumption | with_reducible apply kept_ite | with_reducible apply kept_answer | (with_reducible first | apply kept_mk | apply kept_mem); first | (intro _) | with_reducible assumption | with_reducible apply kept_ite | with_reducible apply kept_answer | split)

theorem kept_execGetCertificate {z : State} (part : SlotOffset) (len : Nat) (s : State) (hz : Kept z s) : ∀ zt, execGetCertificate part len s = .next zt → Kept z zt := by
  intro zt e
  unfold execGetCertificate at e
  refine kept_spdmSlot _ _ _ ?_ hz zt e
  try dsimp only
  repeat' (first | (intro _) | with_reducible assumption | with_reducible apply kept_ite | with_reducible apply kept_answer | (with_reducible first | apply kept_mk | apply kept_mem); first | (intro _) | with_reducible assumption | with_reducible apply kept_ite | with_reducible apply kept_answer | split)

theorem kept_execChallenge {z : State} (q : SlotNonce) (s : State) (hz : Kept z s) : ∀ zt, execChallenge q s = .next zt → Kept z zt := by
  intro zt e
  unfold execChallenge at e
  refine kept_spdmSlot _ _ _ ?_ hz zt e
  try dsimp only
  repeat' (first | (intro _) | with_reducible assumption | with_reducible apply kept_ite | with_reducible apply kept_signedAnswer | (with_reducible first | apply kept_mk | apply kept_mem); first | (intro _) | with_reducible assumption | with_reducible apply kept_ite | with_reducible apply kept_signedAnswer | split)
  all_goals assumption

theorem kept_execGetMeasurements {z : State} (q : SlotSigned) (s : State) (hz : Kept z s) : ∀ zt, execGetMeasurements q s = .next zt → Kept z zt := by
  intro zt e
  unfold execGetMeasurements at e
  refine kept_spdmSlot _ _ _ ?_ hz zt e
  try dsimp only
  repeat' (first | (intro _) | with_reducible assumption | with_reducible apply kept_ite | with_reducible apply kept_signedAnswer | with_reducible apply kept_answer | (with_reducible first | apply kept_mk | apply kept_mem); first | (intro _) | with_reducible assumption | with_reducible apply kept_ite | with_reducible apply kept_signedAnswer | with_reducible apply kept_answer | split)
  all_goals assumption

theorem kept_execKeyExchange {z : State} (q : SlotNonce) (s : State) (hz : Kept z s) : ∀ zt, execKeyExchange q s = .next zt → Kept z zt := by
  intro zt e
  unfold execKeyExchange at e
  refine kept_spdmSlot _ _ _ ?_ hz zt e
  try dsimp only
  repeat' (first | (intro _) | with_reducible assumption | with_reducible apply kept_ite | with_reducible apply kept_signedAnswer | (with_reducible first | apply kept_mk | apply kept_mem); first | (intro _) | with_reducible assumption | with_reducible apply kept_ite | with_reducible apply kept_signedAnswer | split)

theorem kept_execFinish {z : State} (s : State) (hz : Kept z s) : ∀ zt, execFinish s = .next zt → Kept z zt := by
  intro zt e
  unfold execFinish at e
  refine kept_spdm _ _ ?_ hz zt e
  try dsimp only
  repeat' (first | (intro _) | with_reducible assumption | with_reducible apply kept_ite | with_reducible apply kept_answer | (with_reducible first | apply kept_mk | apply kept_mem); first | (intro _) | with_reducible assumption | with_reducible apply kept_ite | with_reducible apply kept_answer | split)

theorem kept_execEndSession {z : State} (s : State) (hz : Kept z s) : ∀ zt, execEndSession s = .next zt → Kept z zt := by
  intro zt e
  unfold execEndSession at e
  refine kept_spdm _ _ ?_ hz zt e
  try dsimp only
  repeat' (first | (intro _) | with_reducible assumption | with_reducible apply kept_ite | with_reducible apply kept_answer | (with_reducible first | apply kept_mk | apply kept_mem); first | (intro _) | with_reducible assumption | with_reducible apply kept_ite | with_reducible apply kept_answer | split)

theorem kept_vendorAnswer {z : State} (s : State) (code result : Nat) (bytes : List Nat) (hz : Kept z s) : Kept z (vendorAnswer s code result bytes) := by
  unfold vendorAnswer
  try dsimp only
  repeat' (first | (intro _) | with_reducible assumption | with_reducible apply kept_ite | with_reducible apply kept_answer | (with_reducible first | apply kept_mk | apply kept_mem); first | (intro _) | with_reducible assumption | with_reducible apply kept_ite | with_reducible apply kept_answer | split)

theorem kept_execGetCosig {z : State} (s : State) (hz : Kept z s) : ∀ zt, execGetCosig s = .next zt → Kept z zt := by
  intro zt e
  unfold execGetCosig at e
  refine kept_spdm _ _ ?_ hz zt e
  try dsimp only
  repeat' (first | (intro _) | with_reducible assumption | with_reducible apply kept_ite | with_reducible apply kept_vendorAnswer | (with_reducible first | apply kept_mk | apply kept_mem); first | (intro _) | with_reducible assumption | with_reducible apply kept_ite | with_reducible apply kept_vendorAnswer | split)

theorem kept_execGetIdrec {z : State} (offset len : Nat) (s : State) (hz : Kept z s) : ∀ zt, execGetIdrec offset len s = .next zt → Kept z zt := by
  intro zt e
  unfold execGetIdrec at e
  refine kept_spdm _ _ ?_ hz zt e
  try dsimp only
  repeat' (first | (intro _) | with_reducible assumption | with_reducible apply kept_ite | with_reducible apply kept_answer | with_reducible apply kept_vendorAnswer | (with_reducible first | apply kept_mk | apply kept_mem); first | (intro _) | with_reducible assumption | with_reducible apply kept_ite | with_reducible apply kept_answer | with_reducible apply kept_vendorAnswer | split)

theorem kept_execJournalHalfErase {z : State} (identity : Bool) (s : State) (h : Kept z s) : ∀ zt, execJournalHalfErase identity s = .next zt → Kept z zt := by
  intro zt e
  unfold execJournalHalfErase at e
  injection e with e
  subst e
  have ok : ∀ j : Journal, nextIndex (switchHalf j) = j.next → JournalLater j (switchHalf j) := fun j e _ =>
    ⟨e, fun n f => ⟨n, f, Nat.le_refl _⟩, fun n f => ⟨n, f, Nat.le_refl _⟩⟩
  cases identity
  · by_cases g : (firmware s && decide (halfEntries - s.nv.prod.used < 1024) && nextIndex (switchHalf s.nv.prod) == s.nv.prod.next) = true
    · have k := ok s.nv.prod (eq_of_beq (Bool.and_eq_true_iff.mp g).2)
      have r := kept_nv (nv := { s.nv with prod := switchHalf s.nv.prod }) h ⟨Nat.le_refl _, id, id, id, fun w => ⟨(k w).1, (k w).2.2⟩, dbg_refl _⟩
      simpa [g] using r
    · simpa [g] using h
  · by_cases g : (firmware s && decide (halfEntries - s.nv.dbgJournal.used < 1024) && nextIndex (switchHalf s.nv.dbgJournal) == s.nv.dbgJournal.next) = true
    · have k := ok s.nv.dbgJournal (eq_of_beq (Bool.and_eq_true_iff.mp g).2)
      have r := kept_nv (nv := { s.nv with dbgJournal := switchHalf s.nv.dbgJournal }) h ⟨Nat.le_refl _, id, id, id, prod_refl _, fun w => ⟨(k w).1, (k w).2.1⟩⟩
      simpa [g] using r
    · simpa [g] using h

theorem kept_execIdeKm {z : State} (m : IdeMsg) (s : State) (hz : Kept z s) : ∀ zt, execIdeKm m s = .next zt → Kept z zt := by
  intro zt e
  unfold execIdeKm at e
  refine kept_spdm _ _ ?_ hz zt e
  try dsimp only
  repeat' (first | (intro _) | with_reducible assumption | with_reducible apply kept_ite | with_reducible apply kept_answer | (with_reducible first | apply kept_mk | apply kept_mem); first | (intro _) | with_reducible assumption | with_reducible apply kept_ite | with_reducible apply kept_answer | split)

theorem kept_fuDone {z : State} (s : State) (st : Status) (hz : Kept z s) : Kept z (fuDone s st) := by
  unfold fuDone
  try dsimp only
  repeat' (first | (intro _) | with_reducible assumption | with_reducible apply kept_ite | with_reducible apply kept_setReg64 | (with_reducible first | apply kept_mk | apply kept_mem); first | (intro _) | with_reducible assumption | with_reducible apply kept_ite | with_reducible apply kept_setReg64 | split)

theorem kept_setFwSlot {z : State} (s : State) (b : Bool) (i : Option Image) (h : Kept z s) : Kept z (setFwSlot s b i) := by
  unfold setFwSlot
  apply kept_nv h
  cases b <;> exact ⟨Nat.le_refl _, id, id, id, prod_refl _, dbg_refl _⟩

theorem kept_fwUpdateWrite {z : State} (s : State) (readBack : Bool) (h : Kept z s) : Kept z (fwUpdateWrite s readBack) := by
  have pref : ∀ (x : State) (b : Byte), Kept z x → Kept z { x with nv := { x.nv with pref := b } } := by
    intro x b k
    apply kept_nv k
    exact ⟨Nat.le_refl _, id, id, id, prod_refl _, dbg_refl _⟩
  unfold fwUpdateWrite
  dsimp only
  repeat' (first | with_reducible assumption | with_reducible apply kept_ite | with_reducible apply kept_fuDone | with_reducible apply kept_bump | with_reducible apply kept_setFwSlot | with_reducible apply pref)

theorem kept_execFwUpdateWrite {z : State} (hdrBack ecdsaBack lmsBack : Bool) (s : State) (hz : Kept z s) : ∀ zt, execFwUpdateWrite hdrBack ecdsaBack lmsBack s = .next zt → Kept z zt := by
  intro zt e
  unfold execFwUpdateWrite at e
  injection e with e
  subst e
  try dsimp only
  repeat' (first | (intro _) | with_reducible assumption | with_reducible apply kept_ite | with_reducible apply kept_fwUpdateWrite | (with_reducible first | apply kept_mk | apply kept_mem); first | (intro _) | with_reducible assumption | with_reducible apply kept_ite | with_reducible apply kept_fwUpdateWrite | split)

theorem kept_fwUpdateCommit {z : State} (s : State) (h : Kept z s) : Kept z (fwUpdateCommit s) := by
  unfold fwUpdateCommit
  refine kept_ite (kept_fuDone _ _ ?_) h
  apply kept_nv h
  exact ⟨Nat.le_max_left _ _, id, id, id, prod_refl _, dbg_refl _⟩

theorem kept_execFwUpdateCommit {z : State} (s : State) (hz : Kept z s) : ∀ zt, execFwUpdateCommit s = .next zt → Kept z zt := by
  intro zt e
  unfold execFwUpdateCommit at e
  injection e with e
  subst e
  try dsimp only
  repeat' (first | (intro _) | with_reducible assumption | with_reducible apply kept_ite | with_reducible apply kept_fwUpdateCommit | (with_reducible first | apply kept_mk | apply kept_mem); first | (intro _) | with_reducible assumption | with_reducible apply kept_ite | with_reducible apply kept_fwUpdateCommit | split)

theorem kept_tap {z : State} (s : State) (code : BitVec 8) (f : State → State) (hf : ∀ t, Kept z t → Kept z (f t)) (h : Kept z s) :
    ∀ zt, tap s code f = .next zt → Kept z zt := by
  intro zt e
  unfold tap at e
  injection e with e
  subst e
  exact kept_ite (hf _ h) h

theorem kept_bypass {z : State} (s : State) (hz : Kept z s) : Kept z (bypass s) := by
  unfold bypass
  try dsimp only
  repeat' (first | (intro _) | with_reducible assumption | with_reducible apply kept_ite | (with_reducible first | apply kept_mk | apply kept_mem); first | (intro _) | with_reducible assumption | with_reducible apply kept_ite | split)

theorem kept_boundaryScan {z : State} (extest : Bool) (s : State) (hz : Kept z s) : Kept z (boundaryScan extest s) := by
  unfold boundaryScan
  try dsimp only
  repeat' (first | (intro _) | with_reducible assumption | with_reducible apply kept_ite | with_reducible apply kept_nextFree | (with_reducible first | apply kept_mk | apply kept_mem); first | (intro _) | with_reducible assumption | with_reducible apply kept_ite | with_reducible apply kept_nextFree | split)

theorem kept_execExtest {z : State} (s : State) (hz : Kept z s) : ∀ zt, execExtest s = .next zt → Kept z zt := by
  intro zt e
  unfold execExtest at e
  refine kept_tap _ _ _ ?_ hz zt e
  try dsimp only
  repeat' (first | (intro _) | with_reducible assumption | with_reducible apply kept_ite | with_reducible apply kept_boundaryScan | with_reducible apply kept_bypass | (with_reducible first | apply kept_mk | apply kept_mem); first | (intro _) | with_reducible assumption | with_reducible apply kept_ite | with_reducible apply kept_boundaryScan | with_reducible apply kept_bypass | split)

theorem kept_execSamplePreload {z : State} (s : State) (hz : Kept z s) : ∀ zt, execSamplePreload s = .next zt → Kept z zt := by
  intro zt e
  unfold execSamplePreload at e
  refine kept_tap _ _ _ ?_ hz zt e
  try dsimp only
  repeat' (first | (intro _) | with_reducible assumption | with_reducible apply kept_ite | with_reducible apply kept_boundaryScan | (with_reducible first | apply kept_mk | apply kept_mem); first | (intro _) | with_reducible assumption | with_reducible apply kept_ite | with_reducible apply kept_boundaryScan | split)

theorem kept_execBypass {z : State} (s : State) (hz : Kept z s) : ∀ zt, execBypass s = .next zt → Kept z zt := by
  intro zt e
  unfold execBypass at e
  refine kept_tap _ _ _ ?_ hz zt e
  try dsimp only
  repeat' (first | (intro _) | with_reducible assumption | with_reducible apply kept_ite | with_reducible apply kept_bypass | (with_reducible first | apply kept_mk | apply kept_mem); first | (intro _) | with_reducible assumption | with_reducible apply kept_ite | with_reducible apply kept_bypass | split)

theorem kept_execIdcode {z : State} (s : State) (hz : Kept z s) : ∀ zt, execIdcode s = .next zt → Kept z zt := by
  intro zt e
  unfold execIdcode at e
  refine kept_tap _ _ _ ?_ hz zt e
  try dsimp only
  repeat' (first | (intro _) | with_reducible assumption | with_reducible apply kept_ite | (with_reducible first | apply kept_mk | apply kept_mem); first | (intro _) | with_reducible assumption | with_reducible apply kept_ite | split)

theorem kept_execZdpNonce {z : State} (s : State) (hz : Kept z s) : ∀ zt, execZdpNonce s = .next zt → Kept z zt := by
  intro zt e
  unfold execZdpNonce at e
  refine kept_tap _ _ _ ?_ hz zt e
  try dsimp only
  repeat' (first | (intro _) | with_reducible assumption | with_reducible apply kept_ite | (with_reducible first | apply kept_mk | apply kept_mem); first | (intro _) | with_reducible assumption | with_reducible apply kept_ite | split)

theorem kept_unlock {z : State} (s : State) (h : Kept z s) : Kept z (unlock s) := by
  unfold unlock
  dsimp only
  apply kept_mk
  refine kept_ite h (kept_eraseSecrets _ ?_)
  apply kept_nv h
  exact ⟨Nat.le_refl _, fun _ => rfl, id, id, prod_refl _, dbg_refl _⟩

theorem kept_zdpToken {z : State} (s : State) (t : BitVec 15456) (hz : Kept z s) : Kept z (zdpToken s t) := by
  unfold zdpToken
  try dsimp only
  repeat' (first | (intro _) | with_reducible assumption | with_reducible apply kept_ite | with_reducible apply kept_unlock | with_reducible apply kept_bump | with_reducible apply kept_nextFree | (with_reducible first | apply kept_mk | apply kept_mem); first | (intro _) | with_reducible assumption | with_reducible apply kept_ite | with_reducible apply kept_unlock | with_reducible apply kept_bump | with_reducible apply kept_nextFree | split)

theorem kept_execZdpToken {z : State} (t : BitVec 15456) (s : State) (hz : Kept z s) : ∀ zt, execZdpToken t s = .next zt → Kept z zt := by
  intro zt e
  unfold execZdpToken at e
  refine kept_tap _ _ _ ?_ hz zt e
  try dsimp only
  repeat' (first | (intro _) | with_reducible assumption | with_reducible apply kept_ite | with_reducible apply kept_zdpToken | (with_reducible first | apply kept_mk | apply kept_mem); first | (intro _) | with_reducible assumption | with_reducible apply kept_ite | with_reducible apply kept_zdpToken | split)

theorem kept_zdpDone {z : State} (s : State) (st : Status) (hz : Kept z s) : Kept z (zdpDone s st) := by
  unfold zdpDone
  try dsimp only
  repeat' (first | (intro _) | with_reducible assumption | with_reducible apply kept_ite | (with_reducible first | apply kept_mk | apply kept_mem); first | (intro _) | with_reducible assumption | with_reducible apply kept_ite | split)

theorem kept_zdpRead {z : State} (s : State) (v : Nat) (hz : Kept z s) : Kept z (zdpRead s v) := by
  unfold zdpRead
  try dsimp only
  repeat' (first | (intro _) | with_reducible assumption | with_reducible apply kept_ite | with_reducible apply kept_zdpDone | (with_reducible first | apply kept_mk | apply kept_mem); first | (intro _) | with_reducible assumption | with_reducible apply kept_ite | with_reducible apply kept_zdpDone | split)

theorem kept_zdpRefuse {z : State} (s : State) (hz : Kept z s) : Kept z (zdpRefuse s) := by
  unfold zdpRefuse
  try dsimp only
  repeat' (first | (intro _) | with_reducible assumption | with_reducible apply kept_ite | with_reducible apply kept_nextFree | (with_reducible first | apply kept_mk | apply kept_mem); first | (intro _) | with_reducible assumption | with_reducible apply kept_ite | with_reducible apply kept_nextFree | split)

theorem kept_zdpHold {z : State} (s : State) (op : ZdpOp) (a : ZdpAddr) (data : Line) (hz : Kept z s) : Kept z (zdpHold s op a data) := by
  unfold zdpHold
  try dsimp only
  repeat' (first | (intro _) | with_reducible assumption | with_reducible apply kept_ite | (with_reducible first | apply kept_mk | apply kept_mem); first | (intro _) | with_reducible assumption | with_reducible apply kept_ite | split)

theorem kept_setDbgReg {z : State} (s : State) (t n v : Nat) (hz : Kept z s) : Kept z (setDbgReg s t n v) := by
  unfold setDbgReg
  try dsimp only
  repeat' (first | (intro _) | with_reducible assumption | with_reducible apply kept_ite | (with_reducible first | apply kept_mk | apply kept_mem); first | (intro _) | with_reducible assumption | with_reducible apply kept_ite | split)

theorem kept_dropDbgRegs {z : State} (s : State) (t : Nat) (hz : Kept z s) : Kept z (dropDbgRegs s t) := by
  unfold dropDbgRegs
  try dsimp only
  repeat' (first | (intro _) | with_reducible assumption | with_reducible apply kept_ite | (with_reducible first | apply kept_mk | apply kept_mem); first | (intro _) | with_reducible assumption | with_reducible apply kept_ite | split)

theorem kept_readTarget {z : State} (s : State) (y0 : ZdpTarget) (y1 : ZdpAddr) (hz : Kept z s) : Kept z (readTarget s y0 y1) := by
  unfold readTarget
  try dsimp only
  repeat' (first | (intro _) | with_reducible assumption | with_reducible apply kept_ite | with_reducible apply kept_zdpRead | with_reducible apply kept_nextFree | with_reducible apply kept_zdpRefuse | with_reducible apply kept_zdpDone | with_reducible apply kept_zdpHold | with_reducible apply kept_sendBisnp | (with_reducible first | apply kept_mk | apply kept_mem); first | (intro _) | with_reducible assumption | with_reducible apply kept_ite | with_reducible apply kept_zdpRead | with_reducible apply kept_nextFree | with_reducible apply kept_zdpRefuse | with_reducible apply kept_zdpDone | with_reducible apply kept_zdpHold | with_reducible apply kept_sendBisnp | split)

theorem kept_writeTarget {z : State} (s : State) (data : Line) (y0 : ZdpTarget) (y1 : ZdpAddr) (hz : Kept z s) : Kept z (writeTarget s data y0 y1) := by
  unfold writeTarget
  try dsimp only
  repeat' (first | (intro _) | with_reducible assumption | with_reducible apply kept_ite | with_reducible apply kept_zdpDone | with_reducible apply kept_setDbgReg | with_reducible apply kept_zdpRefuse | with_reducible apply kept_zdpHold | with_reducible apply kept_sendBisnp | with_reducible apply kept_writeLine | (with_reducible first | apply kept_mk | apply kept_mem); first | (intro _) | with_reducible assumption | with_reducible apply kept_ite | with_reducible apply kept_zdpDone | with_reducible apply kept_setDbgReg | with_reducible apply kept_zdpRefuse | with_reducible apply kept_zdpHold | with_reducible apply kept_sendBisnp | with_reducible apply kept_writeLine | split)

theorem kept_zdpGo {z : State} (s : State) (t : ZdpTarget) (hz : Kept z s) : Kept z (zdpGo s t) := by
  unfold zdpGo
  try dsimp only
  repeat' (first | (intro _) | with_reducible assumption | with_reducible apply kept_ite | with_reducible apply kept_dropDbgRegs | with_reducible apply kept_pumpRemotes | (with_reducible first | apply kept_mk | apply kept_mem); first | (intro _) | with_reducible assumption | with_reducible apply kept_ite | with_reducible apply kept_dropDbgRegs | with_reducible apply kept_pumpRemotes | split)

theorem kept_zdpDo {z : State} (s : State) (op : ZdpOp) (t : ZdpTarget) (a : ZdpAddr) (data : Line) (hz : Kept z s) : Kept z (zdpDo s op t a data) := by
  unfold zdpDo
  try dsimp only
  repeat' (first | (intro _) | with_reducible assumption | with_reducible apply kept_ite | with_reducible apply kept_zdpDone | with_reducible apply kept_zdpRefuse | with_reducible apply kept_dropDbgRegs | with_reducible apply kept_resumeCore | with_reducible apply kept_zdpGo | with_reducible apply kept_readTarget | with_reducible apply kept_writeTarget | (with_reducible first | apply kept_mk | apply kept_mem); first | (intro _) | with_reducible assumption | with_reducible apply kept_ite | with_reducible apply kept_zdpDone | with_reducible apply kept_zdpRefuse | with_reducible apply kept_dropDbgRegs | with_reducible apply kept_resumeCore | with_reducible apply kept_zdpGo | with_reducible apply kept_readTarget | with_reducible apply kept_writeTarget | split)

theorem kept_zdpRetry {z : State} (s : State) (hz : Kept z s) : Kept z (zdpRetry s) := by
  unfold zdpRetry
  try dsimp only
  repeat' (first | (intro _) | with_reducible assumption | with_reducible apply kept_ite | with_reducible apply kept_zdpDo | (with_reducible first | apply kept_mk | apply kept_mem); first | (intro _) | with_reducible assumption | with_reducible apply kept_ite | with_reducible apply kept_zdpDo | split)

theorem kept_execZdpStatus {z : State} (s : State) (hz : Kept z s) : ∀ zt, execZdpStatus s = .next zt → Kept z zt := by
  intro zt e
  unfold execZdpStatus at e
  refine kept_tap _ _ _ ?_ hz zt e
  try dsimp only
  repeat' (first | (intro _) | with_reducible assumption | with_reducible apply kept_ite | with_reducible apply kept_zdpRetry | (with_reducible first | apply kept_mk | apply kept_mem); first | (intro _) | with_reducible assumption | with_reducible apply kept_ite | with_reducible apply kept_zdpRetry | split)

theorem kept_execZdpCmd {z : State} (op : ZdpOp) (t : ZdpTarget) (addr : ZdpAddr) (data : Line) (s : State) (hz : Kept z s) : ∀ zt, execZdpCmd op t addr data s = .next zt → Kept z zt := by
  intro zt e
  unfold execZdpCmd at e
  refine kept_tap _ _ _ ?_ hz zt e
  try dsimp only
  repeat' (first | (intro _) | with_reducible assumption | with_reducible apply kept_ite | with_reducible apply kept_zdpRetry | with_reducible apply kept_zdpDo | with_reducible apply kept_bypass | (with_reducible first | apply kept_mk | apply kept_mem); first | (intro _) | with_reducible assumption | with_reducible apply kept_ite | with_reducible apply kept_zdpRetry | with_reducible apply kept_zdpDo | with_reducible apply kept_bypass | split)

theorem kept_smbus {z : State} (s : State) (l : List Nat) (hz : Kept z s) : ∀ zt, smbus s l = .next zt → Kept z zt := by
  intro zt e
  unfold smbus at e
  injection e with e
  subst e
  try dsimp only
  repeat' (first | (intro _) | with_reducible assumption | with_reducible apply kept_ite | (with_reducible first | apply kept_mk | apply kept_mem); first | (intro _) | with_reducible assumption | with_reducible apply kept_ite | split)

theorem kept_execSmbusPartNumber {z : State} (s : State) (hz : Kept z s) : ∀ zt, execSmbusPartNumber s = .next zt → Kept z zt := by
  intro zt e
  unfold execSmbusPartNumber at e
  refine kept_smbus _ _ hz zt e

theorem kept_execSmbusSerial {z : State} (s : State) (hz : Kept z s) : ∀ zt, execSmbusSerial s = .next zt → Kept z zt := by
  intro zt e
  unfold execSmbusSerial at e
  refine kept_smbus _ _ hz zt e

theorem kept_execSmbusTopState {z : State} (s : State) (hz : Kept z s) : ∀ zt, execSmbusTopState s = .next zt → Kept z zt := by
  intro zt e
  unfold execSmbusTopState at e
  refine kept_smbus _ _ hz zt e

theorem kept_execSmbusPower {z : State} (s : State) (hz : Kept z s) : ∀ zt, execSmbusPower s = .next zt → Kept z zt := by
  intro zt e
  unfold execSmbusPower at e
  refine kept_smbus _ _ hz zt e

theorem kept_execSmbusThermal {z : State} (volts : Nat) (s : State) (hz : Kept z s) : ∀ zt, execSmbusThermal volts s = .next zt → Kept z zt := by
  intro zt e
  unfold execSmbusThermal at e
  refine kept_smbus _ _ hz zt e

theorem kept_putWord {z : State} (s : State) (o : Nat) (w : Word) (hz : Kept z s) : Kept z (putWord s o w) := by
  unfold putWord
  try dsimp only
  repeat' (first | (intro _) | with_reducible assumption | with_reducible apply kept_ite | with_reducible apply kept_setReg32 | (with_reducible first | apply kept_mk | apply kept_mem); first | (intro _) | with_reducible assumption | with_reducible apply kept_ite | with_reducible apply kept_setReg32 | split)

theorem kept_putRingWord {z : State} (s : State) (o : Nat) (w : Word) (hz : Kept z s) : Kept z (putRingWord s o w) := by
  unfold putRingWord
  try dsimp only
  repeat' (first | (intro _) | with_reducible assumption | with_reducible apply kept_ite | with_reducible apply kept_setReg32 | (with_reducible first | apply kept_mk | apply kept_mem); first | (intro _) | with_reducible assumption | with_reducible apply kept_ite | with_reducible apply kept_setReg32 | split)

theorem kept_ringWrite {z : State} (s : State) (r : Nat) (ws : List (Nat × Word)) (hz : Kept z s) : Kept z (ringWrite s r ws) := by
  unfold ringWrite
  try dsimp only
  repeat' (first | (intro _) | with_reducible assumption | with_reducible apply kept_ite | with_reducible apply kept_foldl | with_reducible apply kept_foldl_fst | with_reducible apply kept_ringDisable | with_reducible apply kept_setReg64 | with_reducible apply kept_putRingWord | with_reducible apply kept_ringEnable | (with_reducible first | apply kept_mk | apply kept_mem); first | (intro _) | with_reducible assumption | with_reducible apply kept_ite | with_reducible apply kept_foldl | with_reducible apply kept_foldl_fst | with_reducible apply kept_ringDisable | with_reducible apply kept_setReg64 | with_reducible apply kept_putRingWord | with_reducible apply kept_ringEnable | split)

theorem kept_unmask {z : State} (s : State) (o : Nat) (hz : Kept z s) : Kept z (unmask s o) := by
  unfold unmask
  try dsimp only
  repeat' (first | (intro _) | with_reducible assumption | with_reducible apply kept_ite | with_reducible apply kept_msixEmit | (with_reducible first | apply kept_mk | apply kept_mem); first | (intro _) | with_reducible assumption | with_reducible apply kept_ite | with_reducible apply kept_msixEmit | split)

theorem kept_portWrite {z : State} (s : State) (p : Nat) (w : Word) (hz : Kept z s) : Kept z (portWrite s p w) := by
  unfold portWrite
  try dsimp only
  repeat' (first | (intro _) | with_reducible assumption | with_reducible apply kept_ite | with_reducible apply kept_setReg32 | with_reducible apply kept_enablePort | with_reducible apply kept_portDown | (with_reducible first | apply kept_mk | apply kept_mem); first | (intro _) | with_reducible assumption | with_reducible apply kept_ite | with_reducible apply kept_setReg32 | with_reducible apply kept_enablePort | with_reducible apply kept_portDown | split)

theorem kept_fwGo {z : State} (s : State) (old : BitVec 64) (hz : Kept z s) : Kept z (fwGo s old) := by
  unfold fwGo
  try dsimp only
  repeat' (first | (intro _) | with_reducible assumption | with_reducible apply kept_ite | with_reducible apply kept_setReg64 | (with_reducible first | apply kept_mk | apply kept_mem); first | (intro _) | with_reducible assumption | with_reducible apply kept_ite | with_reducible apply kept_setReg64 | split)

theorem kept_routeWritten {z : State} (old s : State) (dst k : Nat) (hz : Kept z s) : Kept z (routeWritten old s dst k) := by
  unfold routeWritten
  try dsimp only
  repeat' (first | (intro _) | with_reducible assumption | with_reducible apply kept_ite | with_reducible apply kept_pumpRemotes | with_reducible apply kept_resendRemotes | (with_reducible first | apply kept_mk | apply kept_mem); first | (intro _) | with_reducible assumption | with_reducible apply kept_ite | with_reducible apply kept_pumpRemotes | with_reducible apply kept_resendRemotes | split)

theorem kept_plainWrite {z : State} (s : State) (ws : List (Nat × Word)) (hz : Kept z s) : Kept z (plainWrite s ws) := by
  unfold plainWrite
  try dsimp only
  repeat' (first | (intro _) | with_reducible assumption | with_reducible apply kept_ite | with_reducible apply kept_foldl | with_reducible apply kept_foldl_fst | with_reducible apply kept_putWord | with_reducible apply kept_fwGo | with_reducible apply kept_unmask | with_reducible apply kept_pumpRoutes | with_reducible apply kept_routeWritten | (with_reducible first | apply kept_mk | apply kept_mem); first | (intro _) | with_reducible assumption | with_reducible apply kept_ite | with_reducible apply kept_foldl | with_reducible apply kept_foldl_fst | with_reducible apply kept_putWord | with_reducible apply kept_fwGo | with_reducible apply kept_unmask | with_reducible apply kept_pumpRoutes | with_reducible apply kept_routeWritten | split)

theorem kept_clearBits {z : State} (s : State) (ws : List (Nat × Word)) (hz : Kept z s) : Kept z (clearBits s ws) := by
  unfold clearBits
  try dsimp only
  repeat' (first | (intro _) | with_reducible assumption | with_reducible apply kept_ite | with_reducible apply kept_foldl | with_reducible apply kept_foldl_fst | (with_reducible first | apply kept_mk | apply kept_mem); first | (intro _) | with_reducible assumption | with_reducible apply kept_ite | with_reducible apply kept_foldl | with_reducible apply kept_foldl_fst | split)

theorem kept_execW1cWrite {z : State} (off : Nat) (v : BitVec 64) (s : State) (hz : Kept z s) : ∀ zt, execW1cWrite off v s = .next zt → Kept z zt := by
  intro zt e
  unfold execW1cWrite at e
  injection e with e
  subst e
  try dsimp only
  repeat' (first | (intro _) | with_reducible assumption | with_reducible apply kept_ite | with_reducible apply kept_clearBits | (with_reducible first | apply kept_mk | apply kept_mem); first | (intro _) | with_reducible assumption | with_reducible apply kept_ite | with_reducible apply kept_clearBits | split)

theorem kept_registerWrite {z : State} (s : State) (off size : Nat) (v : BitVec 64) (hz : Kept z s) : Kept z (registerWrite s off size v) := by
  unfold registerWrite
  try dsimp only
  repeat' (first | (intro _) | with_reducible assumption | with_reducible apply kept_ite | with_reducible apply kept_foldl | with_reducible apply kept_foldl_fst | with_reducible apply kept_ringWrite | with_reducible apply kept_setTstrip | with_reducible apply kept_portWrite | with_reducible apply kept_plainWrite | with_reducible apply kept_clearBits | (with_reducible first | apply kept_mk | apply kept_mem); first | (intro _) | with_reducible assumption | with_reducible apply kept_ite | with_reducible apply kept_foldl | with_reducible apply kept_foldl_fst | with_reducible apply kept_ringWrite | with_reducible apply kept_setTstrip | with_reducible apply kept_portWrite | with_reducible apply kept_plainWrite | with_reducible apply kept_clearBits | split)

theorem kept_execRegisterWrite {z : State} (off size : Nat) (v : BitVec 64) (s : State) (hz : Kept z s) : ∀ zt, execRegisterWrite off size v s = .next zt → Kept z zt := by
  intro zt e
  unfold execRegisterWrite at e
  injection e with e
  subst e
  try dsimp only
  repeat' (first | (intro _) | with_reducible assumption | with_reducible apply kept_ite | with_reducible apply kept_registerWrite | (with_reducible first | apply kept_mk | apply kept_mem); first | (intro _) | with_reducible assumption | with_reducible apply kept_ite | with_reducible apply kept_registerWrite | split)

theorem kept_execBar0UnsupportedAccess {z : State} (off size : Nat) (_write : Bool) (s : State) (hz : Kept z s) : ∀ zt, execBar0UnsupportedAccess off size _write s = .next zt → Kept z zt := by
  intro zt e
  unfold execBar0UnsupportedAccess at e
  injection e with e
  subst e
  try dsimp only
  repeat' (first | (intro _) | with_reducible assumption | with_reducible apply kept_ite | (with_reducible first | apply kept_mk | apply kept_mem); first | (intro _) | with_reducible assumption | with_reducible apply kept_ite | split)

end Sys2Proof.Machine
end

