-- ==== Sys2Proof/Laws/State.lean ====
section
/-!
SUPPORT. What the updates of the state and of a core leave unchanged, field by field, and what reading after an update gives.
-/
namespace Sys2Proof.Machine

/-! ### Updates of the state -/

@[simp] theorem setCore_pending (s : State) (c : Nat) (k : Core) : (setCore s c k).pending = s.pending := rfl
@[simp] theorem setCore_fit (s : State) (c : Nat) (k : Core) : (setCore s c k).fit = s.fit := rfl
@[simp] theorem setCore_m (s : State) (c : Nat) (k : Core) : (setCore s c k).m = s.m := rfl
@[simp] theorem setCore_sh (s : State) (c : Nat) (k : Core) : (setCore s c k).sh = s.sh := rfl
@[simp] theorem setCore_cm (s : State) (c : Nat) (k : Core) : (setCore s c k).cm = s.cm := rfl
@[simp] theorem setCore_fx (s : State) (c : Nat) (k : Core) : (setCore s c k).fx = s.fx := rfl
@[simp] theorem setCore_fb (s : State) (c : Nat) (k : Core) : (setCore s c k).fb = s.fb := rfl
@[simp] theorem setCore_tr (s : State) (c : Nat) (k : Core) : (setCore s c k).tr = s.tr := rfl
@[simp] theorem setCore_bu (s : State) (c : Nat) (k : Core) : (setCore s c k).bu = s.bu := rfl
@[simp] theorem setCore_sec (s : State) (c : Nat) (k : Core) : (setCore s c k).sec = s.sec := rfl
@[simp] theorem setCore_nv (s : State) (c : Nat) (k : Core) : (setCore s c k).nv = s.nv := rfl
@[simp] theorem setCore_pw (s : State) (c : Nat) (k : Core) : (setCore s c k).pw = s.pw := rfl
@[simp] theorem setCore_host (s : State) (c : Nat) (k : Core) : (setCore s c k).host = s.host := rfl
@[simp] theorem setCore_freeIx (s : State) (c : Nat) (k : Core) : (setCore s c k).freeIx = s.freeIx := rfl
@[simp] theorem setCore_resp (s : State) (c : Nat) (k : Core) : (setCore s c k).resp = s.resp := rfl

@[simp] theorem bump_pending (s : State) (i n : Nat) : (bump s i n).pending = s.pending := rfl
@[simp] theorem bump_fit (s : State) (i n : Nat) : (bump s i n).fit = s.fit := rfl
@[simp] theorem bump_cores (s : State) (i n : Nat) : (bump s i n).cores = s.cores := rfl
@[simp] theorem bump_m (s : State) (i n : Nat) : (bump s i n).m = s.m := rfl
@[simp] theorem bump_sh (s : State) (i n : Nat) : (bump s i n).sh = s.sh := rfl
@[simp] theorem bump_fx (s : State) (i n : Nat) : (bump s i n).fx = s.fx := rfl
@[simp] theorem bump_fb (s : State) (i n : Nat) : (bump s i n).fb = s.fb := rfl
@[simp] theorem bump_tr (s : State) (i n : Nat) : (bump s i n).tr = s.tr := rfl
@[simp] theorem bump_bu (s : State) (i n : Nat) : (bump s i n).bu = s.bu := rfl
@[simp] theorem bump_sec (s : State) (i n : Nat) : (bump s i n).sec = s.sec := rfl
@[simp] theorem bump_nv (s : State) (i n : Nat) : (bump s i n).nv = s.nv := rfl
@[simp] theorem bump_pw (s : State) (i n : Nat) : (bump s i n).pw = s.pw := rfl
@[simp] theorem bump_host (s : State) (i n : Nat) : (bump s i n).host = s.host := rfl
@[simp] theorem bump_freeIx (s : State) (i n : Nat) : (bump s i n).freeIx = s.freeIx := rfl
@[simp] theorem bump_resp (s : State) (i n : Nat) : (bump s i n).resp = s.resp := rfl

@[simp] theorem setReg32_pending (s : State) (o : Nat) (v : Word) : (setReg32 s o v).pending = s.pending := rfl
@[simp] theorem setReg32_fit (s : State) (o : Nat) (v : Word) : (setReg32 s o v).fit = s.fit := rfl
@[simp] theorem setReg32_cores (s : State) (o : Nat) (v : Word) : (setReg32 s o v).cores = s.cores := rfl
@[simp] theorem setReg32_m (s : State) (o : Nat) (v : Word) : (setReg32 s o v).m = s.m := rfl
@[simp] theorem setReg32_sh (s : State) (o : Nat) (v : Word) : (setReg32 s o v).sh = s.sh := rfl
@[simp] theorem setReg32_fx (s : State) (o : Nat) (v : Word) : (setReg32 s o v).fx = s.fx := rfl
@[simp] theorem setReg32_fb (s : State) (o : Nat) (v : Word) : (setReg32 s o v).fb = s.fb := rfl
@[simp] theorem setReg32_tr (s : State) (o : Nat) (v : Word) : (setReg32 s o v).tr = s.tr := rfl
@[simp] theorem setReg32_bu (s : State) (o : Nat) (v : Word) : (setReg32 s o v).bu = s.bu := rfl
@[simp] theorem setReg32_sec (s : State) (o : Nat) (v : Word) : (setReg32 s o v).sec = s.sec := rfl
@[simp] theorem setReg32_nv (s : State) (o : Nat) (v : Word) : (setReg32 s o v).nv = s.nv := rfl
@[simp] theorem setReg32_pw (s : State) (o : Nat) (v : Word) : (setReg32 s o v).pw = s.pw := rfl
@[simp] theorem setReg32_host (s : State) (o : Nat) (v : Word) : (setReg32 s o v).host = s.host := rfl
@[simp] theorem setReg32_freeIx (s : State) (o : Nat) (v : Word) : (setReg32 s o v).freeIx = s.freeIx := rfl
@[simp] theorem setReg32_resp (s : State) (o : Nat) (v : Word) : (setReg32 s o v).resp = s.resp := rfl

@[simp] theorem setDir_pending (s : State) (b : Nat) (e : DirEntry) : (setDir s b e).pending = s.pending := rfl
@[simp] theorem setDir_fit (s : State) (b : Nat) (e : DirEntry) : (setDir s b e).fit = s.fit := rfl
@[simp] theorem setDir_cores (s : State) (b : Nat) (e : DirEntry) : (setDir s b e).cores = s.cores := rfl
@[simp] theorem setDir_sh (s : State) (b : Nat) (e : DirEntry) : (setDir s b e).sh = s.sh := rfl
@[simp] theorem setDir_cm (s : State) (b : Nat) (e : DirEntry) : (setDir s b e).cm = s.cm := rfl
@[simp] theorem setDir_fx (s : State) (b : Nat) (e : DirEntry) : (setDir s b e).fx = s.fx := rfl
@[simp] theorem setDir_fb (s : State) (b : Nat) (e : DirEntry) : (setDir s b e).fb = s.fb := rfl
@[simp] theorem setDir_tr (s : State) (b : Nat) (e : DirEntry) : (setDir s b e).tr = s.tr := rfl
@[simp] theorem setDir_bu (s : State) (b : Nat) (e : DirEntry) : (setDir s b e).bu = s.bu := rfl
@[simp] theorem setDir_sec (s : State) (b : Nat) (e : DirEntry) : (setDir s b e).sec = s.sec := rfl
@[simp] theorem setDir_nv (s : State) (b : Nat) (e : DirEntry) : (setDir s b e).nv = s.nv := rfl
@[simp] theorem setDir_pw (s : State) (b : Nat) (e : DirEntry) : (setDir s b e).pw = s.pw := rfl
@[simp] theorem setDir_host (s : State) (b : Nat) (e : DirEntry) : (setDir s b e).host = s.host := rfl
@[simp] theorem setDir_freeIx (s : State) (b : Nat) (e : DirEntry) : (setDir s b e).freeIx = s.freeIx := rfl
@[simp] theorem setDir_resp (s : State) (b : Nat) (e : DirEntry) : (setDir s b e).resp = s.resp := rfl

@[simp] theorem setChan_pending (s : State) (p ch : Nat) (x : Chan) : (setChan s p ch x).pending = s.pending := rfl
@[simp] theorem setChan_fit (s : State) (p ch : Nat) (x : Chan) : (setChan s p ch x).fit = s.fit := rfl
@[simp] theorem setChan_cores (s : State) (p ch : Nat) (x : Chan) : (setChan s p ch x).cores = s.cores := rfl
@[simp] theorem setChan_sh (s : State) (p ch : Nat) (x : Chan) : (setChan s p ch x).sh = s.sh := rfl
@[simp] theorem setChan_cm (s : State) (p ch : Nat) (x : Chan) : (setChan s p ch x).cm = s.cm := rfl
@[simp] theorem setChan_fx (s : State) (p ch : Nat) (x : Chan) : (setChan s p ch x).fx = s.fx := rfl
@[simp] theorem setChan_fb (s : State) (p ch : Nat) (x : Chan) : (setChan s p ch x).fb = s.fb := rfl
@[simp] theorem setChan_tr (s : State) (p ch : Nat) (x : Chan) : (setChan s p ch x).tr = s.tr := rfl
@[simp] theorem setChan_bu (s : State) (p ch : Nat) (x : Chan) : (setChan s p ch x).bu = s.bu := rfl
@[simp] theorem setChan_sec (s : State) (p ch : Nat) (x : Chan) : (setChan s p ch x).sec = s.sec := rfl
@[simp] theorem setChan_nv (s : State) (p ch : Nat) (x : Chan) : (setChan s p ch x).nv = s.nv := rfl
@[simp] theorem setChan_pw (s : State) (p ch : Nat) (x : Chan) : (setChan s p ch x).pw = s.pw := rfl
@[simp] theorem setChan_host (s : State) (p ch : Nat) (x : Chan) : (setChan s p ch x).host = s.host := rfl
@[simp] theorem setChan_freeIx (s : State) (p ch : Nat) (x : Chan) : (setChan s p ch x).freeIx = s.freeIx := rfl
@[simp] theorem setChan_resp (s : State) (p ch : Nat) (x : Chan) : (setChan s p ch x).resp = s.resp := rfl

@[simp] theorem setPort_pending (s : State) (p : Nat) (x : Port) : (setPort s p x).pending = s.pending := rfl
@[simp] theorem setPort_fit (s : State) (p : Nat) (x : Port) : (setPort s p x).fit = s.fit := rfl
@[simp] theorem setPort_cores (s : State) (p : Nat) (x : Port) : (setPort s p x).cores = s.cores := rfl
@[simp] theorem setPort_m (s : State) (p : Nat) (x : Port) : (setPort s p x).m = s.m := rfl
@[simp] theorem setPort_sh (s : State) (p : Nat) (x : Port) : (setPort s p x).sh = s.sh := rfl
@[simp] theorem setPort_cm (s : State) (p : Nat) (x : Port) : (setPort s p x).cm = s.cm := rfl
@[simp] theorem setPort_fx (s : State) (p : Nat) (x : Port) : (setPort s p x).fx = s.fx := rfl
@[simp] theorem setPort_tr (s : State) (p : Nat) (x : Port) : (setPort s p x).tr = s.tr := rfl
@[simp] theorem setPort_bu (s : State) (p : Nat) (x : Port) : (setPort s p x).bu = s.bu := rfl
@[simp] theorem setPort_sec (s : State) (p : Nat) (x : Port) : (setPort s p x).sec = s.sec := rfl
@[simp] theorem setPort_nv (s : State) (p : Nat) (x : Port) : (setPort s p x).nv = s.nv := rfl
@[simp] theorem setPort_pw (s : State) (p : Nat) (x : Port) : (setPort s p x).pw = s.pw := rfl
@[simp] theorem setPort_host (s : State) (p : Nat) (x : Port) : (setPort s p x).host = s.host := rfl
@[simp] theorem setPort_freeIx (s : State) (p : Nat) (x : Port) : (setPort s p x).freeIx = s.freeIx := rfl
@[simp] theorem setPort_resp (s : State) (p : Nat) (x : Port) : (setPort s p x).resp = s.resp := rfl

@[simp] theorem setCmds_pending (s : State) (l : List Cmd) : (setCmds s l).pending = s.pending := rfl
@[simp] theorem setCmds_fit (s : State) (l : List Cmd) : (setCmds s l).fit = s.fit := rfl
@[simp] theorem setCmds_cores (s : State) (l : List Cmd) : (setCmds s l).cores = s.cores := rfl
@[simp] theorem setCmds_m (s : State) (l : List Cmd) : (setCmds s l).m = s.m := rfl
@[simp] theorem setCmds_sh (s : State) (l : List Cmd) : (setCmds s l).sh = s.sh := rfl
@[simp] theorem setCmds_fx (s : State) (l : List Cmd) : (setCmds s l).fx = s.fx := rfl
@[simp] theorem setCmds_fb (s : State) (l : List Cmd) : (setCmds s l).fb = s.fb := rfl
@[simp] theorem setCmds_tr (s : State) (l : List Cmd) : (setCmds s l).tr = s.tr := rfl
@[simp] theorem setCmds_bu (s : State) (l : List Cmd) : (setCmds s l).bu = s.bu := rfl
@[simp] theorem setCmds_sec (s : State) (l : List Cmd) : (setCmds s l).sec = s.sec := rfl
@[simp] theorem setCmds_nv (s : State) (l : List Cmd) : (setCmds s l).nv = s.nv := rfl
@[simp] theorem setCmds_pw (s : State) (l : List Cmd) : (setCmds s l).pw = s.pw := rfl
@[simp] theorem setCmds_host (s : State) (l : List Cmd) : (setCmds s l).host = s.host := rfl
@[simp] theorem setCmds_freeIx (s : State) (l : List Cmd) : (setCmds s l).freeIx = s.freeIx := rfl
@[simp] theorem setCmds_resp (s : State) (l : List Cmd) : (setCmds s l).resp = s.resp := rfl

@[simp] theorem writeLine_pending (s : State) (l : Nat) (v : Line) : (writeLine s l v).pending = s.pending := by unfold writeLine; rfl
@[simp] theorem writeLine_fit (s : State) (l : Nat) (v : Line) : (writeLine s l v).fit = s.fit := by unfold writeLine; rfl
@[simp] theorem writeLine_cores (s : State) (l : Nat) (v : Line) : (writeLine s l v).cores = s.cores := by unfold writeLine; rfl
@[simp] theorem writeLine_sh (s : State) (l : Nat) (v : Line) : (writeLine s l v).sh = s.sh := by unfold writeLine; rfl
@[simp] theorem writeLine_cm (s : State) (l : Nat) (v : Line) : (writeLine s l v).cm = s.cm := by unfold writeLine; rfl
@[simp] theorem writeLine_fx (s : State) (l : Nat) (v : Line) : (writeLine s l v).fx = s.fx := by unfold writeLine; rfl
@[simp] theorem writeLine_fb (s : State) (l : Nat) (v : Line) : (writeLine s l v).fb = s.fb := by unfold writeLine; rfl
@[simp] theorem writeLine_tr (s : State) (l : Nat) (v : Line) : (writeLine s l v).tr = s.tr := by unfold writeLine; rfl
@[simp] theorem writeLine_bu (s : State) (l : Nat) (v : Line) : (writeLine s l v).bu = s.bu := by unfold writeLine; rfl
@[simp] theorem writeLine_sec (s : State) (l : Nat) (v : Line) : (writeLine s l v).sec = s.sec := by unfold writeLine; rfl
@[simp] theorem writeLine_nv (s : State) (l : Nat) (v : Line) : (writeLine s l v).nv = s.nv := by unfold writeLine; rfl
@[simp] theorem writeLine_pw (s : State) (l : Nat) (v : Line) : (writeLine s l v).pw = s.pw := by unfold writeLine; rfl
@[simp] theorem writeLine_host (s : State) (l : Nat) (v : Line) : (writeLine s l v).host = s.host := by unfold writeLine; rfl
@[simp] theorem writeLine_freeIx (s : State) (l : Nat) (v : Line) : (writeLine s l v).freeIx = s.freeIx := by unfold writeLine; rfl
@[simp] theorem writeLine_resp (s : State) (l : Nat) (v : Line) : (writeLine s l v).resp = s.resp := by unfold writeLine; rfl

@[simp] theorem poisonLine_pending (s : State) (l : Nat) : (poisonLine s l).pending = s.pending := by unfold poisonLine; rfl
@[simp] theorem poisonLine_fit (s : State) (l : Nat) : (poisonLine s l).fit = s.fit := by unfold poisonLine; rfl
@[simp] theorem poisonLine_cores (s : State) (l : Nat) : (poisonLine s l).cores = s.cores := by unfold poisonLine; rfl
@[simp] theorem poisonLine_sh (s : State) (l : Nat) : (poisonLine s l).sh = s.sh := by unfold poisonLine; rfl
@[simp] theorem poisonLine_cm (s : State) (l : Nat) : (poisonLine s l).cm = s.cm := by unfold poisonLine; rfl
@[simp] theorem poisonLine_fx (s : State) (l : Nat) : (poisonLine s l).fx = s.fx := by unfold poisonLine; rfl
@[simp] theorem poisonLine_fb (s : State) (l : Nat) : (poisonLine s l).fb = s.fb := by unfold poisonLine; rfl
@[simp] theorem poisonLine_tr (s : State) (l : Nat) : (poisonLine s l).tr = s.tr := by unfold poisonLine; rfl
@[simp] theorem poisonLine_bu (s : State) (l : Nat) : (poisonLine s l).bu = s.bu := by unfold poisonLine; rfl
@[simp] theorem poisonLine_sec (s : State) (l : Nat) : (poisonLine s l).sec = s.sec := by unfold poisonLine; rfl
@[simp] theorem poisonLine_nv (s : State) (l : Nat) : (poisonLine s l).nv = s.nv := by unfold poisonLine; rfl
@[simp] theorem poisonLine_pw (s : State) (l : Nat) : (poisonLine s l).pw = s.pw := by unfold poisonLine; rfl
@[simp] theorem poisonLine_host (s : State) (l : Nat) : (poisonLine s l).host = s.host := by unfold poisonLine; rfl
@[simp] theorem poisonLine_freeIx (s : State) (l : Nat) : (poisonLine s l).freeIx = s.freeIx := by unfold poisonLine; rfl
@[simp] theorem poisonLine_resp (s : State) (l : Nat) : (poisonLine s l).resp = s.resp := by unfold poisonLine; rfl

@[simp] theorem nextFree_pending (s : State) : (nextFree s).pending = s.pending := rfl
@[simp] theorem nextFree_fit (s : State) : (nextFree s).fit = s.fit := rfl
@[simp] theorem nextFree_cores (s : State) : (nextFree s).cores = s.cores := rfl
@[simp] theorem nextFree_m (s : State) : (nextFree s).m = s.m := rfl
@[simp] theorem nextFree_sh (s : State) : (nextFree s).sh = s.sh := rfl
@[simp] theorem nextFree_cm (s : State) : (nextFree s).cm = s.cm := rfl
@[simp] theorem nextFree_fx (s : State) : (nextFree s).fx = s.fx := rfl
@[simp] theorem nextFree_fb (s : State) : (nextFree s).fb = s.fb := rfl
@[simp] theorem nextFree_tr (s : State) : (nextFree s).tr = s.tr := rfl
@[simp] theorem nextFree_bu (s : State) : (nextFree s).bu = s.bu := rfl
@[simp] theorem nextFree_sec (s : State) : (nextFree s).sec = s.sec := rfl
@[simp] theorem nextFree_nv (s : State) : (nextFree s).nv = s.nv := rfl
@[simp] theorem nextFree_pw (s : State) : (nextFree s).pw = s.pw := rfl
@[simp] theorem nextFree_host (s : State) : (nextFree s).host = s.host := rfl
@[simp] theorem nextFree_resp (s : State) : (nextFree s).resp = s.resp := rfl

@[simp] theorem setPhase_pending (s : State) (r i : Nat) (p : CmdPhase) : (setPhase s r i p).pending = s.pending := rfl
@[simp] theorem setPhase_fit (s : State) (r i : Nat) (p : CmdPhase) : (setPhase s r i p).fit = s.fit := rfl
@[simp] theorem setPhase_cores (s : State) (r i : Nat) (p : CmdPhase) : (setPhase s r i p).cores = s.cores := rfl
@[simp] theorem setPhase_m (s : State) (r i : Nat) (p : CmdPhase) : (setPhase s r i p).m = s.m := rfl
@[simp] theorem setPhase_sh (s : State) (r i : Nat) (p : CmdPhase) : (setPhase s r i p).sh = s.sh := rfl
@[simp] theorem setPhase_fx (s : State) (r i : Nat) (p : CmdPhase) : (setPhase s r i p).fx = s.fx := rfl
@[simp] theorem setPhase_fb (s : State) (r i : Nat) (p : CmdPhase) : (setPhase s r i p).fb = s.fb := rfl
@[simp] theorem setPhase_tr (s : State) (r i : Nat) (p : CmdPhase) : (setPhase s r i p).tr = s.tr := rfl
@[simp] theorem setPhase_bu (s : State) (r i : Nat) (p : CmdPhase) : (setPhase s r i p).bu = s.bu := rfl
@[simp] theorem setPhase_sec (s : State) (r i : Nat) (p : CmdPhase) : (setPhase s r i p).sec = s.sec := rfl
@[simp] theorem setPhase_nv (s : State) (r i : Nat) (p : CmdPhase) : (setPhase s r i p).nv = s.nv := rfl
@[simp] theorem setPhase_pw (s : State) (r i : Nat) (p : CmdPhase) : (setPhase s r i p).pw = s.pw := rfl
@[simp] theorem setPhase_host (s : State) (r i : Nat) (p : CmdPhase) : (setPhase s r i p).host = s.host := rfl
@[simp] theorem setPhase_freeIx (s : State) (r i : Nat) (p : CmdPhase) : (setPhase s r i p).freeIx = s.freeIx := rfl
@[simp] theorem setPhase_resp (s : State) (r i : Nat) (p : CmdPhase) : (setPhase s r i p).resp = s.resp := rfl

@[simp] theorem finishCmd_pending (s : State) (r i : Nat) (st : Status) (info : BitVec 64) : (finishCmd s r i st info).pending = s.pending := rfl
@[simp] theorem finishCmd_fit (s : State) (r i : Nat) (st : Status) (info : BitVec 64) : (finishCmd s r i st info).fit = s.fit := rfl
@[simp] theorem finishCmd_cores (s : State) (r i : Nat) (st : Status) (info : BitVec 64) : (finishCmd s r i st info).cores = s.cores := rfl
@[simp] theorem finishCmd_sh (s : State) (r i : Nat) (st : Status) (info : BitVec 64) : (finishCmd s r i st info).sh = s.sh := rfl
@[simp] theorem finishCmd_fx (s : State) (r i : Nat) (st : Status) (info : BitVec 64) : (finishCmd s r i st info).fx = s.fx := rfl
@[simp] theorem finishCmd_fb (s : State) (r i : Nat) (st : Status) (info : BitVec 64) : (finishCmd s r i st info).fb = s.fb := rfl
@[simp] theorem finishCmd_tr (s : State) (r i : Nat) (st : Status) (info : BitVec 64) : (finishCmd s r i st info).tr = s.tr := rfl
@[simp] theorem finishCmd_bu (s : State) (r i : Nat) (st : Status) (info : BitVec 64) : (finishCmd s r i st info).bu = s.bu := rfl
@[simp] theorem finishCmd_sec (s : State) (r i : Nat) (st : Status) (info : BitVec 64) : (finishCmd s r i st info).sec = s.sec := rfl
@[simp] theorem finishCmd_nv (s : State) (r i : Nat) (st : Status) (info : BitVec 64) : (finishCmd s r i st info).nv = s.nv := rfl
@[simp] theorem finishCmd_pw (s : State) (r i : Nat) (st : Status) (info : BitVec 64) : (finishCmd s r i st info).pw = s.pw := rfl
@[simp] theorem finishCmd_host (s : State) (r i : Nat) (st : Status) (info : BitVec 64) : (finishCmd s r i st info).host = s.host := rfl
@[simp] theorem finishCmd_freeIx (s : State) (r i : Nat) (st : Status) (info : BitVec 64) : (finishCmd s r i st info).freeIx = s.freeIx := rfl
@[simp] theorem finishCmd_resp (s : State) (r i : Nat) (st : Status) (info : BitVec 64) : (finishCmd s r i st info).resp = s.resp := rfl

/-! ### Updates of a core -/

@[simp] theorem setA_ae (k : Core) (i : BitVec 4) (v : BitVec 48) : (setA k i v).ae = k.ae := rfl
@[simp] theorem setA_xe (k : Core) (i : BitVec 4) (v : BitVec 48) : (setA k i v).xe = k.xe := rfl
@[simp] theorem setA_sr (k : Core) (i : BitVec 4) (v : BitVec 48) : (setA k i v).sr = k.sr := rfl
@[simp] theorem setA_pr (k : Core) (i : BitVec 4) (v : BitVec 48) : (setA k i v).pr = k.pr := rfl
@[simp] theorem setA_v (k : Core) (i : BitVec 4) (v : BitVec 48) : (setA k i v).v = k.v := rfl
@[simp] theorem setA_lq (k : Core) (i : BitVec 4) (v : BitVec 48) : (setA k i v).lq = k.lq := rfl
@[simp] theorem setA_sq (k : Core) (i : BitVec 4) (v : BitVec 48) : (setA k i v).sq = k.sq := rfl
@[simp] theorem setA_lqNext (k : Core) (i : BitVec 4) (v : BitVec 48) : (setA k i v).lqNext = k.lqNext := rfl
@[simp] theorem setA_sqNext (k : Core) (i : BitVec 4) (v : BitVec 48) : (setA k i v).sqNext = k.sqNext := rfl
@[simp] theorem setA_fillNext (k : Core) (i : BitVec 4) (v : BitVec 48) : (setA k i v).fillNext = k.fillNext := rfl
@[simp] theorem setA_brx (k : Core) (i : BitVec 4) (v : BitVec 48) : (setA k i v).brx = k.brx := rfl
@[simp] theorem setA_brxHead (k : Core) (i : BitVec 4) (v : BitVec 48) : (setA k i v).brxHead = k.brxHead := rfl
@[simp] theorem setA_predictor (k : Core) (i : BitVec 4) (v : BitVec 48) : (setA k i v).predictor = k.predictor := rfl
@[simp] theorem setA_reqs (k : Core) (i : BitVec 4) (v : BitVec 48) : (setA k i v).reqs = k.reqs := rfl
@[simp] theorem setA_reqNext (k : Core) (i : BitVec 4) (v : BitVec 48) : (setA k i v).reqNext = k.reqNext := rfl
@[simp] theorem setA_heldFault (k : Core) (i : BitVec 4) (v : BitVec 48) : (setA k i v).heldFault = k.heldFault := rfl
@[simp] theorem setA_tc (k : Core) (i : BitVec 4) (v : BitVec 48) : (setA k i v).tc = k.tc := rfl
@[simp] theorem setA_flags (k : Core) (i : BitVec 4) (v : BitVec 48) : (setA k i v).flags = k.flags := rfl
@[simp] theorem setA_posted (k : Core) (i : BitVec 4) (v : BitVec 48) : (setA k i v).posted = k.posted := rfl
@[simp] theorem setA_unacked (k : Core) (i : BitVec 4) (v : BitVec 48) : (setA k i v).unacked = k.unacked := rfl
@[simp] theorem setA_seed (k : Core) (i : BitVec 4) (v : BitVec 48) : (setA k i v).seed = k.seed := rfl
@[simp] theorem setA_posVec (k : Core) (i : BitVec 4) (v : BitVec 48) : (setA k i v).posVec = k.posVec := rfl
@[simp] theorem setA_posDrain (k : Core) (i : BitVec 4) (v : BitVec 48) : (setA k i v).posDrain = k.posDrain := rfl
@[simp] theorem setA_posWgb (k : Core) (i : BitVec 4) (v : BitVec 48) : (setA k i v).posWgb = k.posWgb := rfl
@[simp] theorem setA_tiles (k : Core) (i : BitVec 4) (v : BitVec 48) : (setA k i v).tiles = k.tiles := rfl
@[simp] theorem setA_acc (k : Core) (i : BitVec 4) (v : BitVec 48) : (setA k i v).acc = k.acc := rfl
@[simp] theorem setA_mops (k : Core) (i : BitVec 4) (v : BitVec 48) : (setA k i v).mops = k.mops := rfl
@[simp] theorem setA_mopNext (k : Core) (i : BitVec 4) (v : BitVec 48) : (setA k i v).mopNext = k.mopNext := rfl
@[simp] theorem setA_coll (k : Core) (i : BitVec 4) (v : BitVec 48) : (setA k i v).coll = k.coll := rfl
@[simp] theorem setA_wgb (k : Core) (i : BitVec 4) (v : BitVec 48) : (setA k i v).wgb = k.wgb := rfl
@[simp] theorem setA_wgbDirty (k : Core) (i : BitVec 4) (v : BitVec 48) : (setA k i v).wgbDirty = k.wgbDirty := rfl
@[simp] theorem setA_wgbPoison (k : Core) (i : BitVec 4) (v : BitVec 48) : (setA k i v).wgbPoison = k.wgbPoison := rfl
@[simp] theorem setA_wgbLock (k : Core) (i : BitVec 4) (v : BitVec 48) : (setA k i v).wgbLock = k.wgbLock := rfl
@[simp] theorem setA_store (k : Core) (i : BitVec 4) (v : BitVec 48) : (setA k i v).store = k.store := rfl
@[simp] theorem setA_stopSrc (k : Core) (i : BitVec 4) (v : BitVec 48) : (setA k i v).stopSrc = k.stopSrc := rfl
@[simp] theorem setA_run (k : Core) (i : BitVec 4) (v : BitVec 48) : (setA k i v).run = k.run := rfl
@[simp] theorem setA_runahead (k : Core) (i : BitVec 4) (v : BitVec 48) : (setA k i v).runahead = k.runahead := rfl
@[simp] theorem setA_tokens (k : Core) (i : BitVec 4) (v : BitVec 48) : (setA k i v).tokens = k.tokens := rfl
@[simp] theorem setA_rep (k : Core) (i : BitVec 4) (v : BitVec 48) : (setA k i v).rep = k.rep := rfl
@[simp] theorem setA_twin (k : Core) (i : BitVec 4) (v : BitVec 48) : (setA k i v).twin = k.twin := rfl
@[simp] theorem setA_faultBlock (k : Core) (i : BitVec 4) (v : BitVec 48) : (setA k i v).faultBlock = k.faultBlock := rfl
@[simp] theorem setA_faults (k : Core) (i : BitVec 4) (v : BitVec 48) : (setA k i v).faults = k.faults := rfl
@[simp] theorem setA_stopReported (k : Core) (i : BitVec 4) (v : BitVec 48) : (setA k i v).stopReported = k.stopReported := rfl

@[simp] theorem setS_ae (k : Core) (i : BitVec 5) (v : Word) : (setS k i v).ae = k.ae := rfl
@[simp] theorem setS_xe (k : Core) (i : BitVec 5) (v : Word) : (setS k i v).xe = k.xe := rfl
@[simp] theorem setS_a (k : Core) (i : BitVec 5) (v : Word) : (setS k i v).a = k.a := rfl
@[simp] theorem setS_pr (k : Core) (i : BitVec 5) (v : Word) : (setS k i v).pr = k.pr := rfl
@[simp] theorem setS_v (k : Core) (i : BitVec 5) (v : Word) : (setS k i v).v = k.v := rfl
@[simp] theorem setS_lq (k : Core) (i : BitVec 5) (v : Word) : (setS k i v).lq = k.lq := rfl
@[simp] theorem setS_sq (k : Core) (i : BitVec 5) (v : Word) : (setS k i v).sq = k.sq := rfl
@[simp] theorem setS_lqNext (k : Core) (i : BitVec 5) (v : Word) : (setS k i v).lqNext = k.lqNext := rfl
@[simp] theorem setS_sqNext (k : Core) (i : BitVec 5) (v : Word) : (setS k i v).sqNext = k.sqNext := rfl
@[simp] theorem setS_fillNext (k : Core) (i : BitVec 5) (v : Word) : (setS k i v).fillNext = k.fillNext := rfl
@[simp] theorem setS_brx (k : Core) (i : BitVec 5) (v : Word) : (setS k i v).brx = k.brx := rfl
@[simp] theorem setS_brxHead (k : Core) (i : BitVec 5) (v : Word) : (setS k i v).brxHead = k.brxHead := rfl
@[simp] theorem setS_predictor (k : Core) (i : BitVec 5) (v : Word) : (setS k i v).predictor = k.predictor := rfl
@[simp] theorem setS_reqs (k : Core) (i : BitVec 5) (v : Word) : (setS k i v).reqs = k.reqs := rfl
@[simp] theorem setS_reqNext (k : Core) (i : BitVec 5) (v : Word) : (setS k i v).reqNext = k.reqNext := rfl
@[simp] theorem setS_heldFault (k : Core) (i : BitVec 5) (v : Word) : (setS k i v).heldFault = k.heldFault := rfl
@[simp] theorem setS_tc (k : Core) (i : BitVec 5) (v : Word) : (setS k i v).tc = k.tc := rfl
@[simp] theorem setS_flags (k : Core) (i : BitVec 5) (v : Word) : (setS k i v).flags = k.flags := rfl
@[simp] theorem setS_posted (k : Core) (i : BitVec 5) (v : Word) : (setS k i v).posted = k.posted := rfl
@[simp] theorem setS_unacked (k : Core) (i : BitVec 5) (v : Word) : (setS k i v).unacked = k.unacked := rfl
@[simp] theorem setS_seed (k : Core) (i : BitVec 5) (v : Word) : (setS k i v).seed = k.seed := rfl
@[simp] theorem setS_posVec (k : Core) (i : BitVec 5) (v : Word) : (setS k i v).posVec = k.posVec := rfl
@[simp] theorem setS_posDrain (k : Core) (i : BitVec 5) (v : Word) : (setS k i v).posDrain = k.posDrain := rfl
@[simp] theorem setS_posWgb (k : Core) (i : BitVec 5) (v : Word) : (setS k i v).posWgb = k.posWgb := rfl
@[simp] theorem setS_tiles (k : Core) (i : BitVec 5) (v : Word) : (setS k i v).tiles = k.tiles := rfl
@[simp] theorem setS_acc (k : Core) (i : BitVec 5) (v : Word) : (setS k i v).acc = k.acc := rfl
@[simp] theorem setS_mops (k : Core) (i : BitVec 5) (v : Word) : (setS k i v).mops = k.mops := rfl
@[simp] theorem setS_mopNext (k : Core) (i : BitVec 5) (v : Word) : (setS k i v).mopNext = k.mopNext := rfl
@[simp] theorem setS_coll (k : Core) (i : BitVec 5) (v : Word) : (setS k i v).coll = k.coll := rfl
@[simp] theorem setS_wgb (k : Core) (i : BitVec 5) (v : Word) : (setS k i v).wgb = k.wgb := rfl
@[simp] theorem setS_wgbDirty (k : Core) (i : BitVec 5) (v : Word) : (setS k i v).wgbDirty = k.wgbDirty := rfl
@[simp] theorem setS_wgbPoison (k : Core) (i : BitVec 5) (v : Word) : (setS k i v).wgbPoison = k.wgbPoison := rfl
@[simp] theorem setS_wgbLock (k : Core) (i : BitVec 5) (v : Word) : (setS k i v).wgbLock = k.wgbLock := rfl
@[simp] theorem setS_store (k : Core) (i : BitVec 5) (v : Word) : (setS k i v).store = k.store := rfl
@[simp] theorem setS_stopSrc (k : Core) (i : BitVec 5) (v : Word) : (setS k i v).stopSrc = k.stopSrc := rfl
@[simp] theorem setS_run (k : Core) (i : BitVec 5) (v : Word) : (setS k i v).run = k.run := rfl
@[simp] theorem setS_runahead (k : Core) (i : BitVec 5) (v : Word) : (setS k i v).runahead = k.runahead := rfl
@[simp] theorem setS_tokens (k : Core) (i : BitVec 5) (v : Word) : (setS k i v).tokens = k.tokens := rfl
@[simp] theorem setS_rep (k : Core) (i : BitVec 5) (v : Word) : (setS k i v).rep = k.rep := rfl
@[simp] theorem setS_twin (k : Core) (i : BitVec 5) (v : Word) : (setS k i v).twin = k.twin := rfl
@[simp] theorem setS_faultBlock (k : Core) (i : BitVec 5) (v : Word) : (setS k i v).faultBlock = k.faultBlock := rfl
@[simp] theorem setS_faults (k : Core) (i : BitVec 5) (v : Word) : (setS k i v).faults = k.faults := rfl
@[simp] theorem setS_stopReported (k : Core) (i : BitVec 5) (v : Word) : (setS k i v).stopReported = k.stopReported := rfl

@[simp] theorem setP_ae (k : Core) (i : BitVec 3) (b : Bool) : (setP k i b).ae = k.ae := rfl
@[simp] theorem setP_xe (k : Core) (i : BitVec 3) (b : Bool) : (setP k i b).xe = k.xe := rfl
@[simp] theorem setP_a (k : Core) (i : BitVec 3) (b : Bool) : (setP k i b).a = k.a := rfl
@[simp] theorem setP_sr (k : Core) (i : BitVec 3) (b : Bool) : (setP k i b).sr = k.sr := rfl
@[simp] theorem setP_v (k : Core) (i : BitVec 3) (b : Bool) : (setP k i b).v = k.v := rfl
@[simp] theorem setP_lq (k : Core) (i : BitVec 3) (b : Bool) : (setP k i b).lq = k.lq := rfl
@[simp] theorem setP_sq (k : Core) (i : BitVec 3) (b : Bool) : (setP k i b).sq = k.sq := rfl
@[simp] theorem setP_lqNext (k : Core) (i : BitVec 3) (b : Bool) : (setP k i b).lqNext = k.lqNext := rfl
@[simp] theorem setP_sqNext (k : Core) (i : BitVec 3) (b : Bool) : (setP k i b).sqNext = k.sqNext := rfl
@[simp] theorem setP_fillNext (k : Core) (i : BitVec 3) (b : Bool) : (setP k i b).fillNext = k.fillNext := rfl
@[simp] theorem setP_brx (k : Core) (i : BitVec 3) (b : Bool) : (setP k i b).brx = k.brx := rfl
@[simp] theorem setP_brxHead (k : Core) (i : BitVec 3) (b : Bool) : (setP k i b).brxHead = k.brxHead := rfl
@[simp] theorem setP_predictor (k : Core) (i : BitVec 3) (b : Bool) : (setP k i b).predictor = k.predictor := rfl
@[simp] theorem setP_reqs (k : Core) (i : BitVec 3) (b : Bool) : (setP k i b).reqs = k.reqs := rfl
@[simp] theorem setP_reqNext (k : Core) (i : BitVec 3) (b : Bool) : (setP k i b).reqNext = k.reqNext := rfl
@[simp] theorem setP_heldFault (k : Core) (i : BitVec 3) (b : Bool) : (setP k i b).heldFault = k.heldFault := rfl
@[simp] theorem setP_tc (k : Core) (i : BitVec 3) (b : Bool) : (setP k i b).tc = k.tc := rfl
@[simp] theorem setP_flags (k : Core) (i : BitVec 3) (b : Bool) : (setP k i b).flags = k.flags := rfl
@[simp] theorem setP_posted (k : Core) (i : BitVec 3) (b : Bool) : (setP k i b).posted = k.posted := rfl
@[simp] theorem setP_unacked (k : Core) (i : BitVec 3) (b : Bool) : (setP k i b).unacked = k.unacked := rfl
@[simp] theorem setP_seed (k : Core) (i : BitVec 3) (b : Bool) : (setP k i b).seed = k.seed := rfl
@[simp] theorem setP_posVec (k : Core) (i : BitVec 3) (b : Bool) : (setP k i b).posVec = k.posVec := rfl
@[simp] theorem setP_posDrain (k : Core) (i : BitVec 3) (b : Bool) : (setP k i b).posDrain = k.posDrain := rfl
@[simp] theorem setP_posWgb (k : Core) (i : BitVec 3) (b : Bool) : (setP k i b).posWgb = k.posWgb := rfl
@[simp] theorem setP_tiles (k : Core) (i : BitVec 3) (b : Bool) : (setP k i b).tiles = k.tiles := rfl
@[simp] theorem setP_acc (k : Core) (i : BitVec 3) (b : Bool) : (setP k i b).acc = k.acc := rfl
@[simp] theorem setP_mops (k : Core) (i : BitVec 3) (b : Bool) : (setP k i b).mops = k.mops := rfl
@[simp] theorem setP_mopNext (k : Core) (i : BitVec 3) (b : Bool) : (setP k i b).mopNext = k.mopNext := rfl
@[simp] theorem setP_coll (k : Core) (i : BitVec 3) (b : Bool) : (setP k i b).coll = k.coll := rfl
@[simp] theorem setP_wgb (k : Core) (i : BitVec 3) (b : Bool) : (setP k i b).wgb = k.wgb := rfl
@[simp] theorem setP_wgbDirty (k : Core) (i : BitVec 3) (b : Bool) : (setP k i b).wgbDirty = k.wgbDirty := rfl
@[simp] theorem setP_wgbPoison (k : Core) (i : BitVec 3) (b : Bool) : (setP k i b).wgbPoison = k.wgbPoison := rfl
@[simp] theorem setP_wgbLock (k : Core) (i : BitVec 3) (b : Bool) : (setP k i b).wgbLock = k.wgbLock := rfl
@[simp] theorem setP_store (k : Core) (i : BitVec 3) (b : Bool) : (setP k i b).store = k.store := rfl
@[simp] theorem setP_stopSrc (k : Core) (i : BitVec 3) (b : Bool) : (setP k i b).stopSrc = k.stopSrc := rfl
@[simp] theorem setP_run (k : Core) (i : BitVec 3) (b : Bool) : (setP k i b).run = k.run := rfl
@[simp] theorem setP_runahead (k : Core) (i : BitVec 3) (b : Bool) : (setP k i b).runahead = k.runahead := rfl
@[simp] theorem setP_tokens (k : Core) (i : BitVec 3) (b : Bool) : (setP k i b).tokens = k.tokens := rfl
@[simp] theorem setP_rep (k : Core) (i : BitVec 3) (b : Bool) : (setP k i b).rep = k.rep := rfl
@[simp] theorem setP_twin (k : Core) (i : BitVec 3) (b : Bool) : (setP k i b).twin = k.twin := rfl
@[simp] theorem setP_faultBlock (k : Core) (i : BitVec 3) (b : Bool) : (setP k i b).faultBlock = k.faultBlock := rfl
@[simp] theorem setP_faults (k : Core) (i : BitVec 3) (b : Bool) : (setP k i b).faults = k.faults := rfl
@[simp] theorem setP_stopReported (k : Core) (i : BitVec 3) (b : Bool) : (setP k i b).stopReported = k.stopReported := rfl

@[simp] theorem setV_ae (k : Core) (i : Nat) (v : Line) : (setV k i v).ae = k.ae := rfl
@[simp] theorem setV_xe (k : Core) (i : Nat) (v : Line) : (setV k i v).xe = k.xe := rfl
@[simp] theorem setV_a (k : Core) (i : Nat) (v : Line) : (setV k i v).a = k.a := rfl
@[simp] theorem setV_sr (k : Core) (i : Nat) (v : Line) : (setV k i v).sr = k.sr := rfl
@[simp] theorem setV_pr (k : Core) (i : Nat) (v : Line) : (setV k i v).pr = k.pr := rfl
@[simp] theorem setV_lq (k : Core) (i : Nat) (v : Line) : (setV k i v).lq = k.lq := rfl
@[simp] theorem setV_sq (k : Core) (i : Nat) (v : Line) : (setV k i v).sq = k.sq := rfl
@[simp] theorem setV_lqNext (k : Core) (i : Nat) (v : Line) : (setV k i v).lqNext = k.lqNext := rfl
@[simp] theorem setV_sqNext (k : Core) (i : Nat) (v : Line) : (setV k i v).sqNext = k.sqNext := rfl
@[simp] theorem setV_fillNext (k : Core) (i : Nat) (v : Line) : (setV k i v).fillNext = k.fillNext := rfl
@[simp] theorem setV_brx (k : Core) (i : Nat) (v : Line) : (setV k i v).brx = k.brx := rfl
@[simp] theorem setV_brxHead (k : Core) (i : Nat) (v : Line) : (setV k i v).brxHead = k.brxHead := rfl
@[simp] theorem setV_predictor (k : Core) (i : Nat) (v : Line) : (setV k i v).predictor = k.predictor := rfl
@[simp] theorem setV_reqs (k : Core) (i : Nat) (v : Line) : (setV k i v).reqs = k.reqs := rfl
@[simp] theorem setV_reqNext (k : Core) (i : Nat) (v : Line) : (setV k i v).reqNext = k.reqNext := rfl
@[simp] theorem setV_heldFault (k : Core) (i : Nat) (v : Line) : (setV k i v).heldFault = k.heldFault := rfl
@[simp] theorem setV_tc (k : Core) (i : Nat) (v : Line) : (setV k i v).tc = k.tc := rfl
@[simp] theorem setV_flags (k : Core) (i : Nat) (v : Line) : (setV k i v).flags = k.flags := rfl
@[simp] theorem setV_posted (k : Core) (i : Nat) (v : Line) : (setV k i v).posted = k.posted := rfl
@[simp] theorem setV_unacked (k : Core) (i : Nat) (v : Line) : (setV k i v).unacked = k.unacked := rfl
@[simp] theorem setV_seed (k : Core) (i : Nat) (v : Line) : (setV k i v).seed = k.seed := rfl
@[simp] theorem setV_posVec (k : Core) (i : Nat) (v : Line) : (setV k i v).posVec = k.posVec := rfl
@[simp] theorem setV_posDrain (k : Core) (i : Nat) (v : Line) : (setV k i v).posDrain = k.posDrain := rfl
@[simp] theorem setV_posWgb (k : Core) (i : Nat) (v : Line) : (setV k i v).posWgb = k.posWgb := rfl
@[simp] theorem setV_tiles (k : Core) (i : Nat) (v : Line) : (setV k i v).tiles = k.tiles := rfl
@[simp] theorem setV_acc (k : Core) (i : Nat) (v : Line) : (setV k i v).acc = k.acc := rfl
@[simp] theorem setV_mops (k : Core) (i : Nat) (v : Line) : (setV k i v).mops = k.mops := rfl
@[simp] theorem setV_mopNext (k : Core) (i : Nat) (v : Line) : (setV k i v).mopNext = k.mopNext := rfl
@[simp] theorem setV_coll (k : Core) (i : Nat) (v : Line) : (setV k i v).coll = k.coll := rfl
@[simp] theorem setV_wgb (k : Core) (i : Nat) (v : Line) : (setV k i v).wgb = k.wgb := rfl
@[simp] theorem setV_wgbDirty (k : Core) (i : Nat) (v : Line) : (setV k i v).wgbDirty = k.wgbDirty := rfl
@[simp] theorem setV_wgbPoison (k : Core) (i : Nat) (v : Line) : (setV k i v).wgbPoison = k.wgbPoison := rfl
@[simp] theorem setV_wgbLock (k : Core) (i : Nat) (v : Line) : (setV k i v).wgbLock = k.wgbLock := rfl
@[simp] theorem setV_store (k : Core) (i : Nat) (v : Line) : (setV k i v).store = k.store := rfl
@[simp] theorem setV_stopSrc (k : Core) (i : Nat) (v : Line) : (setV k i v).stopSrc = k.stopSrc := rfl
@[simp] theorem setV_run (k : Core) (i : Nat) (v : Line) : (setV k i v).run = k.run := rfl
@[simp] theorem setV_runahead (k : Core) (i : Nat) (v : Line) : (setV k i v).runahead = k.runahead := rfl
@[simp] theorem setV_tokens (k : Core) (i : Nat) (v : Line) : (setV k i v).tokens = k.tokens := rfl
@[simp] theorem setV_rep (k : Core) (i : Nat) (v : Line) : (setV k i v).rep = k.rep := rfl
@[simp] theorem setV_twin (k : Core) (i : Nat) (v : Line) : (setV k i v).twin = k.twin := rfl
@[simp] theorem setV_faultBlock (k : Core) (i : Nat) (v : Line) : (setV k i v).faultBlock = k.faultBlock := rfl
@[simp] theorem setV_faults (k : Core) (i : Nat) (v : Line) : (setV k i v).faults = k.faults := rfl
@[simp] theorem setV_stopReported (k : Core) (i : Nat) (v : Line) : (setV k i v).stopReported = k.stopReported := rfl

@[simp] theorem setTile_ae (k : Core) (t : Nat) (x : Tile) : (setTile k t x).ae = k.ae := rfl
@[simp] theorem setTile_xe (k : Core) (t : Nat) (x : Tile) : (setTile k t x).xe = k.xe := rfl
@[simp] theorem setTile_a (k : Core) (t : Nat) (x : Tile) : (setTile k t x).a = k.a := rfl
@[simp] theorem setTile_sr (k : Core) (t : Nat) (x : Tile) : (setTile k t x).sr = k.sr := rfl
@[simp] theorem setTile_pr (k : Core) (t : Nat) (x : Tile) : (setTile k t x).pr = k.pr := rfl
@[simp] theorem setTile_v (k : Core) (t : Nat) (x : Tile) : (setTile k t x).v = k.v := rfl
@[simp] theorem setTile_lq (k : Core) (t : Nat) (x : Tile) : (setTile k t x).lq = k.lq := rfl
@[simp] theorem setTile_sq (k : Core) (t : Nat) (x : Tile) : (setTile k t x).sq = k.sq := rfl
@[simp] theorem setTile_lqNext (k : Core) (t : Nat) (x : Tile) : (setTile k t x).lqNext = k.lqNext := rfl
@[simp] theorem setTile_sqNext (k : Core) (t : Nat) (x : Tile) : (setTile k t x).sqNext = k.sqNext := rfl
@[simp] theorem setTile_fillNext (k : Core) (t : Nat) (x : Tile) : (setTile k t x).fillNext = k.fillNext := rfl
@[simp] theorem setTile_brx (k : Core) (t : Nat) (x : Tile) : (setTile k t x).brx = k.brx := rfl
@[simp] theorem setTile_brxHead (k : Core) (t : Nat) (x : Tile) : (setTile k t x).brxHead = k.brxHead := rfl
@[simp] theorem setTile_predictor (k : Core) (t : Nat) (x : Tile) : (setTile k t x).predictor = k.predictor := rfl
@[simp] theorem setTile_reqs (k : Core) (t : Nat) (x : Tile) : (setTile k t x).reqs = k.reqs := rfl
@[simp] theorem setTile_reqNext (k : Core) (t : Nat) (x : Tile) : (setTile k t x).reqNext = k.reqNext := rfl
@[simp] theorem setTile_heldFault (k : Core) (t : Nat) (x : Tile) : (setTile k t x).heldFault = k.heldFault := rfl
@[simp] theorem setTile_tc (k : Core) (t : Nat) (x : Tile) : (setTile k t x).tc = k.tc := rfl
@[simp] theorem setTile_flags (k : Core) (t : Nat) (x : Tile) : (setTile k t x).flags = k.flags := rfl
@[simp] theorem setTile_posted (k : Core) (t : Nat) (x : Tile) : (setTile k t x).posted = k.posted := rfl
@[simp] theorem setTile_unacked (k : Core) (t : Nat) (x : Tile) : (setTile k t x).unacked = k.unacked := rfl
@[simp] theorem setTile_seed (k : Core) (t : Nat) (x : Tile) : (setTile k t x).seed = k.seed := rfl
@[simp] theorem setTile_posVec (k : Core) (t : Nat) (x : Tile) : (setTile k t x).posVec = k.posVec := rfl
@[simp] theorem setTile_posDrain (k : Core) (t : Nat) (x : Tile) : (setTile k t x).posDrain = k.posDrain := rfl
@[simp] theorem setTile_posWgb (k : Core) (t : Nat) (x : Tile) : (setTile k t x).posWgb = k.posWgb := rfl
@[simp] theorem setTile_acc (k : Core) (t : Nat) (x : Tile) : (setTile k t x).acc = k.acc := rfl
@[simp] theorem setTile_mops (k : Core) (t : Nat) (x : Tile) : (setTile k t x).mops = k.mops := rfl
@[simp] theorem setTile_mopNext (k : Core) (t : Nat) (x : Tile) : (setTile k t x).mopNext = k.mopNext := rfl
@[simp] theorem setTile_coll (k : Core) (t : Nat) (x : Tile) : (setTile k t x).coll = k.coll := rfl
@[simp] theorem setTile_wgb (k : Core) (t : Nat) (x : Tile) : (setTile k t x).wgb = k.wgb := rfl
@[simp] theorem setTile_wgbDirty (k : Core) (t : Nat) (x : Tile) : (setTile k t x).wgbDirty = k.wgbDirty := rfl
@[simp] theorem setTile_wgbPoison (k : Core) (t : Nat) (x : Tile) : (setTile k t x).wgbPoison = k.wgbPoison := rfl
@[simp] theorem setTile_wgbLock (k : Core) (t : Nat) (x : Tile) : (setTile k t x).wgbLock = k.wgbLock := rfl
@[simp] theorem setTile_store (k : Core) (t : Nat) (x : Tile) : (setTile k t x).store = k.store := rfl
@[simp] theorem setTile_stopSrc (k : Core) (t : Nat) (x : Tile) : (setTile k t x).stopSrc = k.stopSrc := rfl
@[simp] theorem setTile_run (k : Core) (t : Nat) (x : Tile) : (setTile k t x).run = k.run := rfl
@[simp] theorem setTile_runahead (k : Core) (t : Nat) (x : Tile) : (setTile k t x).runahead = k.runahead := rfl
@[simp] theorem setTile_tokens (k : Core) (t : Nat) (x : Tile) : (setTile k t x).tokens = k.tokens := rfl
@[simp] theorem setTile_rep (k : Core) (t : Nat) (x : Tile) : (setTile k t x).rep = k.rep := rfl
@[simp] theorem setTile_twin (k : Core) (t : Nat) (x : Tile) : (setTile k t x).twin = k.twin := rfl
@[simp] theorem setTile_faultBlock (k : Core) (t : Nat) (x : Tile) : (setTile k t x).faultBlock = k.faultBlock := rfl
@[simp] theorem setTile_faults (k : Core) (t : Nat) (x : Tile) : (setTile k t x).faults = k.faults := rfl
@[simp] theorem setTile_stopReported (k : Core) (t : Nat) (x : Tile) : (setTile k t x).stopReported = k.stopReported := rfl

@[simp] theorem setAcc_ae (k : Core) (i : Nat) (x : Acc) : (setAcc k i x).ae = k.ae := rfl
@[simp] theorem setAcc_xe (k : Core) (i : Nat) (x : Acc) : (setAcc k i x).xe = k.xe := rfl
@[simp] theorem setAcc_a (k : Core) (i : Nat) (x : Acc) : (setAcc k i x).a = k.a := rfl
@[simp] theorem setAcc_sr (k : Core) (i : Nat) (x : Acc) : (setAcc k i x).sr = k.sr := rfl
@[simp] theorem setAcc_pr (k : Core) (i : Nat) (x : Acc) : (setAcc k i x).pr = k.pr := rfl
@[simp] theorem setAcc_v (k : Core) (i : Nat) (x : Acc) : (setAcc k i x).v = k.v := rfl
@[simp] theorem setAcc_lq (k : Core) (i : Nat) (x : Acc) : (setAcc k i x).lq = k.lq := rfl
@[simp] theorem setAcc_sq (k : Core) (i : Nat) (x : Acc) : (setAcc k i x).sq = k.sq := rfl
@[simp] theorem setAcc_lqNext (k : Core) (i : Nat) (x : Acc) : (setAcc k i x).lqNext = k.lqNext := rfl
@[simp] theorem setAcc_sqNext (k : Core) (i : Nat) (x : Acc) : (setAcc k i x).sqNext = k.sqNext := rfl
@[simp] theorem setAcc_fillNext (k : Core) (i : Nat) (x : Acc) : (setAcc k i x).fillNext = k.fillNext := rfl
@[simp] theorem setAcc_brx (k : Core) (i : Nat) (x : Acc) : (setAcc k i x).brx = k.brx := rfl
@[simp] theorem setAcc_brxHead (k : Core) (i : Nat) (x : Acc) : (setAcc k i x).brxHead = k.brxHead := rfl
@[simp] theorem setAcc_predictor (k : Core) (i : Nat) (x : Acc) : (setAcc k i x).predictor = k.predictor := rfl
@[simp] theorem setAcc_reqs (k : Core) (i : Nat) (x : Acc) : (setAcc k i x).reqs = k.reqs := rfl
@[simp] theorem setAcc_reqNext (k : Core) (i : Nat) (x : Acc) : (setAcc k i x).reqNext = k.reqNext := rfl
@[simp] theorem setAcc_heldFault (k : Core) (i : Nat) (x : Acc) : (setAcc k i x).heldFault = k.heldFault := rfl
@[simp] theorem setAcc_tc (k : Core) (i : Nat) (x : Acc) : (setAcc k i x).tc = k.tc := rfl
@[simp] theorem setAcc_flags (k : Core) (i : Nat) (x : Acc) : (setAcc k i x).flags = k.flags := rfl
@[simp] theorem setAcc_posted (k : Core) (i : Nat) (x : Acc) : (setAcc k i x).posted = k.posted := rfl
@[simp] theorem setAcc_unacked (k : Core) (i : Nat) (x : Acc) : (setAcc k i x).unacked = k.unacked := rfl
@[simp] theorem setAcc_seed (k : Core) (i : Nat) (x : Acc) : (setAcc k i x).seed = k.seed := rfl
@[simp] theorem setAcc_posVec (k : Core) (i : Nat) (x : Acc) : (setAcc k i x).posVec = k.posVec := rfl
@[simp] theorem setAcc_posDrain (k : Core) (i : Nat) (x : Acc) : (setAcc k i x).posDrain = k.posDrain := rfl
@[simp] theorem setAcc_posWgb (k : Core) (i : Nat) (x : Acc) : (setAcc k i x).posWgb = k.posWgb := rfl
@[simp] theorem setAcc_tiles (k : Core) (i : Nat) (x : Acc) : (setAcc k i x).tiles = k.tiles := rfl
@[simp] theorem setAcc_mops (k : Core) (i : Nat) (x : Acc) : (setAcc k i x).mops = k.mops := rfl
@[simp] theorem setAcc_mopNext (k : Core) (i : Nat) (x : Acc) : (setAcc k i x).mopNext = k.mopNext := rfl
@[simp] theorem setAcc_coll (k : Core) (i : Nat) (x : Acc) : (setAcc k i x).coll = k.coll := rfl
@[simp] theorem setAcc_wgb (k : Core) (i : Nat) (x : Acc) : (setAcc k i x).wgb = k.wgb := rfl
@[simp] theorem setAcc_wgbDirty (k : Core) (i : Nat) (x : Acc) : (setAcc k i x).wgbDirty = k.wgbDirty := rfl
@[simp] theorem setAcc_wgbPoison (k : Core) (i : Nat) (x : Acc) : (setAcc k i x).wgbPoison = k.wgbPoison := rfl
@[simp] theorem setAcc_wgbLock (k : Core) (i : Nat) (x : Acc) : (setAcc k i x).wgbLock = k.wgbLock := rfl
@[simp] theorem setAcc_store (k : Core) (i : Nat) (x : Acc) : (setAcc k i x).store = k.store := rfl
@[simp] theorem setAcc_stopSrc (k : Core) (i : Nat) (x : Acc) : (setAcc k i x).stopSrc = k.stopSrc := rfl
@[simp] theorem setAcc_run (k : Core) (i : Nat) (x : Acc) : (setAcc k i x).run = k.run := rfl
@[simp] theorem setAcc_runahead (k : Core) (i : Nat) (x : Acc) : (setAcc k i x).runahead = k.runahead := rfl
@[simp] theorem setAcc_tokens (k : Core) (i : Nat) (x : Acc) : (setAcc k i x).tokens = k.tokens := rfl
@[simp] theorem setAcc_rep (k : Core) (i : Nat) (x : Acc) : (setAcc k i x).rep = k.rep := rfl
@[simp] theorem setAcc_twin (k : Core) (i : Nat) (x : Acc) : (setAcc k i x).twin = k.twin := rfl
@[simp] theorem setAcc_faultBlock (k : Core) (i : Nat) (x : Acc) : (setAcc k i x).faultBlock = k.faultBlock := rfl
@[simp] theorem setAcc_faults (k : Core) (i : Nat) (x : Acc) : (setAcc k i x).faults = k.faults := rfl
@[simp] theorem setAcc_stopReported (k : Core) (i : Nat) (x : Acc) : (setAcc k i x).stopReported = k.stopReported := rfl

@[simp] theorem setFlag_ae (k : Core) (i : Nat) (b : Bool) : (setFlag k i b).ae = k.ae := rfl
@[simp] theorem setFlag_xe (k : Core) (i : Nat) (b : Bool) : (setFlag k i b).xe = k.xe := rfl
@[simp] theorem setFlag_a (k : Core) (i : Nat) (b : Bool) : (setFlag k i b).a = k.a := rfl
@[simp] theorem setFlag_sr (k : Core) (i : Nat) (b : Bool) : (setFlag k i b).sr = k.sr := rfl
@[simp] theorem setFlag_pr (k : Core) (i : Nat) (b : Bool) : (setFlag k i b).pr = k.pr := rfl
@[simp] theorem setFlag_v (k : Core) (i : Nat) (b : Bool) : (setFlag k i b).v = k.v := rfl
@[simp] theorem setFlag_lq (k : Core) (i : Nat) (b : Bool) : (setFlag k i b).lq = k.lq := rfl
@[simp] theorem setFlag_sq (k : Core) (i : Nat) (b : Bool) : (setFlag k i b).sq = k.sq := rfl
@[simp] theorem setFlag_lqNext (k : Core) (i : Nat) (b : Bool) : (setFlag k i b).lqNext = k.lqNext := rfl
@[simp] theorem setFlag_sqNext (k : Core) (i : Nat) (b : Bool) : (setFlag k i b).sqNext = k.sqNext := rfl
@[simp] theorem setFlag_fillNext (k : Core) (i : Nat) (b : Bool) : (setFlag k i b).fillNext = k.fillNext := rfl
@[simp] theorem setFlag_brx (k : Core) (i : Nat) (b : Bool) : (setFlag k i b).brx = k.brx := rfl
@[simp] theorem setFlag_brxHead (k : Core) (i : Nat) (b : Bool) : (setFlag k i b).brxHead = k.brxHead := rfl
@[simp] theorem setFlag_predictor (k : Core) (i : Nat) (b : Bool) : (setFlag k i b).predictor = k.predictor := rfl
@[simp] theorem setFlag_reqs (k : Core) (i : Nat) (b : Bool) : (setFlag k i b).reqs = k.reqs := rfl
@[simp] theorem setFlag_reqNext (k : Core) (i : Nat) (b : Bool) : (setFlag k i b).reqNext = k.reqNext := rfl
@[simp] theorem setFlag_heldFault (k : Core) (i : Nat) (b : Bool) : (setFlag k i b).heldFault = k.heldFault := rfl
@[simp] theorem setFlag_tc (k : Core) (i : Nat) (b : Bool) : (setFlag k i b).tc = k.tc := rfl
@[simp] theorem setFlag_posted (k : Core) (i : Nat) (b : Bool) : (setFlag k i b).posted = k.posted := rfl
@[simp] theorem setFlag_unacked (k : Core) (i : Nat) (b : Bool) : (setFlag k i b).unacked = k.unacked := rfl
@[simp] theorem setFlag_seed (k : Core) (i : Nat) (b : Bool) : (setFlag k i b).seed = k.seed := rfl
@[simp] theorem setFlag_posVec (k : Core) (i : Nat) (b : Bool) : (setFlag k i b).posVec = k.posVec := rfl
@[simp] theorem setFlag_posDrain (k : Core) (i : Nat) (b : Bool) : (setFlag k i b).posDrain = k.posDrain := rfl
@[simp] theorem setFlag_posWgb (k : Core) (i : Nat) (b : Bool) : (setFlag k i b).posWgb = k.posWgb := rfl
@[simp] theorem setFlag_tiles (k : Core) (i : Nat) (b : Bool) : (setFlag k i b).tiles = k.tiles := rfl
@[simp] theorem setFlag_acc (k : Core) (i : Nat) (b : Bool) : (setFlag k i b).acc = k.acc := rfl
@[simp] theorem setFlag_mops (k : Core) (i : Nat) (b : Bool) : (setFlag k i b).mops = k.mops := rfl
@[simp] theorem setFlag_mopNext (k : Core) (i : Nat) (b : Bool) : (setFlag k i b).mopNext = k.mopNext := rfl
@[simp] theorem setFlag_coll (k : Core) (i : Nat) (b : Bool) : (setFlag k i b).coll = k.coll := rfl
@[simp] theorem setFlag_wgb (k : Core) (i : Nat) (b : Bool) : (setFlag k i b).wgb = k.wgb := rfl
@[simp] theorem setFlag_wgbDirty (k : Core) (i : Nat) (b : Bool) : (setFlag k i b).wgbDirty = k.wgbDirty := rfl
@[simp] theorem setFlag_wgbPoison (k : Core) (i : Nat) (b : Bool) : (setFlag k i b).wgbPoison = k.wgbPoison := rfl
@[simp] theorem setFlag_wgbLock (k : Core) (i : Nat) (b : Bool) : (setFlag k i b).wgbLock = k.wgbLock := rfl
@[simp] theorem setFlag_store (k : Core) (i : Nat) (b : Bool) : (setFlag k i b).store = k.store := rfl
@[simp] theorem setFlag_stopSrc (k : Core) (i : Nat) (b : Bool) : (setFlag k i b).stopSrc = k.stopSrc := rfl
@[simp] theorem setFlag_run (k : Core) (i : Nat) (b : Bool) : (setFlag k i b).run = k.run := rfl
@[simp] theorem setFlag_runahead (k : Core) (i : Nat) (b : Bool) : (setFlag k i b).runahead = k.runahead := rfl
@[simp] theorem setFlag_tokens (k : Core) (i : Nat) (b : Bool) : (setFlag k i b).tokens = k.tokens := rfl
@[simp] theorem setFlag_rep (k : Core) (i : Nat) (b : Bool) : (setFlag k i b).rep = k.rep := rfl
@[simp] theorem setFlag_twin (k : Core) (i : Nat) (b : Bool) : (setFlag k i b).twin = k.twin := rfl
@[simp] theorem setFlag_faultBlock (k : Core) (i : Nat) (b : Bool) : (setFlag k i b).faultBlock = k.faultBlock := rfl
@[simp] theorem setFlag_faults (k : Core) (i : Nat) (b : Bool) : (setFlag k i b).faults = k.faults := rfl
@[simp] theorem setFlag_stopReported (k : Core) (i : Nat) (b : Bool) : (setFlag k i b).stopReported = k.stopReported := rfl

/-! ### Reading after an update -/

theorem coreOf_setCore (s : State) (c d : Nat) (k : Core) : coreOf (setCore s c k) d = if d = c then k else coreOf s d := by
  simp [coreOf, setCore, tget_tset]

@[simp] theorem coreOf_setCore_same (s : State) (c : Nat) (k : Core) : coreOf (setCore s c k) c = k := by simp [coreOf_setCore]

theorem coreOf_setCore_ne (s : State) {c d : Nat} (k : Core) (h : d ≠ c) : coreOf (setCore s c k) d = coreOf s d := by
  simp [coreOf_setCore, h]

@[simp] theorem setCore_setCore (s : State) (c : Nat) (k q : Core) : setCore (setCore s c k) c q = setCore s c q := by
  simp [setCore, tset_tset]

@[simp] theorem coreOf_bump (s : State) (c i n : Nat) : coreOf (bump s i n) c = coreOf s c := rfl
@[simp] theorem coreOf_setPhase (s : State) (c r i : Nat) (p : CmdPhase) : coreOf (setPhase s r i p) c = coreOf s c := rfl

theorem bump_setCore (s : State) (c i n : Nat) (k : Core) : bump (setCore s c k) i n = setCore (bump s i n) c k := rfl

@[simp] theorem coreOf_bumpIf (b : Bool) (s : State) (c i n : Nat) : coreOf (bumpIf b s i n) c = coreOf s c := by
  unfold bumpIf; split <;> rfl

@[simp] theorem coreOf_bumpEv (s : State) (c base : Nat) (e : Ev) : coreOf (bumpEv s base e) c = coreOf s c := by
  simp [bumpEv]

theorem bumpIf_setCore (b : Bool) (s : State) (c i n : Nat) (k : Core) : bumpIf b (setCore s c k) i n = setCore (bumpIf b s i n) c k := by
  unfold bumpIf; split <;> rfl

theorem bumpEv_setCore (s : State) (c base : Nat) (e : Ev) (k : Core) : bumpEv (setCore s c k) base e = setCore (bumpEv s base e) c k := by
  simp [bumpEv, bumpIf_setCore]

@[simp] theorem firstWaiter_setCore (s : State) (c : Nat) (k : Core) (f : FlagRef) : firstWaiter (setCore s c k) f = firstWaiter s f := rfl
@[simp] theorem firstWaiter_bump (s : State) (i n : Nat) (f : FlagRef) : firstWaiter (bump s i n) f = firstWaiter s f := rfl

theorem getA_setA (k : Core) (i j : BitVec 4) (v : BitVec 48) : getA (setA k i v) j = if j = i then v else getA k j := by
  simp [getA, setA, tget_tset, BitVec.toNat_inj]

theorem getS_setS (k : Core) (i j : BitVec 5) (v : Word) : getS (setS k i v) j = if j = i then v else getS k j := by
  simp [getS, setS, tget_tset, BitVec.toNat_inj]

theorem getV_setV (k : Core) (i j : Nat) (v : Line) : getV (setV k i v) j = if j = i then v else getV k j := by
  simp [getV, setV, tget_tset]

theorem tileOf_setTile (k : Core) (i j : Nat) (x : Tile) : tileOf (setTile k i x) j = if j = i then x else tileOf k j := by
  simp [tileOf, setTile, tget_tset]

theorem accOf_setAcc (k : Core) (i j : Nat) (x : Acc) : accOf (setAcc k i x) j = if j = i then x else accOf k j := by
  simp [accOf, setAcc, tget_tset]

theorem dirOf_setDir (s : State) (b d : Nat) (e : DirEntry) : dirOf (setDir s b e) d = if d = b then e else dirOf s d := by
  simp [dirOf, setDir, tget_tset]

theorem counter_bump (s : State) (i j n : Nat) : counter (bump s i n) j = if j = i then satInc (counter s i) n else counter s j := by
  simp [counter, bump, tget_tset]

theorem getLsbD_putBit {n : Nat} (x : BitVec n) (i j : Nat) (b : Bool) (h : i < n) : (putBit x i b).getLsbD j = if j = i then b else x.getLsbD j := by
  unfold putBit
  by_cases hj : j < n
  · by_cases e : j = i
    · subst e; cases b <;> simp [hj]
    · cases b <;> simp [e, hj]
  · have e : j ≠ i := by omega
    cases b <;> simp [e, Nat.le_of_not_lt hj]

/-! ### Issue -/

theorem settleReport_of_none (s : State) (c : Nat) (h : (coreOf s c).rep = none) : settleReport s c = s := by
  simp [settleReport, h]

theorem rep_of_canIssue {s : State} {c : Nat} {x : Bool} (h : canIssue s c x = true) : (coreOf s c).rep = none := by
  simp [canIssue] at h
  exact h.1.2

/-- An engine that can issue: its bundle is held, raises its fault, or takes effect, as its verdict says. -/
theorem issueWith_of_canIssue {s : State} {c : Nat} {x : Bool} (h : canIssue s c x = true) (pre : Nat → List Cause) (b : Bundle) (len : Nat) :
    issueWith pre s c x b len = match verdict s c x b pre with
      | .held w => holdBundle s c x b w
      | .fault f => raise (giveBack s c x b) c x f
      | .go => bundleEffect s c x b len := by
  simp only [issueWith, settleReport_of_none s c (rep_of_canIssue h), attempt, h, if_true]
  <;> cases verdict s c x b pre <;> rfl

/-- A report that is due is set before anything is issued (R112). -/
theorem issue_settled (s : State) (c : Nat) (x : Bool) (b : Bundle) (len : Nat) (h : (coreOf (settleReport s c) c).rep = none) :
    issue s c x b len = issue (settleReport s c) c x b len := by
  simp [issue, issueWith, settleReport_of_none _ c h]

end Sys2Proof.Machine
end

