-- ==== Sys2Proof/WellFormed.lean ====
section
/-!
DEFINITION. Commands that the device can be given: indices within the spaces of spec/01, lists of the lengths their tables give, and
packets whose body is of the row's type.
-/
namespace Sys2Proof

open Sys2Proof.Machine

/-- A logical core ID (R3). -/
def coreOk (c : Nat) : Bool := decide (c < 1024)
/-- A command in progress: a ring (R620) and a slot of a ring of at most 65,536 descriptors (R620), or the place of a replayed command above them. -/
def cmdOk (ring slot : Nat) : Bool := decide (ring < 256) && decide (slot < 131072)
/-- A channel of a stack (R288). -/
def chanOk (stack ch : Nat) : Bool := decide (stack < 8) && decide (ch < 32)
def portOk (p : Nat) : Bool := decide (p < 32)
def devOk (d : Nat) : Bool := decide (d < 4096)
/-- A line and a block of the device range (R284). -/
def lineOk (l : Nat) : Bool := decide (l < 2 ^ 34)
def blockOk (b : Nat) : Bool := decide (b < 2 ^ 24)

def whoOk : Requester → Bool
  | .core c => coreOk c
  | .mover => true

def flagOk : FlagRef → Bool
  | .core c i => coreOk c && decide (i < 256)
  | .chip i => decide (i < 4096)

/-- A segment's identity (R544). -/
def segOk (k : SegKey) : Bool := devOk k.src && blockOk k.block

/-- Fields of a packet header (Table 12.7). -/
def packetOk (p : Packet) : Bool :=
  decide (p.hops ≤ 6) && decide (p.hidx < 8) && devOk p.dst && devOk p.src && decide (p.tseq < 65536) && decide (p.route.length = p.hops)

/-- Table 12.8: the body is of a row's type. -/
def isWrite : Payload → Bool
  | .write _ _ m _ _ l => decide (l.length = ((List.range 16).filter (fun i => m.getLsbD i)).length)
  | _ => false
def isReadReq : Payload → Bool
  | .readReq _ _ _ => true
  | _ => false
def isReadData : Payload → Bool
  | .readData _ _ m _ l => decide (l.length = ((List.range 16).filter (fun i => m.getLsbD i)).length)
  | _ => false
def isSegAck : Payload → Bool
  | .segAck k _ => segOk k
  | _ => false
def isSegAbort : Payload → Bool
  | .segAbort k _ => segOk k
  | _ => false
def isRedData : Payload → Bool
  | .redData .. => true
  | _ => false
def isReady : Payload → Bool
  | .window (.ready _ _ _ _) => true
  | _ => false
def isMismatch : Payload → Bool
  | .window (.mismatch _ _) => true
  | _ => false
def isClose : Payload → Bool
  | .window (.close _ _ _ _) => true
  | _ => false
def isDone : Payload → Bool
  | .window (.done _ _ _) => true
  | _ => false
def isHold : Payload → Bool
  | .window (.hold _ _ _) => true
  | _ => false
def isExtend : Payload → Bool
  | .window (.extend _ _ _ _) => true
  | _ => false
def isGather : Payload → Bool
  | .ctrl (.gather _ _) => true
  | _ => false
def isClaim : Payload → Bool
  | .ctrl (.claim _ _) => true
  | _ => false

/-- DELAY carries 1 to 255 (R723), REFUSE a reason of Table 17.4. -/
def answerOk : PwrAnswer → Bool
  | .ack => true
  | .delay n => decide (1 ≤ n) && decide (n ≤ 255)
  | .refuse r => decide (1 ≤ r) && decide (r ≤ 0x0A)

/-- The command is one the device can be given. -/
def wellFormed : Instr → Bool
  | .bundleIssue c _ | .mmul c _ | .mdrain c _ | .mzero c _ | .mswap c | .trel c _ | .endStream c _ | .stop c _ _ | .brx c _ => coreOk c
  | .addSubAndOrXor c _ _ | .shlShrSra c _ _ | .mul c _ | .minMaxMinuMaxu c _ _ | .addi c _ | .andiOriXori c _ _
  | .shliShriSrai c _ _ | .lui c _ | .cmpReg c _ _ | .cmpImm c _ _ | .plogic c _ _ | .pnot c _ | .sel c _ | .lqs c _ | .sqs c _
  | .srseed c _ | .getid c _ | .bc c _ | .jmp c _ => coreOk c
  | .vaddVsubVmul c _ _ | .vfma c _ | .vfms c _ | .vminVmax c _ _ | .vabsVneg c _ _ | .vsqrt c _ | .vfunc c _ _ | .vlogic c _ _
  | .vshift c _ _ | .vcmp c _ _ | .vsel c _ | .vredsum c _ | .vredmax c _ | .vany c _ | .vcvt c _ | .vcvtbs c _ | .vcvtbd c _
  | .vcvtbb c _ | .lqv c _ | .sqv c _ | .vbcast c _ | .vmovs c _ | .vtr c _ | .vtw c _ => coreOk c
  | .ld c _ | .st c _ | .pf c _ | .mload c _ | .mloadt c _ | .amo c _ | .addaSuba c _ _ | .addai c _ | .shla c _ | .mulai c _
  | .lia c _ | .bra c _ | .jmpa c _ => coreOk c
  | .set c _ _ | .clr c _ _ | .waitc c _ _ | .test c _ _ => coreOk c
  | .lqLineArrival c _ | .writeAckReturn c _ | .brxResolution c | .orphanResponseDrop c _ | .flagAckReturn c | .coreRunComplete c
  | .coreStopped c | .coreResume c | .tileLineArrival c _ | .mmulCollectionStart c | .mmulComputeStart c | .mmulComplete c
  | .mdrainStart c _ | .mdrainComplete c _ | .mzeroExecute c | .mswapExecute c | .trelExecute c | .bankRefusal c _ | .forwardReceived c _ =>
    coreOk c
  | .bankGrant c bank => coreOk c && decide (bank < 8 * 32 * 48)
  | .directoryLookup st => decide (st < 8)
  | .translationAnswer w => whoOk w
  | .channelRead st ch l _ | .channelWrite st ch l _ _ => chanOk st ch && lineOk l
  | .channelTurnaround st ch | .interfaceCalibration st ch | .channelDraining st ch _ | .channelMappedOut st ch => chanOk st ch
  | .bankRefresh st ch b => chanOk st ch && decide (b < 48)
  | .carafeAccess w l _ _ => whoOk w && lineOk l
  | .atomicPerform (.core c _) => coreOk c
  | .atomicPerform (.mover l ty _ _) => lineOk l && decide (ty ≠ 3)
  | .narrowAccess st a n _ => decide (st < 8) && decide (a < 2 ^ 40) && (n == 8 || n == 16 || n == 32 || n == 64)
  | .placeMap r i | .placeAttr r i | .placeUnmap r i | .pinSet r i | .pinClear r i | .move r i | .gather r i | .scatter r i
  | .wgbDrain r i | .updateStep r i | .updateDefine r i | .updateModify r i | .updateRelease r i | .flagSetSet r i | .flagSetClr r i
  | .flagSetWrite r i | .flagWait r i | .reduceRun r i | .reduceDefine r i | .reduceRelease r i | .extendSend r i | .runComplete r i
  | .stepBeginOpen r i | .stepBeginResolve r i | .checkpoint r i | .restore r i | .replay r i | .commandComplete r i | .nop r i
  | .fence r i | .loadProgram r i | .launch r i | .launchCoresStart r i | .launchComplete r i | .queryCounters r i | .powerD0 r i
  | .powerEnter r i | .hostAccessRefused r i => cmdOk r i
  | .migrationStart | .plannerEpoch => true
  | .migrationCommit b => blockOk b
  | .invalidation w b | .invalidationAck w b => whoOk w && blockOk b
  | .flagOpApply f => flagOk f
  | .flagOp src seq _ _ | .flagAck src seq _ => devOk src && decide (seq < 65536)
  | .remoteFlagHoldExpiry d seq => devOk d && decide (seq < 65536)
  | .shutterPathChange _ => true
  | .stall d => decide (d < 64)
  | .flitReceive p f c => portOk p && decide (f.subs.length = 4) && c.words.all (fun q => decide (q.1 < 8))
  | .controlFlit p | .recovery p | .recoveryComplete p | .recoveryTimeout p | .portEnable p | .portTrainTimeout p | .flitTransmit p
  | .identityFrame p _ _ => portOk p
  | .laneFailure p l => portOk p && decide (l < 8)
  | .laneLock p x _ => portOk p && (x.width == 8 || x.width == 4)
  | .write p => packetOk p && isWrite p.body
  | .readReq p => packetOk p && isReadReq p.body
  | .readData p => packetOk p && isReadData p.body
  | .segAck p => packetOk p && isSegAck p.body
  | .segAbort p => packetOk p && isSegAbort p.body
  | .segTimeout k d | .segAbortTimeout k d => segOk k && devOk d
  | .readTimeout g _ => blockOk g
  | .redData p => packetOk p && isRedData p.body
  | .ready p => packetOk p && isReady p.body
  | .mismatch p => packetOk p && isMismatch p.body
  | .close p => packetOk p && isClose p.body
  | .done p => packetOk p && isDone p.body
  | .hold p => packetOk p && isHold p.body
  | .extend p => packetOk p && isExtend p.body
  | .windowDeadline n | .holdResend n | .ownerSum n | .contributionTimeout n | .closeTimeout n | .replayReadyTimeout n => decide (n < 256)
  | .doorbellSnoop l => decide (l < 2 ^ 46)
  | .doorbellRead r _ | .descriptorRead r _ | .ringEnable r _ | .ringDisable r | .ringDrained r => decide (r < 256)
  | .powerAnswer b a => decide (b < 0x8000) && answerOk a
  | .entryLimitTimeout | .powerStateReached | .wake _ | .exitComplete | .governorSample _ _ | .governorAdjust | .fastClamp
  | .tokenRefill | .powerOffTrip _ => true
  | .hdmRead a _ => decide (a < 2 ^ 40) && decide (a % 64 = 0)
  | .hdmWrite a _ _ => decide (a < 2 ^ 40) && decide (a % 64 = 0)
  | .bisnpResponse l _ => lineOk l
  | .functionLevelReset | .perst | .powerOn | .moduleReset | .railPowerGood | .railTimeout | .systabGo | .claimTimer
  | .noCoordTimeout | .gatherLimit | .ctrlResend | .linkNoteTimeout => true
  | .localReady t => t.chans.all (fun k => decide (k < 256)) && t.stores.all coreOk &&
      t.lines.all (fun e => coreOk e.1 && decide (e.2.1 < 4) && decide (e.2.2.2 ≤ if e.2.2.1 then 32 else 16))
  | .claim p => packetOk p && isClaim p.body
  | .report r => decide (r.pos < 4096) && devOk r.devnum && decide (r.iodies ≤ 4)
  | .roster r => decide (r.recs.length ≤ 4096)
  | .readyNote d | .linkNote d _ => devOk d
  | .getVersion | .getCapabilities | .negotiateAlgorithms | .getDigests
  | .finish | .endSession | .getCosig | .ideKm _ | .journalHalfErase _ | .fwUpdateWrite _ _ _ | .fwUpdateCommit => true
  | .challenge q | .keyExchange q => decide (q.slot < 256)
  | .getMeasurements q => decide (q.slot < 256)
  | .getCertificate q n => decide (q.slot < 256) && decide (q.offset < 65536) && decide (n < 65536)
  | .getIdrec o n => decide (o < 65536) && decide (n < 65536)
  | .extest | .samplePreload | .idcode | .bypass | .zdpStatus | .zdpNonce | .zdpToken _ | .zdpCmd _ _ _ _ => true
  | .smbusPartNumber | .smbusSerial | .smbusTopState | .smbusPower => true
  | .smbusThermal v => decide (v < 256)
  | .tstripConfigWrite _ => true
  | .w1cWrite o _ => decide (o < 2 ^ 24)
  | .registerWrite o n _ => (n == 4 || n == 8) && decide (o % n = 0) && decide (o + n ≤ 2 ^ 24)
  | .bar0UnsupportedAccess o n _ => decide (o + n ≤ 2 ^ 24)
  | .coordinatorGather p => packetOk p && isGather p.body
  | .resetNRelease | .perstRelease => true
  | .configurationRequest fn _ => decide (fn < 2)
  | .atsInvalidation _ l => decide (l.length ≤ 512)

end Sys2Proof
end

