-- ==== Sys2Proof/Tests/Slice0.lean ====
section
/-!
SUPPORT. Tests: terms that WellFormed refuses, small results worked out by hand from spec/, and for every statement with hypotheses states and operands
that meet them, clause by clause.
-/
namespace Sys2Proof.Tests

open Sys2Proof Sys2Proof.Machine

set_option Elab.async false

/-! ### States of the tests -/

/-- A READY device in D0. -/
def up : State := { bu := { rails := 6, fwRunning := true, state := 3, phase := 8, localDone := true, cfgReady := true } }
/-- That device with core 0 as given. -/
def core0 (k : Core) : State := setCore up 0 k
/-- An engine that runs at 64 in a region of 4,096 bytes. -/
def eng : Engine := { st := .running, pc := 64, size := 4096 }
/-- Core 0 with its execute engine running. -/
def xrun (k : Core) : State := core0 { k with xe := eng }
/-- Core 0 with its access engine running. -/
def arun (k : Core) : State := core0 { k with ae := eng }
/-- Core 0 with both running. -/
def both (k : Core) : State := core0 { k with ae := eng, xe := eng }
/-- Block 1 mapped to stack 0. -/
def home1 (s : State) : State := setDir s 1 { home := .stack 0 }
def tc1 : TcEntry := ⟨1, .stack 0, false⟩
/-- A number from (byte, value) pairs, and a descriptor of an opcode. -/
def num (l : List (Nat × Nat)) : Nat := l.foldl (fun n f => n + f.2 * 256 ^ f.1) 0
def dsc (op : Nat) (l : List (Nat × Nat)) : Line := BitVec.ofNat 512 (num ((0, op) :: l))
/-- The device with one command, in slot 0 of ring 0. -/
def one (s : State) (d : Line) (p : CmdPhase) : State := { s with cm := { s.cm with cmds := [⟨0, 0, d, p, 0, false, false, 0, false, false, []⟩] } }
/-- Bytes in the device range and in host memory: (address, length, value). -/
def stored (s : State) (l : List (Nat × Nat × Nat)) : State := { s with m := { s.m with mem := l.foldl (fun m x => writeN m x.1 x.2.1 x.2.2) s.m.mem } }
def hosted (s : State) (l : List (Nat × Nat × Nat)) : State :=
  { s with host := { s.host with mem := l.foldl (fun m x => writeN m x.1 x.2.1 x.2.2) s.host.mem } }
/-- A tensor of `n` FP32 values in a row at an address of the device range. -/
def vec32 (a n : Nat) : Nat := num [(0, a), (16, 16), (24, n), (48, 1)]
/-- In D0 no unit rests. -/
theorem unitRests_D0 (s : State) (h : s.pw = {}) (op : Nat) : unitRests s op = false := by simp [unitRests, stopped, h]
def okIs (x : Except Status Nat) (n : Nat) : Bool := match x with
  | .ok m => m == n
  | .error _ => false
def failIs (x : Except Status Nat) (e : Status) : Bool := match x with
  | .ok _ => false
  | .error d => d == e

/-! ### The queue and the scalar slot -/

theorem witness_StepRunsFrontCommand : up.pending = [] ∧ (coreOf up 1023).rep = none := by decide +kernel

theorem witness_EveryStepKeepsMemoryCanonical : Safe up ∧ step { up with pending := [.nop 0 0] } = .next up := ⟨rfl, rfl⟩

theorem witness_NoStepUndoesFuses : step { up with pending := [.fwUpdateCommit] } = .next up := rfl

theorem witness_CommandsLeaveTheQueue : exec .bypass up = .next { up with sec := { up.sec with ir := 0xFF }, resp := .tap 1 0 } := rfl

theorem witness_ScalarAndPredicateResults :
    canIssue (xrun {}) 0 true = true ∧ ((⟨1, 2, 3, 0⟩ : FSR).p = 0) ∧ ((⟨1, 0, 31⟩ : FSI).sa = 0 ∧ (⟨1, 0, 31⟩ : FSI).imm.toNat < 32) ∧
    ((⟨1, 0, 4⟩ : FSI).sa = 0 ∧ (⟨1, 0, 4⟩ : FSI).imm = 4) ∧ (⟨1, 2, 3, 0⟩ : FSC).imm = 0 ∧ (⟨1, 2, 0, 0x1FFF⟩ : FSC).sb = 0 ∧ (⟨1, 2, 0⟩ : FSP).pb = 0 := by
  decide +kernel

theorem witness_SrseedTakesEffectAtTheNextBundle :
    canIssue (xrun {}) 0 true = true ∧ (⟨0, 2, 3, 0⟩ : FSR).sd = 0 ∧ (⟨1, 2, 3, 0, 2, true⟩ : FVR).vc = 0 ∧ (⟨1, 2, 3, 0, 2, true⟩ : FVR).ty = 2 ∧
    (coreOf (xrun {}) 0).tokens ≠ 0 ∧
    (let g : FMD := { acc := 3, dest := 0, td := 15, fmt := 2, bs := false, sr := true, clr := true, soff := 0 }
     matrixWaits (coreOf (xrun {}) 0) (.mdrain g) = [] ∧ drainWaits (coreOf (xrun {}) 0) (.mdrain g) = [] ∧ matrixFaults (.mdrain g) = [] ∧ matrixStateFaults (coreOf (xrun {}) 0) (.mdrain g) = []) := by decide +kernel

/-- A branch to the first and to the last address of the region, one not taken, and one that reports. -/
theorem witness_ScalarBranches :
    let k := coreOf (xrun { pr := 2 }) 0
    canIssue (xrun { pr := 2 }) 0 true = true ∧
    (getP k 2 = (⟨2, false, false, 0, 5⟩ : FSB).pneg) ∧
    (getP k 1 ≠ (⟨1, false, false, 0, 0xFFE0⟩ : FSB).pneg ∧ (k.xe.base : Int) = k.xe.pc + 2 * ((0xFFE0 : BitVec 16).toInt)) ∧
    ((k.xe.pc : Int) + 2 * ((2015 : BitVec 16).toInt) = 4094 ∧ (4094 : Int) < (k.xe.base + k.xe.size : Nat)) ∧
    (flagOf k 62 = false ∧ flagOf k 63 = false ∧ firstWaiter (xrun { pr := 2 }) (.core 0 62) = none ∧ firstWaiter (xrun { pr := 2 }) (.core 0 63) = none) ∧
    (flagOf (coreOf (xrun { flags := 2 }) 0) 1 = true ∧ getP (coreOf (xrun { flags := 2 }) 0) 2 = false) ∧
    ((coreOf (xrun { rep := some (62, 64) }) 0).rep = some (62, 64) ∧ flagOf { coreOf (xrun { rep := some (62, 64) }) 0 with rep := none } 62 = false ∧
      firstWaiter (xrun { rep := some (62, 64) }) (.core 0 62) = none ∧ flagOf (coreOf (xrun { rep := some (63, 64), flags := BitVec.twoPow 256 63 }) 0) 63 = true) := by decide +kernel

/-- Heads with data, poisoned, without data, and not committed; an SQ entry to fill, and one not committed. -/
theorem witness_QueuePopsAndFills :
    let e : Lq := { id := 0, level := 0, pc := 0, addr := 0, bytes := 64, st := .data, data := 7 }
    let q : Sq := { id := 0, level := 0, pc := 0, addr := 65536, bytes := 4 }
    canIssue (xrun { lq := [e] }) 0 true = true ∧ (coreOf (xrun { lq := [e] }) 0).lq = [e] ∧ e.level ≤ (coreOf (xrun { lq := [e] }) 0).brxHead ∧ e.poison = false ∧
    (coreOf (xrun { lq := [e] }) 0).tokens ≠ 0 ∧ (coreOf (xrun { lq := [{ e with poison := true }] }) 0).lq = [{ e with poison := true }] ∧
    ({ e with st := .waiting } : Lq).st ≠ .data ∧ (coreOf (xrun { lq := [{ e with level := 1 }] }) 0).brxHead < 1 ∧
    sqOf (coreOf (xrun { sq := [q] }) 0) (coreOf (xrun { sq := [q] }) 0).fillNext = some q ∧ (coreOf (xrun { sq := [{ q with level := 1 }] }) 0).brxHead < 1 ∧
    sqOf (coreOf (xrun { sq := [{ q with level := 1 }] }) 0) 0 = some { q with level := 1 } := by decide +kernel

theorem witness_FilledStoreReachesMemory :
    let e : Sq := { id := 0, level := 0, pc := 0, addr := 131068, bytes := 4 }
    let s := home1 (xrun { sq := [e], tc := [tc1] })
    let k := coreOf s 0
    canIssue s 0 true = true ∧ k.sq = [e] ∧ e.id = k.fillNext ∧ e.level ≤ k.brxHead ∧ k.posted = [] ∧ blockOf e.addr = 1 ∧ k.reqs = [] ∧
    k.tc.find? (fun q => q.block == blockOf e.addr) = some tc1 ∧ tc1.home = (dirOf s 1).home ∧ moveOf s 1 = none ∧ slotsUsed k < 512 ∧ listedBank s 0 (lineOf e.addr) = none ∧ refusingBank s (lineOf e.addr) = none ∧
    hostHolds s (lineOf e.addr) = false ∧ poisoned s (lineOf e.addr) = false := by decide +kernel

/-! ### The vector slot and bundles -/

theorem witness_VectorLaneResults :
    canIssue (xrun {}) 0 true = true ∧ (coreOf (xrun {}) 0).tokens ≠ 0 ∧ (⟨1, 2, 0, 0, 2, true⟩ : FVR).ty = 2 ∧ (⟨1, 2, 3, 0, 3, false⟩ : FVR).ty = 3 := by
  decide +kernel

theorem witness_FloatingLanesRoundOnce : (⟨1, 2, 3, 4, 0, false⟩ : FVR).ty ≠ 3 ∧ 15 < tyLanes 0 ∧ 31 < tyLanes 1 ∧ 31 < tyLanes 2 := by decide +kernel

theorem witness_IntegerLanesWrap : (⟨1, 2, 3, 4, 3, false⟩ : FVR).ty = 3 ∧ 15 < tyLanes 3 := by decide +kernel

/-- FP32 to BF16; block-scaled elements to FP16 and back: FP8, INT8. -/
theorem witness_VectorMovesAndConversions :
    canIssue (xrun {}) 0 true = true ∧ (coreOf (xrun {}) 0).tokens ≠ 0 ∧ (⟨1, 2, 0, 3⟩ : FVS).lane = 0 ∧ (⟨1, 2, 15, 3⟩ : FVS).lane.toNat < tyLanes 3 ∧
    ((List.range 16).any (fun d => cvtFaults ⟨1, 2, 1, BitVec.ofNat 4 d, 0, false, 0⟩ false false == []) = true) ∧
    ((List.range 16).any (fun a => cvtFaults ⟨1, 2, BitVec.ofNat 4 a, 2, 0, false, 1⟩ true false == []) = true) ∧
    ((List.range 16).any (fun d => cvtFaults ⟨1, 2, 2, BitVec.ofNat 4 d, 0, false, 1⟩ false true == []) = true) ∧
    ((List.range 256).any (fun n => cvtFaults ⟨1, 2, BitVec.ofNat 4 n, BitVec.ofNat 4 (n / 16), 0, false, 1⟩ true true == []) = true) := by decide +kernel

/-- A FULL tile read; an EMPTY tile, and one that lacks a row, written. -/
theorem witness_TileRows :
    let full : Tile := { st := .full, fmt := 6, mask := 0xFFFF, scaleOk := true }
    let part : Tile := { st := .writing, fmt := 6, mask := 0x7FFF, scaleOk := true }
    canIssue (xrun {}) 0 true = true ∧ (coreOf (xrun {}) 0).tokens ≠ 0 ∧ vtrReady (coreOf (xrun { tiles := [(15, full)] }) 0) ⟨1, 15, 15, 0⟩ = true ∧
    tileBusy (coreOf (xrun {}) 0) 15 = false ∧ (tileOf (coreOf (xrun {}) 0) 15).st = .empty ∧
    tileBusy (coreOf (xrun { tiles := [(0, part)] }) 0) 0 = false ∧ (tileOf (coreOf (xrun { tiles := [(0, part)] }) 0) 0).st = .writing ∧
    (tileOf (coreOf (xrun { tiles := [(0, part)] }) 0) 0).fmt = (6 : BitVec 4).toNat ∧ part.scaleOk = true := by decide +kernel

theorem witness_GuardedSlots :
    canIssue (xrun { pr := 2 }) 0 true = true ∧ getP (coreOf (xrun { pr := 2 }) 0) 2 = false ∧ getP (coreOf (xrun { pr := 2 }) 0) 1 ≠ false ∧
    hardOnly (vectorFaults (.fma ⟨1, 2, 3, 4, 0, false⟩)) = [] ∧ hardOnly (matrixFaults (.mzero 1)) = [] ∧
    (∀ w ∈ vectorWrites (.fma ⟨1, 2, 3, 4, 0, false⟩), w ∉ optList (some (.addi ⟨1, 0, 31⟩)) scalarWrites ∧ w ∉ optList none (syncWrites true)) := by decide +kernel

theorem witness_BundlesAreAllOrNothing :
    canIssue (xrun { tokens := 0 }) 0 true = true ∧
    verdict (xrun { tokens := 0 }) 0 true { vector := some (.fma ⟨1, 2, 3, 4, 0, false⟩) } noPre = .held .tokens ∧
    verdict (xrun {}) 0 true { vector := some (.fma ⟨1, 2, 3, 4, 3, true⟩) } noPre = .fault (1, .field) ∧
    canIssue (arun {}) 0 false = true ∧ verdict (arun {}) 0 false { access := some (.ld ⟨1, 7, false, 0⟩) } noPre = .fault (3, .field) ∧
    (let b : Brx := { id := 1, pair := 0, addr := 64, fall := 70, tgt := 64, pred := true, ckpt := [], bundles := 0 }
     canIssue (arun { brx := [b] }) 0 false = true ∧ verdict (arun { brx := [b] }) 0 false { access := some (.ld ⟨1, 7, false, 0⟩) } noPre = .fault (3, .field)) := by decide +kernel

/-- A header with one scalar slot and an ADD; one with a wrong length check; the last byte of the region. -/
theorem witness_BundleIssueDecodes :
    let s := xrun { store := [(64, 0x21), (67, 0x1F), (68, 0x22)] }
    let k := coreOf s 0
    canIssue s 0 true = true ∧ k.xe.base ≤ 64 ∧ 64 + 6 ≤ k.xe.base + k.xe.size ∧ headerAt k 64 = 0x0021 ∧
    (BitVec.ofNat 32 (readN k.store 66 4)).extractLsb' 0 8 = 0 ∧ (BitVec.ofNat 32 (readN k.store 66 4)).extractLsb' 26 6 = 0 ∧
    headerAt (coreOf (xrun { store := [(64, 0x41)] }) 0) 64 = 0x0041 ∧
    (let a := arun { store := writeN [] 64 6 (0x48C7FFFF * 65536 + 0x28) }
     let w : Word := BitVec.ofNat 32 (readN (coreOf a 0).store 66 4)
     canIssue a 0 false = true ∧ (coreOf a 0).brx = [] ∧ listOver (coreOf a 0) = false ∧ headerAt (coreOf a 0) 64 = 0x0028 ∧ w.extractLsb' 26 6 = 0x12 ∧ w.extractLsb' 0 18 = 0x3FFFF) ∧
    (let e := (coreOf (core0 { xe := { eng with pc := 4095 } }) 0).xe; e.base + e.size < e.pc + 2) := by decide +kernel

/-! ### The matrix, access and sync slots -/

/-- Two FULL tiles of INT8 and FP8. -/
def tilesMixed : List (Nat × Tile) :=
  [(0, { st := .full, fmt := 8, mask := 0xFFFF, scaleOk := true }), (15, { st := .full, fmt := 6, mask := 0xFFFF, scaleOk := true })]

theorem witness_MatrixInstructionsEnterMQ :
    let full (n : Nat) : Tile := { st := .full, fmt := n, mask := 0xFFFF, scaleOk := true }
    let s := xrun { tiles := [(0, full 6), (15, full 6)], mops := [0, 1, 2].map (fun i => { id := i, op := .mswap, phase := .queued }) }
    canIssue s 0 true = true ∧ mqUsed (coreOf s 0) = 3 ∧ mopReads (.mmul ⟨0, 3, 8, 0⟩) = [0, 15] ∧ tileReady (coreOf s 0) 0 = true ∧ tileReady (coreOf s 0) 15 = true ∧
    matrixStateFaults (coreOf s 0) (.mmul ⟨0, 3, 8, 0⟩) = [] ∧ matrixFaults (.mdrain ⟨0, 0, 1, 6, false, false, false, 0⟩) = [] ∧
    matrixStateFaults (coreOf s 0) (.mdrain ⟨0, 0, 1, 6, false, false, false, 0⟩) = [] ∧ (tileOf (coreOf s 0) 1).st = .empty ∧ tileBusy (coreOf s 0) 1 = false ∧
    matrixFaults (.mdrain ⟨1, 3, 0, 1, true, false, false, 0⟩) = [] := by decide +kernel

/-- An address past 2⁴⁰, one that is not aligned, one of each wrong SZ; WGB offsets 2,047 and 196,608. -/
theorem witness_SlotFaultsArePrecise :
    let s := xrun { tiles := tilesMixed, sr := [(1, 2047), (2, 196608)] }
    let a := arun { a := [(1, 0x10000000000), (2, 1)] }
    canIssue s 0 true = true ∧ mqUsed (coreOf s 0) < 4 ∧ tileReady (coreOf s 0) 0 = true ∧ tileReady (coreOf s 0) (4 * 3 + 3) = true ∧ (8 : BitVec 4) = BitVec.twoPow 4 3 ∧
    (tileOf (coreOf s 0) 0).fmt = 8 ∧ (tileOf (coreOf s 0) 15).fmt ≠ 8 ∧ (getS (coreOf s 0) 1).toNat % 2048 ≠ 0 ∧ 194560 < (getS (coreOf s 0) 2).toNat ∧
    (projectedAcc (coreOf s 0) 7).1 = false ∧ canIssue a 0 false = true ∧ (coreOf a 0).brx = [] ∧
    2 ^ 40 ≤ (getA (coreOf a 0) 1 + (0 : BitVec 16).signExtend 48).toNat ∧ (getA (coreOf a 0) 2 + (0 : BitVec 16).signExtend 48).toNat % 2 ^ 1 ≠ 0 := by
  decide +kernel

/-- Each condition of BRA, its targets at both ends of the region, and one past its end. -/
theorem witness_AddressArithmeticAndBranches :
    let s := arun { a := [(1, 0xFFFFFFFFFFFF), (2, 1)] }
    let k := coreOf s 0
    canIssue s 0 false = true ∧ listOver k = false ∧ (63 : BitVec 18).toNat < 64 ∧ getA k 1 = getA k 1 ∧ getA k 1 ≠ getA k 2 ∧ (getA k 1).slt (getA k 2) = true ∧
    (getA k 2).ult (getA k 1) = true ∧ ¬ (getA k 1).ult (getA k 2) = true ∧
    (k.ae.base : Int) = k.ae.pc + 2 * (0xFFE0 : BitVec 16).toInt ∧ (k.ae.pc : Int) + 2 * (2015 : BitVec 16).toInt + 2 = (k.ae.base + k.ae.size : Nat) ∧
    (k.ae.base + k.ae.size : Nat) ≤ (k.ae.pc : Int) + 2 * (2016 : BitVec 16).toInt ∧ k.brx = [] := by decide +kernel

/-- The last line of the range; LQ with 31 entries, SQ with 15 and with 16. -/
theorem witness_LoadsAndStoresTakeQueueEntries :
    let s := arun { a := [(1, 0xFFFFFFFFC0)], lq := List.replicate 31 { id := 0, level := 0, pc := 0, addr := 0, bytes := 4 } }
    let q (n : Nat) : State := arun { sq := List.replicate n { id := 0, level := 0, pc := 0, addr := 0, bytes := 4 } }
    let addr := (getA (coreOf s 0) 1 + (0 : BitVec 16).signExtend 48).toNat
    canIssue s 0 false = true ∧ listOver (coreOf s 0) = false ∧ (coreOf s 0).brx = [] ∧ listOver (coreOf (q 16) 0) = false ∧ addr < 2 ^ 40 ∧ addr % 2 ^ 6 = 0 ∧ hazard (coreOf s 0) addr = false ∧ (coreOf s 0).lq.length = 31 ∧ slotsUsed (coreOf s 0) < 512 ∧
    listFull s (coreOf s 0) [addr] = false ∧ (coreOf (q 15) 0).sq.length = 15 ∧ (coreOf (q 15) 0).mops.any drainsSq = false ∧ listFull (q 15) (coreOf (q 15) 0) [0] = false ∧ slotsUsed (coreOf (q 16) 0) < 512 ∧
    (coreOf (q 16) 0).sq.length = 16 ∧ canIssue (q 16) 0 false = true := by decide +kernel

/-- PF with PF_EN clear and set, at no line and at a line; a tile load with 16 rows and a scale line. -/
theorem witness_PrefetchesAndTileLoads :
    let s := arun { a := [(1, 65536), (2, 64)] }
    let on := arun { a := [(1, 65536), (2, 0x10000000000)], runahead := 0x210 }
    canIssue s 0 false = true ∧ (coreOf s 0).brx = [] ∧ (coreOf on 0).brx = [] ∧ listOver (coreOf s 0) = false ∧ listOver (coreOf on 0) = false ∧ listFull s (coreOf s 0) [65536] = false ∧ (coreOf (arun { runahead := 0x110 }) 0).runahead.getLsbD 9 = false ∧
    (coreOf on 0).runahead.getLsbD 9 = true ∧ slotsUsed (coreOf on 0) < 512 ∧ 2 ^ 40 ≤ (getA (coreOf on 0) 2).toNat ∧ listFull on (coreOf on 0) [65536] = false ∧
    (getA (coreOf on 0) 1).toNat % 64 = 0 ∧ mloadFaults (coreOf s 0) ⟨0, 1, 2, 1, 6, 1, 15⟩ = [] ∧ accessWaits s (coreOf s 0) (.mload ⟨0, 1, 2, 1, 6, 1, 15⟩) = [] := by
  decide +kernel

theorem witness_AtomicsTakeQueueEntries :
    let s := arun { a := [(1, 65536)] }
    canIssue s 0 false = true ∧ (coreOf s 0).brx = [] ∧ listOver (coreOf s 0) = false ∧ accessFaults (coreOf s 0) 64 (.amo ⟨1, 0, 0, true, 0⟩) = [] ∧ listFull s (coreOf s 0) [65536] = false ∧
    listFull s (coreOf s 0) [65536 - 4] = false ∧ (coreOf s 0).ae.pc = 64 ∧
    accessFaults (coreOf s 0) 64 (.amo ⟨1, 0, 0, false, 0xFFC⟩) = [] ∧ (coreOf s 0).sq.length < 16 ∧ (coreOf s 0).mops.any drainsSq = false ∧ (coreOf s 0).lq.length < 32 ∧ slotsUsed (coreOf s 0) < 512 := by
  decide +kernel

/-- Flags 255 of a core and 4095 of the chip, by either engine. -/
theorem witness_SyncSlotFlagOperations :
    let s := both { flags := BitVec.twoPow 256 255 }
    let k := coreOf s 0
    canIssue s 0 true = true ∧ canIssue s 0 false = true ∧ k.brx = [] ∧ listOver k = false ∧ (255 : BitVec 12).toNat < 256 ∧ storesDone k true = true ∧ storesDone k false = true ∧
    flagOf k 255 = true ∧ flagOf k 0 = false ∧ firstWaiter s (.core 0 0) = none ∧ k.posted = [] ∧ devNum s < 4096 := by decide +kernel

theorem witness_WaitsAndTests :
    let s : State := { both { flags := BitVec.twoPow 256 255 } with sh := { cf := BitVec.twoPow 4096 4095 } }
    canIssue s 0 true = true ∧ canIssue s 0 false = true ∧ (coreOf s 0).brx = [] ∧ listOver (coreOf s 0) = false ∧ flagGet s (.core 0 255) = true ∧ flagGet s (.chip 4095) = true ∧
    flagGet s (.core 0 0) = false ∧ flagGet s (.chip 0) = false ∧ firstWaiter s (.core 0 255) = none ∧ firstWaiter s (.chip 4095) = none ∧
    (engineOf (coreOf s 0) true).grant = false ∧ (engineOf (coreOf s 0) false).grant = false ∧ s.sh.waiters = [] ∧ (7 : BitVec 5).toNat < 8 ∧
    (15 : BitVec 5).toNat < 16 := by decide +kernel

/-- Depth 16 with 15 and with 16 unresolved, and depth 0 with one. -/
theorem witness_BrxIssues :
    let b : Brx := ⟨1, 0, 0, 6, 0, false, [], 0⟩
    let s := arun { brx := List.replicate 15 b }
    let f := arun { brx := List.replicate 16 b }
    let z := arun { runahead := 0x300, brx := [b] }
    canIssue s 0 false = true ∧ listOver (coreOf s 0) = false ∧ listOver (coreOf f 0) = false ∧ listOver (coreOf z 0) = false ∧ (coreOf s 0).brx.length < min 16 ((coreOf s 0).runahead.toNat % 32) ∧ predOf (coreOf s 0) 64 = none ∧
    predOf (coreOf (arun { predictor := [(32, some 3)] }) 0) 64 = some 3 ∧ (coreOf f 0).brx.length = min 16 ((coreOf f 0).runahead.toNat % 32) ∧
    (coreOf z 0).runahead.toNat % 32 = 0 ∧ (coreOf z 0).brx ≠ [] ∧ (coreOf (arun { runahead := 0x300 }) 0).brx = [] := by decide +kernel

theorem witness_StopAndEndHaltTheirEngine :
    canIssue (both {}) 0 true = true ∧ canIssue (both {}) 0 false = true ∧ (coreOf (both {}) 0).brx = [] ∧ listOver (coreOf (both {}) 0) = false := by decide +kernel

/-! ### Events of cores and memory -/

/-- A request of core 0 for the first line of block 1. -/
def req (k : ReqKind) : Req := { id := 5, kind := k, addr := 65536, level := 0, pc := 0, ra := false, phase := .flight, home := .stack 0 }

theorem witness_RequestsAreAnswered :
    let s (r : Req) : State := home1 (both { reqs := [r], tiles := [(15, { st := .loading, fmt := 6 })] })
    let all (r : Req) : Prop := reqOf (coreOf (s r) 0) 5 = some r
    (∀ q ∈ (coreOf (s (req (.lq 0))) 0).reqs, q.phase ≠ .waitSlot) ∧ banksInUse (coreOf (s (req (.lq 0))) 0) = false ∧
    all (req (.lq 0)) ∧ answerable (s (req (.lq 0))) 0 (req (.lq 0)) = true ∧ all (req .pf) ∧ answerable (s (req .pf)) 0 (req .pf) = true ∧ all (req (.tile 15 15)) ∧
    answerable (s (req (.tile 15 15))) 0 (req (.tile 15 15)) = true ∧ (tileOf (coreOf (s (req (.tile 15 15))) 0) 15).st = .loading ∧ all (req (.scale 15)) ∧
    answerable (s (req (.scale 15))) 0 (req (.scale 15)) = true ∧ poisoned (s (req .pf)) 1024 = false ∧
    all { req (.store 0) with phase := .performed } ∧ all { req .pf with orphan := true } := by decide +kernel

theorem witness_LoadedBytesAreMemoryBytes : (131068 : Nat) % 64 + 4 ≤ 64 ∧ poisoned up (lineOf 131068) = false := by decide +kernel

/-- A branch as predicted, one that was not, one not reported, and one reported twice. -/
theorem witness_PredictedBranchesResolve :
    let b : Brx := ⟨1, 31, 64, 70, 128, true, [], 0⟩
    let s (f : BitVec 256) : State := arun { brx := [b], flags := f }
    let t (f : BitVec 256) (n : Nat) : Bool := flagOf (coreOf (s f) 0) n
    (coreOf (s 0) 0).brx = [b] ∧ inRegion (coreOf (s 0) 0).ae b.tgt = true ∧ (t (BitVec.twoPow 256 62) 62 = true ∧ t (BitVec.twoPow 256 62) 63 = false ∧ b.pred = true) ∧
    (t (BitVec.twoPow 256 63) 62 = false ∧ t (BitVec.twoPow 256 63) 63 = true) ∧ (t 0 62 = false ∧ t 0 63 = false) ∧
    (t (3 <<< 62) 62 = true ∧ t (3 <<< 62) 63 = true) ∧ (coreOf (s 0) 0).lq = [] ∧ (coreOf (s 0) 0).sq = [] ∧ (coreOf (s 0) 0).tiles = [] ∧
    (coreOf (s 0) 0).heldFault = none := by decide +kernel

theorem witness_CoreRuns :
    let a : FlagAckMsg := ⟨0, true, 64, none⟩
    let q : Sq := { id := 0, level := 0, pc := 0, addr := 0, bytes := 4 }
    let r : Run := ⟨0, 0, 0, none, false, false⟩
    let s (x : FlagAckMsg) : State := { both {} with sh := { acks := [x] } }
    let ended (l : List Sq) : State := core0 { ae := { eng with st := .ended }, xe := { eng with st := .ended }, run := some r, sq := l }
    let loading := core0 { ae := { eng with st := .stopped 1 }, xe := { eng with st := .ended }, tiles := [(15, { st := .loading })] }
    let stopped := core0 { ae := { eng with st := .stopped 1 }, xe := { eng with st := .stopped 0xFFFF } }
    (s a).sh.acks.find? (fun y => y.core == 0) = some a ∧ (s { a with err := some .flagOver }).sh.acks.find? (fun y => y.core == 0) = some { a with err := some .flagOver } ∧
    (engineOf (coreOf (s a) 0) true).frec.getLsbD 63 = false ∧ (coreOf (ended []) 0).run = some r ∧ (coreOf (ended []) 0).ae.st = .ended ∧
    (coreOf (ended []) 0).xe.st = .ended ∧ (coreOf (ended []) 0).sq = [] ∧ (coreOf (ended []) 0).mops = [] ∧ (coreOf (ended []) 0).posted = [] ∧
    (coreOf (ended []) 0).unacked = 0 ∧ (coreOf (ended [q]) 0).sq ≠ [] ∧ (coreOf stopped 0).ae.st = .stopped 1 ∧ (coreOf stopped 0).xe.st = .stopped 0xFFFF ∧
    settled (coreOf stopped 0) = true ∧ (15, { st := .loading }) ∈ (coreOf loading 0).tiles ∧ (coreOf loading 0).ae.st ≠ .faulted ∧
    (coreOf stopped 0).rep = none ∧ (coreOf stopped 0).stopReported = false ∧ mgmtHalted stopped = false ∧ dumpEn stopped = false ∧ stopHold stopped = false := by decide +kernel

/-- Each phase of an MMUL; a drain to the last tile of the WGB, to a tile, and to a free SQ entry; MZERO, MSWAP and TREL. -/
theorem witness_MatrixQueueRuns :
    let s (op : MatrixOp) (p : MPhase) : State := xrun { mops := [{ id := 0, op := op, phase := p, soff := 194560 }] }
    let f : FMM := ⟨0, 1, 15, 0⟩
    let m (op : MatrixOp) (p : MPhase) : MOp := { id := 0, op := op, phase := p, soff := 194560 }
    let d1 : MatrixOp := .mdrain ⟨1, 0, 0, 1, false, false, false, 1⟩
    let e : Sq := { id := 0, level := 0, pc := 0, addr := 65536, bytes := 64 }
    let w (q : List Sq) : State := xrun { sq := q, mops := [m d1 .queued] }
    let at_ (op : MatrixOp) (p : MPhase) : Prop := (coreOf (s op p) 0).mops = [m op p]
    let two : Core := { mops := [m (.mmul ⟨2, 1, 1, 0⟩) .queued, { m (.mmul f) .collecting with id := 1 }, { m (.mmul ⟨1, 1, 1, 0⟩) .collecting with id := 2 }] }
    blockRests (s .mswap .queued) 0 = false ∧ blockRests (w [e]) 0 = false ∧ (∀ e ∈ collectorTiles f, bufferFor (coreOf (s (.mmul f) .queued) 0) e.1 e.2 = true) ∧ (0, 2) ∈ collectorTiles ⟨2, 1, 1, 0⟩ ∧ bufferFor two 0 2 = false ∧
    at_ (.mmul f) .queued ∧ at_ (.mmul f) .collecting ∧ 16 ≤ (coreOf (s (.mmul f) .collecting) 0).tokens ∧ at_ (.mmul f) .computing ∧
    at_ (.mdrain ⟨2, 3, 0, 0, false, false, false, 1⟩) .queued ∧ (coreOf (s (.mdrain ⟨2, 3, 0, 0, false, false, false, 1⟩) .queued) 0).wgbLock.getLsbD 95 = false ∧
    (m (.mdrain ⟨2, 3, 0, 0, false, false, false, 1⟩) .queued).soff / 2048 = 95 ∧ at_ (.mdrain ⟨0, 3, 15, 6, false, false, true, 1⟩) .started ∧
    at_ (.mdrain ⟨0, 3, 15, 6, false, false, true, 1⟩) .queued ∧ at_ d1 .queued ∧ (coreOf (s d1 .queued) 0).sq = [] ∧
    (coreOf (w [e]) 0).sq = [e] ∧ (coreOf (w [e]) 0).mops = [m d1 .queued] ∧ e.id = (m d1 .queued).ticket ∧ (m d1 .queued).filled = 0 ∧
    e.level ≤ (coreOf (w [e]) 0).brxHead ∧ (coreOf (w [e]) 0).tc = [] ∧
    (coreOf (s (.mdrain ⟨0, 3, 15, 6, false, false, true, 1⟩) .started) 0).sq = [] ∧ at_ (.mzero 0xFF) .queued ∧ at_ .mswap .queued ∧ at_ (.trel 0xFFFF) .queued ∧
    (∀ i, i < 16 → trelReady (tileOf (coreOf (s (.trel 0xFFFF) .queued) 0) i) = true) := by decide +kernel

/-- A full bank that refuses; a grant taken, and one passed on; a channel read and written, full of writes, draining, and empty. -/
theorem witness_BanksAndChannels :
    let b := (bankOf (home1 up) 1024).getD 12288
    let bank (x : Bank) (r : List Req) : State := setBank (home1 (both { reqs := r })) b x
    let wait : Req := { req (.lq 0) with phase := .bankWait b }
    let s := home1 up
    let wq := setChan s 0 0 { wq := 60 }
    let dr := setChan up 0 0 { st := .draining }
    let full : Core := { reqs := (List.range 257).map (fun i => { req .pf with id := i, phase := .bankWait 0 }) }
    let cp : State := setDir s 1 { home := .stack 0, mig := true }
    let mv : State := { cp with m := { cp.m with moves := [⟨1, ⟨.stack 0, 0, 0⟩, ⟨.stack 1, 0, 0⟩, .planner, true, [], [], []⟩] } }
    let fl := arun full
    let dr := setChan dr 0 0 { st := .draining, shareOut := true }
    cached s 1024 = false ∧ (∀ q ∈ [req (.lq 0), wait], q.phase ≠ .waitSlot) ∧ listTakes (coreOf (bank { accepted := 64 } [req (.lq 0)]) 0) [b] = true ∧ listTakes full [b] = false ∧
    (chanOf s 0 0).rq = 0 ∧ (chanOf (setChan s 0 0 { rq := 1 }) 0 0).rq ≠ 0 ∧ inCopy s 1 = false ∧ inCopy cp 1 = true ∧ (chanOf dr 0 0).shareOut = true ∧
    canIssue fl 0 false = true ∧ (coreOf fl 0).brx = [] ∧ listOver (coreOf fl 0) = true ∧ firstFault (slotFaults fl 0 false {}) = none ∧ lineTo s 0 0 1024 = false ∧ chanLive mv 1 0 = true ∧ lineTo mv 1 0 1024 = true ∧
    lineTo cp 0 0 1024 = false ∧ easelIdle s = false ∧ mgmtHalted s = false ∧ (chanOf wq 0 0).rq = 0 ∧
    b < 12288 ∧ bankOf (bank { accepted := 64 } [req (.lq 0)]) 1024 = some b ∧ reqOf (coreOf (bank { accepted := 64 } [req (.lq 0)]) 0) 5 = some (req (.lq 0)) ∧
    64 ≤ (bankAt (bank { accepted := 64 } []) b).accepted ∧ (bankAt (bank { granted := [.core 0] } [wait]) b).granted.contains (.core 0) = true ∧
    reqOf (coreOf (bank { granted := [.core 0] } [wait]) 0) 5 = some wait ∧
    (coreOf (bank { granted := [.core 0] } [wait]) 0).reqs.find? (fun q => q.phase == .bankWait b) = some wait ∧
    slotsUsed (coreOf (bank { granted := [.core 0] } [wait]) 0) < 512 ∧
    (coreOf (bank { granted := [.core 0] } [req (.lq 0)]) 0).reqs.find? (fun q => q.phase == .bankWait b) = none ∧
    (bankAt (bank { granted := [.core 0] } [req (.lq 0)]) b).refused = [] ∧ chanLive s 0 0 = true ∧ lineIn s 0 0 1024 = true ∧ lineIn s 0 0 2047 = true ∧
    (chanOf s 0 0).batch = false ∧ (chanOf s 0 0).wq < 60 ∧ poisoned s 2047 = false ∧ 60 ≤ (chanOf wq 0 0).wq ∧ (chanOf wq 0 0).batch = false ∧ (chanOf s 0 0).st = .inService ∧ s.m.moves = [] ∧
    (chanOf dr 0 0).st = .draining ∧ usedIn dr 0 0 = [] ∧ chanLive dr 0 0 = true := by decide +kernel

theorem witness_CarafeAtomicsAndNarrowPath :
    let e : Sq := { id := 0, level := 0, pc := 0, addr := 65592, bytes := 8, amo := some ⟨1, 1, some 0⟩, data := some 3 }
    let r : Req := { req (.atomic 0) with addr := 65592, home := .carafe 0 0 0 }
    let c := setDir (both { sq := [e], reqs := [r] }) 1 { home := .carafe 0 0 0 }
    let h := putSet (home1 up) (cacheSlice (home1 up) 0 1024) 1024 [⟨1024, false⟩]
    let n := home1 up
    sliceRests h 1024 = false ∧ sliceRests c 1024 = false ∧ baseRests n 0 = false ∧ inCopy n 1 = false ∧ hostHolds h 1024 = false ∧ (dirOf h (blockOfLine 1024)).home = .stack 0 ∧
    (setOf h (cacheSlice h 0 1024) 1024).find? (fun e => e.line == 1024) = some ⟨1024, false⟩ ∧ reqOf (coreOf c 0) 5 = some r ∧ sqOf (coreOf c 0) 0 = some e ∧
    answerable c 0 r = true ∧ (dirOf c (blockOf 65592)).home = .carafe 0 0 0 ∧ lineOf e.addr = lineOf r.addr ∧ inCopy c 1 = false ∧ poisoned c 1024 = false ∧
    (coreOf c 0).posted = [] ∧ hostHolds c 1024 = false ∧ blockOfLine 1024 = 1 ∧ (dirOf n (blockOf 65568)).home = .stack 0 ∧ 65568 % 32 = 0 ∧
    hostHolds n (lineOf 65568) = false ∧ poisoned n (lineOf 65568) = false := by decide +kernel

/-! ### Placement and the mover -/

/-- An answer of each kind to the mover and to a core; a move waiting, copying, and with its invalidations out and in; a planner epoch. -/
theorem witness_TranslationsAndMoves :
    let q (w : Requester) : DirReq := ⟨w, 1, true⟩
    let asks (s : State) (w : Requester) : State := { s with m := { s.m with dirReq := [q w] } }
    let ans (s : State) (w : Requester) (a : DirAnswer) : State := { s with m := { s.m with dirAns := [(q w, a)] } }
    let r (ra : Bool) (lv : Nat) : Req := { id := 5, kind := .lq 0, addr := 131071 - 63, level := lv, pc := 0, ra := ra, phase := .translating }
    let w : WaitMove := ⟨1, .planner, false, some 2, none, none⟩
    let v (copy : Bool) (i a : List Requester) : Move := ⟨1, ⟨.stack 0, 0, 0⟩, ⟨.stack 1, 0, 0⟩, .planner, copy, [], i, a⟩
    let moves (x : Move) : State := { setDir up 1 { home := .stack 0, rows := 1 } with m := { (setDir up 1 { home := .stack 0, rows := 0xFFFFFF }).m with moves := [x] } }
    let c1 := setDir up 1 { home := .carafe 0 0 0, tiers := 4 }
    let waits : State := { c1 with m := { c1.m with waitMoves := [w] } }
    let f : Req := { r false 0 with home := .stack 3, phase := .flight }
    let old : State := { up with m := { up.m with chans := [(2 * 32 + 31, { st := .draining })] } }
    let both1 (x : Req) : State := ans (setDir (both { reqs := [x] }) 1 { home := .stack 0, mig := true }) (.core 0) .migrating
    let y : Req := { r false 0 with phase := .translating }
    ((asks (home1 up) (.core 0)).m.dirReq.find? (fun x => dirStack (home1 up) x.block == 1) = some (q (.core 0)) ∧ coreRow up 0 < 24 ∧
      (dirOf (home1 up) 1).home ≠ .unmapped ∧ (dirOf (home1 up) 1).mig = false ∧ (dirOf up 1).home = .unmapped ∧ (dirOf (setDir up 1 { home := .stack 0, mig := true }) 1).mig = true) ∧
    ((ans up .mover (.entry (.stack 0) false)).m.dirAns.find? (fun a => a.1.who == .mover) = some (q .mover, .entry (.stack 0) false) ∧
      (ans up (.core 0) .migrating).m.dirAns.find? (fun a => a.1.who == .core 0) = some (q (.core 0), .migrating) ∧ (coreOf up 0).reqs = [] ∧ (coreOf up 0).sq = [] ∧
      (coreOf (both { reqs := [r true 1] }) 0).reqs = [r true 1] ∧ blockOf (r true 1).addr = 1 ∧ (coreOf (both {}) 0).brxHead < 1 ∧
      (coreOf (both { reqs := [r false 0] }) 0).faultBlock = none ∧ (coreOf (both {}) 0).ae.st = .running ∧ (coreOf (both {}) 0).xe.st = .running) ∧
    (easelIdle old = false ∧ ((drainingChans old).find? (fun x => shareHeld old x.1 x.2)) = some (2, 31)) ∧
    ((dirOf (both1 y) 1).mig = true ∧ (coreOf (both1 y) 0).reqs = [y] ∧ y.phase = .translating ∧ blockOf y.addr = 1 ∧ (both1 y).m.dirAns = [(q (.core 0), .migrating)]) ∧
    (easelIdle waits = false ∧ (drainingChans waits).find? (fun x => shareHeld waits x.1 x.2) = none ∧ deadMove waits w = false ∧ waits.m.waitMoves = [w] ∧ (startable waits w).isSome = true ∧ hostHasBlock waits 1 = false) ∧
    (moveOf (moves (v true [] [])) 1 = some (v true [] []) ∧ (moves (v true [] [])).cores = [] ∧ holders (moves (v true [] [])) (dirOf (moves (v true [] [])) 1) ≠ [] ∧ (moves (v true [] [])).tr.logWait = [] ∧ (moves (v true [] [])).tr.postWait = 0) ∧
    (moveOf (moves (v false [.core 0] [])) 1 = some (v false [.core 0] []) ∧ pendingTo (moves (v false [.core 0] [])) 0 1 (.stack 0) = false) ∧
    (moves (v false [] [.core 0])).m.moves = [v false [] [.core 0]] ∧
    ((coreOf (home1 (both { reqs := [f] })) 0).reqs = [f] ∧ (coreOf (home1 (both { reqs := [f] })) 0).sq = [] ∧ forwarded (home1 (both { reqs := [f] })) f = true ∧ mapped (home1 (both { reqs := [f] })) 1 = true) ∧
    (mgmtHalted (home1 up) = false ∧ ({ home1 up with m := { (home1 up).m with epochCfg := 0 } }).m.epochCfg.getLsbD 31 = false ∧ (home1 up).m.dir = [(1, { home := .stack 0 })] ∧ mgmtHalted (home1 up) = false ∧
      easelIdle (setReg32 (home1 up) 0x10C 0) = false) := by
  decide +kernel

/-- PLACE and PIN of the last block of the device range. -/
def pl (op len x : Nat) : Line := dsc op [(8, 0xFFFFFF * 65536), (16, len), (24, x)]
def plNew (d : Line) : State := one up d .ready
def plOld (d : Line) : State := one (setDir up 0xFFFFFF { home := .stack 0 }) d .ready
def oneBlock (s : State) (d : Line) : Bool :=
  (s.cm.cmds.map (fun m => (m.desc, m.phase)) == [(d, .ready)]) && dBase d % 65536 == 0 && dLen d == 65536 && decide (dBase d + 65536 ≤ 2 ^ 40) && !rangeInUse s d && !rangeMoving s d && !fixerIn s d && !unitRests s (dOpcode d) &&
  dBase d / 65536 == 0xFFFFFF

/-- The block mapped, its attributes changed, unmapped and pinned; a range that is not whole blocks. -/
theorem witness_PlaceAndPin :
    (oneBlock (plNew (pl 0x30 65536 16)) (pl 0x30 65536 16) = true ∧ bodyOk (pl 0x30 65536 16) plFields = true ∧ plTiers (pl 0x30 65536 16) = 4 ∧
      movesLeft (plNew (pl 0x30 65536 16)) 0 0 = false ∧ plOp (pl 0x30 65536 16) = 0 ∧ mapped (plNew (pl 0x30 65536 16)) 0xFFFFFF = false ∧
      chooseTier (plNew (pl 0x30 65536 16)) 4 1 = some 2 ∧ ((chooseIn (plNew (pl 0x30 65536 16)) 2 0xFFFFFF .spread).any (fun p => p.home != .unmapped)) = true) ∧
    (oneBlock (plOld (pl 0x30 65536 17)) (pl 0x30 65536 17) = true ∧ plOp (pl 0x30 65536 17) = 1 ∧ (dirOf (plOld (pl 0x30 65536 17)) 0xFFFFFF).fixer = false ∧
      homeAllowed 4 (dirOf (plOld (pl 0x30 65536 17)) 0xFFFFFF) = true ∧ mapped (plNew (pl 0x30 65536 17)) 0xFFFFFF = false) ∧
    (oneBlock (plOld (pl 0x30 65536 2)) (pl 0x30 65536 2) = true ∧ plOp (pl 0x30 65536 2) = 2 ∧ mapped (plOld (pl 0x30 65536 2)) 0xFFFFFF = true) ∧
    (oneBlock (plOld (pl 0x31 65536 9)) (pl 0x31 65536 9) = true ∧ bodyOk (pl 0x31 65536 9) pinFields = true ∧ fld (pl 0x31 65536 9) 24 0 1 = 1 ∧
      pinTiers (pl 0x31 65536 9) = 4 ∧ movesLeft (plOld (pl 0x31 65536 9)) 0 0 = false) ∧
    (oneBlock (plOld (pl 0x31 65536 0)) (pl 0x31 65536 0) = true ∧ bodyOk (pl 0x31 65536 0) pinFields = true ∧ fld (pl 0x31 65536 0) 24 0 1 = 0) ∧
    (rangeBad (pl 0x30 65535 2) = true ∧ plOp (pl 0x30 65535 2) = 2 ∧ bodyOk (pl 0x30 65535 2) plFields = true) := by decide +kernel

/-- Tensors in block 2, their descriptors in block 1, an index list of two. -/
def tensors : State :=
  stored (setDir (home1 up) 2 { home := .stack 1 })
    [(65536, 128, vec32 131072 8), (65664, 128, vec32 131328 8), (65792, 8, 65664), (65920, 128, num [(0, 131584), (16, 25), (24, 2), (48, 1)]),
     (131584, 8, 1 + 3 * 2 ^ 32), (66048, 128, vec32 131328 2)]

/-- What the statement asks of a job and of its completion. -/
def freeJob (s : State) (xp : Bool) (j : MoveJob) : Bool :=
  (jobOf s 0 0).isNone && dirFail (lockEnd s 0 0) xp j == none && remoteDev j == none && unread s j == [] && !interlocked s j.exts &&
  !anyCopy s (srcBlocks j ++ dstBlocks j) && heldByHost s (jobLines j) == [] && !jobRefused s j && j.ring == 0 && j.slot == 0 &&
  !segsLeft s (.cmd 0 0) && !unitRests s 0x20 && !unitRests s 0x21 && !unitRests s 0x22 && j.copies.all (fun c => !(readCopy s (readBuf s 0 0) j.lossy c).poison)
def freeRes (s : State) (xp : Bool) : GRes → Bool
  | .job j => freeJob s xp j
  | _ => false
/-- A MOVE with a view, its drain to come: a view of core 1 with MODE 3, and one of core 1 with its tile 95 poisoned. -/
def drains : State := one up (dsc 0x20 [(16, 1), (24, 1), (34, 0x30), (35, 95)]) (.busy 4)

theorem witness_MoverCommands :
    (freeRes tensors false (moveJob tensors 0 0 (dsc 0x20 [(8, 65536), (18, 0x7F), (24, 65792)])) = true ∧
      freeRes tensors false (gatherJob tensors [] 0 0 (dsc 0x21 [(8, 65536), (16, 66048), (24, 65920)]) false) = true ∧
      freeRes tensors false (gatherJob tensors [] 0 0 (dsc 0x22 [(8, 66048), (16, 65536), (24, 65920)]) true) = true ∧
      mvView (dsc 0x20 [(8, 65536), (18, 0x7F), (24, 65792)]) = false ∧ mvXpose (dsc 0x20 [(8, 65536), (18, 0x7F), (24, 65792)]) = false ∧ readBuf tensors 0 0 = [] ∧ heldStructs tensors (moveStructs tensors (dsc 0x20 [(8, 65536), (18, 0x7F), (24, 65792)])) = [] ∧
      gatherHeld tensors 0 0 (dsc 0x21 [(8, 65536), (16, 66048), (24, 65920)]) = [] ∧ gatherHeld tensors 0 0 (dsc 0x22 [(8, 66048), (16, 65536), (24, 65920)]) = [] ∧
      (one tensors 0 .ready).cm.cmds.map (fun m => (m.phase, m.lost, m.pois)) = [(.ready, false, false)]) ∧
    (let d := dsc 0x20 [(16, 1), (24, 1), (34, 0x30), (35, 95)]
     let v := viewOf d
     mvView d = true ∧ v.mode = 3 ∧ v.cores = [1] ∧ v.cores.Nodup ∧ viewTiles v = [95] ∧ drains.cm.cmds.map (fun m => (m.desc, m.phase, m.lost, m.pois)) = [(d, .busy 4, false, false)] ∧
     (jobOf drains 0 0).bind (viewDst v) = none ∧ anyCopy drains (viewBlocks v none) = false ∧ heldByHost drains (viewLinesHere v none) = [] ∧
     segsLeft drains (.cmd 0 0) = false ∧ viewPoison drains v = false ∧ viewPoison (setCore drains 1 { wgbPoison := BitVec.twoPow 96 95 }) v = true) := by decide +kernel

theorem witness_MoverWritesOnlyItsDestination :
    (match moveJob tensors 0 0 (dsc 0x20 [(8, 65536), (18, 0x7F), (24, 65792)]) with
      | .job j => j.dst.space == 0 && decide (j.dst.fmt ≤ 9) && !j.lossy && (dstBlocks j).all (mapped tensors) &&
          j.copies.all (fun c => !(writtenLines j.dst c.di).contains 2049) && j.pads.all (fun q => !(writtenLines j.dst q).contains 2049)
      | _ => false) = true := by decide +kernel

/-! ### The Fixer and flags -/

/-- Group records of 32 elements: rule 0, MASTER to WC in blocks 1 to 6; the same frozen; one with a reserved bit; one of another rule. -/
def grp : Nat := num [(1, 2), (8, 32), (16, 65536), (24, 131072), (32, 196608), (72, 262144), (80, 327680), (88, 393216)]
def frozenGrp : Nat := grp + 2 ^ 21
def badGrp : Nat := grp + 2 ^ 2047
/-- Group 63 defined, its record in block 9 of the device range, the gradient mapped. -/
def grpState (n : Nat) (d : Line) (on : Bool) : State :=
  let s := setDir (setDir (setDir up 9 { home := .stack 1 }) 4 { home := .stack 0 }) 5 { home := .stack 0 }
  let t := stored s [(589824, 256, n)]
  one (if on then setGroup t 63 { defined := true, record := BitVec.ofNat 2048 n } else t) d .ready
def up1 : Line := dsc 0x42 [(8, 63 * 4 + 1), (24, 589824)]
def up2 : Line := dsc 0x42 [(8, 63 * 4 + 2), (24, 589824)]
def up3 : Line := dsc 0x42 [(8, 63 * 4 + 3)]
def up0 : Line := dsc 0x42 [(8, 63 * 4), (12, 0x3F800000), (16, 0x3F800000)]

/-- DEFINE of a good and a bad record, MODIFY, RELEASE. -/
theorem witness_UpdateCommands :
    (let s := grpState grp up1 false
     upOp up1 = 1 ∧ upGroup up1 = 63 ∧ groupBusy s 0 0 63 = false ∧ bodyOk up1 upFields = true ∧ recordFieldsOnly up1 = true ∧ ptrFail (bytesAt up1 24 8) 256 = none ∧
     (groupOf s 63).defined = false ∧ okIs (readRecord s 589824) grp = true ∧ defineFail (countRead s (ptrSpace 589824) 256) 63 grp = none ∧ s.m.moves = [] ∧ snapOf s 0 0 (.desc 589824) = none ∧
     heldByHost s (structLines 589824 256) = [] ∧ heldByHost s (recLines grp) = [] ∧ defineFail s 63 badGrp = some .format) ∧
    (upOp up2 = 2 ∧ bodyOk up2 upFields = true ∧ recordFieldsOnly up2 = true ∧ (groupOf (grpState grp up2 true) 63).defined = true ∧
      groupBusy (grpState grp up2 true) 0 0 63 = false ∧ modifyBad grp frozenGrp = false ∧ modifyBad grp badGrp = true ∧ okIs (readRecord (grpState frozenGrp up2 true) 589824) frozenGrp = true) ∧
    (upOp up3 = 3 ∧ bodyOk up3 upFields = true ∧ recordFieldsOnly up3 = true ∧ bytesAt up3 24 8 = 0 ∧ groupBusy (grpState grp up3 true) 0 0 63 = false) := by decide +kernel

/-- The same group with every homed block mapped. -/
def grpMapped (d : Line) : State := [1, 2, 3].foldl (fun s b => setDir s b { home := .stack 0 }) (grpState grp d false)
def stepFails (s : State) (d : Line) : Bool := match stepChecks s 0 0 d 63 grp with
  | .fail e h => e == .format && h == 0
  | _ => false
def stepGoes (s : State) (d : Line) : Bool := match stepChecks s 0 0 d 63 grp with
  | .go none 0 => true
  | _ => false
/-- STEP: of a held step, of a discarded step, of an undefined group, of a frozen one, with a bad learning rate, and in order. -/
theorem witness_UpdateStep :
    let s := grpState grp up0 true
    let held : State := { s with tr := { s.tr with held := true } }
    let gone : State := { s with tr := { s.tr with discarded := [7, 0] } }
    let d := dsc 0x42 [(8, 252), (12, 0x7F800000)]
    upOp up0 = 0 ∧ held.tr.held = true ∧ held.tr.vstep = stepOf held 0 0 ∧ ({ held.tr with vstep := 1 } : Training).vstep ≠ stepOf held 0 0 ∧
    gone.tr.discarded.contains (stepOf gone 0 0) = true ∧ gone.tr.held = false ∧ s.tr.discarded.contains (stepOf s 0 0) = false ∧ groupBusy s 0 0 63 = false ∧ s.tr.held = false ∧
    (groupOf (grpState grp up0 false) 63).defined = false ∧ grFrozen (groupOf (grpState frozenGrp up0 true) 63).record.toNat = true ∧ (groupOf s 63).defined = true ∧ grFrozen grp = false ∧
    heldByHost s (stepHeld s 0 0 d 63 grp) = [] ∧ heldByHost s (stepHeld s 0 0 up0 63 grp) = [] ∧ heldByHost s (embedLines none) = [] ∧ cmdLost s 0 0 = false ∧
    cmdLost { s with cm := { s.cm with cmds := s.cm.cmds.map (fun m => { m with lost := true }) } } 0 0 = true ∧ stepFails s d = true ∧ stepGoes s up0 = true ∧
    groupCopy s grp = false ∧ groupHeld s grp = [] ∧ (homedBlocks (grpMapped up1) 63 grp).all (fun x => mapped (grpMapped up1) x.1) = true := by
  decide +kernel

theorem witness_UpdateWritesOnlyItsGroup :
    grRule grp ≤ 1 ∧ 0 < grBlocks grp ∧ grWcFmt grp ≤ 8 ∧ (∀ i ∈ usedTensors grp, 64 * 1023 + 64 ≤ grAddr grp i ∨ grAddr grp i + tensorBytes grp i ≤ 64 * 1023) ∧
    (∀ i ∈ usedTensors grp, ∀ q ∈ blocksOf (grAddr grp i) (tensorBytes grp i), mapped (setDir (grpMapped up0) 6 { home := .stack 7 }) q = true) := by
  decide +kernel

/-- An operation of an engine, a command and another device; an absent core; flags clear, set, and awaited. -/
theorem witness_HoldersApplyFlagOperations :
    let m (w : FIssuer) (f : FlagRef) (op : FOp) : FlagMsg := ⟨w, f, op, 64, false⟩
    let s (x : FlagMsg) (cf : BitVec 4096) (l : List Waiter) : State := { both {} with sh := { cf := cf, flagQ := [x], waiters := l } }
    let top := FlagRef.chip 4095
    blockRests up (holderBlock top) = false ∧ blockRests up (holderBlock (.core 1023 255)) = false ∧ blockRests { up with pw := { up.pw with st := 3 } } (holderBlock top) = true ∧
    nextMsg (s (m (.engine 0 true) top .set) 0 []) top = some (m (.engine 0 true) top .set) ∧ nextMsg (s (m (.ring 0 0) top .clr) 0 []) top = some (m (.ring 0 0) top .clr) ∧
    nextMsg (s (m (.remote 4095 65535) top (.write true)) 0 []) top = some (m (.remote 4095 65535) top (.write true)) ∧
    nextMsg (s (m (.remote 4095 65535) top (.write false)) 0 []) top = some (m (.remote 4095 65535) top (.write false)) ∧
    nextMsg (s (m (.remote 1 0) (.core 1023 255) .set) 0 []) (.core 1023 255) = some (m (.remote 1 0) (.core 1023 255) .set) ∧ present up 1023 = false ∧ present up 0 = true ∧
    flagGet (s (m (.engine 0 true) top .set) (BitVec.twoPow 4096 4095) []) top = true ∧ flagGet (s (m (.engine 0 true) top .set) 0 []) top = false ∧
    firstWaiter (s (m (.engine 0 true) top .set) 0 []) top = none ∧
    firstWaiter (s (m (.engine 0 true) top .set) 0 [⟨.engine 0 false, top⟩]) top = some ⟨.engine 0 false, top⟩ ∧ (one up 0 (.busy 3)).cm.cmds.length = 1 := by decide +kernel

/-- FLAG_SET of each OP, FLAG_WAIT, FLAG_OP in order, repeated and asleep, FLAG_ACK, a hold that expires, the path, a stall of domain 63. -/
theorem witness_FlagCommandsAndMessages :
    let d (op sel x : Nat) : Line := dsc op [(8, sel), (12, x)]
    let chip := 2 ^ 31 + 4095
    let o (sent : Bool) : RemoteOp := ⟨4095, 65535, 0, .set, .engine 0 true, 64, true, sent, false, 0, [], sent, false⟩
    let rem (s : Bool) : State := { up with sh := { remote := [o s] } }
    (fsSel (d 0x50 chip 0) = BitVec.ofNat 32 chip ∧ bodyOk (d 0x50 chip 6) [(8, 0, 32), (12, 0, 3)] = true ∧ selBad (BitVec.ofNat 32 chip) = false ∧
      selDev (BitVec.ofNat 32 chip) = devNum up ∧ selChip (BitVec.ofNat 32 chip) = true ∧ present up (selCore (BitVec.ofNat 32 255)) = true ∧
      fsOp (d 0x50 chip 0) = 0 ∧ fsOp (d 0x50 255 1) = 1 ∧ fsOp (d 0x50 255 6) = 2 ∧ fsValue (d 0x50 255 6) = true ∧ fsOp (d 0x50 255 3) = 3 ∧
      present up (selCore (BitVec.ofNat 32 (1023 * 512))) = false ∧ selDev (BitVec.ofNat 32 (1023 * 512)) = devNum up ∧
      (one up (d 0x50 chip 0) .ready).cm.cmds.map (fun m => dOpcode m.desc) = [0x50]) ∧
    (bodyOk (dsc 0x51 [(8, 4095)]) [(8, 0, 12)] = true ∧ fld (dsc 0x51 [(8, 4095)]) 8 0 12 = 4095 ∧ (BitVec.twoPow 4096 4095).getLsbD 4095 = true ∧ up.sh.cf.getLsbD 4095 = false) ∧
    (up.fb.inbox = [] ∧ seqOf up.sh.rxSeq 4095 = 0 ∧ asleep up = false ∧ asleep { up with pw := { up.pw with st := 3 } } = true ∧
      asleep { up with pw := { up.pw with st := 4, tier := 3 } } = true ∧ (65535 + 1) % 65536 = seqOf up.sh.rxSeq 4095 ∧ up.sh.flagQ = [] ∧ up.fb.held = [] ∧ mgmtHalted up = false ∧ (4 : Nat) = ({ up with pw := { up.pw with st := 4 } } : State).pw.st) ∧
    ((rem true).sh.remote = [o true] ∧ (o true).sent = true ∧ usableRoutes (rem true) 4095 = [] ∧ up.sh.err.getLsbD 63 = false ∧ (BitVec.twoPow 64 63).getLsbD 63 = true) ∧
    (up.sh.remote = [] ∧ (reg32 (setReg32 up 0x124 1) 0x124).getLsbD 0 ≠ up.sh.path) ∧
    (let k : Packet := { vc := 0, hops := 0, hidx := 0, dst := 0, src := 4095, route := [], tseq := 0, len := 16, body := .flagOp (BitVec.ofNat 32 chip) .set }
     let h (l : List Packet) : State := { up with fb := { inbox := [k], held := l } }
     (h [k]).fb.held = [k] ∧ isFlagOp 4095 0 (BitVec.ofNat 32 chip) .set k = true ∧ (h [k]).bu.state = 3 ∧ asleep (h [k]) = false ∧ (0 : Nat) = seqOf (h [k]).sh.rxSeq 4095 ∧
     isFlagOp 4095 0 (BitVec.ofNat 32 chip) .set { k with src := 1 } = false ∧ (h [{ k with src := 1 }, k]).fb.held = { k with src := 1 } :: k :: []) ∧
    (let w : Engine := { eng with hold := .waitc }
     let s := setReg64 { core0 { xe := w, run := some ⟨0, 0, 0, some 63, false, false⟩ } with sh := { domCount := [(63, 65536)] } } (0x2400 + 8 * 63) (BitVec.twoPow 64 63)
     65536 ≤ tget zeroN s.sh.domCount 63 ∧ detects s 63 = true ∧ s.pw.st = 0 ∧ members s 63 = [.engine 0 true] ∧
     ((recordLines (field64 (domCfg s 63) 39 6 * 64) (members s 63).length).all (fun l => !inCopy s (blockOfLine l) && !hostHolds s l)) = true ∧ detects up 63 = false) := by decide +kernel

/-! ### Links, remote data and collectives -/

/-- Port 31 as given. -/
def port31 (x : Port) : State := setPort up 31 x
def pkt (vc : BitVec 2) (b : Payload) (dst : Nat) (route : List Nat) : Packet :=
  { vc := vc, hops := route.length, hidx := 0, dst := dst, src := 4095, route := route, tseq := 0, len := 64, body := b }
def flit1 (seq : BitVec 12) (subs : List SubFlit) : Flit := ⟨seq, 0, false, false, 0, 0, subs⟩

/-- Flits good, bad, out of order; packets for here, to relay, bad; a control flit due, one to send again, one to fill; retries out; lanes; training. -/
theorem witness_LinksCarryFlits :
    let u : Port := { st := .up, width := 8 }
    let s := port31 u
    let ok : RxCheck := ⟨[], true⟩
    let bad : RxCheck := ⟨[(7, 0, 16)], true⟩
    let k := pkt 1 (.segAck ⟨0, 0, 0⟩ 0) 0 []
    let kp : Part := ⟨k, 0, 80⟩
    let far := pkt 1 (.segAck ⟨0, 0, 0⟩ 0) 7 [30]
    let r : RetryFlit := ⟨flit1 0 [], 0⟩
    let full : Port := { u with retry := [⟨flit1 0 [], retryLimit up⟩] }
    let t : State := { port31 {} with bu := { up.bu with state := 2, phase := 3, table := some ⟨true, 2, false, false, 32, 0, 1, [], 1, 1, [⟨0, 0, 0, false⟩]⟩ } }
    let tr (x : Port) : State := { setPort t 31 x with fb := (setPort t 31 x).fb }
    ((portOf s 31).st = .up ∧ (flit1 1 []).seq ≠ (portOf s 31).rxSeq ∧ ok.crcOk = true ∧ (flit1 0 []).seq = (portOf s 31).rxSeq ∧ (flit1 0 []).subs = [] ∧
      wordsGood (portOf s 31) ok = true ∧ wordsGood (portOf s 31) bad = false ∧
      (flit1 0 [⟨false, 1, [kp]⟩]).subs = [⟨false, k.vc, [⟨k, 0, 80⟩]⟩] ∧ 0 + 80 = 16 + k.len ∧ k.body ≠ .null ∧ k.bad = false ∧ bodyVc k.body = some k.vc.toNat ∧ k.hops ≤ 6 ∧ k.len ≤ 1088 ∧
      k.dst = devNum s ∧ k.hidx = k.hops ∧ wakes (.flagOp 0 .set) = true ∧ ({ s with pw := { s.pw with st := 1 } } : State).pw.st = 1) ∧
    (far.dst ≠ devNum s ∧ far.hidx + 1 = far.hops ∧ far.route.getD far.hidx 255 = 30 ∧ portPresent s 30 = true ∧ (portOf (setPort s 30 u) 30).st = .up ∧
      bodyVc far.body ≠ some (pkt 0 far.body 0 []).vc.toNat) ∧
    (controlDue s (portOf s 31) = true ∧ (portOf s 31).sinceCtrl < 127 ∧ (portOf s 31).retry.length < 1024 ∧ ({ u with resend := 1, retry := [r] } : Port).resend = 1 ∧ nextResend { u with resend := 1, retry := [r] } = some r ∧
      retryDone s { u with resend := 1, retry := [r] } = false ∧ vcReady { u with queue := #v[[(k, 80)], [], [], []] } 0 = true) ∧
    (retryDone up full = true ∧ (portOf (port31 { st := .recovery }) 31).st = .recovery ∧ up.sh.remote = [] ∧ up.fb.outSegs = [] ∧ up.fb.reads = []) ∧
    (usableWidth s 31 (putBit 0 7 true) = 4 ∧ usableWidth (setReg32 s 0x217C 1) 31 (putBit 0 7 true) = 0) ∧
    (portPresent up 31 = true ∧ portEn up 31 = false ∧ up.bu.rails = 6 ∧ (portOf up 31).st = .down) ∧
    ((portOf (tr { st := .training }) 31).locked = false ∧ (portOf (tr { st := .training }) 31).laneFail = 0 ∧ partnerFits (tr { st := .training, locked := true }) 31 (.switch 31 0 0) = true ∧
      (tr {}).bu.state ≠ 3 ∧ partnerFits (tr {}) 31 (.switch 30 0 0) = false) := by decide +kernel

/-- Segments whole, poisoned and asleep; an ACK of a command's last segment; an abort; a segment unanswered; a read, its answer, its timeout; a contribution. -/
theorem witness_SegmentsAndReads :
    let s := home1 up
    let key : SegKey := ⟨0, 7, 1⟩
    let sends (ab : Bool) : State := { one up (dsc 0x20 []) (.busy 6) with fb := { outSegs := [⟨key, 4095, .cmd 0 0, 2, [0, 1023], [], ab, none⟩] } }
    let rd : ReadOut := ⟨4095, 64, 255, 0x8001, 0, 0, true, [], []⟩
    let reads : State := { one up (dsc 0x20 []) (.busy 5) with fb := { reads := [rd] } }
    let red : State := setSlot up 63 { members := [5, 4095] }
    (s.fb.inbox = [] ∧ s.fb.held = [] ∧ (maskLines 127 0x8001).length = ([5, 0] : List Line).length ∧ asleep s = false ∧ heldByHost s (maskLines 127 0x8001) = [] ∧
      mapped s (127 / 64) = true ∧ (dirOf s (127 / 64)).mig = false ∧ (0x8000 : BitVec 16).getLsbD (2047 % 16) = true ∧ (0x8000 : BitVec 16).getLsbD (2032 % 16) = false ∧
      s.fb.inSegs = [] ∧ mgmtHalted s = false ∧ lowRoute s 4095 = none ∧ asleep { s with pw := { s.pw with st := 3 } } = true) ∧
    ((sends false).fb.outSegs = [⟨key, 4095, .cmd 0 0, 2, [0, 1023], [], false, none⟩] ∧ (cmdOf (sends false) 0 0).map (fun m => (m.phase, dOpcode m.desc)) = some (.busy 6, 0x20)) ∧
    (key.block < 2 ^ 24 ∧ (missing s key [0, 1023]).map (lineAt key.block) = [1024, 2047] ∧ heldByHost s [1024, 2047] = [] ∧
      ([1024, 2047] : List Nat).all (fun l => mapped s (blockOfLine l) && !(dirOf s (blockOfLine l)).mig) = true) ∧
    (lowRoute (sends false) 4095 = none ∧ (cmdOf (sends true) 0 0).map (fun m => (m.phase, dOpcode m.desc)) = some (.busy 6, 0x20)) ∧
    (maskLines 64 0x8001 ≠ [] ∧ mapped s (64 / 64) = true ∧ mapped up (64 / 64) = false) ∧
    (reads.fb.reads = [rd] ∧ (cmdOf reads 0 0).map (·.phase) = some (.busy 5) ∧ jobOf reads 0 0 = none ∧ (maskLines rd.group rd.mask).length = 2 ∧ rd.mask ≠ 0) ∧
    (rankOf (slotOf red 63) 4095 = some 1 ∧ asleep red = false) := by decide +kernel

/-- Slot records: collective, members, MIN, WINDOW; 64 elements. This device leads, or device 5 does. -/
def slotRec (coll n mn wnd : Nat) : Nat :=
  num [(0, coll), (4, n - 1), (6, mn - 1), (8, wnd), (12, 0x3F800000), (24, 64), (32, 65664), (40, 65792), (56, 131072)]
def td32 (a n : Nat) : TD := { addr := a, saddr := 0, fmt := 0, rank := 1, bsh := 0, space := 0, dev := 0, sizes := [n, 1, 1, 1, 1, 1], strides := [1, 0, 0, 0, 0, 0], sstr := [0, 0, 0, 0, 0, 0] }
def lead : Slot := { defined := true, record := BitVec.ofNat 512 (slotRec 1 2 1 9), members := [0, 5], dst := some (td32 196608 64) }
def member : Slot := { lead with members := [5, 0] }
def redCmd (op : Nat) : Line := dsc 0x41 [(8, op + 4 * 63), (16, if op = 1 then 65536 else 0), (24, if op = 0 then 65920 else 0)]
/-- A slot record in block 1 and its tensors, slot 63 as given. -/
def redState (rec : Nat) (op : Nat) (x : Slot) (p : CmdPhase) : State :=
  setSlot (stored (one (home1 up) (redCmd op) p) [(65536, 64, rec), (65664, 2, 0), (65792, 128, vec32 196608 64), (65920, 128, vec32 65536 64)]) 63 x
def slotGood (s : State) : Bool := match readSlot s 65536 with
  | (0, .ok y) => y == { defined := true, record := BitVec.ofNat 512 (slotRec 0 1 1 0), members := [0], dst := some (td32 196608 64) }
  | _ => false
def slotErr (s : State) (e : Status) : Bool := match readSlot s 65536 with
  | (0, .error f) => f == e
  | _ => false
def srcGood (s : State) : Bool := match sourceIn (latchSource s 0 0 65920) 0 0 [] 65920 64 with
  | .src u => u == td32 65536 64
  | _ => false
def srcErr (s : State) (e : Status) : Bool := match sourceIn (latchSource s 0 0 65920) 0 0 [] 65920 64 with
  | .fail f => f == e
  | _ => false
/-- A word that spells `n` bits (63: enabled). -/
def extOn (s : State) : State := setReg64 s (0x2800 + 8 * 63) (BitVec.ofNat 64 (2 ^ 63 + 100))

/-- DEFINE of a slot read whole and of one with a wrong field, RELEASE; RUN on a slot undefined, FAILED, out of turn, with a good and a bad source. -/
theorem witness_ReduceCommands :
    let s (op : Nat) (x : Slot) : State := redState (slotRec 0 1 1 0) op x .ready
    redSlot (redCmd 0) = 63 ∧ (∀ op < 3, redOp (redCmd op) = op ∧ bodyOk (redCmd op) (redFields (redCmd op)) = true ∧ slotBusy (s op {}) 0 0 63 = false) ∧
    redView (redCmd 0) = false ∧ ptrFail (bytesAt (redCmd 1) 16 8) 64 = none ∧ bytesAt (redCmd 1) 16 8 = 65536 ∧ slotGood (s 1 {}) = true ∧
    slotErr (redState (slotRec 3 1 1 0) 1 {} .ready) .format = true ∧ redInst (redCmd 0) = 0 ∧ member.exp = 0 ∧ ({ member with exp := 1 } : Slot).exp ≠ redInst (redCmd 0) ∧
    bytesAt (redCmd 0) 24 8 = 65920 ∧ readBuf (s 0 member) 0 0 = [] ∧ heldStructs (s 1 {}) (slotPtrs (s 1 {}) 65536) = [] ∧ heldByHost (s 0 member) (structLines 65920 128) = [] ∧ mgmtHalted (s 0 member) = false ∧ wantElems member = 64 ∧ srcGood (s 0 member) = true ∧ slotSettle (latchSource (s 0 member) 0 0 65920) member (sourceLines (td32 65536 64)) = none ∧
    leads (s 0 member) member = false ∧ lowRoute (s 0 member) (leaderDev member) = none ∧ member.close = none ∧
    srcErr (stored (s 0 member) [(65920, 128, vec32 65536 63)]) .shape = true := by decide +kernel
/-- EXTEND of a held RUN; an owner with all its contributions; a RUN that is done. -/
theorem witness_ReduceRuns :
    let c : CloseMsg := ⟨0, 1, [1]⟩
    let y : Slot := { member with close := some c, recv := [⟨0, 1, 1, 0, false, List.replicate 32 1, [], []⟩] }
    let q : RedRun := ⟨0, 0, 0, some (td32 65536 64), none, true, 0, []⟩
    let z : Slot := { y with recv := [⟨0, 1, 1, 0, true, List.replicate 32 1, [], []⟩], summed := some 0, run := some q }
    let h := extOn (redState 0 0 member .held)
    let t := [2, 3].foldl (fun s b => setDir s b { home := .stack 0 }) (redState 0 0 z (.busy 9))
    (member.defined = true ∧ (extCfg h 63).getLsbD 63 = true ∧ leads h member = false ∧ lowRoute h 5 = none ∧ (0 : Nat) ∉ member.extSent ∧ (0 : Nat) ∈ [0] ∧ mgmtHalted h = false ∧ (cmdOf h 0 0).map (·.phase) = some .held) ∧
    (slotSettle (redState 0 0 y (.busy 9)) y [] = none ∧ sumReady y c (ownRank (redState 0 0 y (.busy 9)) y) = true ∧ sumReady { y with recv := [] } c 1 = false ∧ (td32 196608 64).space = 0) ∧
    (slotOf t 63 = z ∧ runDone t 63 z q c = true ∧ slotSettle t z [] = none ∧ (∀ j < 9, mapped t (blockOfLine (recordAddr z 0 / 64 + j)) = true) ∧ (cmdOf t 0 0).map (·.phase) = some (.busy 9)) := by
  decide +kernel

/-- READY with a wrong check, of a closed instance, in HOLD, in IDLE, the last one; MISMATCH; CLOSE before a run, in and out of its set. -/
theorem witness_WindowMessages :
    let at_ (x : Slot) : State := setSlot up 63 x
    let l3 : Slot := { lead with record := BitVec.ofNat 512 (slotRec 1 3 2 9), members := [0, 5, 6] }
    let crc := BitVec.ofNat 32 (slotCrc l3)
    let q : RedRun := ⟨0, 0, 0, none, some ([], []), false, 0, []⟩
    let run : State := setSlot (one up (redCmd 0) (.busy 9)) 63 { member with run := some q }
    (up.fb.inbox = [] ∧ mgmtHalted up = false ∧ mgmtHalted (at_ l3) = false ∧ leads (at_ l3) l3 = true ∧ ownRank (at_ l3) l3 = 0 ∧ slotOf (at_ l3) 63 = l3 ∧ lowRoute (at_ l3) (l3.members.getD 2 0) = none ∧ crc.toNat = slotCrc l3 ∧
      (crc + 1).toNat ≠ slotCrc l3 ∧ ({ l3 with closes := [⟨7, 0, [0]⟩] } : Slot).closes.find? (fun c => c.inst == 7) = some ⟨7, 0, [0]⟩ ∧
      l3.closes.find? (fun c => c.inst == 0) = none ∧ l3.winInst = 0 ∧ l3.ready.contains 2 = false ∧ l3.win = .idle ∧ ({ l3 with win := .hold } : Slot).winInst = 0 ∧ slotN l3 ≠ l3.ready.length + 1 ∧ srWindow l3 ≠ 0 ∧
      replayedWin l3 = false ∧ slotN { l3 with ready := [1, 0] } = 2 + 1) ∧
    ((let v : State := setSlot (one up (redCmd 0) (.busy 4)) 63 { member with run := some { q with contrib := none } }
      (slotOf v 63).run.map (fun q => q.handled) = some false ∧ (cmdOf v 0 0).map (fun m => (m.phase, dOpcode m.desc)) = some (.busy 4, 0x41)) ∧
      (slotOf run 63).run = some q ∧ q.handled = false ∧ leads run (slotOf run 63) = false ∧ lowRoute run (leaderDev (slotOf run 63)) = none ∧ (cmdOf run 0 0).isSome = true) ∧
    (member.defined = true ∧ member.close ≠ some ⟨0, 0, [0, 1]⟩ ∧ member.run = none ∧ q.contrib ≠ none ∧ ([0, 1] : List Nat).contains (ownRank run member) = true ∧ srColl member ≠ 2 ∧ member.lateValid = false ∧
      ([0] : List Nat).contains (ownRank run member) = false ∧ srDefer member = false) := by decide +kernel
/-- DONE not the last and the last; EXTEND granted and not; deadlines under and at MIN; HOLD sent again; timeouts; a replayed window. -/
theorem witness_WindowTimes :
    let l3 : Slot := { lead with record := BitVec.ofNat 512 (slotRec 1 3 2 9), members := [0, 5, 6] }
    let q : RedRun := ⟨0, 0, 0, none, none, false, 0, []⟩
    let run : State := setSlot (one up (redCmd 0) (.busy 9)) 63 { member with run := some q }
    let sum : Slot := { member with close := some ⟨0, 0, [0, 1]⟩ }
    let d : Slot := { l3 with doneFrom := [0, 2] }
    ((2 ^ 32 - 1 + 1) % 2 ^ 32 = l3.winInst ∧ l3.doneFrom.contains 1 = false ∧ awaited { l3 with doneFrom := l3.doneFrom ++ [1] } ≠ [] ∧
      awaited { d with doneFrom := d.doneFrom ++ [1] } = [] ∧ d.ready = []) ∧
    ((extCfg (extOn (setSlot up 63 l3)) 63).getLsbD 63 = true ∧ (extCfg (setSlot up 63 l3) 63).getLsbD 63 = false ∧ field64 (extCfg (extOn up) 63) 15 0 = 100) ∧
    (l3.due = false ∧ l3.ready.length ≠ slotN l3 ∧ l3.ready.length < srMin l3 ∧ srMin l3 ≤ ({ l3 with ready := [0, 1] } : Slot).ready.length ∧
      ({ l3 with ready := [0, 1] } : Slot).ready.length ≠ slotN l3) ∧
    (({ l3 with ready := [1] } : Slot).ready = [1] ∧ 1 ≠ ownRank (setSlot up 63 l3) l3 ∧ lowRoute up (l3.members.getD 1 0) = none) ∧
    (sum.close = some ⟨0, 0, [0, 1]⟩ ∧ srColl sum = 1 ∧ sum.summed ≠ some 0) ∧
    ((slotOf run 63).run = some q ∧ (slotOf run 63).close = none ∧ (cmdOf run 0 0).map (·.phase) = some (.busy 9)) ∧
    (replayedWin { l3 with replayTo := 1 } = true ∧ leads up l3 = true) := by decide +kernel

/-! ### Training -/

/-- A step open or first, out of turn, held; RESOLVE of it; checks that are off, pass and hold; a replay refused and one that goes. -/
theorem witness_TrainingCommands :
    let op : Line := dsc 0x40 [(12, 2 ^ 32 - 1)]
    let rs (x : Nat) : Line := dsc 0x40 [(8, 1 + 4 * x), (12, 7)]
    let tr (t : Training) : State := { up with tr := t }
    let held : Training := { held := true, vstep := 7, expect := some 8, step := 7 }
    let rp : Line := dsc 0x45 [(8, 3), (12, 3)]
    let seg : LogSeg := ⟨3, [(dsc 0x01 [], 0)], false, false, ⟨2, [], [], 0, 0, 0, 0, []⟩⟩
    let t : State := { one up rp .ready with tr := { segs := [seg] } }
    (bodyOk op sbFields = true ∧ sbOp op = 0 ∧ fld op 8 2 1 = 0 ∧ sbStep op = 2 ^ 32 - 1 ∧ up.tr.expect = none ∧ up.tr.held = false ∧ logEn up = false ∧
      logEn (setReg64 up 0x158 (BitVec.twoPow 64 63)) = true ∧ held.expect = some 8 ∧ 8 ≠ sbStep op ∧ holdWait (tr held) = true ∧ holdWait (tr { held with cfg := BitVec.twoPow 64 62 }) = false) ∧
    (bodyOk (rs 0) sbFields = true ∧ bodyOk (rs 1) sbFields = true ∧ sbOp (rs 1) = 1 ∧ held.vstep = sbStep (rs 0) ∧ fld (rs 0) 8 2 1 = 0 ∧ fld (rs 1) 8 2 1 = 1) ∧
    (up.tr.checked = false ∧ tsEn up = false ∧ tsEn (tr { cfg := BitVec.twoPow 64 63 }) = true ∧ holdClasses (tr { cfg := BitVec.twoPow 64 63 }) = 0 ∧
      spikeTest (tr { cfg := BitVec.twoPow 64 63 }) = false ∧ holdClasses (tr { cfg := BitVec.ofNat 64 (2 ^ 63 + 2 ^ 55), nf := [(7, 1)] }) ≠ 0 ∧
      (cmdOf (one up 0 .ready) 0 0).map (·.logged) = some false ∧ isUpdStep (dsc 0x42 []) = true ∧ isUpdStep (dsc 0x42 [(8, 1)]) = false ∧
      holdWait (tr { cfg := BitVec.ofNat 64 (2 ^ 63 + 2 ^ 55 + 2 ^ 62) }) = false) ∧
    (bodyOk rp [(8, 0, 64)] = true ∧ rpFrom rp = 3 ∧ (match replayCheck (one up rp .ready) 0 0 rp with
        | .error e => e == 1
        | .ok _ => false) = true ∧ (match replayCheck t 0 0 rp with
        | .error _ => false
        | .ok l => l == [seg]) = true ∧ [seg].flatMap (·.cmds) ≠ [] ∧ (∀ e ∈ [seg].flatMap (·.cmds), isUpdStep e.1 = false)) := by decide +kernel

/-- Sheets in host memory: CFG_CSHEET with a host area of one block a sheet; CHECKPOINT of every step and of every third; RESTORE of the newer. -/
def sheetOn (n : Nat) (d : Line) : State :=
  let s := one up d .ready
  setReg64 (setReg64 (setReg64 { s with tr := { step := 4, expect := some 5, mean := 0x3F800000 } } 0x160 (BitVec.twoPow 64 62)) 0x168 (BitVec.ofNat 64 (n * 2 ^ 32))) 0x170 65536
/-- The command's logging point lies in step `n`. -/
def atStep (n : Nat) (s : State) : State := { s with cm := { s.cm with cmds := s.cm.cmds.map (fun m => { m with step := n }) } }
def cp (n : Nat) : Line := dsc 0x43 [(8, n), (10, 2)]
theorem witness_Checkpoint :
    bodyOk (cp 0) [(8, 0, 16), (10, 0, 2)] = true ∧ cpHost (cp 0) = true ∧ cpBuddy (cp 0) = false ∧ csHostEn (sheetOn 1 (cp 0)) = true ∧ cpEvery (cp 3) = 3 ∧ stepOf (atStep 4 (sheetOn 1 (cp 3))) 0 0 % 3 ≠ 0 ∧ cpEvery (cp 0) = 0 ∧ stepOf (sheetOn 1 (cp 0)) 0 0 = 0 ∧ (sheetOn 1 (cp 0)).m.snoop = [] ∧
    stepRuns (sheetOn 1 (cp 0)) 0 0 = false ∧ (sheetOn 1 (cp 0)).tr.sheet = none ∧ (sheetBytes (sheetOn 1 (cp 0)) 0 1).2.2 ≤ csBlocks (sheetOn 1 (cp 0)) * 65536 ∧
    hostRefuses (sheetOn 1 (cp 0)) (csHostAddr (sheetOn 1 (cp 0)) + csOffset (sheetOn 1 (cp 0)) 1) (sheetBytes (sheetOn 1 (cp 0)) 0 1).2.2 = false ∧ cmdLost (sheetOn 1 (cp 0)) 0 0 = false ∧
    csBlocks (sheetOn 0 (cp 0)) * 65536 < (sheetBytes (sheetOn 0 (cp 0)) 0 1).2.2 := by decide +kernel
def rsd : Line := dsc 0x44 [(8, 1)]
/-- A sheet of device 0 with a section of kind 0 of 16 bytes, its CRCs right. -/
def sheetHead (dev : Nat) : Nat := num [(0, 1), (2, 1), (4, 9), (8, 6), (12, dev), (16, 112)]
def sheetTab : Nat := num [(4, 96), (12, 16), (20, crc32 16 9)]
def sheet1 (dev : Nat) : Nat := num [(0, sheetHead dev), (24, crc32 56 (sheetHead dev + 2 ^ 192 * sheetTab)), (64, sheetTab), (96, 9)]
def withSheet (n : Nat) : State := hosted (sheetOn 1 rsd) [(65536, 112, n)]
def chosen (n : Nat) : Option SheetIn := chosenSheet (withSheet n) [] rsd
theorem witness_Restore :
    bodyOk rsd [(8, 0, 3)] = true ∧ rsSheet rsd ≠ 3 ∧ rsHost rsd = true ∧ csHostEn (sheetOn 1 rsd) = true ∧ chosenSheet (sheetOn 1 rsd) [] rsd = none ∧
      (sheetOn 1 rsd).m.moves = [] ∧ (sheetOn 1 rsd).m.waitMoves = [] ∧ (sheetOn 1 rsd).m.dir = [] ∧ cmdLost (sheetOn 1 rsd) 0 0 = false ∧ (sheetOn 1 rsd).m.snoop = [] := by decide +kernel
/-- What a restore of slot A or B makes of a sheet: absent, refused with a status, or restored. -/
def fate (n : Nat) : Option (Option Status) := (chosen n).map (restoreFail (withSheet n) 0 0)
/-- That sheet is restored; one of another device is FORMAT; with a byte wrong it is not valid. -/
theorem witness_RestoreOfASheet :
    fate (sheet1 0) = some none ∧ fate (sheet1 1) = some (some .format) ∧ chosen (sheet1 0 + 2 ^ 768) = none ∧
    ((chosen (sheet1 0)).map (fun h => (h.seq, h.secs.map (·.kind), newGroups (withSheet (sheet1 0)) h))) = some (6, [0], []) := by decide +kernel
/-- A sheet with a section of group 63, whose STEP runs beside the RESTORE or not. -/
def sheet2 : Nat :=
  let tab := num [(0, 1), (1, 63), (4, 96), (12, 4), (20, crc32 4 0)]
  num [(0, sheetHead 0), (24, crc32 56 (sheetHead 0 + 2 ^ 192 * tab)), (64, tab)]
theorem witness_RestoreBesideAStep :
    let step : Cmd := ⟨0, 1, dsc 0x42 [(8, 63 * 4)], .busy 5, 0, false, false, 0, false, false, []⟩
    let beside (s : State) : State := { s with cm := { s.cm with cmds := s.cm.cmds ++ [step] } }
    (chosen sheet2).map (fun h => (stepCovered (beside (withSheet sheet2)) 0 0 h, stepCovered (withSheet sheet2) 0 0 h)) = some (true, false) := by decide +kernel
theorem witness_SheetGranulesComeBack : ((2 : Nat) = 2 ∨ (2 : Nat) = 4) ∧ (1 : Nat) < 2 ^ 8192 := ⟨.inl rfl, Nat.one_lt_two_pow (by decide)⟩

/-! ### Rings, programs -/

/-- Ring 255 as given. -/
def rg (x : Ring) : State := setRing up 255 x
def runRing : Ring := { st := .running, w3 := 4, todo := 1, cg := false }
/-- A doorbell, words good and bad; a descriptor of each kind and none; completions; EN; a drain; NOP and FENCE. -/
theorem witness_RingsRunCommands :
    let s := rg runRing
    let w (n : Nat) : BitVec 64 := BitVec.ofNat 64 n
    let waitD : Line := dsc 0x01 [(1, 1), (4, 4095)]
    let setD (f : BitVec 4096) (p : CmdPhase) : State := { one up (dsc 0x01 [(1, 2), (6, 4095)]) p with sh := { cf := f } }
    (s.pw.off = false ∧ ({ runRing with dbHeld := true, dbAddr := 127 } : Ring).dbAddr / 64 = 1 ∧ (ringOf s 255).dbHeld = false ∧ ringHalted s 255 = false ∧ ringSize runRing = 16 ∧
      field64 (w 15) 15 0 < ringSize runRing ∧ (w 15).toNat / 2 ^ 17 = 0 ∧ (w 15).getLsbD 16 = runRing.cg ∧ ((15 : Nat) : Int) - 0 ≤ 16 ∧ ringSize runRing ≤ field64 (w 16) 15 0 ∧
      (w (2 ^ 17)).toNat / 2 ^ 17 ≠ 0 ∧ (16 : Int) < ((15 : Nat) : Int) + 16 - 0 ∧ (w (15 + 65536)).getLsbD 16 ≠ runRing.cg) ∧
    (runRing.todo ≠ 0 ∧ roomInRing s 255 = true ∧ startsCommands s = true ∧ idleState s = false ∧ localUp s = true ∧ heldFirst s = false ∧ (cmdOf s 255 0).isNone = true ∧
      headerBad (dsc 0xFF []) 255 = true ∧ headerBad (dsc 0x60 []) 255 = true ∧ headerBad (dsc 0x01 []) 255 = false ∧ dWaitEn (dsc 0x01 []) = false ∧
      headerBad waitD 255 = false ∧ dWaitEn waitD = true ∧ s.sh.cf.getLsbD (dWaitSel waitD) = false) ∧
    ((cmdOf (setD 0 (.done .ok 0)) 0 0).map (fun m => (m.phase, dSetEn m.desc, m.replayed)) = some (.done .ok 0, true, false) ∧
      (cmdOf (one up (dsc 0x01 []) (.done .format 0)) 0 0).map (fun m => dSetEn m.desc) = some false ∧ failed .format = true ∧ failed .ok = false ∧ dSetSel (dsc 0x01 [(1, 2), (6, 4095)]) = 4095 ∧ blockRests (setD 0 (.done .ok 0)) (holderBlock (.chip 4095)) = false ∧
      (let z := setD 0 (.done .ok 0); blockRests { z with pw := { z.pw with st := 2 } } (holderBlock (.chip 4095)) = true) ∧
      hostRefuses up (0 + 16 * 0) 16 = false) ∧
    ((ringOf up 255).st = .disabled ∧ (reg64 up (ringReg 255 + 24)).getLsbD 63 = false ∧ (reg64 (setReg64 up (ringReg 255 + 24) (BitVec.twoPow 64 63)) (ringReg 255 + 24)).getLsbD 63 = true ∧ (ringOf s 255).st ≠ .disabled ∧ up.bu.cfgReady = true ∧ up.bu.state ≠ 6 ∧ ({ up with bu := { up.bu with state := 6 } } : State).bu.state = 6 ∧ field64 (w 16) 4 0 = 16 ∧ field64 (w 4) 4 0 = 4 ∧ field64 (w 3) 4 0 < 4 ∧ field64 (w 17) 4 0 = 17) ∧
    (inFlight (rg { st := .draining }) 255 = 0 ∧ inFlight (one up 0 .ready) 0 ≠ 0) ∧
    (bodyOk (dsc 0x01 []) [] = true ∧ bodyOk (dsc 0x01 [(63, 128)]) [] = false ∧ bodyOk (dsc 0x02 []) [] = true ∧ earlierInRing (one up (dsc 0x02 []) .ready) 0 0 = false) := by decide +kernel

/-- Ring 0 slot 0 with a command, block 1 mapped, core 0 as given. -/
def cmdState (k : Core) (d : Line) (p : CmdPhase) : State := setCore (one (home1 up) d p) 0 k
/-- Images of 64 bytes to byte 128 of core 0, of absent core 1023, of all cores. -/
theorem witness_LoadProgram :
    let d (x : List (Nat × Nat)) : Line := dsc 0x10 ([(8, 65536), (16, 64), (20, 128)] ++ x)
    let a : Line := d [(26, 1)]
    let k : Core := { ae := { base := 64, size := 128 }, run := some ⟨1, 0, 0, none, false, false⟩ }
    bodyOk a [(8, 0, 64), (16, 0, 32), (20, 0, 16), (24, 0, 16), (26, 0, 16), (28, 0, 1)] = true ∧ ptrSpaceBad 65536 = false ∧ lpDest a = 128 ∧ lpLen a = 64 ∧ lpAll a = false ∧
    ptrRangeBad 65536 64 = false ∧ lpCores up a = [0] ∧ lpCores up (d [(24, 1023), (26, 1)]) = [1023] ∧ present up 1023 = false ∧ present up 0 = true ∧ insertEn up = false ∧
    heldByHost (cmdState {} a .ready) (linesOf (ptrOf 65536).addr 64) = [] ∧ loadMeets (cmdState {} a .ready) [0] [(128, 64)] = false ∧ okIs (structAt (cmdState {} a .ready) 65536 64) 0 = true ∧
    loadMeets (cmdState k a .ready) [0] [(128, 64)] = true := by
  decide +kernel
/-- LAUNCH of each mode on one core, one absent, one twice; cores busy, free with a good and with a bad image; over and not over. -/
theorem witness_Launch :
    let d (m : Nat) (x : List (Nat × Nat)) : Line := dsc 0x11 ([(10, 1), (12, m), (16, 65536)] ++ x)
    let img : Core := { store := writeN [] 0 16 (num [(0, 1), (4, 64), (6, 64), (8, 128), (10, 64), (12, 62), (14, 62)]) }
    let on (o : Bool) : Core := { run := some ⟨0, 0, 0, none, false, o⟩ }
    let m0 (k : Core) (p : Nat) : State := setCore { up with cm := { up.cm with cmds := [⟨0, 0, d 1 [], .busy p, 0, false, false, 0, false, false, [0]⟩] } } 0 k
    (∀ m < 4, bodyOk (d m []) lnFields = true ∧ lnMode (d m []) = m) ∧ lnGrid (d 0 []) = 1 ∧ 1 ≤ (presentCores up).length ∧ present up 0 = true ∧
    lnMap (d 1 []) = 65536 ∧ inRange40 65536 2 = true ∧ heldByHost (cmdState {} (d 1 []) .ready) (linesOf 65536 2) = [] ∧ structFault (cmdState {} (d 1 []) .ready) false 65536 2 = none ∧
    (unpackBits 16 1 (readBytes (cmdState {} (d 1 []) .ready) 65536 2)).all (present up) = true ∧ hasDup [0] = false ∧ hasDup [0, 0] = true ∧
    isReplayed (cmdState {} (d 0 []) .ready) 0 0 = false ∧ inRange40 (lnAff (d 0 [])) (lnGrid (d 0 []) * lnAffBytes (d 0 [])) = true ∧
    ([0].any (blockRests (m0 img 13))) = false ∧ (let z := m0 img 13; [0].any (blockRests { z with pw := { z.pw with st := 1 } })) = true ∧ (freeCores (m0 (on false) 13)).length < 544 ∧
    coreFree (m0 (on false) 13) 0 = false ∧ coreFree (m0 img 13) 0 = true ∧ imageOk (m0 img 13) (d 1 []) 0 = true ∧ imageOk (m0 {} 13) (d 1 []) 0 = false ∧ ([0] : List Nat).Nodup ∧
    runOver (m0 (on true) 8) 0 0 0 = true ∧ runOver (m0 (on false) 8) 0 0 0 = false := by decide +kernel
/-- Counter 0xA7FF to the device and to the host; a count past the end. -/
theorem witness_QueryCounters :
    let d (n a : Nat) : Line := dsc 0x70 [(8, a), (16, 0xA7FF), (20, n), (24, 64)]
    bodyOk (d 1 65536) [(8, 0, 64), (16, 0, 32), (20, 0, 32), (24, 0, 32), (28, 0, 1)] = true ∧ ptrSpaceBad 65536 = false ∧ ptrSpaceBad (2 ^ 62) = false ∧ 8 * qcCount (d 2 65536) ≤ qcLen (d 2 65536) ∧
    mapEnd < qcFirst (d 2 65536) + qcCount (d 2 65536) ∧ qcFirst (d 1 65536) + qcCount (d 1 65536) ≤ mapEnd ∧ ptrRangeBad 65536 8 = false ∧ (ptrOf 65536).host = false ∧ (ptrOf (2 ^ 62)).host = true ∧
    ptrRangeBad (2 ^ 62) 8 = false ∧ hostRefuses up 0 8 = false ∧ (home1 up).m.snoop = [] ∧ mapped (home1 up) (blockOf 65536) = true ∧ (dirOf (home1 up) 1).mig = false ∧
    poisoned (home1 up) (65536 / 64) = false := by decide +kernel

/-! ### The host, power -/

/-- The window open and shut; a line mapped, translated, unmapped, migrating. -/
theorem witness_HdmAccesses :
    let t : State := { home1 up with m := { (home1 up).m with mtc := [tc1] } }
    (65536 + 64) % 64 = 0 ∧ hdmOpen up = true ∧ hdmOpen { up with pw := { up.pw with st := 2 } } = false ∧ mapped up (blockOf 65600) = false ∧ mapped t (blockOf 65600) = true ∧
    tcTouch t.m.mtc (blockOf 65600) ≠ none ∧ tcTouch (home1 up).m.mtc (blockOf 65600) = none ∧ snoopFull t (lineOf 65600) = false ∧ (dirOf t 1).mig = false ∧
    poisoned t (lineOf 65600) = false ∧ (dirOf (setDir up 1 { home := .stack 0, mig := true }) 1).mig = true ∧ (autoMap up 1).isSome = true ∧ up.pw.off = false := by decide +kernel
theorem snoopFull_replicate (n : Nat) :
    snoopFull { up with m := { up.m with snoop := List.replicate n 0 } } 1 = decide (65536 ≤ n) := by
  simp [snoopFull, hostHolds, List.contains_eq_mem, List.mem_replicate]
theorem witness_SnoopFilterFull : ∃ n, snoopFull { up with m := { up.m with snoop := List.replicate n 0 } } 1 = true :=
  ⟨65536, (snoopFull_replicate 65536).trans (by decide)⟩
/-- A line asked for; a refused write of a command; requests before and after function 0 is ready. -/
theorem witness_HostTraffic :
    let q (b : Bringup) : State := { up with bu := b }
    let j : MoveJob := ⟨0, 0, { td32 0 1 with space := 1 }, [], [], false, false, false, 0, 0, [], [], 0, 0⟩
    let s : State := { one up (dsc 0x20 []) (.busy 7) with m := { up.m with jobs := [j] } }
    ({ home1 up with m := { (home1 up).m with bisnp := [1024] } } : State).m.bisnp.contains 1024 = true ∧ mapped (home1 up) (blockOfLine 1024) = true ∧ inCopy (home1 up) (blockOfLine 1024) = false ∧
    (let v : Move := ⟨1, ⟨.stack 0, 0, 0⟩, ⟨.stack 1, 0, 0⟩, .planner, true, [], [], []⟩
     let w := setDir up 1 { home := .stack 0, mig := true }
     inCopy { w with m := { w.m with moves := [v] } } 1 = true) ∧ anyCopy s (srcBlocks j ++ dstBlocks j) = false ∧ segsLeft s (.cmd 0 0) = false ∧
    (cmdOf (one up (dsc 0x70 []) (.busy 7)) 0 0).map (fun m => (m.phase, dOpcode m.desc)) = some (.busy 7, 0x70) ∧ jobOf s 0 0 = some j ∧ j.dst.space = 1 ∧ mvView (dsc 0x20 []) = false ∧
    up.bu.inReset = false ∧ up.bu.perst = false ∧ up.bu.cfgReady = true ∧ io0Runs (q { rails := 3 }) = true ∧ io0Runs (q { rails := 2 }) = false ∧ (q { rails := 3 }).bu.cfgReady = false := by decide +kernel

/-- POWER commands; answers of each kind; an entry committed; a delay too long; a wake; exits. -/
theorem witness_PowerStates :
    let d (x : Nat) : Line := dsc 0x60 [(8, x)]
    let pw (p : Power) : State := { up with pw := p }
    let e (p : Power) : State := pw { p with st := 4, target := 3 }
    let b2 := kindBase 2
    (bodyOk (d 3) [(8, 0, 3)] = true ∧ earlierPower (one up (d 3) .ready) 0 0 = false ∧ pwState (d 0) = 0 ∧ pwState (d 3) = 3 ∧ pwState (d 4) = 4 ∧ dSetEn (d 3) = false ∧
      dSetEn (dsc 0x60 [(1, 2), (8, 3)]) = true ∧ idleState (pw { st := 1 }) = true ∧ idleState (pw { st := 2 }) = true ∧ (1 : Nat) < pwState (d 2) ∧ pwState (d 1) < 2) ∧
    ((e { asked := [0, b2] }).pw.asked.contains b2 = true ∧ ([0, b2] : List Nat).filter (fun x => x != b2) ≠ [] ∧ ([b2] : List Nat).filter (fun x => x != b2) = [] ∧
      blockAnswer (e {}) b2 3 = .ack ∧ blockAnswer { e {} with m := { up.m with waitMoves := [⟨1, .planner, false, some 2, none, none⟩] } } b2 3 = .delay ∧
      blockAnswer { e {} with m := { up.m with chans := [(0, { st := .draining })] } } b2 3 = .refuse 10 ∧ lastTier 3 = 5 ∧ lastTier 1 = 3) ∧
    ((e { asked := [b2], delays := [b2] }).pw.committed = false ∧ (e { committed := true, wake := true }).pw.wake = true ∧ (e {}).pw.wake = false ∧ (e {}).tr.replay = none) ∧
    ((pw { st := 5, prev := 3 }).pw.next = 0 ∧ ((core0 {}).cores.map (·.1)).Nodup ∧ (pw { st := 5, next := 2 }).pw.next ≠ 0) := by decide +kernel
/-- Samples above the limit, below 97 % and between, hot, and five above 110 %. -/
theorem witness_Governor :
    let g (p : Power) : State := { up with pw := p }
    governs up = true ∧ limitW up < 65535 ∧ limitW (g { inputW := 0 }) = limitW up ∧ 100 * 0 < 97 * limitW up ∧ limitW up ≤ limitW up ∧ 97 * limitW up ≤ 100 * limitW up ∧ 95 < (g { tj := 96 }).pw.tj ∧
    (g { tj := 95 }).pw.tj ≤ 95 ∧ 5 ≤ (g { overN := 5 }).pw.overN ∧ (g { overN := 4 }).pw.overN < 5 := by decide +kernel

/-! ### Signatures -/

/-- FIPS 180-4's examples: the hashes of "abc". -/
theorem test_hashes_of_abc :
    beNat (hash256 [97, 98, 99]) = 0xBA7816BF8F01CFEA414140DE5DAE2223B00361A396177A9CB410FF61F20015AD ∧
    beNat (hash384 [97, 98, 99]) =
      0xCB00753F45A35E8BB5A03D699AC65007272C32AB0EDED1631A8B605A43FF5BED8086072BA1E7CC2358BAECA134C825A7 := by decide +kernel

/-- A P-384 key, and an LMS key whose root is the one that a signature of height 20 leads to. -/
def keyWith (sig msg : List Nat) : AuthKey :=
  ⟨0xE2A6DEC9D2B66068F44D66230316468F879062B0062F6E64C81263EEF27C80980C2B9DDD0434C02BD5A3759B069920F,
   0x6B9F3967B78CD7E64532A1961333DF2B0C0BB4935D975524971656187DC2513BE780A0A11B855499043962C35F90B308, ⟨[], lmsRoot 20 [] sig msg⟩⟩
theorem lmsVerify_keyWith (sig msg : List Nat) (h : lmsForm 20 sig = true) : lmsVerify 20 (keyWith sig msg).lms sig msg = true := by
  simp [lmsVerify, h, keyWith]

/-- A token of this device with both signatures, its LMS signature all zeros but for its type codes. -/
def token : BitVec 15456 :=
  BitVec.ofNat 15456 (num [(0, 1), (64, 0x7A90AF141CEF84EF213306E87C4E5B65120ACCD977D66024C817F0FDD2F8710A14EE3AC483909D8A03B85D797725B078368C5B1A16752673F7112F9EDD6453074FDD9C16F09E5D32A558AB76E054C51079592C1A3A3F322615C247C9C11E17),
    (167, 4), (1291, 8)])
theorem witness_token_signed : ∃ k : AuthKey, tokenSigned k token = true :=
  ⟨keyWith (tokenBytes token 160 1772) (tokenBytes token 0 64), by
    have h : ecdsaVerify (keyWith (tokenBytes token 160 1772) (tokenBytes token 0 64)).x (keyWith (tokenBytes token 160 1772) (tokenBytes token 0 64)).y
        (tokenBytes token 64 96) (tokenBytes token 0 64) = true := by decide +kernel
    have g : lmsForm 20 (tokenBytes token 160 1772) = true := by decide +kernel
    rw [tokenSigned, h, lmsVerify_keyWith _ _ g]; rfl⟩
/-- One bit of the signed bytes changed: the ECDSA signature fails. -/
theorem test_token_changed : ecdsaVerify (keyWith [] []).x (keyWith [] []).y (tokenBytes token 64 96) ([1, 0, 1] ++ List.replicate 61 0) = false := by decide +kernel

/-- The device with firmware update control `c` and the image of 64 bytes and SVN 3 in host memory, signed, if `signed`; and its image's key. -/
def fwState (c n : Nat) (nvm : Nv) : State :=
  let s := setReg64 up 0x10 (BitVec.ofNat 64 (2 ^ 63 + c + n))
  { s with sec := { s.sec with fwState := 1 }, nv := nvm }
def imageIn (s : State) : State :=
  hosted s [(0, 16, num [(0, 1), (4, 3), (8, 64)]), (231, 1, 4), (1355, 1, 8),
    (128, 96, 0x3D56F0CEC29CC6CE35C178F2473C1C52BF3AF0DC5B0245B9A2D56B15330FAC0E53C3AAF585DAF4F0416823BBB960E7577860FFB85DF5149883BC541CAE28A64FE4B0901F56E0C4662C3CD44B3102D144FCC37967FFCA135150B8B9DFF2D58BA3)]
def fwIn : State := imageIn (fwState (2 ^ 59) 1996 {})
/-- `fwIn` whose firmware authority has a key under which the image verifies. -/
def withKey (s : State) (k : AuthKey) : State := { s with fit := { s.fit with fwKey := k } }
theorem withKey_fwKey (s : State) (k : AuthKey) : (withKey s k).fit.fwKey = k := rfl
def fwSigned : State := withKey fwIn (keyWith (hostList fwIn 224 1772) (hostList fwIn 0 128))
theorem hostList_withKey (s : State) (k : AuthKey) (x n : Nat) : hostList (withKey s k) x n = hostList s x n := rfl
theorem image_signed (s : State) (k : AuthKey) (x y n : Nat) (a : fuAddr (withKey s k) = x)
    (b : readHost (withKey s k) (x + 8) 4 = y) (c : x + sigBlock y + 96 = n)
    (e : k = keyWith (hostList s n 1772) (hostList s x (64 + y))) (g : lmsForm 20 (hostList s n 1772) = true) : (readImage (withKey s k)).lmsOk = true := by
  simp only [readImage, a, b, c, hostList_withKey, withKey_fwKey]
  rw [e]
  exact lmsVerify_keyWith _ _ g
theorem witness_image_form : fuAddr fwSigned = 0 ∧ readHost fwSigned (0 + 8) 4 = 64 ∧ (readImage fwSigned).hdrOk = true ∧ (readImage fwSigned).svn = 3 := by decide +kernel
theorem witness_image_lmsForm : lmsForm 20 (hostList fwIn 224 1772) = true := by decide +kernel
theorem witness_image_ecdsa : (readImage fwSigned).ecdsaOk = true := by decide +kernel
theorem witness_image_lms : (readImage fwSigned).lmsOk = true :=
  image_signed fwIn _ 0 64 224 witness_image_form.1 witness_image_form.2.1 rfl rfl witness_image_lmsForm

/-! ### Bring-up, security, debug, registers -/

/-- A mesh of devices 0 and 1, both candidates; this device is the first or the second. -/
def mesh : SysTab := ⟨true, 1, true, false, 0, 0, 0, [some 0, some 1], 1, 1, [⟨0, 0, 0, false⟩, ⟨1, 1, 1, false⟩]⟩
def alone : SysTab := { mesh with topo := 0, cands := [some 0], entries := [⟨0, 0, 0, false⟩] }
/-- A device in bring-up with that table. -/
def bu (b : Bringup) : State := { up with bu := b }
def joinBu : Bringup := { rails := 6, fwRunning := true, state := 2, phase := 5, table := some mesh, cfgReady := true }
def railsAt (n : Nat) : State := bu { rails := n }

/-- Off, in reset, every rail; images that pass and not; tables; P2; SYSTAB_GO. -/
theorem witness_ModuleBringUp :
    let nv (a b : Option Image) (p : Byte) : Nv := { slotA := a, slotB := b, pref := p }
    let im (n : Nat) : Option Image := some ⟨true, true, true, n, 0, []⟩
    let cfg (s : State) (v : Nat) : State := setReg64 s 0x28 (BitVec.ofNat 64 v)
    let p1 : State := bu { rails := 6, fwRunning := true }
    let go (t : SysTab) : State := { cfg p1 (2 ^ 63) with nv := { table := some t } }
    ((railsAt 0).bu.inReset = false ∧ ({ up with pw := { off := true } } : State).pw.off = true ∧ (bu { inReset := true }).bu.inReset = true) ∧
    (∀ n ∈ [1, 2, 3, 4, 5], railsRun (railsAt n) = true) ∧
    (prefB { up with nv := nv (im 0) none 0 } = false ∧ imageResult 0 (im 0) = 1 ∧ imageResult 1 (im 0) = 3 ∧ imageResult 0 none = 2 ∧ prefB { up with nv := nv (im 0) none 1 } = true ∧
      ({ up with nv := { eraseStarted := true } } : State).nv.eraseStarted = true) ∧
    ((reg64 (railsAt 5) 0x28).getLsbD 63 = false ∧ (reg64 (cfg (railsAt 5) (2 ^ 63)) 0x28).getLsbD 63 = true ∧ mesh.auto_ = true) ∧
    (firmware p1 = true ∧ p1.bu.localDone = false ∧ p1.bu.state = 0 ∧ p1.bu.table = none) ∧
    (firmware (go mesh) = true ∧ (reg64 (go mesh) 0x28).getLsbD 63 = true ∧ (reg64 (go mesh) 0x28).getLsbD 62 = false ∧ tableOk (go mesh) (norTable (go mesh)) = true ∧
      ownEntry (norTable (go mesh)) (go mesh) = some ⟨0, 0, 0, false⟩ ∧ mesh.topo ≠ 0 ∧ tableOk (go alone) (norTable (go alone)) = true ∧ alone.topo = 0 ∧
      tableOk (go { mesh with wellFormed := false }) (norTable (go { mesh with wellFormed := false })) = false ∧ tableOk (cfg p1 (2 ^ 63 + 2 ^ 62)) (parseTable (cfg p1 (2 ^ 63 + 2 ^ 62)) 0) = false ∧
      0 ∈ joinPorts (go mesh) mesh ∧ portEn (go mesh) 0 = false ∧ (portOf (go mesh) 0).st = .down) := by decide +kernel

def rep (n : BitVec 256) (ok : Bool) : Report := ⟨1, 1, 1, 4, 1, n, 1, [(0, 5)], false, ok, true⟩
def ros (st0 epoch : Nat) (ok : Bool) : Roster := ⟨epoch, 0, [⟨0, 0, st0, 32, 1⟩, ⟨1, 1, 1, 32, 1⟩], 0, false, ok, true⟩
/-- A candidate that waits; claims, gathers, reports, rosters of each kind; notes. -/
theorem witness_SystemsJoin :
    let s := bu joinBu
    let c : State := bu { joinBu with claimK := some 0, phase := 6 }
    let g : State := bu { joinBu with claimK := some 0, phase := 6, acting := true, gathering := true, gatherEpoch := 1 }
    let prt : State := { setPort g 0 { st := .up, partner := .t1 1 1, myNonce := 5 } with nv := { serial := 0 } }
    (firmware s = true ∧ candIndex s (devNum s) = some 0 ∧ joining s = true ∧ s.bu.acting = false ∧ s.bu.claimK = none ∧ candIndex (bu { joinBu with table := none }) 0 = none) ∧
    ((cands s)[1]? = some (some 1) ∧ 1 ≠ devNum s ∧ (cands s)[1]? ≠ some (some 7) ∧ c.bu.claimK = some 0) ∧
    (s.bu.state = 2 ∧ s.bu.phase = 5 ∧ c.bu.coord = 0 ∧ 5 ≤ c.bu.phase ∧ (0, 1) ∉ c.bu.reported ∧ (0, 1) ∈ (bu { joinBu with reported := [(0, 1)] }).bu.reported) ∧
    ((signPair c).2 = some 1 ∧ (signPair { c with nv := { prod := {} } }).2 = none) ∧
    (portToward prt (rep 0 true) = some 0 ∧ reportOk (rep 0 true) = true ∧ reportOk (rep 0 false) = false ∧ (rep 0 true).partnerNonces.contains (reporterPort prt (rep 0 true), (portOf prt 0).myNonce) = true ∧
      (rep 0 true).partnerNonces.contains (reporterPort prt (rep 0 true), 6) = false ∧ admits prt (rep 0 true) = true ∧ admits prt (rep 1 true) = false ∧ portToward g (rep 0 true) = none ∧
      g.bu.admitted.length + 1 ≠ (systemDevs g).length ∧ [rep 2 true].length + 1 = (systemDevs g).length) ∧
    (g.bu.gathering = true ∧ s.bu.gathering = false ∧ g.bu.table = some mesh) := by decide +kernel
theorem witness_RostersAndNotes :
    let s := bu joinBu
    let c : State := bu { joinBu with claimK := some 0, phase := 6 }
    let r : State := bu { joinBu with claimK := some 0, phase := 8, state := 3, epoch := 4, acting := true, issued := some (ros 1 4 true) }
    let note : State := bu { joinBu with unacked := [(0, .linkNote 1 1, 0)], table := some { mesh with cands := [some 0, none, some 7] } }
    (ownPos c = some 0 ∧ c.bu.state = 2 ∧ rosterSigned c (ros 1 1 true) = true ∧ rosterSigned c (ros 1 1 false) = false ∧ (∀ n < 4, (ros n 1 true).recs.find? (fun e => e.pos == 0) = some ⟨0, 0, n, 32, 1⟩) ∧
      ((ros 1 1 true).recs.map (fun e => e.number)).Nodup ∧ ({ ros 1 1 true with recs := [] } : Roster).recs.find? (fun e => e.pos == 0) = none ∧ r.bu.state = 3 ∧ r.bu.epoch = 4 ∧
      (let recs (u : BitVec 32) := (ros 1 4 true).recs.map (fun e => if e.number = 1 ∧ (e.state = 1 ∨ e.state = 3) then { e with up := shownUp r (ros 1 4 true).recs e.pos u } else e)
       recs 1 = (ros 1 4 true).recs ∧ recs 0 ≠ (ros 1 4 true).recs) ∧ r.bu.acting = true ∧ (bu { joinBu with state := 3 }).bu.acting = false ∧ candIndex (bu { joinBu with table := none }) (devNum s) = none ∧
      (ros 1 5 true).epoch = 5 ∧ (ros 1 3 true).epoch < r.bu.epoch) ∧
    (r.bu.issued = some (ros 1 4 true) ∧ (signPair r).2 = some 1 ∧ candIndex (bu { joinBu with state := 3 }) (devNum s) = some 0 ∧
      note.bu.unacked.find? (fun u => isLinkNote u.2.1) = some (0, .linkNote 1 1, 0) ∧ nextCand note 0 = some 7 ∧ 7 ≠ devNum note ∧ (s.bu.unacked.all (fun u => !isLinkNote u.2.1)) = true) := by
  decide +kernel

/-- Requests served and not; indices left and none; journals; updates of each outcome. -/
theorem witness_SecurityRequests :
    let nv (n : Nv) : State := { up with nv := n }
    let fu := fwState
    let b := 2 ^ 59
    (spdmServes up = true ∧ spdmServes (railsAt 5) = false ∧ (signPair up).2 = some 1 ∧ (signPair (nv { prod := {} })).2 = none) ∧
    (({ up.sec with session := true } : Security).secured = false ∧ (1024 : Nat) + 1036 ≤ 2060 ∧ 2060 < 1037 + 1024) ∧
    (firmware up = true ∧ firmware (railsAt 2) = false ∧ up.nv.prod.used ≤ 31744 ∧
      (let j : Journal := { up.nv.prod with used := 31745 }
       let o : Journal := { j with half := true, cells := [(5, (up.nv.prod.cells.headD (0, 0)).2)] }
       31744 < j.used ∧ nextIndex { j with half := !j.half, used := 0, cells := j.cells.filter (fun c => decide (32768 ≤ c.1) == j.half) } = j.next ∧
       31744 < o.used ∧ nextIndex { o with half := !o.half, used := 0, cells := o.cells.filter (fun c => decide (32768 ≤ c.1) == o.half) } ≠ o.next)) ∧
    (∀ op ∈ [0, 1, 2], fuBusy (fu (op * 2 ^ 61) 4 {}) = true ∧ fuOp (fu (op * 2 ^ 61) 4 {}) = op) ∧ fuBusy up = false ∧ firmware (fu 0 4 {}) = true ∧
    (runningImage (fu (2 ^ 61) 0 {})).isSome = true ∧ (fu 0 4 {}).bu.booted = fuTarget (fu 0 4 {}) ∧ (fu b 4 {}).bu.booted ≠ fuTarget (fu b 4 {}) ∧ fuLen (fu b 0 {}) = 0 ∧
    25165824 < fuLen (fu b 25165825 {}) ∧ fuLen (fu b 25165824 {}) ≤ 25165824 ∧ fuAddr (fu b 4 {}) + fuLen (fu b 4 {}) ≤ 2 ^ 52 ∧ hostRefuses (fu b 4 {}) (fuAddr (fu b 4 {})) 4 = false ∧
    (readImage (imageIn (fu b 1995 {}))).hdrOk = false ∧ (readImage (fu b 4 {})).hdrOk = false ∧ (readImage (imageIn (fu b 1996 {}))).hdrOk = true ∧
    (readImage (imageIn (fu b 1996 {}))).ecdsaOk = false ∧ 3 < (fu b 4 { svn := 4 }).nv.svn ∧
    fuBusy fwSigned = true ∧ fwSigned.bu.booted ≠ fuTarget fwSigned ∧ fuLen fwSigned = 1996 ∧ hostRefuses fwSigned (fuAddr fwSigned) 1996 = false ∧ fwSigned.host.poison = [] ∧
    fuSetPref (fu (b + 2 ^ 60) 4 {}) = true := by decide +kernel

/-- A stopped core, its port open and locked. -/
def open_ (s : State) : State := { s with sec := { s.sec with zdpOpen := true } }
theorem witness_DebugAndSmbus :
    let k : Core := { ae := { st := .stopped 3, pc := 64 }, xe := { st := .ended }, run := some ⟨0, 0, 0, none, false, false⟩, stopReported := true }
    tapRuns up = true ∧ tapRuns (railsAt 1) = false ∧ up.sec.zdpOpen = false ∧ zdpBusy up = false ∧ zdpBusy (rg runRing) = true ∧ tokenFields 0 = false ∧ tokenFields token = true ∧
    tokenNat token 4 16 = up.nv.serial.toNat ∧ tokenNat token 20 32 = up.sec.nonce.toNat ∧ tokenSigned up.fit.dbgKey token = false ∧ (open_ up).sec.zdpOpen = true ∧ coreAtStop (core0 k) 0 = true ∧ coreAtStop up 0 = false ∧
    (open_ up).sec.breakpoints.count .mgmt < 8 ∧ 4 ≤ (List.replicate 4 (ZdpTarget.ringCp 255)).count (.ringCp 255) ∧ (tileOf (coreOf (core0 { k with tiles := [(0, { st := .full })] }) 0) 0).st ≠ .empty ∧
    hostHolds (home1 up) 1024 = false ∧ mapped (home1 up) (blockOfLine 1024) = true ∧ mapped up (blockOfLine (2 ^ 34 - 1)) = false ∧ (dirOf (home1 up) (blockOfLine 1024)).mig = false ∧
    hostHolds { up with m := { up.m with snoop := [7] } } 7 = true ∧ up.sec.zdpWait = none ∧ up.nv.debugOpened = false ∧
    (let b : State := { up with sec := { up.sec with zdpWait := some (.read, .line 7, 0) }, m := { up.m with snoop := [7], bisnp := [7] } }
     b.sec.zdpWait = some (.read, .line 7, 0) ∧ hostHolds b 7 = true ∧ b.m.bisnp.contains 7 = true) ∧
    (open_ up).sec.zdpHalted.contains (.ringCp 255) = false ∧ ({ up.sec with zdpHalted := [.ringCp 255] } : Security).zdpHalted.contains (.ringCp 255) = true ∧
    (dirOf (setDir up 1 { home := .stack 0, mig := true }) (blockOfLine 1024)).mig = true ∧ (dirOf up (blockOfLine 1024)).mig = false ∧
    rowDefined { st := .full } 15 = true := by decide +kernel

/-- Words writable, absent, of a unit without power; a ring with EN; ports; an update busy; a pending vector; the Test strip. -/
theorem witness_RegisterWrites :
    let failed : State := bu { up.bu with state := 6 }
    let ring : State := setReg64 up (0x4000 + 32 * 255 + 24) (BitVec.twoPow 64 63)
    let ts : State := { setReg64 up 0x140 (BitVec.twoPow 64 63) with sh := { waiters := [⟨.tstrip, .chip 0⟩] } }
    (barOpen up = true ∧ accessOk 0x100 4 = true ∧ unpowered failed 0x100 = true ∧ accessOk 0x102 4 = false ∧ accessOk 0xFFFFF8 8 = true ∧ accessOk 0x1000000 4 = false ∧ unpowered up 0x100 = false ∧
      barOpen failed = true ∧ barOpen (bu {}) = false) ∧
    ((reg64 up (0x4000 + 32 * 255 + 24)).getLsbD 63 = false ∧ (reg64 ring (0x4000 + 32 * 255 + 24)).getLsbD 63 = true ∧ up.bu.state ≠ 6) ∧
    (unpowered up (0x2100 + 4 * 31) = false ∧ portPresent up 31 = true ∧ portPresent { up with fit := { up.fit with iodies := 3 } } 31 = false ∧ portEn up 31 = false ∧ up.bu.rails = 6 ∧ (portOf up 31).st = .down) ∧
    (up.sec.fwState ≠ 1 ∧ inRecovery up = false ∧ ({ up.sec with fwState := 1 } : Security).fwState = 1) ∧
    (({ up with cm := { up.cm with msixPend := BitVec.twoPow 64 63 } } : State).cm.msixPend.getLsbD 63 = true ∧ up.cm.msixPend.getLsbD 63 = false) ∧
    ((reg64 up 0x140).getLsbD 63 = false ∧ up.sh.cf.getLsbD 4095 = false ∧ ({ up with sh := { cf := BitVec.twoPow 4096 4095 } } : State).sh.cf.getLsbD 4095 = true ∧ (reg64 ts 0x140).getLsbD 63 = true ∧
      field64 (reg64 ts 0x140) 23 12 = 0 ∧ stripWaits ts = true ∧ unpowered up 0x128 = false ∧ accessOk 0x6000 8 = true) := by decide +kernel

/-! ### Blocks that rest -/

/-- Every opcode whose unit rests, in C1 to C3 and after its ACK; a slice, a base die, a holder and a core at rest; entries open and committed. -/
theorem witness_RestingBlocksHoldWork :
    let at_ (n : Nat) (s : State) : State := { s with pw := { s.pw with st := n } }
    let entry (t : Nat) (l : List Nat) (c : Bool) (s : State) : State := { s with pw := { s.pw with st := 4, target := 3, tier := t, asked := l, committed := c } }
    let ops : List Nat := [0x10, 0x11, 0x20, 0x21, 0x22, 0x30, 0x31, 0x41, 0x42, 0x43, 0x44]
    let q : Req := req (.atomic 0)
    (∀ o ∈ ops, dOpcode (dsc o []) = o ∧ unitRests (at_ 1 (one up (dsc o []) .ready)) o = true ∧ unitRests (at_ 3 (one up (dsc o []) .ready)) o = true ∧
      unitRests (entry 5 [] true (one up (dsc o []) .ready)) o = true ∧ unitRests (one up (dsc o []) .ready) o = false) ∧
    (cmdOf (at_ 2 (one up (dsc 0x44 []) .ready)) 0 0).map (·.phase) = some .ready ∧
    sliceRests (at_ 1 (home1 up)) 1024 = true ∧ sliceRests (at_ 3 (home1 (both { reqs := [q] }))) (lineOf q.addr) = true ∧ reqOf (coreOf (at_ 3 (home1 (both { reqs := [q] }))) 0) 5 = some q ∧
    baseRests (at_ 3 up) 7 = true ∧ baseRests (at_ 2 up) 7 = false ∧ baseRests up 7 = false ∧
    (let m : FlagMsg := ⟨.tstrip, .chip 4095, .set, 0, false⟩
     nextMsg (at_ 1 { up with sh := { flagQ := [m] } }) (.chip 4095) = some m ∧ blockRests (at_ 1 { up with sh := { flagQ := [m] } }) (holderBlock (.chip 4095)) = true) ∧
    (coreOf (at_ 1 (both {})) 0).rep = none ∧ (coreOf (at_ 1 (both {})) 0).twin = false ∧ blockRests (at_ 1 (both {})) 0 = true ∧
    tierOfBlock 0 = 1 ∧ blockRests (entry 1 [0] false up) 0 = false ∧ blockRests (entry 1 [1] false up) 0 = true ∧ blockRests (entry 1 [] true up) 0 = true := by decide +kernel

/-! ### Examples of the spec -/

/-- The scan of spec/04: an access bundle and the four bundles of the execute stream, byte for byte. -/
def scanA : Bytes := bjoin [bnat 2 0x0058, bnat 4 0x00740040, bnat 4 0x22400000]
def scanX : Bytes := bjoin [bnat 2 0x0022, bnat 4 0xA0200000, bnat 2 0x0022, bnat 4 0x60411830, bnat 2 0x0022, bnat 4 0x788B0000, bnat 2 0x0021, bnat 4 0xC0E4FFF7]
def scanCore : Core := { store := writeN (writeN [] 0x0102 10 0x22400000007400400058) 0x0400 24 scanX.val }
theorem test_scan_access_bundle :
    scanA.val = 0x22400000007400400058 ∧ headerFault false (headerAt scanCore 0x0102) = none ∧ bundleLen (headerAt scanCore 0x0102) = 10 ∧
    (decBundle scanCore 0x0102 (headerAt scanCore 0x0102)).1.access = some (.ld ⟨1, 6, true, 64⟩) ∧
    (decBundle scanCore 0x0102 (headerAt scanCore 0x0102)).1.sync = some (.brx ⟨true, 4, 0⟩) := by decide +kernel
theorem test_scan_execute_bundles :
    let b (a : Nat) : Bundle := (decBundle scanCore a (headerAt scanCore a)).1
    (b 0x0400).vector = some (.lqv ⟨1, 0, 0, 0, 0, false⟩) ∧ (b 0x0406).vector = some (.cmp .eq ⟨2, 1, 3, 0, 3, false⟩) ∧ (b 0x040C).vector = some (.any ⟨1, 2, 3⟩) ∧
    (b 0x0412).scalar = some (.bc ⟨1, true, true, 4, 0xFFF7⟩) ∧ (b 0x0412).vector = none := by decide +kernel
/-- STOPID 5 before both loops (spec/16, example after R705). -/
theorem test_stop_inserted_in_the_scan :
    (fixRegion [⟨5, 0x0102⟩] scanA.val 0x0102 0x0102 10 0x0102).map (fun r => (r.1.len, r.1.val)) = some (16, 0x2240FFFD007400400058 * 2 ^ 48 + 0x400014000030) ∧
    (fixRegion [⟨5, 0x0400⟩] scanX.val 0x0400 0x0400 24 0x0400).map (fun r => (r.1.len, bslice r.1.val 26 4)) = some (30, 0xC0E4FFF4) := by decide +kernel
/-- 500.0, 3.3 and −0.01 in a block of E4M3 (spec/02, example after R80). -/
theorem test_block_to_e4m3 :
    convBlock 3 (fun _ => none) 0 ([0x43FA0000, 0x40533333, 0xBC23D70A].map (decodeNum 0)) = (0x80, [0x78, 0x3D, 0x83], (convBlock 3 (fun _ => none) 0 ([0x43FA0000, 0x40533333, 0xBC23D70A].map (decodeNum 0))).2.2) := by
  decide +kernel
/-- Stochastic: 3.3 rounds up from the draw 52,429 on. -/
theorem test_block_to_e4m3_stochastic :
    (convBlock 3 (fun i => if i = 1 then some 52429 else none) 0 ([0x43FA0000, 0x40533333].map (decodeNum 0))).2.1 = [0x78, 0x3E] ∧
    (convBlock 3 (fun i => if i = 1 then some 52428 else none) 0 ([0x43FA0000, 0x40533333].map (decodeNum 0))).2.1 = [0x78, 0x3D] := by decide +kernel
/-- The learning rates of spec/10: half of the warm-up, the middle of the cosine; the shards' stacks. -/
theorem test_learning_rates :
    let c : Sched := { base := 0x399D4952, min_ := 0x37FBA882, start := 0, warmup := 2000, decay := 100000, step := 0, gamma := 0, tmult := 0, restart := false, kind := 2, wkind := 0 }
    sched c 52000 = 0x392D03DA ∧ sched c 999 = 0x391D4952 := by decide +kernel
theorem test_shards_of_group_5 : shardStack up 5 0 = 5 ∧ shardStack up 5 1 = 3 ∧ (List.range 48).countP (fun k => shardStack up 5 k == 7) = 6 := by decide +kernel
/-- The Clos routes of spec/15 from 100 to 3,000 and to 120. -/
theorem test_clos_routes :
    let t : SysTab := { mesh with topo := 2, d := 64, u := 64, s := 64 }
    routeCode (closRoute t 32 100 3000 0 (fun _ _ => true)) = 0xF180000000382E5C ∧ (List.range 4).map (fun m => (closRoute t 32 100 3000 m (fun _ _ => true)).map (·.1)) = [some 28, some 4, some 12, some 20] ∧
    (closRoute t 32 100 120 0 (fun _ _ => true)).map (·.2) = some [56] := by decide +kernel
/-- Records of the two commands on ring 3 of spec/14, and what its doorbell word makes pending. -/
theorem test_ring_records :
    let m (n d : Nat) : Cmd := ⟨3, n, BitVec.ofNat 512 d, .ready, 0, false, false, 0, false, false, []⟩
    recordOf' (m 254 0x000B000A01010320) .ok 0 true = 0x012000FE01010000 ∧ recordOf' (m 255 0x000C000B01020711) .ok 0 true = 0x011100FF01020000 := by decide +kernel
theorem test_ring_doorbell_wraps :
    (match exec (.doorbellRead 3 (some 0x10000)) (setRing up 3 { st := .running, w3 := 8, ci := 254 }) with
      | .next t => ((ringOf t 3).todo, (ringOf t 3).ci, (ringOf t 3).cg)
      | _ => (0, 0, false)) = (2, 0, true) := by decide +kernel
/-- The Test strip of spec/13: the loss 2.47 passes, with MEAN 2.402188 and VAR 0.00053584 to the digits given; then 2.71 is held. -/
def strip (n m v l k : Nat) : State :=
  setReg64 { up with tr := { step := n, expect := some (n + 1), cfg := BitVec.ofNat 64 (2 ^ 63 + 200 * 2 ^ 40 + 5 * 2 ^ 36), mean := m, var := v, samples := k, loss := some l } } 0x150
    (BitVec.ofNat 64 (0x40C00000 * 2 ^ 32 + 0x3C23D70A))
theorem test_strip_passes_and_holds :
    let t := (tsCheck (strip 9001 0x4019999A 0x39D1B717 0x401E147B 5000)).tr
    t.verdict = 1 ∧ t.held = false ∧ t.samples = 5001 ∧ 0x4019BD6F < t.mean ∧ t.mean < 0x4019BD77 ∧ 0x3A0C74EE < t.var ∧ t.var < 0x3A0C7A4C ∧
    (let u := (tsCheck (strip 9002 t.mean t.var 0x402D70A4 t.samples)).tr
     u.verdict = 2 ∧ u.held = true ∧ u.spike = true ∧ u.mean = t.mean ∧ u.var = t.var) := by decide +kernel
/-- Chunks of 16,777,216 elements among eight (spec/12). -/
theorem test_chunk_of_eight : chunkOf 16777216 8 = 2097152 := by decide
/-- A transposed line 5 of BF16: element 20 goes to row 4, element 21 (spec/05). -/
theorem test_transposed_element :
    let x := transposeLine { st := .loading, fmt := 2, trans := true } 5 (BitVec.ofNat 512 (0xABCD * 2 ^ 320))
    (tget zeroL x.rows 4).extractLsb' 336 16 = 0xABCD ∧ (tget zeroL x.rows 4).toNat = 0xABCD * 2 ^ 336 := by decide +kernel
/-- The barrier's last SET names core 543, f200, of this device (spec/11). -/
theorem test_barrier_selector : selCore (BitVec.ofNat 32 0x43EC8) = 543 ∧ selChip (BitVec.ofNat 32 0x43EC8) = false ∧ selDev (BitVec.ofNat 32 0x43EC8) = 0 := by decide +kernel
/-- Of CKS-T1-512-S6-I3-A ports P0 to P23 and stacks S0 to S5 are fitted (spec/01). -/
theorem test_fitted_parts :
    let s : State := { up with fit := { up.fit with grade := 512, nStacks := 6, iodies := 3 } }
    portPresent s 23 = true ∧ portPresent s 24 = false ∧ fitted s 5 = true ∧ fitted s 6 = false := by decide +kernel

/-! ### Commands that are not well formed, and words -/

theorem test_no_word_spells_a_command : decodeTableWord 512 1 = none := rfl

theorem test_well_formed : wellFormed (.nop 255 131071) = true ∧ wellFormed (.bundleIssue 1023 false) = true ∧ wellFormed (.write (pkt 2 (.write 0 0 1 0 none [0]) 0 [])) = true := by decide +kernel
/-- Cores, rings, slots, channels, ports, devices, lines, blocks and flags out of range. -/
theorem test_ill_formed_numbers :
    [Instr.bundleIssue 1024 false, .nop 256 0, .nop 0 131072, .channelTurnaround 8 0, .channelTurnaround 0 32, .controlFlit 32, .flagAck 4096 0 .ok, .channelRead 0 0 (2 ^ 34) ⟨false, .clean⟩,
      .migrationCommit (2 ^ 24), .flagOpApply (.core 0 256), .flagOpApply (.chip 4096), .invalidation (.core 1024) 0, .translationAnswer (.core 1024), .flagAck 0 65536 .ok,
      .bankGrant 0 12288, .bankRefresh 0 0 48, .directoryLookup 8, .stall 64].all (fun i => !wellFormed i) = true := by decide +kernel
/-- Lengths, widths, offsets and answers out of range. -/
theorem test_ill_formed_values :
    [Instr.flitReceive 0 (flit1 0 []) ⟨[(8, 0, 1)], true⟩, .localReady ⟨[256], [], []⟩, .localReady ⟨[], [(0, 0, false, 17)], []⟩, .laneFailure 0 8, .laneLock 0 ⟨5, 0, false⟩ 0, .segTimeout ⟨4096, 0, 0⟩ 0, .segTimeout ⟨0, 0, 2 ^ 24⟩ 0, .readTimeout (2 ^ 24) 0, .ownerSum 256,
      .doorbellSnoop (2 ^ 46), .doorbellRead 256 none, .powerAnswer 0 (.delay 0), .powerAnswer 0 (.delay 256), .powerAnswer 0 (.refuse 11), .powerAnswer 0x8000 .ack, .hdmRead 65 false, .hdmWrite (2 ^ 40) 0 0,
      .bisnpResponse (2 ^ 34) none, .getIdrec 65536 0, .smbusThermal 256, .w1cWrite (2 ^ 24) 0, .registerWrite 2 4 0, .registerWrite 0 2 0, .bar0UnsupportedAccess (2 ^ 24) 4 true,
      .configurationRequest 2 0, .atsInvalidation 0 (List.replicate 513 0), .readyNote 4096, .narrowAccess 0 0 7 none, .atomicPerform (.mover 0 3 0 0)].all (fun i => !wellFormed i) = true := by
  decide +kernel
/-- Packets with a body of another row, a wrong header, or data that does not fit the mask. -/
theorem test_ill_formed_packets :
    let k := pkt 0 .null 0 []
    [Instr.write k, .readReq k, .readData k, .segAck k, .segAbort k, .redData k, .ready k, .mismatch k, .close k, .done k, .hold k, .extend k, .claim k, .coordinatorGather k,
      .write (pkt 2 (.write 0 0 1 0 none []) 0 []), .readReq (pkt 2 (.readReq 0 1 0) 4096 []), .readReq { pkt 2 (.readReq 0 1 0) 0 [] with hops := 1 }].all (fun i => !wellFormed i) = true := by decide +kernel

end Sys2Proof.Tests
end

section
/-!
PROOF. A bundle that holds one scalar slot and nothing else, at the execute engine: what can hold it, what it can fault on, and the state it
leaves (R145, R150, R155, R195). A slot that computes a register from registers, immediates and the part's identity writes that register alone.
-/
namespace Sys2Proof.Machine

/-! ### The operations that compute a register -/

/-- The operations of the scalar slot that compute a register: all of Table 04.3 but the queue operations, SRSEED and the branches. -/
def computes : ScalarOp → Bool
  | .lqs _ | .sqs _ | .srseed _ | .bc _ | .jmp _ => false
  | _ => true

theorem scalarWaits_of_computes {op : ScalarOp} (h : computes op = true) (k : Core) : scalarWaits k op = [] := by
  cases op <;> simp [computes, scalarWaits] at h ⊢

theorem nextPc_of_computes {op : ScalarOp} (h : computes op = true) (k : Core) (len : Nat) :
    nextPc k true len { scalar := some op } = k.xe.pc + len := by
  cases op <;> simp [computes, nextPc, engineOf] at h ⊢

theorem srseedEffect_of_computes {op : ScalarOp} (h : computes op = true) (k q : Core) : srseedEffect k (some op) q = q := by
  cases op <;> simp [computes, srseedEffect] at h ⊢

theorem fillsEntry_of_computes {op : ScalarOp} (h : computes op = true) : fillsEntry (some op) none = false := by
  cases op <;> simp [computes, fillsEntry] at h ⊢

/-! ### The verdict on a bundle of one scalar slot -/

/-- A bundle of the execute engine without a matrix slot waits for nothing before its faults are found. -/
theorem firstWaits_of_no_matrix (s : State) (c : Nat) {b : Bundle} (h : b.matrix = none) : firstWaits s c true b = [] := by
  simp [firstWaits, h, waitFor, optList]

theorem bundleWaits_scalar (s : State) (c : Nat) (op : ScalarOp) :
    bundleWaits s c true { scalar := some op } = scalarWaits (coreOf s c) op := by
  simp [bundleWaits, guardOn, optList, waitFor]

theorem firstFault_scalar (s : State) (c : Nat) (op : ScalarOp) :
    firstFault (withPre noPre (slotFaults s c true { scalar := some op })) =
      (lowest (scalarFaults (coreOf s c) (coreOf s c).xe.pc op)).map (fun f => (0, f)) := by
  cases h : lowest (scalarFaults (coreOf s c) (coreOf s c).xe.pc op) <;>
    simp [slotFaults, withPre, noPre, firstFault, guardOn, optList, conflict, clash, when, engineOf, lowest, h]

theorem firstFault_lateFaults_of_no_sync (s : State) (c : Nat) (x : Bool) {b : Bundle} (h : b.sync = none) :
    firstFault (lateFaults s c x b) = none := by
  simp [lateFaults, h, optList, firstFault, lowest]

/-- A bundle that waits for nothing and raises no fault, before its waits or after, takes effect (R155, R195). -/
theorem verdict_go {s : State} {c : Nat} {x : Bool} {b : Bundle} {pre : Nat → List Cause} (hfirst : firstWaits s c x b = [])
    (hslots : firstFault (withPre pre (slotFaults s c x b)) = none) (hwaits : bundleWaits s c x b = [])
    (hlate : firstFault (lateFaults s c x b) = none) : verdict s c x b pre = .go := by
  simp [verdict, hfirst, hslots, hwaits, hlate, firstHold]

theorem verdict_scalar_go (s : State) (c : Nat) (op : ScalarOp) (hf : scalarFaults (coreOf s c) (coreOf s c).xe.pc op = [])
    (hw : scalarWaits (coreOf s c) op = []) : verdict s c true { scalar := some op } noPre = .go :=
  verdict_go (firstWaits_of_no_matrix s c rfl) (by rw [firstFault_scalar, hf]; rfl) (by rw [bundleWaits_scalar, hw])
    (firstFault_lateFaults_of_no_sync s c true rfl)

/-! ### The effect of a bundle of one scalar slot -/

/-- An engine whose bundle takes effect: nothing holds it, and its next bundle lies at `pc` (R97). -/
def leaving (pc : Nat) (e : Engine) : Engine := { e with hold := .none, held := 0, short := false, pc := pc }

/-- An engine that notes `pc` as the address of the bundle it has issued (R152, R155). -/
def noting (pc : Nat) (e : Engine) : Engine := { e with grant := false, last := pc }

theorem noting_leaving (e : Engine) (pc : Nat) : noting e.pc (leaving pc e) = passed e pc := rfl

/-- The state after a bundle of `len` bytes that holds `op` alone, before a store that it fills is performed. -/
def scalarIssued (s : State) (c : Nat) (op : ScalarOp) (len : Nat) : State :=
  let k := coreOf s c
  let moved := updCore (bump s (cCore c 5) 1) c (fun q => updEngine q true (leaving (nextPc k true len { scalar := some op })))
  updCore (scalarEffect s c op moved) c (fun q => updEngine (srseedEffect k (some op) q) true (noting k.xe.pc))

theorem bundleEffect_scalar (s : State) (c : Nat) (op : ScalarOp) (len : Nat) :
    bundleEffect s c true { scalar := some op } len =
      if fillsEntry (some op) none then storePump (scalarIssued s c op len) c else scalarIssued s c op len := by
  simp only [bundleEffect, ite_self]
  rfl

/-- A computing slot whose effect is the update `g` of its core, where `g` does not touch the engine, leaves the core as `g` gives it and the
engine past the bundle. -/
theorem bundleEffect_of_computes (s : State) (c : Nat) {op : ScalarOp} (hop : computes op = true) (len : Nat) (g : Core → Core)
    (heff : ∀ t, scalarEffect s c op t = updCore t c g) (hg : ∀ q e, g (updEngine q true e) = updEngine (g q) true e) :
    bundleEffect s c true { scalar := some op } len = xIssued s c (g (coreOf s c)) ((coreOf s c).xe.pc + len) := by
  have hxe : (g (coreOf s c)).xe = (coreOf s c).xe := by
    simpa [updEngine] using congrArg Core.xe (hg (coreOf s c) (fun _ => (coreOf s c).xe))
  simp only [bundleEffect_scalar, fillsEntry_of_computes hop, Bool.false_eq_true, if_false, scalarIssued, heff, updCore,
    nextPc_of_computes hop, srseedEffect_of_computes hop, coreOf_setCore_same, setCore_setCore, coreOf_bump, hg]
  simp only [updEngine, if_true, hxe, noting_leaving, xIssued]

/-- A computing slot that raises no fault issues with the effect `g`. -/
theorem issue_of_computes {s : State} {c : Nat} (h : canIssue s c true = true) {op : ScalarOp} (hop : computes op = true)
    (hf : scalarFaults (coreOf s c) (coreOf s c).xe.pc op = []) (g : Core → Core)
    (heff : ∀ t, scalarEffect s c op t = updCore t c g) (hg : ∀ q e, g (updEngine q true e) = updEngine (g q) true e) (len : Nat) :
    issue s c true { scalar := some op } len = xIssued s c (g (coreOf s c)) ((coreOf s c).xe.pc + len) := by
  rw [issue, issueWith_of_canIssue h, verdict_scalar_go s c op hf (scalarWaits_of_computes hop _)]
  exact bundleEffect_of_computes s c hop len g heff hg

/-- The outcome of a scalar slot that writes `v` to s[d] and nothing else. -/
def writesS (s : State) (c : Nat) (d : BitVec 5) (v : Word) : Host.Outcome State Fault Refusal :=
  .next (xIssued s c (setS (coreOf s c) d v) ((coreOf s c).xe.pc + 6))

/-- The outcome of a scalar slot that writes `b` to p[d] and nothing else. -/
def writesP (s : State) (c : Nat) (d : BitVec 3) (b : Bool) : Host.Outcome State Fault Refusal :=
  .next (xIssued s c (setP (coreOf s c) d b) ((coreOf s c).xe.pc + 6))

section
variable {s : State} {c : Nat} (h : canIssue s c true = true)
include h

theorem issue_writesS {op : ScalarOp} (hop : computes op = true) (hf : scalarFaults (coreOf s c) (coreOf s c).xe.pc op = [])
    {d : BitVec 5} {v : Word} (heff : ∀ t, scalarEffect s c op t = updCore t c (fun q => setS q d v)) :
    Host.Outcome.next (issue s c true { scalar := some op } 6) = writesS s c d v :=
  congrArg _ (issue_of_computes h hop hf (fun q => setS q d v) heff (fun _ _ => rfl) 6)

theorem issue_writesP {op : ScalarOp} (hop : computes op = true) (hf : scalarFaults (coreOf s c) (coreOf s c).xe.pc op = [])
    {d : BitVec 3} {b : Bool} (heff : ∀ t, scalarEffect s c op t = updCore t c (fun q => setP q d b)) :
    Host.Outcome.next (issue s c true { scalar := some op } 6) = writesP s c d b :=
  congrArg _ (issue_of_computes h hop hf (fun q => setP q d b) heff (fun _ _ => rfl) 6)

/-! ### Register arithmetic (R94, R159) -/

theorem exec_addSubAndOrXor (o : Alu) {f : FSR} (hp : f.p = 0) :
    exec (.addSubAndOrXor c o f) s = writesS s c f.sd (aluVal o (getS (coreOf s c) f.sa) (getS (coreOf s c) f.sb)) :=
  issue_writesS h (op := .alu o f) rfl (by simp [scalarFaults, when, hp]) (fun _ => rfl)

theorem exec_shlShrSra (o : Shift) {f : FSR} (hp : f.p = 0) :
    exec (.shlShrSra c o f) s = writesS s c f.sd (shiftVal o (getS (coreOf s c) f.sa) ((getS (coreOf s c) f.sb).toNat % 32)) :=
  issue_writesS h (op := .shift o f) rfl (by simp [scalarFaults, when, hp]) (fun _ => rfl)

theorem exec_mul {f : FSR} (hp : f.p = 0) :
    exec (.mul c f) s = writesS s c f.sd (getS (coreOf s c) f.sa * getS (coreOf s c) f.sb) :=
  issue_writesS h (op := .mul f) rfl (by simp [scalarFaults, when, hp]) (fun _ => rfl)

theorem exec_minMaxMinuMaxu (o : MinMax) {f : FSR} (hp : f.p = 0) :
    exec (.minMaxMinuMaxu c o f) s = writesS s c f.sd (minmaxVal o (getS (coreOf s c) f.sa) (getS (coreOf s c) f.sb)) :=
  issue_writesS h (op := .minmax o f) rfl (by simp [scalarFaults, when, hp]) (fun _ => rfl)

theorem exec_sel (f : FSR) :
    exec (.sel c f) s = writesS s c f.sd (if getP (coreOf s c) f.p then getS (coreOf s c) f.sa else getS (coreOf s c) f.sb) :=
  issue_writesS h (op := .sel f) rfl rfl (fun _ => rfl)

/-! ### Arithmetic with an immediate (R157, Table 04.8) -/

theorem exec_addi (f : FSI) : exec (.addi c f) s = writesS s c f.sd (getS (coreOf s c) f.sa + sext16 f.imm) :=
  issue_writesS h (op := .addi f) rfl rfl (fun _ => rfl)

theorem exec_andiOriXori (o : Logic) (f : FSI) :
    exec (.andiOriXori c o f) s = writesS s c f.sd (logicVal o (getS (coreOf s c) f.sa) (zext16 f.imm)) :=
  issue_writesS h (op := .logi o f) rfl rfl (fun _ => rfl)

theorem exec_shliShriSrai (o : Shift) {f : FSI} (hi : f.imm.toNat < 32) :
    exec (.shliShriSrai c o f) s = writesS s c f.sd (shiftVal o (getS (coreOf s c) f.sa) f.imm.toNat) :=
  issue_writesS h (op := .shifti o f) rfl (by simp [scalarFaults, when, Nat.div_eq_of_lt hi])
    (fun _ => by simp [scalarEffect, Nat.mod_eq_of_lt hi])

theorem exec_lui {f : FSI} (ha : f.sa = 0) : exec (.lui c f) s = writesS s c f.sd (zext16 f.imm <<< 16) :=
  issue_writesS h (op := .lui f) rfl (by simp [scalarFaults, when, ha]) (fun _ => rfl)

theorem exec_getid {f : FSI} (ha : f.sa = 0) (hi : f.imm.toNat < 5) :
    exec (.getid c f) s = writesS s c f.sd (getidVal s c f.imm.toNat) :=
  issue_writesS h (op := .getid f) rfl (by simp [scalarFaults, when, ha, hi]) (fun _ => rfl)

/-- GETID with its selector written out: the row of Table 04.8 that `n` numbers. -/
theorem exec_getid_of_imm {f : FSI} (ha : f.sa = 0) {n : Nat} (hn : n < 5) (hi : f.imm = BitVec.ofNat 16 n) :
    exec (.getid c f) s = writesS s c f.sd (getidVal s c n) := by
  have himm : f.imm.toNat = n := by rw [hi, BitVec.toNat_ofNat]; exact Nat.mod_eq_of_lt (by omega)
  rw [exec_getid h ha (himm ▸ hn), himm]

/-! ### Compares and predicate logic (R159) -/

theorem exec_cmpReg (o : Rel) {f : FSC} (hi : f.imm = 0) :
    exec (.cmpReg c o f) s = writesP s c f.pd (relVal o (getS (coreOf s c) f.sa) (getS (coreOf s c) f.sb)) :=
  issue_writesP h (op := .cmp o f) rfl (by simp [scalarFaults, when, hi]) (fun _ => rfl)

theorem exec_cmpImm (o : Rel) {f : FSC} (hb : f.sb = 0) :
    exec (.cmpImm c o f) s = writesP s c f.pd (relVal o (getS (coreOf s c) f.sa) (sext13 f.imm)) :=
  issue_writesP h (op := .cmpi o f) rfl (by simp [scalarFaults, when, hb]) (fun _ => rfl)

theorem exec_plogic (o : PLogic) (f : FSP) :
    exec (.plogic c o f) s = writesP s c f.pd (plogicVal o (getP (coreOf s c) f.pa) (getP (coreOf s c) f.pb)) :=
  issue_writesP h (op := .plog o f) rfl rfl (fun _ => rfl)

theorem exec_pnot {f : FSP} (hb : f.pb = 0) : exec (.pnot c f) s = writesP s c f.pd (!getP (coreOf s c) f.pa) :=
  issue_writesP h (op := .pnot f) rfl (by simp [scalarFaults, when, hb]) (fun _ => rfl)

end

/-- Settles O7: each row is one of the equations above, its operation's value read off at the operator the row names. -/
theorem scalarAndPredicateResults : Obligations.ScalarAndPredicateResults := by
  unfold Obligations.ScalarAndPredicateResults
  refine ⟨⟨fun c f s h => ⟨fun hp => ?registers, exec_sel h f⟩, fun c f s h => ?immediates⟩, fun c s h => ⟨fun f hi => ?compares,
    fun f hb => ?immediateCompares, fun f => ?predicates⟩⟩
  case registers =>
    have alu o := exec_addSubAndOrXor h o hp
    have shift o := exec_shlShrSra h o hp
    have minmax o := exec_minMaxMinuMaxu h o hp
    exact ⟨alu .add, alu .sub, alu .and, alu .or, alu .xor, shift .shl, shift .shr, shift .sra, exec_mul h hp,
      minmax .min, minmax .max, minmax .minu, minmax .maxu⟩
  case immediates =>
    have logic o := exec_andiOriXori h o f
    have getid (ha : f.sa = 0) (n : Nat) (hn : n < 5) := exec_getid_of_imm h ha hn
    exact ⟨exec_addi h f, logic .and, logic .or, logic .xor,
      fun hi => ⟨exec_shliShriSrai h .shl hi, exec_shliShriSrai h .shr hi, exec_shliShriSrai h .sra hi⟩, exec_lui h,
      fun ha => getid ha 0 (by decide), fun ha => getid ha 1 (by decide), fun ha => getid ha 2 (by decide),
      fun ha => getid ha 3 (by decide), fun ha => getid ha 4 (by decide)⟩
  case compares => exact ⟨exec_cmpReg h .eq hi, exec_cmpReg h .ne hi, exec_cmpReg h .lt hi, exec_cmpReg h .ltu hi⟩
  case immediateCompares => exact ⟨exec_cmpImm h .eq hb, exec_cmpImm h .ne hb, exec_cmpImm h .lt hb, exec_cmpImm h .ltu hb⟩
  case predicates =>
    exact ⟨exec_plogic h .and f, exec_plogic h .or f, exec_plogic h .xor f, exec_plogic h .andn f, exec_pnot h⟩

end Sys2Proof.Machine
end

section
/-!
PROOF. Answers to the requests of a core: what each of the four answers does to the request `r` it comes for, once its home can give it (R103,
R116, R129, R219). The request leaves the list of its core, and its slot goes to a request that waits for one (R118).
-/
namespace Sys2Proof.Machine

/-! ### The slot that becomes free (R118) -/

theorem sendReadyGo_of_none_waits (s : State) (c : Nat) {l : List Req} (h : ∀ q ∈ l, q.phase ≠ .waitSlot) : sendReadyGo s c l = s := by
  induction l with
  | nil => rfl
  | cons q l ih =>
    obtain ⟨hq, hl⟩ := List.forall_mem_cons.mp h
    simp [sendReadyGo, hq, ih hl]

theorem sendReady_of_none_waits {s : State} {c : Nat} (h : ∀ q ∈ (coreOf s c).reqs, q.phase ≠ .waitSlot) : sendReady s c = s :=
  sendReadyGo_of_none_waits s c h

/-! ### The delay at the tile banks (R217) -/

/-- Whether the tile banks are in use is told by the matrix queue alone. -/
theorem banksInUse_congr {k q : Core} (h : k.mops = q.mops) : banksInUse k = banksInUse q := by
  unfold banksInUse
  rw [h]

theorem countLanding_of_banks_idle {s : State} {c : Nat} (h : banksInUse (coreOf s c) = false) : countLanding s c = s := by
  simp [countLanding, h]

/-! ### The four answers -/

section
variable {s : State} {c id : Nat} {r : Req} (hr : reqOf (coreOf s c) id = some r)
include hr

/-- R103, R105, R181: the entry holds the bytes that the load names, and the mark of its line. -/
theorem lqArrival_of_lq (ha : answerable s c r = true) {e : Nat} (hk : r.kind = .lq e) :
    lqArrival s c id = sendReady (setCore s c (updLq (dropReq (coreOf s c) id) e (fun q =>
      { q with st := .data, data := loadBytes (readLine s (lineOf r.addr)) (r.addr % 64) q.bytes, poison := poisoned s (lineOf r.addr) }))) c := by
  simp [lqArrival, hr, ha, hk, updCore]

/-- R181: the answer of a PF is discarded. -/
theorem lqArrival_of_pf (ha : answerable s c r = true) (hk : r.kind = .pf) :
    lqArrival s c id = sendReady (setCore s c (dropReq (coreOf s c) id)) c := by
  simp [lqArrival, hr, ha, hk, updCore]

/-- R219: a row of a tile that is still LOADING takes its line. -/
theorem tileArrival_of_tile (ha : answerable s c r = true) (hp : poisoned s (lineOf r.addr) = false) {t row : Nat} (hk : r.kind = .tile t row)
    (ht : (tileOf (coreOf s c) t).st = .loading) :
    tileArrival s c id = sendReady (countLanding (setCore s c (clearLatch (setTile (dropReq (coreOf s c) id) t
      (tileLine (tileOf (coreOf s c) t) row (readLine s (lineOf r.addr)) false)) t)) c) c := by
  simp [tileArrival, hr, ha, hp, hk, ht, updCore]

/-- R224: the scale store of a tile that is still LOADING takes its line. -/
theorem tileArrival_of_scale (ha : answerable s c r = true) (hp : poisoned s (lineOf r.addr) = false) {t : Nat} (hk : r.kind = .scale t)
    (ht : (tileOf (coreOf s c) t).st = .loading) :
    tileArrival s c id = sendReady (countLanding (setCore s c (clearLatch (setTile (dropReq (coreOf s c) id) t
      (tileScale (tileOf (coreOf s c) t) (readLine s (lineOf r.addr)) false)) t)) c) c := by
  simp [tileArrival, hr, ha, hp, hk, ht, updCore]

/-- R116: the acknowledgement of a store that its home has performed. -/
theorem writeAckReturn_of_performed (hp : r.phase = .performed) :
    writeAckReturn s c id = sendReady (setCore s c (dropReq (coreOf s c) id)) c := by
  simp [writeAckReturn, hr, hp, updCore]

/-- R129: an orphaned response is counted and writes nothing. -/
theorem execOrphanResponseDrop_of_orphan (ho : r.orphan = true) :
    execOrphanResponseDrop c id s = .next (sendReady (bump (setCore s c (dropReq (coreOf s c) id)) (cCore c 11) 1) c) := by
  simp [execOrphanResponseDrop, hr, ho, updCore]

end

/-- Settles O30: each row does what its answer's equation above says of the request it names. -/
theorem requestsAreAnswered : Obligations.RequestsAreAnswered := by
  unfold Obligations.RequestsAreAnswered
  refine ⟨fun c s => sendReady_of_none_waits, fun c id s r hr => ⟨fun ha => ⟨?entry, ?prefetch, ?row, ?scale⟩, ?banks, ?ack, ?orphan⟩⟩
  case entry => exact fun e hk => congrArg _ (lqArrival_of_lq hr ha hk)
  case prefetch => exact fun hk => congrArg _ (lqArrival_of_pf hr ha hk)
  case row => exact fun t row hk ht hp => congrArg _ (tileArrival_of_tile hr ha hp hk ht)
  case scale => exact fun t hk ht hp => congrArg _ (tileArrival_of_scale hr ha hp hk ht)
  case banks => exact fun hb t ht => countLanding_of_banks_idle ((banksInUse_congr ht).trans hb)
  case ack => exact fun hp => congrArg _ (writeAckReturn_of_performed hr hp)
  case orphan => exact execOrphanResponseDrop_of_orphan hr

end Sys2Proof.Machine
end

section
/-!
PROOF. SRSEED alone and beside a vector or matrix slot (R68, R161). Every slot reads the state before its bundle, and the seed and the positions
change after all of them, so the other slot draws from the old ones and the core is left with the new ones.
-/
namespace Sys2Proof.Machine

/-! ### A bundle that raises no fault takes effect -/

theorem firstFault_of_no_cause {l : List (Nat × List Cause)} (h : ∀ e ∈ l, e.2 = []) : firstFault (withPre noPre l) = none := by
  induction l with
  | nil => rfl
  | cons e l ih =>
    obtain ⟨he, hl⟩ := List.forall_mem_cons.mp h
    have hrest : firstFault (withPre noPre l) = none := ih hl
    simpa [withPre, firstFault, noPre, he, lowest] using hrest

theorem issue_of_go {s : State} {c : Nat} {x : Bool} {b : Bundle} (h : canIssue s c x = true) (hv : verdict s c x b noPre = .go) (len : Nat) :
    issue s c x b len = bundleEffect s c x b len := by
  rw [issue, issueWith_of_canIssue h, hv]

/-- The state in which the slots of `b` take effect: the bundle is counted, and its engine goes to the next one (R150). -/
def movedOn (s : State) (c : Nat) (x : Bool) (b : Bundle) (len : Nat) : State :=
  updCore (countBundle s c x) c (fun q => updEngine q x (leaving (nextPc (coreOf s c) x len b)))

theorem mops_movedOn (s : State) (c : Nat) (b : Bundle) (len : Nat) : (coreOf (movedOn s c true b len) c).mops = (coreOf s c).mops := by
  simp only [movedOn, updCore, coreOf_setCore_same]
  rfl

/-! ### The verdict on the bundles of an SRSEED -/

section
variable {s : State} {c : Nat} {f : FSR} (hd : f.sd = 0) (hp : f.p = 0)
include hd hp

theorem scalarFaults_srseed (k : Core) (pc : Nat) : scalarFaults k pc (.srseed f) = [] := by
  simp [scalarFaults, when, hd, hp]

/-- An arithmetic slot of a 16-bit type beside the SRSEED: it takes a token and may name SR (R64, R166). -/
theorem verdict_srseed_arith {g : FVR} (op : VArith) (hc : g.vc = 0) (hty : g.ty = 1 ∨ g.ty = 2) (htok : (coreOf s c).tokens ≠ 0) :
    verdict s c true { scalar := some (.srseed f), vector := some (.arith op g) } noPre = .go := by
  have hsr : srField g = [] := by rcases hty with h | h <;> simp [srField, when, h]
  refine verdict_go (firstWaits_of_no_matrix s c rfl) (firstFault_of_no_cause ?_) ?_ (firstFault_lateFaults_of_no_sync s c true rfl)
  · simp [slotFaults, guardOn, optList, scalarFaults_srseed hd hp, vectorFaults, vectorStateFaults, hsr, hc, conflict, clash, scalarWrites, when]
  · simp [bundleWaits, guardOn, optList, scalarWaits, vectorWaits, waitFor, htok]

theorem verdict_srseed_mdrain {g : FMD} (hw : matrixWaits (coreOf s c) (.mdrain g) = []) (ht : drainWaits (coreOf s c) (.mdrain g) = [])
    (hf : matrixFaults (.mdrain g) = []) (hs : matrixStateFaults (coreOf s c) (.mdrain g) = []) :
    verdict s c true { scalar := some (.srseed f), matrix := some (.mdrain g) } noPre = .go := by
  have hwaits : bundleWaits s c true { scalar := some (.srseed f), matrix := some (.mdrain g) } = [] := by
    simp [bundleWaits, guardOn, optList, scalarWaits, waitFor, ht]
  have hon : guardOn (coreOf s c) { scalar := some (.srseed f), matrix := some (.mdrain g) } = true := rfl
  refine verdict_go ?_ (firstFault_of_no_cause ?_) hwaits (firstFault_lateFaults_of_no_sync s c true rfl)
  · simp only [firstWaits, hon, if_true, optList, hw, hwaits, ite_self]
    rfl
  · simp [slotFaults, guardOn, optList, scalarFaults_srseed hd hp, hf, hs, conflict, clash, scalarWrites, when]

end

/-! ### The effect of the bundles of an SRSEED -/

theorem bundleEffect_srseed (s : State) (c : Nat) (f : FSR) (len : Nat) :
    bundleEffect s c true { scalar := some (.srseed f) } len =
      xIssued s c (srseedEffect (coreOf s c) (some (.srseed f)) (coreOf s c)) ((coreOf s c).xe.pc + len) := by
  rw [bundleEffect_scalar]
  simp only [fillsEntry, Bool.false_eq_true, if_false, scalarIssued, scalarEffect, updCore, setCore_setCore, coreOf_setCore_same]
  rfl

theorem exec_srseed {s : State} {c : Nat} (h : canIssue s c true = true) {f : FSR} (hd : f.sd = 0) (hp : f.p = 0) :
    exec (.srseed c f) s =
      .next (xIssued s c (srseedEffect (coreOf s c) (some (.srseed f)) (coreOf s c)) ((coreOf s c).xe.pc + 6)) :=
  congrArg _ ((issue_of_go h (verdict_scalar_go s c _ (scalarFaults_srseed hd hp _ _) rfl) 6).trans (bundleEffect_srseed s c f 6))

/-- The core that a bundle with an SRSEED leaves, once its other slots have left it as `q`: the seed comes from the registers of `k`, as they
were before the bundle, and the positions are zero (R68, R161). -/
def reseeded (k : Core) (f : FSR) (q : Core) : Core := updEngine (srseedEffect k (some (.srseed f)) q) true (noting k.xe.pc)

theorem coreOf_bundleEffect_srseed_arith (s : State) (c : Nat) (f : FSR) (op : VArith) (g : FVR) (len : Nat) :
    let b : Bundle := { scalar := some (.srseed f), vector := some (.arith op g) }
    coreOf (bundleEffect s c true b len) c = reseeded (coreOf s c) f
      (coreOf (vrEffect s c (.arith op g) g (updCore (movedOn s c true b len) c (fun q => { q with tokens := q.tokens - 1 }))) c) :=
  coreOf_setCore_same ..

theorem coreOf_bundleEffect_srseed_mdrain (s : State) (c : Nat) (f : FSR) (g : FMD) (len : Nat) :
    let b : Bundle := { scalar := some (.srseed f), matrix := some (.mdrain g) }
    coreOf (bundleEffect s c true b len) c = reseeded (coreOf s c) f (coreOf (matrixEffect s c (.mdrain g) (movedOn s c true b len)) c) :=
  coreOf_setCore_same ..

/-! ### What the other slot draws from -/

@[simp] theorem getV_takePositions (k : Core) (n i : Nat) : getV (takePositions k n) i = getV k i := rfl

/-- A VR instruction writes its lanes to v[vd], drawn from the seed and positions of the state `s0` before the bundle (R161, R166). -/
theorem getV_vrEffect (s0 s : State) (c : Nat) (op : VectorOp) (g : FVR) :
    getV (coreOf (vrEffect s0 c op g s) c) g.vd.toNat = packLanes (tyWidth g.ty) (vrLanes c (coreOf s0 c) op g).1 := by
  unfold vrEffect
  split <;> simp [updCore, getV_setV]

/-- An MDRAIN enters MQ with the seed and the position of the state `s0` before the bundle (R161, R174). -/
theorem mops_matrixEffect_mdrain (s0 s : State) (c : Nat) (g : FMD) :
    ∃ m, (coreOf (matrixEffect s0 c (.mdrain g) s) c).mops = (coreOf s c).mops ++ [m] ∧ m.op = .mdrain g ∧
      m.seed = (coreOf s0 c).seed.toNat ∧ m.pos = (coreOf s0 c).posDrain.toNat := by
  refine ⟨{ id := (coreOf s c).mopNext, op := .mdrain g, phase := .queued, soff := (getS (coreOf s0 c) g.soff).toNat, seed := (coreOf s0 c).seed.toNat,
            pos := (coreOf s0 c).posDrain.toNat, ticket := (coreOf s c).fillNext }, ?_, rfl, rfl, rfl⟩
  simp only [matrixEffect, updCore, coreOf_setCore_same]
  split <;> rfl

/-- Settles O8: the other slot's result is drawn from the core before the bundle, and `reseeded` comes after it. -/
theorem srseedTakesEffectAtTheNextBundle : Obligations.SrseedTakesEffectAtTheNextBundle := by
  unfold Obligations.SrseedTakesEffectAtTheNextBundle
  intro c f s h hd hp
  refine ⟨exec_srseed h hd hp, fun g op hc hty htok => ?vector, fun g hw ht hf hs => ?drain⟩
  case vector =>
    refine ⟨_, issue_of_go h (verdict_srseed_arith hd hp op hc hty htok) 10, ?_⟩
    rw [coreOf_bundleEffect_srseed_arith]
    exact ⟨getV_vrEffect .., rfl, rfl⟩
  case drain =>
    obtain ⟨m, hm, hop, hseed, hpos⟩ := mops_matrixEffect_mdrain s (movedOn s c true _ 10) c g
    refine ⟨_, m, issue_of_go h (verdict_srseed_mdrain hd hp hw ht hf hs) 10, ?_⟩
    rw [coreOf_bundleEffect_srseed_mdrain]
    exact ⟨hm.trans (congrArg (· ++ [m]) (mops_movedOn ..)), hop, hseed, hpos, rfl, rfl⟩

end Sys2Proof.Machine
end

section
/-!
PROOF. The guard of a bundle (R149). What a bundle waits for, raises and does depends on its guard only through the vector and matrix slots that
the guard lets through: `gated` keeps these and drops the guard, and every part of the issue is the same on it. Only the faults differ, where a
slot that is turned off still raises one from its encoding, or for the registers that it names.
-/
namespace Sys2Proof.Machine

/-- A bundle as its guard leaves it, without the guard: the vector and matrix slots stay only where it lets them through (R149). -/
def gated (k : Core) (b : Bundle) : Bundle :=
  { scalar := b.scalar, vector := if guardOn k b then b.vector else none, matrix := if guardOn k b then b.matrix else none,
    access := b.access, sync := b.sync }

section
variable (k : Core) (b : Bundle)

@[simp] theorem guardOn_gated : guardOn k (gated k b) = true := rfl
@[simp] theorem gated_scalar : (gated k b).scalar = b.scalar := rfl
@[simp] theorem gated_vector : (gated k b).vector = if guardOn k b then b.vector else none := rfl
@[simp] theorem gated_matrix : (gated k b).matrix = if guardOn k b then b.matrix else none := rfl
@[simp] theorem gated_access : (gated k b).access = b.access := rfl
@[simp] theorem gated_sync : (gated k b).sync = b.sync := rfl

end

/-- A guard p[g] XOR n = 1 lets its slots through (R149). -/
theorem guardOn_of_gen {k : Core} {b : Bundle} {v : Bool} (hg : b.gen = true) (hv : (getP k b.gpred != b.gneg) = v) : guardOn k b = v := by
  simp [guardOn, hg, hv]

/-! ### Absent slots, and registers in common -/

@[simp] theorem optList_none {α β : Type} (f : α → List β) : optList none f = [] := rfl
@[simp] theorem hardOnly_nil : hardOnly [] = [] := rfl
@[simp] theorem nil_clash (l : List Nat) : clash [] l = false := rfl
@[simp] theorem clash_nil (l : List Nat) : clash l [] = false := by simp [clash]

theorem clash_append (a b l : List Nat) : clash (a ++ b) l = (clash a l || clash b l) := List.any_append

theorem clash_eq_false {a l : List Nat} (h : ∀ w ∈ l, w ∉ a) : clash a l = false := by
  simpa [clash] using fun w ha hl => h w hl ha

/-! ### Each part of the issue on the gated bundle -/

section
variable (s : State) (c : Nat) (x : Bool) (b : Bundle)

theorem bundleWaits_gated : bundleWaits s c x (gated (coreOf s c) b) = bundleWaits s c x b := by
  cases h : guardOn (coreOf s c) b <;> simp [bundleWaits, h]

theorem firstWaits_gated : firstWaits s c x (gated (coreOf s c) b) = firstWaits s c x b := by
  simp [firstWaits, bundleWaits_gated]

theorem lateFaults_gated (k : Core) : lateFaults s c x (gated k b) = lateFaults s c x b := rfl

theorem holdBundle_gated (h : Hold) : holdBundle s c x (gated (coreOf s c) b) h = holdBundle s c x b h := by
  cases hg : guardOn (coreOf s c) b <;> simp [holdBundle, hg]

theorem giveBack_gated (k : Core) : giveBack s c x (gated k b) = giveBack s c x b := rfl

theorem nextPc_gated (k q : Core) (len : Nat) : nextPc q x len (gated k b) = nextPc q x len b := rfl

theorem bundleEffect_gated (len : Nat) : bundleEffect s c x (gated (coreOf s c) b) len = bundleEffect s c x b len := by
  simp only [bundleEffect, guardOn_gated, if_true, gated_vector, gated_matrix, nextPc_gated, gated_scalar, gated_access, gated_sync]

end

section
variable {s : State} {c : Nat} {x : Bool} {b : Bundle}

theorem verdict_gated (hf : slotFaults s c x (gated (coreOf s c) b) = slotFaults s c x b) :
    verdict s c x (gated (coreOf s c) b) noPre = verdict s c x b noPre := by
  simp only [verdict, firstWaits_gated, bundleWaits_gated, lateFaults_gated, hf]

theorem issue_gated (h : canIssue s c x = true) (hf : slotFaults s c x (gated (coreOf s c) b) = slotFaults s c x b) (len : Nat) :
    issue s c x (gated (coreOf s c) b) len = issue s c x b len := by
  simp only [issue, issueWith_of_canIssue h, verdict_gated hf, holdBundle_gated, giveBack_gated, bundleEffect_gated]

/-! ### The faults of the slots -/

theorem slotFaults_gated_of_guard_on (hon : guardOn (coreOf s c) b = true) : slotFaults s c x (gated (coreOf s c) b) = slotFaults s c x b := by
  simp [slotFaults, hon]

/-- A slot that its guard turns off and that raises no fault from its encoding alone changes no slot's faults, when no other slot writes its
registers (R149, R151). -/
theorem slotFaults_gated_of_guard_off (hoff : guardOn (coreOf s c) b = false) (hv : hardOnly (optList b.vector vectorFaults) = [])
    (hm : hardOnly (optList b.matrix matrixFaults) = [])
    (hw : ∀ w ∈ optList b.vector vectorWrites, w ∉ optList b.scalar scalarWrites ∧ w ∉ optList b.sync (syncWrites x)) :
    slotFaults s c x (gated (coreOf s c) b) = slotFaults s c x b := by
  have hscalar : clash (optList b.scalar scalarWrites) (optList b.vector vectorWrites) = false := clash_eq_false fun w h => (hw w h).1
  have hsync : clash (optList b.vector vectorWrites) (optList b.sync (syncWrites x)) = false := clash_eq_false fun w hs hv => (hw w hv).2 hs
  simp [slotFaults, hoff, hv, hm, conflict, clash_append, hscalar, hsync, when]

/-! ### The issue of a guarded bundle -/

/-- A guard that lets its slots through leaves the bundle the effect that it has without one (R149). -/
theorem issue_of_guard_on (h : canIssue s c x = true) (hon : guardOn (coreOf s c) b = true) (len : Nat) :
    issue s c x b len = issue s c x { scalar := b.scalar, vector := b.vector, matrix := b.matrix, access := b.access, sync := b.sync } len := by
  rw [← issue_gated h (slotFaults_gated_of_guard_on hon), gated, if_pos hon, if_pos hon]

/-- A guard that is off leaves the other slots of the bundle the effect that they have alone (R149). -/
theorem issue_of_guard_off (h : canIssue s c x = true) (hoff : guardOn (coreOf s c) b = false)
    (hv : hardOnly (optList b.vector vectorFaults) = []) (hm : hardOnly (optList b.matrix matrixFaults) = [])
    (hw : ∀ w ∈ optList b.vector vectorWrites, w ∉ optList b.scalar scalarWrites ∧ w ∉ optList b.sync (syncWrites x)) (len : Nat) :
    issue s c x b len = issue s c x { scalar := b.scalar, access := b.access, sync := b.sync } len := by
  have hne : ¬ guardOn (coreOf s c) b = true := Bool.eq_false_iff.mp hoff
  rw [← issue_gated h (slotFaults_gated_of_guard_off hoff hv hm hw), gated, if_neg hne, if_neg hne]

end

/-! ### A bundle of which nothing is left -/

theorem updCore_updCore (s : State) (c : Nat) (f g : Core → Core) : updCore (updCore s c f) c g = updCore s c (fun k => g (f k)) := by
  simp [updCore]

theorem bundleEffect_empty (s : State) (c len : Nat) : bundleEffect s c true {} len = xIssued s c (coreOf s c) ((coreOf s c).xe.pc + len) := by
  have hsteps : bundleEffect s c true {} len =
      updCore (updCore (bump s (cCore c 5) 1) c (fun q => updEngine q true (leaving ((coreOf s c).xe.pc + len)))) c
        (fun q => updEngine q true (noting (coreOf s c).xe.pc)) := by
    simp only [bundleEffect, ite_self]
    rfl
  rw [hsteps, updCore_updCore]
  rfl

/-- A bundle without a slot is counted and passed, and does nothing else (R150). -/
theorem issue_empty {s : State} {c : Nat} (h : canIssue s c true = true) (len : Nat) :
    issue s c true {} len = xIssued s c (coreOf s c) ((coreOf s c).xe.pc + len) := by
  have hgo : verdict s c true {} noPre = .go :=
    verdict_go (firstWaits_of_no_matrix s c rfl) (firstFault_of_no_cause (by simp [slotFaults, conflict, when, guardOn])) rfl rfl
  rw [issue_of_go h hgo, bundleEffect_empty]

/-- Settles O17: a guard that is off leaves the other slots alone, or nothing; one that is on leaves the bundle as it is without it. -/
theorem guardedSlots : Obligations.GuardedSlots := by
  unfold Obligations.GuardedSlots
  intro c s p neg v m h
  refine ⟨fun hp hv => ?vectorOff, fun hp hm => ?matrixOff, fun hp sc sy hv hm hw len => ?bothOff, fun hp => ?on⟩
  case vectorOff =>
    have hoff : guardOn (coreOf s c) { gen := true, gpred := p, gneg := neg, vector := some v } = false := guardOn_of_gen rfl (by simp [hp])
    exact (issue_of_guard_off h hoff hv rfl (by simp) 6).trans (issue_empty h 6)
  case matrixOff =>
    have hoff : guardOn (coreOf s c) { gen := true, gpred := p, gneg := neg, matrix := some m } = false := guardOn_of_gen rfl (by simp [hp])
    exact (issue_of_guard_off h hoff rfl hm (by simp) 6).trans (issue_empty h 6)
  case bothOff =>
    have hoff : guardOn (coreOf s c) { gen := true, gpred := p, gneg := neg, scalar := sc, vector := some v, matrix := some m, sync := sy } = false :=
      guardOn_of_gen rfl (by simp [hp])
    exact issue_of_guard_off h hoff hv hm hw len
  case on =>
    have hon : (getP (coreOf s c) p != neg) = true := by simpa using hp
    exact ⟨issue_of_guard_on h (guardOn_of_gen rfl hon) 6, issue_of_guard_on h (guardOn_of_gen rfl hon) 6⟩

end Sys2Proof.Machine
end

section
/-!
PROOF. A bundle that does not take effect (R155, R196, R197). A hold writes its engine's reason alone. A fault halts the engines of its core and
squashes what is uncommitted, or, when its own bundle is uncommitted, waits as a held fault: `raised` is the core that it leaves, in either case
with every result of the slots as before; `SameOutside` says the same of the rest of the device. A flag that a WAITC has taken is set first.
-/
namespace Sys2Proof.Machine

/-! ### The issue of a bundle that is held or faults -/

theorem issue_of_held {s : State} {c : Nat} {x : Bool} {b : Bundle} (h : canIssue s c x = true) {w : Hold} (hv : verdict s c x b noPre = .held w)
    (len : Nat) : issue s c x b len = holdBundle s c x b w := by
  rw [issue, issueWith_of_canIssue h, hv]

theorem issue_of_fault {s : State} {c : Nat} {x : Bool} {b : Bundle} (h : canIssue s c x = true) {f : Nat × Cause}
    (hv : verdict s c x b noPre = .fault f) (len : Nat) : issue s c x b len = raise (giveBack s c x b) c x f := by
  rw [issue, issueWith_of_canIssue h, hv]

theorem running_of_canIssue {s : State} {c : Nat} {x : Bool} (h : canIssue s c x = true) : (engineOf (coreOf s c) x).st = .running := by
  simp only [canIssue, Bool.and_eq_true, beq_iff_eq] at h
  obtain ⟨⟨⟨-, hrun⟩, -⟩, -⟩ := h
  exact hrun

/-! ### The engines of a core -/

@[simp] theorem engineOf_updEngine_same (k : Core) (x : Bool) (f : Engine → Engine) : engineOf (updEngine k x f) x = f (engineOf k x) := by
  cases x <;> rfl

@[simp] theorem engineOf_updEngine_other (k : Core) (x : Bool) (f : Engine → Engine) : engineOf (updEngine k (!x) f) x = engineOf k x := by
  cases x <;> rfl

/-! ### A held bundle -/

/-- A held bundle changes the hold that its engine notes, and at most adds a waiter at a flag (R155, R480). -/
theorem holdBundle_eq (s : State) (c : Nat) (x : Bool) (b : Bundle) (h : Hold) :
    ∃ sh, holdBundle s c x b h = { updCore s c (fun q => updEngine q x (fun e =>
      { e with hold := h, short := guardOn (coreOf s c) b && b.vector.isSome && (coreOf s c).tokens == 0 })) with sh := sh } := by
  unfold holdBundle
  dsimp only
  split
  next f hb =>
    split
    · split
      · exact ⟨_, rfl⟩
      · exact ⟨_, rfl⟩
    · exact ⟨_, rfl⟩
  next => exact ⟨_, rfl⟩

/-! ### What a fault leaves of its core -/

/-- The results of the execute engine's slots and the core's flags are the same. -/
structure SameResults (k q : Core) : Prop where
  sr : q.sr = k.sr
  pr : q.pr = k.pr
  v : q.v = k.v
  acc : q.acc = k.acc
  mops : q.mops = k.mops
  flags : q.flags = k.flags
  posted : q.posted = k.posted
  wgb : q.wgb = k.wgb

/-- The results of the access engine's slots are the same. -/
structure SameAccess (k q : Core) : Prop where
  a : q.a = k.a
  lq : q.lq = k.lq
  sq : q.sq = k.sq
  reqs : q.reqs = k.reqs
  tiles : q.tiles = k.tiles
  brx : q.brx = k.brx

theorem SameResults.trans {k q r : Core} (h : SameResults k q) (g : SameResults q r) : SameResults k r :=
  ⟨g.sr.trans h.sr, g.pr.trans h.pr, g.v.trans h.v, g.acc.trans h.acc, g.mops.trans h.mops, g.flags.trans h.flags, g.posted.trans h.posted,
    g.wgb.trans h.wgb⟩

theorem SameAccess.trans {k q r : Core} (h : SameAccess k q) (g : SameAccess q r) : SameAccess k r :=
  ⟨g.a.trans h.a, g.lq.trans h.lq, g.sq.trans h.sq, g.reqs.trans h.reqs, g.tiles.trans h.tiles, g.brx.trans h.brx⟩

theorem sameResults_updEngine (k : Core) (x : Bool) (f : Engine → Engine) : SameResults k (updEngine k x f) := by
  cases x <;> constructor <;> rfl

theorem sameAccess_updEngine (k : Core) (x : Bool) (f : Engine → Engine) : SameAccess k (updEngine k x f) := by
  cases x <;> constructor <;> rfl

theorem sameResults_squashAll (k : Core) : SameResults k (squashAll k) := by
  unfold squashAll
  split <;> constructor <;> rfl

theorem squashAll_of_no_brx {k : Core} (h : k.brx = []) : squashAll k = k := by
  simp [squashAll, h]

theorem engineOf_squashAll (k : Core) (x : Bool) : engineOf (squashAll k) x = engineOf k x := by
  unfold squashAll
  split <;> rfl

/-! ### A stream that stops at a fault -/

/-- Core `k` after engine `x` has stopped on a fault: both engines halt, and what is uncommitted is squashed (R136, R197). -/
def faulted (k : Core) (x : Bool) (cause : Cause) (addr slot : Nat) : Core :=
  { squashAll (updEngine (updEngine k x (fun e => { haltEngine e .faulted with frec := faultWord cause addr slot })) (!x) stopPeer) with
    twin := atBundle k (!x) }

theorem sameResults_faulted (k : Core) (x : Bool) (cause : Cause) (addr slot : Nat) : SameResults k (faulted k x cause addr slot) :=
  (sameResults_updEngine k x _).trans ((sameResults_updEngine _ (!x) stopPeer).trans ((sameResults_squashAll _).trans (by constructor <;> rfl)))

theorem sameAccess_faulted {k : Core} (h : k.brx = []) (x : Bool) (cause : Cause) (addr slot : Nat) : SameAccess k (faulted k x cause addr slot) := by
  have hpre : SameAccess k (updEngine (updEngine k x (fun e => { haltEngine e .faulted with frec := faultWord cause addr slot })) (!x) stopPeer) :=
    (sameAccess_updEngine k x _).trans (sameAccess_updEngine _ (!x) stopPeer)
  rw [faulted, squashAll_of_no_brx (hpre.brx.trans h)]
  exact hpre.trans (by constructor <;> rfl)

theorem engineOf_faulted (k : Core) (x : Bool) (cause : Cause) (addr slot : Nat) :
    engineOf (faulted k x cause addr slot) x = { haltEngine (engineOf k x) .faulted with frec := faultWord cause addr slot } := by
  have htwin (q : Core) (w : Bool) : engineOf { q with twin := w } x = engineOf q x := rfl
  simp [faulted, htwin, engineOf_squashAll]

theorem coreOf_streamFault (s : State) (c : Nat) (x : Bool) (cause : Cause) (addr slot : Nat) :
    coreOf (streamFault s c x cause addr slot) c = faulted (coreOf s c) x cause addr slot :=
  coreOf_setCore_same ..

/-- Core `k` whose A-stream holds a fault of an uncommitted bundle (R196). -/
def holdingFault (k : Core) (cause : Cause) (addr slot : Nat) : Core :=
  { k with heldFault := some ⟨cause, addr, slot, levelNow k⟩, ae := { k.ae with hold := .uncommitted } }

theorem sameResults_holdingFault (k : Core) (cause : Cause) (addr slot : Nat) : SameResults k (holdingFault k cause addr slot) := by
  constructor <;> rfl

theorem sameAccess_holdingFault (k : Core) (cause : Cause) (addr slot : Nat) : SameAccess k (holdingFault k cause addr slot) := by
  constructor <;> rfl

/-- A fault of the A-stream stops it when its bundle is committed, and is held when it is not (R196). -/
theorem faultA_eq (s : State) (c : Nat) (cause : Cause) (addr slot : Nat) :
    faultA s c cause addr slot =
      if (coreOf s c).brx = [] then streamFault s c false cause addr slot else updCore s c (fun k => holdingFault k cause addr slot) := by
  simp only [faultA, List.isEmpty_iff]
  rfl

/-! ### Raising a fault -/

/-- The fault as its flag's holder counts it (R483, Table 11.11). -/
def countFault (s : State) (c : Nat) (cause : Cause) : State :=
  match cause with
  | .flagOver => bump s (cCore c 48) 1
  | .flagUnder => bump s (cCore c 49) 1
  | _ => s

@[simp] theorem coreOf_countFault (s : State) (c d : Nat) (cause : Cause) : coreOf (countFault s c cause) d = coreOf s d := by
  unfold countFault
  split <;> rfl

theorem not_isTwin_of_running {s : State} {c : Nat} {x : Bool} (h : (engineOf (coreOf s c) x).st = .running) : isTwin s c x = false := by
  simp [isTwin, h]

/-- A running engine has no fault of its bundle to add to another's: it stops its stream, or holds it (R196, R197, R199). -/
theorem raise_of_running {s : State} {c : Nat} {x : Bool} (h : (engineOf (coreOf s c) x).st = .running) (f : Nat × Cause) :
    raise s c x f = if x then streamFault (countFault s c f.2) c true f.2 (engineOf (coreOf s c) x).pc f.1
      else faultA (countFault s c f.2) c f.2 (engineOf (coreOf s c) x).pc f.1 := by
  simp only [raise, not_isTwin_of_running h, Bool.false_eq_true, if_false]
  rfl

/-- The core that a fault of engine `x` leaves. -/
def raised (k : Core) (x : Bool) (f : Nat × Cause) : Core :=
  if x = true ∨ k.brx = [] then faulted k x f.2 (engineOf k x).pc f.1 else holdingFault k f.2 (engineOf k x).pc f.1

theorem coreOf_raise {s : State} {c : Nat} {x : Bool} (h : (engineOf (coreOf s c) x).st = .running) (f : Nat × Cause) :
    coreOf (raise s c x f) c = raised (coreOf s c) x f := by
  rw [raise_of_running h]
  cases x with
  | true => simp [raised, coreOf_streamFault]
  | false => by_cases hb : (coreOf s c).brx = [] <;> simp [raised, faultA_eq, hb, coreOf_streamFault, updCore]

theorem raised_of_stops {k : Core} {x : Bool} (h : x = true ∨ k.brx = []) (f : Nat × Cause) :
    raised k x f = faulted k x f.2 (engineOf k x).pc f.1 := if_pos h

theorem raised_of_uncommitted {k : Core} (h : k.brx ≠ []) (f : Nat × Cause) : raised k false f = holdingFault k f.2 k.ae.pc f.1 :=
  if_neg (by simpa using h)

theorem sameResults_raised (k : Core) (x : Bool) (f : Nat × Cause) : SameResults k (raised k x f) := by
  unfold raised
  split
  · exact sameResults_faulted ..
  · exact sameResults_holdingFault ..

theorem sameAccess_raised (k : Core) (f : Nat × Cause) : SameAccess k (raised k false f) := by
  unfold raised
  split
  next h => exact sameAccess_faulted (by simpa using h) ..
  next => exact sameAccess_holdingFault ..

/-- The faulting engine stays at its bundle (R197). -/
theorem pc_raised (k : Core) (x : Bool) (f : Nat × Cause) : (engineOf (raised k x f) x).pc = (engineOf k x).pc := by
  unfold raised
  split
  · rw [engineOf_faulted]; rfl
  · cases x <;> rfl

theorem grant_raised {k : Core} {x : Bool} (h : (engineOf k x).grant = false) (f : Nat × Cause) : (engineOf (raised k x f) x).grant = false := by
  unfold raised
  split
  · rw [engineOf_faulted]; rfl
  · cases x <;> exact h

/-- The fault of the X-stream, or of a committed A-stream bundle, stops its engine and writes its record (R196, R197). -/
theorem stops_raised {k : Core} {x : Bool} (h : x = true ∨ k.brx = []) (f : Nat × Cause) :
    (engineOf (raised k x f) x).st = .faulted ∧ (engineOf (raised k x f) x).frec = faultWord f.2 (engineOf k x).pc f.1 := by
  rw [raised_of_stops h, engineOf_faulted]
  exact ⟨rfl, rfl⟩

/-! ### What a fault leaves outside its core -/

/-- All but core `c` and the counters of FLAG_OVER and FLAG_UNDER of its flags is the same: memory, chip flags, the other cores, the counters. -/
structure SameOutside (s t : State) (c : Nat) : Prop where
  m : t.m = s.m
  cf : t.sh.cf = s.sh.cf
  cores : SameOtherCores s t c
  counters : ∀ i, i ≠ cCore c 48 → i ≠ cCore c 49 → counter t i = counter s i

theorem SameOutside.trans {s t u : State} {c : Nat} (h : SameOutside s t c) (g : SameOutside t u c) : SameOutside s u c :=
  ⟨g.m.trans h.m, g.cf.trans h.cf, fun d hd => (g.cores d hd).trans (h.cores d hd),
    fun i hover hunder => (g.counters i hover hunder).trans (h.counters i hover hunder)⟩

theorem sameOutside_updCore (s : State) (c : Nat) (f : Core → Core) : SameOutside s (updCore s c f) c :=
  ⟨rfl, rfl, fun _ hd => coreOf_setCore_ne _ _ hd, fun _ _ _ => rfl⟩

theorem sameOutside_bump (s : State) (c : Nat) {j : Nat} (n : Nat) (hj : j = cCore c 48 ∨ j = cCore c 49) : SameOutside s (bump s j n) c := by
  refine ⟨rfl, rfl, fun _ _ => rfl, fun i hover hunder => ?_⟩
  have hne : i ≠ j := by rcases hj with rfl | rfl <;> assumption
  simp [counter_bump, hne]

theorem sameOutside_countFault (s : State) (c : Nat) (cause : Cause) : SameOutside s (countFault s c cause) c := by
  unfold countFault
  split
  · exact sameOutside_bump s c 1 (.inl rfl)
  · exact sameOutside_bump s c 1 (.inr rfl)
  · exact ⟨rfl, rfl, fun _ _ => rfl, fun _ _ _ => rfl⟩

theorem sameOutside_streamFault (s : State) (c : Nat) (x : Bool) (cause : Cause) (addr slot : Nat) :
    SameOutside s (streamFault s c x cause addr slot) c :=
  ⟨rfl, rfl, fun _ hd => coreOf_setCore_ne _ _ hd, fun _ _ _ => rfl⟩

theorem sameOutside_faultA (s : State) (c : Nat) (cause : Cause) (addr slot : Nat) : SameOutside s (faultA s c cause addr slot) c := by
  rw [faultA_eq]
  split
  · exact sameOutside_streamFault ..
  · exact sameOutside_updCore ..

theorem sameOutside_raise {s : State} {c : Nat} {x : Bool} (h : (engineOf (coreOf s c) x).st = .running) (f : Nat × Cause) :
    SameOutside s (raise s c x f) c := by
  rw [raise_of_running h]
  refine (sameOutside_countFault s c f.2).trans ?_
  split
  · exact sameOutside_streamFault ..
  · exact sameOutside_faultA ..

/-- Raising a fault changes no flag. -/
theorem flagGet_raise {s : State} {c : Nat} {x : Bool} (h : (engineOf (coreOf s c) x).st = .running) (f : Nat × Cause) (r : FlagRef) :
    flagGet (raise s c x f) r = flagGet s r := by
  have hout := sameOutside_raise h f
  cases r with
  | chip i => simp [flagGet, hout.cf]
  | core d i =>
    by_cases hd : d = c
    · subst hd
      simp [flagGet, flagOf, coreOf_raise h, (sameResults_raised _ x f).flags]
    · simp [flagGet, hout.cores d hd]

/-! ### The flag that a WAITC has taken -/

/-- The grant of a WAITC is taken back from engine `x` of core `c`. -/
def ungrant (s : State) (c : Nat) (x : Bool) : State := updCore s c (fun k => updEngine k x (fun e => { e with grant := false }))

theorem engineOf_ungrant (s : State) (c : Nat) (x : Bool) : engineOf (coreOf (ungrant s c x) c) x = { engineOf (coreOf s c) x with grant := false } := by
  simp [ungrant, updCore]

/-- The index of a flag lies in its holder (R478). -/
def indexInHolder : FlagRef → Prop
  | .core _ i => i < 256
  | .chip i => i < 4096

theorem flagGet_flagPut_same {s : State} {r : FlagRef} (h : indexInHolder r) (b : Bool) : flagGet (flagPut s r b) r = b := by
  cases r <;> simp [flagGet, flagPut, updCore, flagOf, setFlag, getLsbD_putBit _ _ _ _ h]

theorem engineOf_flagPut (s : State) (c : Nat) (x : Bool) (r : FlagRef) (b : Bool) : engineOf (coreOf (flagPut s r b) c) x = engineOf (coreOf s c) x := by
  cases r with
  | chip i => rfl
  | core d i =>
    by_cases hd : c = d
    · subst hd
      cases x <;> simp [flagPut, updCore, engineOf]
    · simp [flagPut, updCore, coreOf_setCore_ne _ _ hd]

/-- A flag for which nothing waits becomes set (R480). -/
theorem flagRaise_of_no_waiter {s : State} {r : FlagRef} (h : firstWaiter s r = none) : flagRaise s r = flagPut s r true := by
  simp [flagRaise, h]

section
variable {s : State} {c : Nat} {x : Bool} {b : Bundle}

/-- The flag that a granted WAITC has taken is set again, and the grant is gone (R155). -/
theorem giveBack_of_grant {g : FSF} {r : FlagRef} (hb : b.sync = some (.waitc g)) (hr : syncTarget c (coreOf s c) x g = .flag r)
    (hg : (engineOf (coreOf s c) x).grant = true) (hw : firstWaiter s r = none) : giveBack s c x b = flagPut (ungrant s c x) r true := by
  have hwaiter : firstWaiter (ungrant s c x) r = none := hw
  simp only [giveBack, hb, hr, hg, if_true]
  exact flagRaise_of_no_waiter hwaiter

theorem giveBack_of_no_grant (h : ∀ g, b.sync = some (.waitc g) → (engineOf (coreOf s c) x).grant = false) : giveBack s c x b = s := by
  unfold giveBack
  split
  next g hb =>
    split
    · simp [h g hb]
    · rfl
  next => rfl

end

/-- Settles O18: a hold changes its engine alone; a fault leaves its core as `raised` says, and the rest as `SameOutside` says. -/
theorem bundlesAreAllOrNothing : Obligations.BundlesAreAllOrNothing := by
  unfold Obligations.BundlesAreAllOrNothing
  intro c x s b len h
  have hrun := running_of_canIssue h
  refine ⟨fun w hv => ?held, fun f hv g r hb hr hg hw hcore hchip => ?waitc, fun f hv hg => ?fault⟩
  case held =>
    obtain ⟨sh, ht⟩ := holdBundle_eq s c x b w
    rw [issue_of_held h hv, ht]
    exact ⟨coreOf_setCore_same .., rfl, rfl, fun d hd => coreOf_setCore_ne _ _ hd⟩
  case waitc =>
    have hin : indexInHolder r := by
      cases r with
      | core d i => exact hcore d i rfl
      | chip i => exact hchip i rfl
    have heng : engineOf (coreOf (flagPut (ungrant s c x) r true) c) x = { engineOf (coreOf s c) x with grant := false } := by
      rw [engineOf_flagPut, engineOf_ungrant]
    have hrun' : (engineOf (coreOf (flagPut (ungrant s c x) r true) c) x).st = .running := by rw [heng]; exact hrun
    rw [issue_of_fault h hv, giveBack_of_grant hb hr hg hw, flagGet_raise hrun', coreOf_raise hrun']
    exact ⟨flagGet_flagPut_same hin true, grant_raised (by rw [heng]) f⟩
  case fault =>
    rw [issue_of_fault h hv, giveBack_of_no_grant hg, coreOf_raise hrun]
    obtain ⟨hsr, hpr, hv, hacc, hmops, hflags, hposted, hwgb⟩ := sameResults_raised (coreOf s c) x f
    obtain ⟨hm, -, hcores, hcounters⟩ := sameOutside_raise hrun f
    refine ⟨pc_raised .., hsr, hpr, hv, hacc, hmops, hflags, hposted, hwgb, hm, hcores, hcounters, ?_, ?_⟩
    · rintro rfl
      exact stops_raised (.inl rfl) f
    · rintro rfl
      obtain ⟨ha, hlq, hsq, hreqs, htiles, hbrx⟩ := sameAccess_raised (coreOf s c) f
      refine ⟨ha, hlq, hsq, hreqs, htiles, hbrx, fun hb => stops_raised (x := false) (.inr hb) f, fun hb => ?_⟩
      rw [raised_of_uncommitted hb]
      exact ⟨rfl, rfl⟩

end Sys2Proof.Machine
end

section
/-!
PROOF. What reset leaves (R262, R341, R475, Table 15.1). No table of `State.reset` lists a key, so every core, directory entry and ring reads as its
default; a core flag is a bit of the default core, a chip flag one of the Shutter's clear vector. That the device range reads as empty is the
model's choice (log 2).
-/
namespace Sys2Proof.Machine

@[simp] theorem tget_nil {α : Type} (d : Nat → α) (i : Nat) : tget d [] i = d i := rfl

@[simp] theorem coreOf_reset (c : Nat) : coreOf State.reset c = {} := tget_nil coreDefault c

@[simp] theorem dirOf_reset (b : Nat) : dirOf State.reset b = {} := tget_nil dirDefault b

@[simp] theorem ring_reset (r : Nat) : tget noRing State.reset.cm.rings r = {} := tget_nil noRing r

theorem mapped_eq_false {s : State} {b : Nat} (h : (dirOf s b).home = .unmapped) : mapped s b = false := by simp [mapped, h]

/-- Reset clears every core flag and every chip flag (R475). -/
@[simp] theorem flagGet_reset (f : FlagRef) : flagGet State.reset f = false := by
  cases f with
  | core c i =>
    rw [flagGet, coreOf_reset]
    exact BitVec.getLsbD_zero
  | chip i => exact BitVec.getLsbD_zero

/-- Settles O2: each clause reads a default, through the equation for the table that it reads. -/
theorem resetState : Obligations.ResetState := by
  unfold Obligations.ResetState
  refine ⟨fun b => ?blocks, rfl, rfl, rfl, rfl, rfl, fun i => flagGet_reset (.chip i), fun c i => flagGet_reset (.core c i),
    fun c => ?cores, fun r => ?rings, rfl, rfl⟩
  case blocks =>
    have hdir := dirOf_reset b
    refine ⟨mapped_eq_false ?_, ?_, ?_⟩ <;> rw [hdir]
  case cores =>
    rw [coreOf_reset]
    exact ⟨rfl, rfl, rfl, rfl, rfl, tget_nil zeroRow⟩
  case rings => rw [ring_reset]

end Sys2Proof.Machine
end

section
/-!
PROOF. What the memory traffic of the Fixer leaves unchanged (R311, R447). A line that the Fixer recalls, reads or writes reaches channels, cache
slices, counters, memory and the placement of a block; cores, groups and commands stay. `withoutTraffic` and `outsideMemory` say so as equations.
-/
namespace Sys2Proof.Machine

theorem foldl_keeps {α β γ : Type} (p : β → γ) {f : β → α → β} (h : ∀ b a, p (f b a) = p b) (l : List α) (b : β) : p (l.foldl f b) = p b := by
  induction l generalizing b with
  | nil => rfl
  | cons a l ih => exact (ih (f b a)).trans (h b a)

/-! ### Recalled and queued lines -/

/-- The state without what its channels and slices hold and its counters say: all that recalling and queueing lines can change. -/
def withoutTraffic (s : State) : State :=
  { s with m := { s.m with chans := [], carafe := [], mergeBuf := [] }, cm := { s.cm with counters := [] } }

section
variable (s : State)

@[simp] theorem withoutTraffic_bump (i n : Nat) : withoutTraffic (bump s i n) = withoutTraffic s := rfl
@[simp] theorem withoutTraffic_bumpIf (b : Bool) (i n : Nat) : withoutTraffic (bumpIf b s i n) = withoutTraffic s := by
  cases b <;> rfl
@[simp] theorem withoutTraffic_bumpEv (i : Nat) (e : Ev) : withoutTraffic (bumpEv s i e) = withoutTraffic s := by simp [bumpEv]
@[simp] theorem withoutTraffic_queueLine (l : Nat) (w : Bool) : withoutTraffic (queueLine s l w) = withoutTraffic s := by
  unfold queueLine
  split <;> rfl

@[simp] theorem withoutTraffic_bankArrive (b : Nat) (u : BankUser) : withoutTraffic (bankArrive s b u) = withoutTraffic s := by
  unfold bankArrive
  dsimp only
  split <;> rfl

@[simp] theorem withoutTraffic_writeBack (sl l : Nat) : withoutTraffic (writeBack s sl l) = withoutTraffic s := by
  unfold writeBack
  dsimp only
  split
  · rw [withoutTraffic_bankArrive, withoutTraffic_bump]
  · rfl

@[simp] theorem withoutTraffic_recallLine (p l : Nat) : withoutTraffic (recallLine s p l) = withoutTraffic s := by
  unfold recallLine
  dsimp only
  split
  · rfl
  · split
    · rw [withoutTraffic_writeBack]; rfl
    · rfl

@[simp] theorem withoutTraffic_recallAt (l : Nat) : withoutTraffic (recallAt s l) = withoutTraffic s := by
  unfold recallAt
  split
  · exact withoutTraffic_recallLine s _ l
  · rfl

@[simp] theorem withoutTraffic_fixTouch (p : Nat) (w : Bool) (l : Nat) : withoutTraffic (fixTouch p w s l) = withoutTraffic s := by
  unfold fixTouch fixRecall
  split <;> simp

@[simp] theorem withoutTraffic_mergeIn (p l : Nat) : withoutTraffic (mergeIn s p l) = withoutTraffic s :=
  foldl_keeps withoutTraffic (fun t x => withoutTraffic_queueLine t x true) _ _

@[simp] theorem withoutTraffic_touchAt (a : Nat) (w small : Bool) : withoutTraffic (touchAt s a w small) = withoutTraffic s := by
  unfold touchAt narrowTouch
  split
  · split <;> simp
  · rfl

@[simp] theorem withoutTraffic_rowTouch (w : Bool) (r b : Nat) : withoutTraffic (rowTouch w r b s) = withoutTraffic s :=
  foldl_keeps withoutTraffic (fun t _ => foldl_keeps withoutTraffic (fun u _ => withoutTraffic_touchAt u _ _ _) _ t) _ s

end

/-! ### Lines written -/

/-- Cores, groups and commands. -/
def outsideMemory (s : State) : Table Core × FixerSt × List Cmd := (s.cores, s.fx, s.cm.cmds)

theorem outsideMemory_of_withoutTraffic {s t : State} (h : withoutTraffic t = withoutTraffic s) : outsideMemory t = outsideMemory s :=
  (congrArg outsideMemory h : outsideMemory (withoutTraffic t) = outsideMemory (withoutTraffic s))

theorem dir_of_withoutTraffic {s t : State} (h : withoutTraffic t = withoutTraffic s) : t.m.dir = s.m.dir :=
  (congrArg (fun u : State => u.m.dir) h : (withoutTraffic t).m.dir = (withoutTraffic s).m.dir)

section
variable (s : State)

@[simp] theorem outsideMemory_bump (i n : Nat) : outsideMemory (bump s i n) = outsideMemory s := rfl
@[simp] theorem outsideMemory_setDir (b : Nat) (e : DirEntry) : outsideMemory (setDir s b e) = outsideMemory s := rfl
@[simp] theorem outsideMemory_writeLine (l : Nat) (v : Line) : outsideMemory (writeLine s l v) = outsideMemory s := by simp [outsideMemory]
@[simp] theorem outsideMemory_poisonLine (l : Nat) : outsideMemory (poisonLine s l) = outsideMemory s := by simp [outsideMemory]
@[simp] theorem outsideMemory_setPlace (b : Nat) (p : Place) : outsideMemory (setPlace s b p) = outsideMemory s := rfl
@[simp] theorem outsideMemory_zeroBlock (b : Nat) : outsideMemory (zeroBlock s b) = outsideMemory s := rfl

theorem outsideMemory_grind (p n : Nat) : outsideMemory (grind s p n) = outsideMemory s := by simp [grind]
theorem outsideMemory_putStored (l : Nat) (v : Line) : outsideMemory (putStored s l v) = outsideMemory s := rfl

theorem outsideMemory_passGranules (b : Nat) : outsideMemory (passGranules s b) = outsideMemory s := by
  unfold passGranules
  split
  · exact foldl_keeps outsideMemory (fun t g => outsideMemory_grind t _ _) _ s
  · rfl

@[simp] theorem outsideMemory_encodeGranules (b : Nat) : outsideMemory (encodeGranules s b) = outsideMemory s := by
  unfold encodeGranules
  split
  · exact (outsideMemory_passGranules _ b).trans (foldl_keeps outsideMemory (fun t i => outsideMemory_putStored t _ _) _ s)
  · rfl

@[simp] theorem outsideMemory_mapAt (b : Nat) (p : Place) (e : DirEntry) : outsideMemory (mapAt s b p e) = outsideMemory s := by simp [mapAt]

theorem outsideMemory_autoMap {b : Nat} {t : State} (h : autoMap s b = some t) : outsideMemory t = outsideMemory s := by
  unfold autoMap at h
  split at h
  · cases h; rfl
  · split at h
    · cases h
    · obtain ⟨p, -, rfl⟩ := Option.map_eq_some_iff.mp h
      exact outsideMemory_mapAt s b p _

@[simp] theorem outsideMemory_writeLineW (l : Nat) (x : LineW) : outsideMemory (writeLineW s l x) = outsideMemory s := by
  unfold writeLineW
  split
  next => rfl
  next t ht =>
    rw [← outsideMemory_autoMap s ht]
    split
    · exact outsideMemory_poisonLine t l
    · split
      · exact outsideMemory_writeLine t l _
      · split
        · rfl
        · exact outsideMemory_writeLine t l _

@[simp] theorem outsideMemory_writeLinesW (l : List (Nat × LineW)) : outsideMemory (writeLinesW s l) = outsideMemory s := by
  induction l generalizing s with
  | nil => rfl
  | cons e l ih => exact (ih _).trans (outsideMemory_writeLineW s e.1 e.2)

@[simp] theorem outsideMemory_tsReport (c n : Nat) : outsideMemory (tsReport s c n) = outsideMemory s := by
  unfold tsReport
  split <;> rfl

end

end Sys2Proof.Machine
end

section
/-!
PROOF. A STEP changes memory, counters and its own group (R447): every rule, block by block, leaves cores, groups and commands as they are.
-/
namespace Sys2Proof.Machine

/-- The part of a run of a STEP that no block of it changes. -/
def runOutside (x : StepRun) : Table Core × FixerSt × List Cmd := outsideMemory x.s

section
variable (x : StepRun)

@[simp] theorem runOutside_skipPoison (p n : Nat) : runOutside (skipPoison x p n) = runOutside x := rfl
@[simp] theorem runOutside_skipNf (p n : Nat) : runOutside (skipNf x p n) = runOutside x := rfl
@[simp] theorem runOutside_addEvents (p : Nat) (e : Ev) : runOutside (addEvents x p e) = runOutside x :=
  outsideMemory_of_withoutTraffic (withoutTraffic_bumpEv x.s _ e)
@[simp] theorem runOutside_countBlocks (p n : Nat) (e : Ev) : runOutside (countBlocks x p n e) = runOutside x := runOutside_addEvents x p e

@[simp] theorem runOutside_recallBlockOf (r p b : Nat) : runOutside (recallBlockOf r p b x) = runOutside x :=
  outsideMemory_of_withoutTraffic (foldl_keeps withoutTraffic (fun s l => withoutTraffic_fixTouch s p false l) _ x.s)

@[simp] theorem runOutside_writeBlock (p : Nat) (narrow : List Nat) (t : Table LineW) : runOutside (writeBlock x p narrow t) = runOutside x := by
  refine (outsideMemory_writeLinesW _ t).trans (outsideMemory_of_withoutTraffic (foldl_keeps withoutTraffic (fun s e => ?_) t x.s))
  split
  · rfl
  · exact withoutTraffic_fixTouch s p true e.1

@[simp] theorem runOutside_applyRes (p n : Nat) (q : BlockRes) : runOutside (applyRes x p n q) = runOutside x := by
  cases q <;> simp [applyRes]

/-- Rules 0 and 1 (R454 to R457). -/
theorem runOutside_stepBlock (r n : Nat) (h : Hyper) (k : Nat) (gr : Grad) (b : Nat) : runOutside (stepBlock r n h k gr b x) = runOutside x := by
  simp [stepBlock]

theorem runOutside_pass1 (r n : Nat) (h : Hyper) (gr : Nat → State → Grad) (l : List Nat) (y : StepRun × List SegSum × List Nat) :
    runOutside (pass1 r n h gr l y).1 = runOutside y.1 := by
  induction l generalizing y with
  | nil => rfl
  | cons b l ih =>
    obtain ⟨x, sums, skips⟩ := y
    simp only [pass1]
    split
    · simp [ih]
    · split <;> simp [ih]

theorem runOutside_pass2 (r n : Nat) (h : Hyper) (sums : List SegSum) (b : Nat) : runOutside (pass2 r n h sums b x) = runOutside x := by
  unfold pass2
  dsimp only
  split <;> exact runOutside_applyRes x _ _ _

/-- Rule 2 (R458, R459). -/
theorem runOutside_stepNorm (r n : Nat) (h : Hyper) (gr : Nat → State → Grad) : runOutside (stepNorm r n h gr x) = runOutside x :=
  calc runOutside (stepNorm r n h gr x)
    _ = runOutside (ratioEvents r _ (pass1 r n h gr (List.range (grBlocks r)) (x, [], [])).1) :=
      foldl_keeps runOutside (fun y b => runOutside_pass2 y r n h _ b) _ _
    _ = runOutside (pass1 r n h gr (List.range (grBlocks r)) (x, [], [])).1 := foldl_keeps runOutside (fun y p => runOutside_addEvents y p _) _ _
    _ = runOutside x := runOutside_pass1 r n h gr _ _

/-- Rule 3 (R460 to R462). -/
theorem runOutside_stepPre (r n : Nat) (h : Hyper) (gr : Nat → State → Grad) (bb : Nat) : runOutside (stepPre r n h gr bb x) = runOutside x := by
  unfold stepPre
  extract_lets p y s inv w mo st ax g0 e0 g rd pm ps m1 l1 iv a1 s1 w2 x1 e1
  have hy : runOutside y = runOutside x := foldl_keeps runOutside (fun z i => runOutside_recallBlockOf z r p (32 * bb + i)) _ x
  have hx1 : runOutside x1 = runOutside y := outsideMemory_of_withoutTraffic (by simp only [x1, s1]; split <;> simp [s])
  split
  · rw [runOutside_applyRes, hy]
  · split
    · rw [runOutside_applyRes, hy]
    · split <;> rw [runOutside_applyRes, hx1, hy]

/-! ### Embedding rows (R463 to R465) -/

theorem runOutside_embedBlock (r n : Nat) (h : Hyper) (k : Nat) (rb : RBuf) (t : TD) (pois : Bool) (j c b : Nat) :
    runOutside (embedBlock r n h k rb t pois j c b x) = runOutside x := by
  unfold embedBlock
  extract_lets p s0 y g
  have hy : runOutside y = runOutside x := outsideMemory_of_withoutTraffic (by
    simp only [y, s0, withoutTraffic_rowTouch]
    split
    · exact foldl_keeps withoutTraffic (fun s l => withoutTraffic_fixTouch s p false l) _ x.s
    · rfl)
  split
  · rw [runOutside_countBlocks, runOutside_writeBlock, ← hy]
    exact outsideMemory_of_withoutTraffic (withoutTraffic_rowTouch _ true r b)
  · rw [runOutside_applyRes, hy]

theorem runOutside_embedRow (r n : Nat) (h : Hyper) (rb : RBuf) (t : TD) (j row : Nat) :
    runOutside (embedRow r n h rb t j row x) = runOutside x := by
  unfold embedRow
  extract_lets a y rec_ last cnt k h1 nb b0 p x1 s1
  have hy : runOutside y = runOutside x := outsideMemory_of_withoutTraffic (withoutTraffic_touchAt x.s a false false)
  have hx1 : runOutside x1 = runOutside y := foldl_keeps runOutside (fun z c => runOutside_embedBlock z r n h1 k rb t rec_.2 j c (b0 + c)) _ y
  have hs1 : outsideMemory s1 = runOutside x1 := outsideMemory_of_withoutTraffic (by simp [s1])
  exact (outsideMemory_writeLineW s1 _ _).trans (hs1.trans (hx1.trans hy))

theorem runOutside_embedRows (r n : Nat) (h : Hyper) (rb : RBuf) (t : TD) (j : Nat) (l : List Int) :
    runOutside (embedRows r n h rb t j l x) = runOutside x := by
  induction l generalizing j x with
  | nil => rfl
  | cons v l ih => exact (ih _ (j + 1)).trans (runOutside_embedRow x r n h rb t j v.toNat)

end

end Sys2Proof.Machine
end

section
/-!
PROOF. A command of a ring that is ready: its row hands its descriptor to the unit (R629, R721), and its end is read back from its slot (R631).
-/
namespace Sys2Proof.Machine

theorem withCmd_of_commandAt {s : State} {r i op : Nat} {d : Line} (h : CommandAt s r i op d .ready) (f : Line → State) :
    withCmd s r i op f = f d := by
  obtain ⟨hrest, m, hm, hphase, rfl, hop⟩ := h
  simp [withCmd, hm, hphase, hop, hrest]

theorem cmdOf_of_commandAt {s : State} {r i op : Nat} {d : Line} {p : CmdPhase} (h : CommandAt s r i op d p) : ∃ m, cmdOf s r i = some m := by
  obtain ⟨-, m, hm, -⟩ := h
  exact ⟨m, hm⟩

theorem cmdOf_setPhase {s : State} {r i : Nat} {m : Cmd} (h : cmdOf s r i = some m) (p : CmdPhase) :
    cmdOf (setPhase s r i p) r i = some { m with phase := p } := by
  have hslot : (m.ring == r && m.slot == i) = true := List.find?_some (p := fun q : Cmd => q.ring == r && q.slot == i) h
  have hkeeps : ((fun q : Cmd => q.ring == r && q.slot == i) ∘ fun q => if q.ring == r && q.slot == i then { q with phase := p } else q) =
      fun q => q.ring == r && q.slot == i := by
    funext q
    simp only [Function.comp_apply]
    split <;> rfl
  unfold cmdOf at h ⊢
  simp only [setPhase, setCmds, List.find?_map, hkeeps, h, Option.map_some, hslot, if_true]

theorem cmdOf_finishCmd {s : State} {r i : Nat} {m : Cmd} (h : cmdOf s r i = some m) (st : Status) (info : BitVec 64) :
    cmdOf (finishCmd s r i st info) r i = some { m with phase := .done st info } := cmdOf_setPhase h _

theorem completed_finishCmd {s : State} {r i : Nat} {m : Cmd} (h : cmdOf s r i = some m) (st : Status) (info : BitVec 64) :
    Completed (finishCmd s r i st info) r i st info := ⟨_, cmdOf_finishCmd h st info, rfl⟩

@[simp] theorem dirOf_finishCmd (s : State) (r i : Nat) (st : Status) (info : BitVec 64) (b : Nat) : dirOf (finishCmd s r i st info) b = dirOf s b := rfl

theorem checked_of_passes {l : List (Bool × Status)} (h : firstFail l = none) {s : State} {r i : Nat} (f : State) : checked s r i l f = f := by
  rw [checked, h]

@[simp] theorem finishCmd_mem (s : State) (r i : Nat) (st : Status) (info : BitVec 64) : (finishCmd s r i st info).m.mem = s.m.mem := rfl
@[simp] theorem finishCmd_poison (s : State) (r i : Nat) (st : Status) (info : BitVec 64) : (finishCmd s r i st info).m.poison = s.m.poison := rfl
@[simp] theorem finishCmd_counters (s : State) (r i : Nat) (st : Status) (info : BitVec 64) :
    (finishCmd s r i st info).cm.counters = s.cm.counters := rfl

/-- With no host line in the way the row acts at once (R619). -/
theorem hostFirst_of_none_held {s : State} {l : List Nat} (h : heldByHost s l = []) (f : State) : hostFirst s l f = f := by simp [hostFirst, h]

/-! ### Host bytes counted -/

section
variable (s : State) (sp k : Nat)

@[simp] theorem countRead_cores : (countRead s sp k).cores = s.cores := by unfold countRead bumpIf; split <;> rfl
@[simp] theorem countRead_m : (countRead s sp k).m = s.m := by unfold countRead bumpIf; split <;> rfl
@[simp] theorem countRead_fx : (countRead s sp k).fx = s.fx := by unfold countRead bumpIf; split <;> rfl
@[simp] theorem countRead_cmds : (countRead s sp k).cm.cmds = s.cm.cmds := by unfold countRead bumpIf; split <;> rfl
@[simp] theorem countRead_regs : (countRead s sp k).cm.regs = s.cm.regs := by unfold countRead bumpIf; split <;> rfl
@[simp] theorem dirOf_countRead (b : Nat) : dirOf (countRead s sp k) b = dirOf s b := by rw [dirOf, countRead_m, dirOf]
@[simp] theorem mapped_countRead (b : Nat) : mapped (countRead s sp k) b = mapped s b := by rw [mapped, dirOf_countRead, mapped]
@[simp] theorem cmdOf_countRead (r i : Nat) : cmdOf (countRead s sp k) r i = cmdOf s r i := by rw [cmdOf, countRead_cmds, cmdOf]
@[simp] theorem cmdLost_countRead (r i : Nat) : cmdLost (countRead s sp k) r i = cmdLost s r i := by rw [cmdLost, cmdOf_countRead, cmdLost]

@[simp] theorem heldByHost_countRead (l : List Nat) : heldByHost (countRead s sp k) l = heldByHost s l := by
  have hholds : hostHolds (countRead s sp k) = hostHolds s := funext fun x => congrArg (·.snoop.contains x) (countRead_m s sp k)
  rw [heldByHost, hholds, heldByHost]

end

end Sys2Proof.Machine
end

section
/-!
PROOF. Parameter groups and UPDATE (R437 to R447): one lemma for each answer of DEFINE, MODIFY, RELEASE and STEP.
-/
namespace Sys2Proof.Machine

/-! ### Groups -/

theorem groupOf_setGroup (s : State) (g h : Nat) (x : GroupSt) : groupOf (setGroup s g x) h = if h = g then x else groupOf s h := by
  simp [groupOf, setGroup, tget_tset]

@[simp] theorem setGroup_cores (s : State) (g : Nat) (x : GroupSt) : (setGroup s g x).cores = s.cores := rfl
@[simp] theorem setGroup_m (s : State) (g : Nat) (x : GroupSt) : (setGroup s g x).m = s.m := rfl
@[simp] theorem setGroup_cm (s : State) (g : Nat) (x : GroupSt) : (setGroup s g x).cm = s.cm := rfl
@[simp] theorem cmdOf_setGroup (s : State) (g r i : Nat) (x : GroupSt) : cmdOf (setGroup s g x) r i = cmdOf s r i := rfl
@[simp] theorem dirOf_setGroup (s : State) (g b : Nat) (x : GroupSt) : dirOf (setGroup s g x) b = dirOf s b := rfl

theorem groupOf_congr {s t : State} (h : t.fx = s.fx) (g : Nat) : groupOf t g = groupOf s g := by rw [groupOf, h, groupOf]

@[simp] theorem groupOf_countRead (s : State) (sp k g : Nat) : groupOf (countRead s sp k) g = groupOf s g := groupOf_congr (countRead_fx s sp k) g
@[simp] theorem groupOf_finishCmd (s : State) (r i g : Nat) (st : Status) (info : BitVec 64) : groupOf (finishCmd s r i st info) g = groupOf s g := rfl

theorem cores_of_outside {s t : State} (h : outsideMemory t = outsideMemory s) : t.cores = s.cores := congrArg (·.1) h
theorem groupOf_of_outside {s t : State} (h : outsideMemory t = outsideMemory s) (g : Nat) : groupOf t g = groupOf s g :=
  groupOf_congr (congrArg (·.2.1) h) g
theorem cmdOf_of_outside {s t : State} (h : outsideMemory t = outsideMemory s) (r i : Nat) : cmdOf t r i = cmdOf s r i :=
  congrArg (·.2.2.find? (fun m => m.ring == r && m.slot == i)) h

/-! ### Directory entries of a group's blocks -/

/-- An operation that turns the entry of its block by `f`, done for each block of a list, turns the entries of these blocks, once however often
a block stands in the list, and of no others. `p` is what the operation needs of an entry. -/
theorem dirOf_foldl {f : DirEntry → DirEntry} {p : DirEntry → Prop} {op : State → Nat × Nat → State} (hidem : ∀ e, f (f e) = f e)
    (hp : ∀ e, p e → p (f e)) (hop : ∀ t x, p (dirOf t x.1) → ∀ b, dirOf (op t x) b = if b = x.1 then f (dirOf t b) else dirOf t b)
    (l : List (Nat × Nat)) (s : State) (hl : ∀ x ∈ l, p (dirOf s x.1)) (b : Nat) :
    dirOf (l.foldl op s) b = if l.any (fun x => x.1 == b) then f (dirOf s b) else dirOf s b := by
  induction l generalizing s with
  | nil => rfl
  | cons x l ih =>
    have hx := hop s x (hl x List.mem_cons_self)
    have hl' : ∀ y ∈ l, p (dirOf (op s x) y.1) := by
      intro y hy
      rw [hx]
      have hpy := hl y (List.mem_cons_of_mem x hy)
      split
      · exact hp _ hpy
      · exact hpy
    rw [List.foldl_cons, ih (op s x) hl', hx, List.any_cons]
    by_cases hb : b = x.1
    · simp [hb, hidem]
    · have hb' : (x.1 == b) = false := beq_eq_false_iff_ne.mpr (Ne.symm hb)
      rw [if_neg hb, hb', Bool.false_or]

/-- The entry of a block given back by RELEASE (R444). -/
def releasedEntry (e : DirEntry) : DirEntry := { e with fixer := false }
/-- The entry of a mapped block of a group that becomes defined (R440). -/
def definedEntry (e : DirEntry) : DirEntry := { e with tiers := 4, cmp := false, fixer := true }

theorem mapped_iff {s : State} {b : Nat} : mapped s b = true ↔ (dirOf s b).home ≠ .unmapped := by simp [mapped]

/-- A mapped block of a group being defined changes its entry, and may come to wait for its move. -/
theorem defineBlock_of_mapped {s : State} {x : Nat × Nat} (r i : Nat) (h : mapped s x.1 = true) :
    ∃ w, defineBlock s r i x = { setDir s x.1 (definedEntry (dirOf s x.1)) with
      m := { (setDir s x.1 (definedEntry (dirOf s x.1))).m with waitMoves := w } } := by
  unfold defineBlock
  simp only [h, if_true]
  split
  · exact ⟨_, rfl⟩
  · exact ⟨_, rfl⟩

theorem dirOf_defineBlock {s : State} {x : Nat × Nat} (r i : Nat) (h : mapped s x.1 = true) (b : Nat) :
    dirOf (defineBlock s r i x) b = if b = x.1 then definedEntry (dirOf s b) else dirOf s b := by
  obtain ⟨w, hw⟩ := defineBlock_of_mapped r i h
  rw [hw]
  refine (dirOf_setDir s x.1 b _).trans ?_
  split
  next hb => rw [hb]
  next => rfl

/-- Each block of a group that becomes defined is the Fixer's, in the stack tier, where it was. -/
theorem dirOf_defineBlocks {s : State} {l : List (Nat × Nat)} (r i : Nat) (hl : ∀ x ∈ l, mapped s x.1 = true) (b : Nat) :
    dirOf (l.foldl (fun t x => defineBlock t r i x) s) b = if l.any (fun x => x.1 == b) then definedEntry (dirOf s b) else dirOf s b :=
  dirOf_foldl (f := definedEntry) (p := fun e => e.home ≠ .unmapped) (fun _ => rfl) (fun _ h => h) (fun _ _ h => dirOf_defineBlock r i (mapped_iff.mpr h)) l s
    (fun x hx => mapped_iff.mp (hl x hx)) b

theorem mem_defineBlocks {s : State} {l : List (Nat × Nat)} (r i : Nat) (hl : ∀ x ∈ l, mapped s x.1 = true) :
    (l.foldl (fun t x => defineBlock t r i x) s).m.mem = s.m.mem := by
  induction l generalizing s with
  | nil => rfl
  | cons x l ih =>
    have hx := hl x List.mem_cons_self
    have hl' : ∀ y ∈ l, mapped (defineBlock s r i x) y.1 = true := by
      intro y hy
      have hy := mapped_iff.mp (hl y (List.mem_cons_of_mem x hy))
      rw [mapped_iff, dirOf_defineBlock r i hx]
      split
      · exact hy
      · exact hy
    obtain ⟨w, hw⟩ := defineBlock_of_mapped r i hx
    exact (ih hl').trans (by rw [hw]; rfl)

theorem dir_zeroBytes (s : State) (a n : Nat) : (zeroBytes s a n).m.dir = s.m.dir := rfl
theorem outsideMemory_zeroBytes (s : State) (a n : Nat) : outsideMemory (zeroBytes s a n) = outsideMemory s := rfl

theorem outsideMemory_defineBlock (s : State) (r i : Nat) (x : Nat × Nat) : outsideMemory (defineBlock s r i x) = outsideMemory s := by
  unfold defineBlock
  extract_lets n e s1
  split
  · split <;> rfl
  · split
    · exact outsideMemory_mapAt s _ _ _
    · rfl

/-! ### DEFINE (R439, R440) -/

/-- The row records of an embedding become 0. -/
def clearRecords (s : State) (n : Nat) : State :=
  if grEmbed n then zeroBytes ((recLines n).foldl (fun t l => queueLine (recallAt t l) l true) s) (grAddr n 11) (tensorBytes n 11) else s

/-- All of a group that becomes defined but its record: its blocks and its row records. -/
def defineBlocks (s : State) (r i g n : Nat) : State := clearRecords ((homedBlocks s g n).foldl (fun t x => defineBlock t r i x) s) n

theorem withoutTraffic_recalled (s : State) (l : List Nat) :
    withoutTraffic (l.foldl (fun t l => queueLine (recallAt t l) l true) s) = withoutTraffic s :=
  foldl_keeps withoutTraffic (fun t l => (withoutTraffic_queueLine _ l true).trans (withoutTraffic_recallAt t l)) l s

theorem outsideMemory_clearRecords (s : State) (n : Nat) : outsideMemory (clearRecords s n) = outsideMemory s := by
  unfold clearRecords
  split
  · exact (outsideMemory_zeroBytes _ _ _).trans (outsideMemory_of_withoutTraffic (withoutTraffic_recalled s (recLines n)))
  · rfl

theorem dir_clearRecords (s : State) (n : Nat) : (clearRecords s n).m.dir = s.m.dir := by
  unfold clearRecords
  split
  · exact (dir_zeroBytes _ _ _).trans (dir_of_withoutTraffic (withoutTraffic_recalled s (recLines n)))
  · rfl

section
variable (s : State) (r i g n : Nat)

theorem defineGroup_eq : defineGroup s r i g n =
    setGroup (defineBlocks s r i g n) g { groupOf (defineBlocks s r i g n) g with defined := true, record := BitVec.ofNat 2048 n, t := 0 } := rfl

theorem outsideMemory_defineBlocks : outsideMemory (defineBlocks s r i g n) = outsideMemory s :=
  (outsideMemory_clearRecords _ n).trans (foldl_keeps outsideMemory (fun t x => outsideMemory_defineBlock t r i x) _ s)

theorem groupOf_defineGroup (h : Nat) : groupOf (defineGroup s r i g n) h =
    if h = g then { groupOf s g with defined := true, record := BitVec.ofNat 2048 n, t := 0 } else groupOf s h := by
  have hout := outsideMemory_defineBlocks s r i g n
  rw [defineGroup_eq, groupOf_setGroup, groupOf_of_outside hout, groupOf_of_outside hout]

theorem cores_defineGroup : (defineGroup s r i g n).cores = s.cores := by
  rw [defineGroup_eq, setGroup_cores, cores_of_outside (outsideMemory_defineBlocks s r i g n)]

theorem cmdOf_defineGroup : cmdOf (defineGroup s r i g n) r i = cmdOf s r i := by
  rw [defineGroup_eq, cmdOf_setGroup, cmdOf_of_outside (outsideMemory_defineBlocks s r i g n)]

end

theorem dirOf_defineGroup {s : State} {g n : Nat} (r i : Nat) (hmap : ∀ x ∈ homedBlocks s g n, mapped s x.1 = true) {x : Nat × Nat}
    (hx : x ∈ homedBlocks s g n) : dirOf (defineGroup s r i g n) x.1 = definedEntry (dirOf s x.1) := by
  have hany : (homedBlocks s g n).any (fun y => y.1 == x.1) = true := List.any_eq_true.mpr ⟨x, hx, beq_self_eq_true _⟩
  calc dirOf (defineGroup s r i g n) x.1
    _ = dirOf (defineBlocks s r i g n) x.1 := by rw [defineGroup_eq, dirOf_setGroup]
    _ = dirOf ((homedBlocks s g n).foldl (fun t x => defineBlock t r i x) s) x.1 := congrArg (tget dirDefault · x.1) (dir_clearRecords _ n)
    _ = definedEntry (dirOf s x.1) := by rw [dirOf_defineBlocks r i hmap, if_pos hany]

theorem mem_defineGroup {s : State} {g n : Nat} (r i : Nat) (hmap : ∀ x ∈ homedBlocks s g n, mapped s x.1 = true) (he : grEmbed n = false) :
    (defineGroup s r i g n).m.mem = s.m.mem := by
  have hblocks : defineBlocks s r i g n = (homedBlocks s g n).foldl (fun t x => defineBlock t r i x) s := by simp [defineBlocks, clearRecords, he]
  rw [defineGroup_eq, setGroup_m, hblocks, mem_defineBlocks r i hmap]

@[simp] theorem groupOf_settleMoves (s : State) (r i g : Nat) : groupOf (settleMoves s r i) g = groupOf s g := by
  unfold settleMoves
  split <;> rfl
@[simp] theorem dirOf_settleMoves (s : State) (r i b : Nat) : dirOf (settleMoves s r i) b = dirOf s b := by
  unfold settleMoves
  split <;> rfl
@[simp] theorem settleMoves_cores (s : State) (r i : Nat) : (settleMoves s r i).cores = s.cores := by
  unfold settleMoves
  split <;> rfl
@[simp] theorem settleMoves_mem (s : State) (r i : Nat) : (settleMoves s r i).m.mem = s.m.mem := by
  unfold settleMoves
  split <;> rfl

/-- The command of a DEFINE is done, or waits for the blocks that move (R440). -/
theorem phase_settleMoves {s : State} {r i : Nat} {m : Cmd} (h : cmdOf s r i = some m) :
    ∃ x, cmdOf (settleMoves s r i) r i = some x ∧ (x.phase = .done .ok 0 ∨ x.phase = .busy 2) := by
  unfold settleMoves
  split
  · exact ⟨_, cmdOf_setPhase h _, .inr rfl⟩
  · exact ⟨_, cmdOf_finishCmd h _ _, .inl rfl⟩

/-- A DEFINE that passes the checks of its descriptor and reads its record goes on to the record's checks. -/
theorem updateDefine_of_read {s : State} {r i n : Nat} {d : Line} (hbusy : groupBusy s r i (upGroup d) = false) (hbody : bodyOk d upFields = true)
    (hfields : recordFieldsOnly d = true) (hptr : ptrFail (bytesAt d 24 8) 256 = none) (hdef : (groupOf s (upGroup d)).defined = false)
    (hsnap : snapOf s r i (.desc (bytesAt d 24 8)) = none) (hheld : heldByHost s (structLines (bytesAt d 24 8) 256) = [])
    (hread : readRecord s (bytesAt d 24 8) = .ok n) :
    updateDefine s r i d = defineWith (countRead s (ptrSpace (bytesAt d 24 8)) 256) r i (upGroup d) (bytesAt d 24 8) n := by
  unfold updateDefine
  dsimp only
  rw [hbusy, hbody, hfields, hptr, hdef, hsnap, hostFirst_of_none_held hheld, hread, if_neg Bool.false_ne_true]
  exact checked_of_passes rfl _

theorem defineWith_of_fail {s : State} {g n : Nat} {e : Status} (h : defineFail s g n = some e) (r i v : Nat) :
    defineWith s r i g v n = finishCmd s r i e 0 := by simp [defineWith, h]

@[simp] theorem heldByHost_keepSnap (s : State) (r i : Nat) (k : SnapKey) (raw : Nat) (l : List Nat) :
    heldByHost (keepSnap s r i k raw) l = heldByHost s l := by
  unfold keepSnap
  split <;> rfl

/-- Nothing moves and the host holds no line of the row records: the DEFINE takes effect. -/
theorem defineWith_of_passes {s : State} {g n : Nat} (h : defineFail s g n = none) (hmoves : s.m.moves = []) (hheld : heldByHost s (recLines n) = [])
    (r i v : Nat) : defineWith s r i g v n = settleMoves (defineGroup s r i g n) r i := by
  simp [defineWith, h, hmoves, hostFirst, hheld]

/-! ### MODIFY (R443) -/

theorem updateModify_of_read {s : State} {r i n : Nat} {d : Line} (hbusy : groupBusy s r i (upGroup d) = false) (hbody : bodyOk d upFields = true)
    (hfields : recordFieldsOnly d = true) (hdef : (groupOf s (upGroup d)).defined = true)
    (hheld : heldByHost s (structLines (bytesAt d 24 8) 256) = []) (hread : readRecord s (bytesAt d 24 8) = .ok n) :
    updateModify s r i d =
      let s0 := countRead s (ptrSpace (bytesAt d 24 8)) 256
      if modifyBad (groupOf s (upGroup d)).record.toNat n then finishCmd s0 r i .format 0
      else finishCmd (setGroup s0 (upGroup d) { groupOf s (upGroup d) with record := BitVec.ofNat 2048 n }) r i .ok 0 := by
  unfold updateModify
  dsimp only
  rw [hbusy, hbody, hfields, hdef, hostFirst_of_none_held hheld, hread, if_neg Bool.false_ne_true]
  exact checked_of_passes rfl _

/-! ### RELEASE (R444) -/

theorem updateRelease_of_defined {s : State} {r i : Nat} {d : Line} (hbusy : groupBusy s r i (upGroup d) = false) (hbody : bodyOk d upFields = true)
    (hfields : recordFieldsOnly d = true) (hv : bytesAt d 24 8 = 0) (hdef : (groupOf s (upGroup d)).defined = true) :
    updateRelease s r i d = finishCmd (releaseGroup s (upGroup d)) r i .ok 0 := by
  unfold updateRelease
  dsimp only
  rw [hbusy, hbody, hfields, hv, hdef, if_neg Bool.false_ne_true]
  exact checked_of_passes rfl _

section
variable (s : State) (g : Nat)

/-- The blocks of a released group are given back. -/
def releaseBlocks : State := (homedBlocks s g (groupOf s g).record.toNat).foldl (fun t b => setDir t b.1 (releasedEntry (dirOf t b.1))) s

theorem releaseGroup_eq : releaseGroup s g = setGroup (releaseBlocks s g) g { groupOf s g with defined := false } := rfl

/-- The state without its directory: all that giving blocks back can change. -/
def withoutDir (s : State) : State := { s with m := { s.m with dir := [] } }

theorem withoutDir_setDir (b : Nat) (e : DirEntry) : withoutDir (setDir s b e) = withoutDir s := rfl

theorem withoutDir_releaseBlocks : withoutDir (releaseBlocks s g) = withoutDir s :=
  foldl_keeps withoutDir (fun (t : State) (x : Nat × Nat) => withoutDir_setDir t x.1 (releasedEntry (dirOf t x.1))) _ s

/-- What does not read the directory is after RELEASE of the blocks as before. -/
theorem releaseBlocks_keeps {γ : Type} (p : State → γ) (hp : ∀ t, p (withoutDir t) = p t) : p (releaseBlocks s g) = p s := by
  rw [← hp, withoutDir_releaseBlocks, hp]

theorem groupOf_releaseGroup (h : Nat) : groupOf (releaseGroup s g) h = if h = g then { groupOf s g with defined := false } else groupOf s h := by
  rw [releaseGroup_eq, groupOf_setGroup, releaseBlocks_keeps s g (groupOf · h) (fun _ => rfl)]

theorem cmdOf_releaseGroup (r i : Nat) : cmdOf (releaseGroup s g) r i = cmdOf s r i := by
  rw [releaseGroup_eq, cmdOf_setGroup, releaseBlocks_keeps s g (cmdOf · r i) (fun _ => rfl)]

theorem releaseGroup_cores : (releaseGroup s g).cores = s.cores := by
  rw [releaseGroup_eq, setGroup_cores, releaseBlocks_keeps s g State.cores (fun _ => rfl)]
theorem releaseGroup_mem : (releaseGroup s g).m.mem = s.m.mem := by
  rw [releaseGroup_eq, setGroup_m, releaseBlocks_keeps s g (·.m.mem) (fun _ => rfl)]
theorem releaseGroup_poison : (releaseGroup s g).m.poison = s.m.poison := by
  rw [releaseGroup_eq, setGroup_m, releaseBlocks_keeps s g (·.m.poison) (fun _ => rfl)]
theorem releaseGroup_counters : (releaseGroup s g).cm.counters = s.cm.counters := by
  rw [releaseGroup_eq, setGroup_cm, releaseBlocks_keeps s g (·.cm.counters) (fun _ => rfl)]

theorem dirOf_releaseGroup (b : Nat) : dirOf (releaseGroup s g) b =
    { dirOf s b with fixer := (dirOf s b).fixer && !(homedBlocks s g (groupOf s g).record.toNat).any (fun x => x.1 == b) } := by
  have hset : ∀ (t : State) (x : Nat × Nat) (b : Nat),
      dirOf (setDir t x.1 (releasedEntry (dirOf t x.1))) b = if b = x.1 then releasedEntry (dirOf t b) else dirOf t b := by
    intro t x b
    rw [dirOf_setDir]
    split
    next hb => rw [hb]
    next => rfl
  have hblocks : dirOf (releaseBlocks s g) b =
      if (homedBlocks s g (groupOf s g).record.toNat).any (fun x => x.1 == b) then releasedEntry (dirOf s b) else dirOf s b :=
    dirOf_foldl (f := releasedEntry) (p := fun _ => True) (fun _ => rfl) (fun _ h => h) (fun t x _ b => hset t x b) _ s (fun _ _ => trivial) b
  rw [releaseGroup_eq, dirOf_setGroup, hblocks]
  split
  next h => simp [h, releasedEntry]
  next h => simp [h]

end

/-! ### What a ready UPDATE does -/

section
variable {s : State} {r i : Nat} {d : Line} (hc : CommandAt s r i 0x42 d .ready)
include hc

theorem exec_updateDefine (hop : upOp d = 1) : exec (.updateDefine r i) s = .next (updateDefine s r i d) :=
  congrArg Host.Outcome.next ((withCmd_of_commandAt hc _).trans (if_pos hop))
theorem exec_updateModify (hop : upOp d = 2) : exec (.updateModify r i) s = .next (updateModify s r i d) :=
  congrArg Host.Outcome.next ((withCmd_of_commandAt hc _).trans (if_pos hop))
theorem exec_updateRelease (hop : upOp d = 3) : exec (.updateRelease r i) s = .next (updateRelease s r i d) :=
  congrArg Host.Outcome.next ((withCmd_of_commandAt hc _).trans (if_pos hop))
theorem exec_updateStep (hop : upOp d = 0) : exec (.updateStep r i) s = .next (updateStep s r i d) :=
  congrArg Host.Outcome.next ((withCmd_of_commandAt hc _).trans (if_pos hop))

end

end Sys2Proof.Machine
end

section
/-!
PROOF. STEP (R446, R447, R590, R591): its answers in the order in which they are decided, and the update of its group.
-/
namespace Sys2Proof.Machine

section
variable {s : State} {r i : Nat} {d : Line}

theorem updateStep_of_held (hheld : s.tr.held = true) (hv : s.tr.vstep = stepOf s r i) : updateStep s r i d = s := by
  simp [updateStep, hheld, hv]

/-- A STEP whose step is not held, of a group that no earlier command works on. -/
def StepFree (s : State) (r i : Nat) (d : Line) : Prop := (s.tr.held = false ∨ s.tr.vstep ≠ stepOf s r i) ∧ groupBusy s r i (upGroup d) = false

variable (hfree : StepFree s r i d)
include hfree

theorem updateStep_of_free : updateStep s r i d =
    if s.tr.discarded.contains (stepOf s r i) then finishCmd s r i .dataDropped 0
    else if !(groupOf s (upGroup d)).defined then finishCmd s r i .range 0
    else if grFrozen (groupOf s (upGroup d)).record.toNat then finishCmd s r i .frozenSkip 0
    else hostFirst s (stepHeld s r i d (upGroup d) (groupOf s (upGroup d)).record.toNat)
      (stepNext s r i d (upGroup d) (groupOf s (upGroup d)).record.toNat (stepChecks s r i d (upGroup d) (groupOf s (upGroup d)).record.toNat)) := by
  obtain ⟨hstep, hbusy⟩ := hfree
  have hnot : (s.tr.held && s.tr.vstep == stepOf s r i) = false := by
    rcases hstep with h | h
    · rw [h, Bool.false_and]
    · rw [beq_eq_false_iff_ne.mpr h, Bool.and_false]
  unfold updateStep
  dsimp only
  rw [hnot, hbusy, if_neg Bool.false_ne_true, if_neg Bool.false_ne_true]

theorem updateStep_of_discarded (hd : s.tr.discarded.contains (stepOf s r i) = true) : updateStep s r i d = finishCmd s r i .dataDropped 0 := by
  rw [updateStep_of_free hfree, if_pos hd]

variable (hd : s.tr.discarded.contains (stepOf s r i) = false)
include hd

theorem updateStep_of_undefined (hdef : (groupOf s (upGroup d)).defined = false) : updateStep s r i d = finishCmd s r i .range 0 := by
  rw [updateStep_of_free hfree, hd, hdef, if_neg Bool.false_ne_true, if_pos Bool.not_false]

theorem updateStep_of_frozen (hdef : (groupOf s (upGroup d)).defined = true) (hf : grFrozen (groupOf s (upGroup d)).record.toNat = true) :
    updateStep s r i d = finishCmd s r i .frozenSkip 0 := by
  rw [updateStep_of_free hfree, hd, hdef, hf, if_neg Bool.false_ne_true, if_neg (by decide), if_pos rfl]

/-- A STEP of a group in use, its structures not held by the host, goes by its checks (Table 10.6). -/
theorem updateStep_of_live (hdef : (groupOf s (upGroup d)).defined = true) (hf : grFrozen (groupOf s (upGroup d)).record.toNat = false)
    (hheld : heldByHost s (stepHeld s r i d (upGroup d) (groupOf s (upGroup d)).record.toNat) = []) : updateStep s r i d =
      stepNext s r i d (upGroup d) (groupOf s (upGroup d)).record.toNat (stepChecks s r i d (upGroup d) (groupOf s (upGroup d)).record.toNat) := by
  rw [updateStep_of_free hfree, hd, hdef, hf, hostFirst_of_none_held hheld, if_neg Bool.false_ne_true, if_neg (by decide), if_neg Bool.false_ne_true]

end

theorem stepNext_of_go {s : State} {d : Line} {g n h : Nat} {e : Option EmbedIn} (hcopy : groupCopy s n = false) (hgroup : groupHeld s n = [])
    (hrows : heldByHost s (embedLines e) = []) (r i : Nat) :
    stepNext s r i d g n (.go e h) = runStep (countRead s 1 (h + rowHost e)) r i d g n e := by
  simp [stepNext, hcopy, hgroup, hrows]

@[simp] theorem stepLr_countRead (s : State) (r i sp k : Nat) (d : Line) (g n : Nat) : stepLr (countRead s sp k) r i d g n = stepLr s r i d g n := by
  simp [stepLr, schedOf, snapOf, schedRaw, reg32]

/-- A group after the update of a STEP (R447). -/
def steppedGroup (s : State) (r i : Nat) (d : Line) (g : Nat) : GroupSt :=
  { groupOf s g with t := (groupOf s g).t + 1, lastLr := BitVec.ofNat 32 (stepLr s r i d g (groupOf s g).t.toNat) }

theorem steppedGroup_countRead (s : State) (sp k r i : Nat) (d : Line) (g : Nat) : steppedGroup (countRead s sp k) r i d g = steppedGroup s r i d g := by
  rw [steppedGroup, groupOf_countRead, stepLr_countRead, steppedGroup]

/-- The update of a STEP (R447): its blocks leave cores, groups and commands alone; then the group counts the update, and the command ends. -/
theorem runStep_eq (s : State) (r i : Nat) (d : Line) (g n : Nat) (e : Option EmbedIn) : ∃ (u : State) (pois : Bool), outsideMemory u = outsideMemory s ∧
    runStep s r i d g n e = finishCmd (dropReads (setGroup u g (steppedGroup s r i d g)) r i) r i
      (if cmdLost s r i then .dataDropped else if pois then .poisonSkip else .ok) (BitVec.ofNat 64 ((groupOf s g).t.toNat % 2 ^ 32)) := by
  unfold runStep
  extract_lets x k lr h z y s1
  refine ⟨tsReport y.s 2 y.nf, y.pois, (outsideMemory_tsReport y.s 2 y.nf).trans ?_, rfl⟩
  change runOutside y = runOutside z
  cases e with
  | some q => exact runOutside_embedRows z ..
  | none =>
    simp only [y]
    split
    · exact runOutside_stepNorm z ..
    · split
      · exact foldl_keeps runOutside (fun w bb => runOutside_stepPre w n _ h _ bb) _ z
      · exact foldl_keeps runOutside (fun w b => runOutside_stepBlock w n _ h 0 _ b) _ z

/-- What a STEP that passes its checks leaves: its group counts the update, no other group changes, and it answers the index of the update. -/
theorem runStep_spec {s : State} {r i : Nat} {m : Cmd} (hm : cmdOf s r i = some m) (d : Line) (g n : Nat) (e : Option EmbedIn) :
    ∃ st, (if cmdLost s r i then st = .dataDropped else st = .ok ∨ st = .poisonSkip) ∧
      let t := runStep s r i d g n e
      Completed t r i st (BitVec.ofNat 64 ((groupOf s g).t.toNat % 2 ^ 32)) ∧
        groupOf t g = steppedGroup s r i d g ∧ (∀ h, h ≠ g → groupOf t h = groupOf s h) ∧ t.cores = s.cores := by
  obtain ⟨u, pois, hu, heq⟩ := runStep_eq s r i d g n e
  rw [heq]
  refine ⟨if cmdLost s r i then .dataDropped else if pois then .poisonSkip else .ok, ?_,
    completed_finishCmd ((cmdOf_of_outside hu r i).trans hm) _ _, ?_, fun h hh => ?_, (cores_of_outside hu : u.cores = s.cores)⟩
  · split
    · rfl
    · cases pois
      · exact .inl rfl
      · exact .inr rfl
  · exact (groupOf_setGroup u g g _).trans (if_pos rfl)
  · exact (groupOf_setGroup u g h _).trans ((if_neg hh).trans (groupOf_of_outside hu h))

end Sys2Proof.Machine
end

section
/-!
PROOF. UPDATE settled: DEFINE, MODIFY, RELEASE and STEP, each from the lemma for its answer (R437 to R447, R590, R591).
-/
namespace Sys2Proof.Machine

/-- Settles O41: every clause is the equation of `exec` for its operation, followed by what that operation leaves in the state. -/
theorem updateCommands : Obligations.UpdateCommands := by
  unfold Obligations.UpdateCommands
  intro r i s d hc g v s0 rec0 read step plain
  obtain ⟨m, hm⟩ := cmdOf_of_commandAt hc
  refine ⟨?define, ?modify, ?release, ?step⟩
  case define =>
    rintro hop ⟨hbusy, hbody, hfields⟩ hptr hdef hsnap n ⟨hheld, hread⟩
    rw [exec_updateDefine hc hop, updateDefine_of_read hbusy hbody hfields hptr hdef hsnap hheld hread]
    refine ⟨fun e he => ?fails, fun hpass hmap hmoves hrec => ?passes⟩
    case fails => rw [defineWith_of_fail he]
    case passes =>
      have hmap0 : ∀ x ∈ homedBlocks s0 g n, mapped s0 x.1 = true := fun x hx => (mapped_countRead s _ 256 x.1).trans (hmap x hx)
      rw [defineWith_of_passes hpass (by rw [countRead_m, hmoves]) (by rw [heldByHost_countRead, hrec])]
      refine ⟨_, rfl, ?_, fun h hh => ?_, fun x hx => ?_, ?_, ?_, fun he => ?_⟩
      · rw [groupOf_settleMoves, groupOf_defineGroup, if_pos rfl, groupOf_countRead]
      · rw [groupOf_settleMoves, groupOf_defineGroup, if_neg hh, groupOf_countRead]
      · rw [dirOf_settleMoves, dirOf_defineGroup r i hmap0 hx, dirOf_countRead]
        exact ⟨rfl, rfl, rfl⟩
      · exact phase_settleMoves (by rw [cmdOf_defineGroup, cmdOf_countRead, hm])
      · rw [settleMoves_cores, cores_defineGroup, countRead_cores]
      · rw [settleMoves_mem, mem_defineGroup r i hmap0 he, countRead_m]
  case modify =>
    rintro hop ⟨hbusy, hbody, hfields⟩ hdef n ⟨hheld, hread⟩
    rw [exec_updateModify hc hop, updateModify_of_read hbusy hbody hfields hdef hheld hread]
    refine ⟨fun hgood => ?_, fun hbad => ?_⟩
    · rw [hgood, if_neg Bool.false_ne_true]
    · rw [hbad, if_pos rfl]
  case release =>
    rintro hop ⟨hbusy, hbody, hfields⟩ hv hdef
    rw [exec_updateRelease hc hop, updateRelease_of_defined hbusy hbody hfields hv hdef]
    refine ⟨_, rfl, completed_finishCmd ((cmdOf_releaseGroup s g r i).trans hm) .ok 0, ?_, fun h hh => ?_, ?_, ?_, ?_, ?_, fun b => ?_⟩
    · rw [groupOf_finishCmd, groupOf_releaseGroup, if_pos rfl]
    · rw [groupOf_finishCmd, groupOf_releaseGroup, if_neg hh]
    · rw [finishCmd_cores, releaseGroup_cores]
    · rw [finishCmd_mem, releaseGroup_mem]
    · rw [finishCmd_poison, releaseGroup_poison]
    · rw [finishCmd_counters, releaseGroup_counters]
    · rw [dirOf_finishCmd, dirOf_releaseGroup]
  case step =>
    intro hop
    rw [exec_updateStep hc hop]
    refine ⟨fun hheld hv => by rw [updateStep_of_held hheld hv], fun hstep hbusy => ?_⟩
    have hfree : StepFree s r i d := ⟨hstep, hbusy⟩
    refine ⟨fun hd => by rw [updateStep_of_discarded hfree hd], fun hd => ⟨fun hdef => by rw [updateStep_of_undefined hfree hd hdef],
      fun hdef hf => by rw [updateStep_of_frozen hfree hd hdef hf], fun hdef hf hheld => ?live⟩⟩
    case live =>
      rw [updateStep_of_live hfree hd hdef hf hheld]
      refine ⟨fun e h hchecks => by rw [hchecks, stepNext], fun e h hchecks hcopy hgroup hrows => ?_⟩
      rw [hchecks, stepNext_of_go hcopy hgroup hrows]
      obtain ⟨st, hst, hdone, hg, hothers, hcores⟩ := runStep_spec ((cmdOf_countRead s 1 (h + rowHost e) r i).trans hm) d g rec0 e
      rw [cmdLost_countRead] at hst
      rw [groupOf_countRead] at hdone
      rw [steppedGroup_countRead] at hg
      refine ⟨_, st, rfl, hst, hdone, ?_, ?_, ?_, fun k hk => ?_, hcores.trans (countRead_cores s 1 _)⟩
      · rw [hg, steppedGroup]
      · rw [hg, steppedGroup]
      · rw [hg, steppedGroup]
      · rw [hothers k hk, groupOf_countRead]

end Sys2Proof.Machine
end
